-- ==== Sys2Proof/Word.lean ====
section
/-! DEFINITION. The word types of the machine: bytes, 32-bit registers, 64-bit words (spec/12 R245, R251). -/
namespace Sys2Proof

/-- One byte of memory. -/
abbrev Byte := BitVec 8

/-- A 32-bit register value (R181, R184). -/
abbrev W32 := BitVec 32

/-- A 64-bit word: an address, a pair value, a clause word (R245). -/
abbrev W64 := BitVec 64

end Sys2Proof
end

