-- ==== Sys2Proof/Syntax.lean ====
section
/-! DEFINITION. The steps of the DV9 as data: operands and fields of an instruction word (spec/12 R251, R255), the
command packets (spec/09 R195) and the events of spec/opcode_table.json. -/
namespace Sys2Proof

/-- An operand field (Table 12-3). -/
inductive Operand where
  /-- 0x00 to 0x1F: window register of the lane. -/
  | v (n : Fin 32)
  /-- 0x20 to 0xDF: scalar register of the group. -/
  | s (n : Fin 192)
  /-- 0xE0 to 0xE7: predicate of the lane. -/
  | p (n : Fin 8)
  /-- 0xE8 to 0xEF: handle of the lane. -/
  | h (n : Fin 8)
  /-- 0xF0 to 0xF3: send register. -/
  | qtx (n : Fin 4)
  /-- 0xF4 to 0xF7: receive queue. -/
  | qrx (n : Fin 4)
  /-- 0xF8: zero as a source, discard as a destination, the blank of R257. -/
  | zero
  /-- 0xF9: the lane's index in its group. -/
  | lane
  /-- 0xFD in B: the signed immediate held in C. -/
  | imm (i : BitVec 8)
  /-- 0xFE in A, B or C: the literal slot it takes (R248). -/
  | lit (w : BitVec 64)
  /-- C when B is the immediate: C is no operand (R256). -/
  | used
  /-- A value the table gives no meaning in its field (0xFA to 0xFC, 0xFF; 0xFD and 0xFE where not allowed). -/
  | bad (b : BitVec 8)
  deriving DecidableEq, Repr

/-- The fields of an instruction word (Table 12-2), the opcode apart. -/
structure Fields where
  /-- bit 55: guard negate. -/
  gn  : Bool := false
  /-- bits 54:52: guard predicate. -/
  gp  : BitVec 3 := 7
  dst : Operand := .zero
  a   : Operand := .zero
  b   : Operand := .zero
  c   : Operand := .zero
  /-- bits 19:8: A modifier, qualifier or zero. -/
  q   : BitVec 12 := 0
  /-- bits 7:4. -/
  var : BitVec 4 := 0
  /-- bits 3, 2, 1: trap if the source is empty. -/
  ta  : Bool := false
  tb  : Bool := false
  tc  : Bool := false
  /-- bit 0: hold A (MXMUL). -/
  h   : Bool := false
  deriving DecidableEq, Repr

/-- A declared operand of a launch (Table 9-5). -/
structure OperandDecl where
  mode : BitVec 2
  base : BitVec 52
  len  : W64
  deriving DecidableEq, Repr

/-- LAUNCH and INDIRECT-LAUNCH (Tables 9-3, 9-5). -/
structure LaunchPkt where
  ntree   : Nat := 0
  ndep    : Nat := 0
  allprev : Bool := false
  entry   : W64
  tag     : BitVec 16 := 0
  cls     : BitVec 2 := 0
  shape   : BitVec 2 := 3
  wgnm1   : BitVec 10 := 0
  gridm1  : BitVec 24 := 0
  scal    : Nat := 0
  drift   : Nat := 0
  tiles   : Nat := 0
  priv    : W32 := 0
  staddr  : W64 := 0
  dtags   : List (BitVec 16) := [0, 0, 0]
  frame   : BitVec 12 := 0
  gaddr   : W64 := 0
  ops     : List OperandDecl := []
  aff     : List W64 := []
  args    : List W32 := []
  deriving DecidableEq, Repr

/-- One counter of a FENCE packet (R205). -/
structure FenceCtr where
  w64      : Bool
  cmp      : BitVec 3
  addr     : BitVec 52
  value    : W64
  deadline : W64
  deriving DecidableEq, Repr

/-- SIGNAL (R206). -/
structure SignalPkt where
  allprev : Bool
  irq     : Bool
  vec     : BitVec 11
  addr    : W64
  value   : W64
  deriving DecidableEq, Repr

/-- Where the device places one workgroup of a node (R208): core number = die × 16 + core. -/
structure Placement where
  wgi  : Nat
  core : Nat
  deriving DecidableEq, Repr

/-- What fault service writes into the leaf (R35): the table level (0 root, 1 middle, 2 last) and the entry. -/
structure LeafWrite where
  level : Nat
  entry : W64
  deriving DecidableEq, Repr

/-- Sources of pre-emption (Table 18-7). -/
inductive SaveCause where
  | cls | os | iter | test | quarantine
  deriving DecidableEq, Repr

/-- What the module OS writes when it configures a ring (Table 19-1, R432). -/
structure RingCfg where
  st      : BitVec 2
  part    : BitVec 4
  sbase   : BitVec 52
  slotsm1 : BitVec 16
  slines  : BitVec 16
  mbase   : BitVec 52
  mcapm1  : BitVec 15
  lbase   : BitVec 52
  em1     : BitVec 8
  km1     : BitVec 2
  norm    : Bool
  lstride : W32
  asid    : BitVec 16
  deriving DecidableEq, Repr

/-- An address-space descriptor (Table 2-2) and whether the module OS launches the context as privileged (R396). -/
structure SpaceDesc where
  root : BitVec 36
  t    : Bool
  part : BitVec 4
  rlim : BitVec 13
  privileged : Bool
  deriving DecidableEq, Repr

/-- What an access from outside the cores does (R466, R467, R150). Operations 0 add, 1 min, 2 max; type codes of Table
12-5. -/
inductive OutsideKind where
  | load | store
  /-- A returning atomic, and a compare-and-swap with the value it compares. -/
  | atom (op ty : Nat)
  | cas (cmp : W64)
  /-- A RED, at scope `.sys` or below it (Table 15-3). -/
  | red (op ty : Nat) (sys : Bool)
  | fence
  deriving DecidableEq, Repr

/-- An access to module memory by the host, another module or a hub core: a physical byte address, a width in
bytes and the data. -/
structure OutsideAccess where
  kind  : OutsideKind
  addr  : Nat
  width : Nat
  data  : W64
  deriving DecidableEq, Repr

/-- A granule of on-die SRAM with an uncorrectable error (R459). -/
inductive SramGranule where
  | vreg (wg lane entry : Nat)
  | sreg (wg grp n : Nat)
  | sector (addr : Nat)
  /-- A sector of an L1, and a sector of a tile's stash. -/
  | l1 (core addr : Nat)
  | tile (wg idx off : Nat)
  | drift (wg table set way : Nat)
  | accum (wg quarter slot row col : Nat)
  /-- a predicate, handle, convergence register or flit of a workgroup: no poison bit. -/
  | unmarked (wg : Nat)
  deriving DecidableEq, Repr

/-- The steps of the device, one constructor per row of the opcode table: 182 instructions (their encoded fields as
`Fields`), then command packets, then the events of the device and of the agents around it. -/
inductive Instr where
  /-- NOP (R274): No operation in any lane. -/
  | nop (f : Fields)
  /-- MOV (R275): Copies source A to the destination, including handle-to-handle copies without waiting. -/
  | mov (f : Fields)
  /-- SEL (R276): Writes A where the predicate in C is true, else B. -/
  | sel (f : Fields)
  /-- RDSPEC (R277): Reads a special register selected by VAR. -/
  | rdspec (f : Fields)
  /-- IADD (R278): Integer add modulo 2^w. -/
  | iadd (f : Fields)
  /-- ISUB (R278): Integer subtract modulo 2^w. -/
  | isub (f : Fields)
  /-- IMUL (R278): Low half of an integer product. -/
  | imul (f : Fields)
  /-- IMULHI (R278): High half of a signed or unsigned integer product. -/
  | imulhi (f : Fields)
  /-- IMAD (R278): Exact integer multiply-add modulo 2^w. -/
  | imad (f : Fields)
  /-- IMIN (R278): Integer minimum by type. -/
  | imin (f : Fields)
  /-- IMAX (R278): Integer maximum by type. -/
  | imax (f : Fields)
  /-- IABS (R278): Integer absolute value modulo 2^w. -/
  | iabs (f : Fields)
  /-- IADDC (R279): Unsigned add with carry in and out through a predicate. -/
  | iaddc (f : Fields)
  /-- LEA (R280): Forms a 64-bit address from a pair plus a shifted signed index. -/
  | lea (f : Fields)
  /-- ICMP (R281): Integer compare selected by VAR into a predicate. -/
  | icmp (f : Fields)
  /-- CLAMP (R278): Clamps A between B and C by type. -/
  | clamp (f : Fields)
  /-- AND (R282): Bitwise AND. -/
  | land (f : Fields)
  /-- OR (R282): Bitwise OR. -/
  | lor (f : Fields)
  /-- XOR (R282): Bitwise exclusive OR. -/
  | lxor (f : Fields)
  /-- LTAB (R282): Applies an 8-bit truth table bitwise to three sources. -/
  | ltab (f : Fields)
  /-- SHL (R283): Shift left with zero fill. -/
  | shl (f : Fields)
  /-- SHR (R283): Logical shift right. -/
  | shr (f : Fields)
  /-- SAR (R283): Arithmetic shift right. -/
  | sar (f : Fields)
  /-- ROT (R283): Rotate left by count mod w. -/
  | rot (f : Fields)
  /-- BFE (R284): Extracts a bit field, sign-extended for signed types. -/
  | bfe (f : Fields)
  /-- BFI (R284): Inserts a bit field into a base value. -/
  | bfi (f : Fields)
  /-- POPC (R285): Counts set bits. -/
  | popc (f : Fields)
  /-- CLZ (R285): Counts leading zero bits. -/
  | clz (f : Fields)
  /-- BREV (R285): Reverses the bits of A. -/
  | brev (f : Fields)
  /-- PERMB (R286): Builds a word from selected bytes of two sources. -/
  | permb (f : Fields)
  /-- PLOP (R287): Truth-table logic on three predicates. -/
  | plop (f : Fields)
  /-- PMOV_TO_PREDICATE (R288): Sets a predicate to A not equal to zero. -/
  | pmovToPredicate (f : Fields)
  /-- PMOV_FROM_PREDICATE (R288): Writes a predicate as 1 or 0 into a vector register. -/
  | pmovFromPredicate (f : Fields)
  /-- BRA (R289): Relative branch to a clause header. -/
  | bra (f : Fields) (off : BitVec 24)
  /-- BRX (R289): Branch to a register or literal target. -/
  | brx (f : Fields)
  /-- CALL (R290): Relative call that slides the register window. -/
  | call (f : Fields) (off : BitVec 24)
  /-- CALLX (R290): Register-target call that slides the register window. -/
  | callx (f : Fields)
  /-- RET (R290): Returns to the address in v15 and slides the window back. -/
  | ret (f : Fields)
  /-- JOIN (R291): Transfers to a target where quads of the group meet. -/
  | join (f : Fields) (off : BitVec 24)
  /-- EXIT (R292): Ends the lane, dropping it from barriers and convergence declarations. -/
  | exitOp (f : Fields)
  /-- YIELD (R293): Continues at the next clause, yielding to other quads for 16 clocks. -/
  | yield (f : Fields)
  /-- DOZE (R293): Waits a bounded count of clocks before continuing. -/
  | doze (f : Fields)
  /-- REP (R294): Repeats the next class A instruction k times with advancing vector fields. -/
  | repOp (f : Fields)
  /-- GSHAPE (R295): Workgroup meeting that changes the group width. -/
  | gshape (f : Fields)
  /-- ELECT (R296): Sets a predicate true in the lowest eligible lane of the gang instance. -/
  | elect (f : Fields)
  /-- VOTE_ALL (R297): AND of member predicates. -/
  | voteAll (f : Fields)
  /-- VOTE_ANY (R297): OR of member predicates. -/
  | voteAny (f : Fields)
  /-- VOTE_BALLOT (R297): 64-bit ballot of member predicates into a scalar pair. -/
  | voteBallot (f : Fields)
  /-- VOTE_COUNT (R297): Count of true member predicates into a scalar. -/
  | voteCount (f : Fields)
  /-- MATCH (R297): Per participant, mask of participants with an equal A value. -/
  | matchOp (f : Fields)
  /-- WSPILL (R299): Spills the lowest resident window frame to private space. -/
  | wspill (f : Fields)
  /-- WFILL (R299): Fills the frame below the lowest resident one from private space. -/
  | wfill (f : Fields)
  /-- FADD (R304): FP32 add rounded RNE. -/
  | fadd (f : Fields)
  /-- FSUB (R304): FP32 subtract rounded RNE. -/
  | fsub (f : Fields)
  /-- FMUL (R304): FP32 multiply rounded RNE. -/
  | fmul (f : Fields)
  /-- FFMA (R304): FP32 fused multiply-add rounded once. -/
  | ffma (f : Fields)
  /-- FMIN (R304): IEEE minimumNumber. -/
  | fmin (f : Fields)
  /-- FMAX (R304): IEEE maximumNumber. -/
  | fmax (f : Fields)
  /-- FABS (R304): Clears the sign bit. -/
  | fabs (f : Fields)
  /-- FNEG (R304): Inverts the sign bit. -/
  | fneg (f : Fields)
  /-- FCMP (R305): Floating compare into a predicate. -/
  | fcmp (f : Fields)
  /-- FCLASS (R306): Writes a one-hot class mask of A. -/
  | fclass (f : Fields)
  /-- FROUND (R307): Rounds to an integral FP32 value by mode. -/
  | fround (f : Fields)
  /-- FSCALE (R308): Multiplies A by 2^B rounded once. -/
  | fscale (f : Fields)
  /-- FRCP (R309): Reciprocal within 1 ulp. -/
  | frcp (f : Fields)
  /-- FRSQ (R309): Reciprocal square root within 1 ulp. -/
  | frsq (f : Fields)
  /-- FEXP2 (R309): Base-2 exponential within 2 ulp. -/
  | fexp2 (f : Fields)
  /-- FLOG2 (R309): Base-2 logarithm. -/
  | flog2 (f : Fields)
  /-- FTANH (R309): Hyperbolic tangent within 2 ulp. -/
  | ftanh (f : Fields)
  /-- CVTF (R310): Converts between FP32, BF16 and FP16. -/
  | cvtf (f : Fields)
  /-- CVTFI (R311): Converts floating to i32 or n32 with clamp. -/
  | cvtfi (f : Fields)
  /-- CVTIF (R312): Converts an integer to a floating format. -/
  | cvtif (f : Fields)
  /-- PACK8 (R313): Scales and packs four FP32 values into 8-bit elements. -/
  | pack8 (f : Fields)
  /-- PACK4 (R313): Scales and packs eight FP32 values into 4-bit elements. -/
  | pack4 (f : Fields)
  /-- UNPK8 (R314): Widens four 8-bit elements to scaled FP32. -/
  | unpk8 (f : Fields)
  /-- UNPK4 (R314): Widens eight 4-bit elements to scaled FP32. -/
  | unpk4 (f : Fields)
  /-- DOT4 (R315): Exact FP8 dot product plus accumulator rounded once. -/
  | dot4 (f : Fields)
  /-- DOT8 (R315): Exact E2M1 dot product plus accumulator rounded once. -/
  | dot8 (f : Fields)
  /-- IDOT4 (R315): INT8 dot product into i32, wrapping or saturating. -/
  | idot4 (f : Fields)
  /-- IDOT8 (R315): INT4 dot product into i32, wrapping or saturating. -/
  | idot8 (f : Fields)
  /-- PFMA (R316): Paired FP16 or BF16 fused multiply-add. -/
  | pfma (f : Fields)
  /-- LSHFL (R318): Group-wide lane shuffle over a member mask. -/
  | lshfl (f : Fields)
  /-- LPERM (R319): Lane permutation within the gang instance. -/
  | lperm (f : Fields)
  /-- QSWAP (R320): Reads a register from a partner lane of the quad. -/
  | qswap (f : Fields)
  /-- QBCAST (R320): Broadcasts a register from one lane of the quad. -/
  | qbcast (f : Fields)
  /-- GRED (R321): Group-wide reduction in ascending lane order. -/
  | gred (f : Fields)
  /-- GSCAN (R321): Group-wide inclusive or exclusive scan. -/
  | gscan (f : Fields)
  /-- V2S (R322): Moves one lane's value into a group scalar. -/
  | v2s (f : Fields)
  /-- LD (R327): Per-lane load from device virtual memory. -/
  | ld (f : Fields)
  /-- ST (R327): Per-lane store to device virtual memory. -/
  | st (f : Fields)
  /-- LDS (R328): Load from a stash tile. -/
  | lds (f : Fields)
  /-- STS (R328): Store into a stash tile. -/
  | sts (f : Fields)
  /-- LDU (R329): Uniform load into a group scalar. -/
  | ldu (f : Fields)
  /-- LDL (R330): Load from the lane's private space. -/
  | ldl (f : Fields)
  /-- STL (R330): Store to the lane's private space. -/
  | stl (f : Fields)
  /-- PREF (R331): Prefetches a line into L1 or L2 without faulting. -/
  | pref (f : Fields)
  /-- ATOM (R332): Returning atomic add, min or max. -/
  | atom (f : Fields)
  /-- ATOMCAS (R332): Atomic compare-and-swap returning the old value. -/
  | atomcas (f : Fields)
  /-- RED (R332): Non-returning atomic reduction. -/
  | red (f : Fields)
  /-- ATOMS (R334): Returning atomic on a stash tile. -/
  | atoms (f : Fields)
  /-- FENCE (R336): Orders the lane's accesses as acquire, release, both or sequentially consistent. -/
  | fence (f : Fields)
  /-- CMAINT_CLEAN (R337): Cleans a range to the named level. -/
  | cmaintClean (f : Fields)
  /-- CMAINT_INV (R337): Invalidates clean non-owned copies of a range to the named level. -/
  | cmaintInv (f : Fields)
  /-- CMAINT_CLINV (R337): Cleans and invalidates a range to the named level. -/
  | cmaintClinv (f : Fields)
  /-- BARINIT (R339): Resets a barrier's registrations and counts once idle. -/
  | barinit (f : Fields)
  /-- BARREG (R340): Registers the lane with a barrier. -/
  | barreg (f : Fields)
  /-- BARARR (R341): Arrives at a barrier, relaxed or release. -/
  | bararr (f : Fields)
  /-- BARWAIT (R342): Waits for the next release of a barrier. -/
  | barwait (f : Fields)
  /-- BARSYNC (R342): Arrives and waits for that use's release. -/
  | barsync (f : Fields)
  /-- BARDROP (R343): Arrives and removes the lane's registration. -/
  | bardrop (f : Fields)
  /-- QBIND (R344): Binds a send register to a logical core and queue. -/
  | qbind (f : Fields)
  /-- QPOLL (R345): Reads the number of flits queued without popping. -/
  | qpoll (f : Fields)
  /-- TCLAIM (R347): Claims a tile index for a 4 KiB block. -/
  | tclaim (f : Fields)
  /-- TFILL (R348): Starts a fill of a tile and returns a handle. -/
  | tfill (f : Fields)
  /-- TDRAIN (R349): Writes back a tile's dirty sectors and returns a handle. -/
  | tdrain (f : Fields)
  /-- TSTAT (R350): Reads a tile-table entry. -/
  | tstat (f : Fields)
  /-- TFREE (R351): Releases a tile index after write-back. -/
  | tfree (f : Fields)
  /-- RBRES (R353): Reserves a FREE ring slot within quota. -/
  | rbres (f : Fields)
  /-- RBPUB (R354): Publishes a reserved slot with release. -/
  | rbpub (f : Fields)
  /-- RBTAKE (R353): Takes the oldest published slot. -/
  | rbtake (f : Fields)
  /-- RBFREE (R354): Frees a taken slot with release. -/
  | rbfree (f : Fields)
  /-- RBMETA (R354): Reads a slot's latched metadata once delivered. -/
  | rbmeta (f : Fields)
  /-- MXLDW (R361): Queues a weight load into the array from the north or west edge. -/
  | mxldw (f : Fields)
  /-- MXMUL (R363): Signs a convergence register; the collected operation queues when complete. -/
  | mxmul (f : Fields)
  /-- MXMULT (R366): Stash-fed multiply of several K-chunks into a slot. -/
  | mxmult (f : Fields)
  /-- MXPROM (R368): Promotes slot rows into memory by RED adds. -/
  | mxprom (f : Fields)
  /-- MXZERO (R367): Binds or releases a slot and clears its accumulators. -/
  | mxzero (f : Fields)
  /-- MXRD (R369): Reads an accumulator raw or as FP32. -/
  | mxrd (f : Fields)
  /-- MXSTAT (R370): Reads the slot status word. -/
  | mxstat (f : Fields)
  /-- MXFENCE (R371): Waits until the lane's vector register writes are in the register file. -/
  | mxfence (f : Fields)
  /-- CVSET (R178): Declares lanes in a convergence register. -/
  | cvset (f : Fields)
  /-- CVQRY (R372): Reads a word of a convergence register. -/
  | cvqry (f : Fields)
  /-- KACC (R87): Combines per-lane key-value pairs into a Drift table. -/
  | kacc (f : Fields)
  /-- KPROBE (R376): Looks up each lane's key without changing the table. -/
  | kprobe (f : Fields)
  /-- KDRAIN (R377): Removes up to M entries and writes them as records. -/
  | kdrain (f : Fields)
  /-- KCFG (R81): Discards a table's entries and installs a new configuration. -/
  | kcfg (f : Fields)
  /-- KSTAT (R378): Reads a Drift table counter. -/
  | kstat (f : Fields)
  /-- KFLUSH (R378): Removes all entries into the table's eviction ring. -/
  | kflush (f : Fields)
  /-- KMERGE_BLOCK (R379): Ingests a block of records into a table. -/
  | kmergeBlock (f : Fields)
  /-- KMERGE_RING (R379): Ingests records from a ring descriptor into a table. -/
  | kmergeRing (f : Fields)
  /-- KCLEAR (R378): Removes every entry of a table, writing nothing. -/
  | kclear (f : Fields)
  /-- ITRSRC_RANGE (R382): Pushes a RANGE source onto an iterator slot. -/
  | itrsrcRange (f : Fields)
  /-- ITRSRC_LIST (R382): Pushes a LIST source onto an iterator slot. -/
  | itrsrcList (f : Fields)
  /-- ITRSRC_BITMAP (R382): Pushes a BITMAP source onto an iterator slot. -/
  | itrsrcBitmap (f : Fields)
  /-- ITRMAP_AFFINE (R382): Pushes an AFFINE adaptor. -/
  | itrmapAffine (f : Fields)
  /-- ITRMAP_GATHER (R382): Pushes a GATHER adaptor. -/
  | itrmapGather (f : Fields)
  /-- ITRFILT (R382): Pushes a FILTER adaptor. -/
  | itrfilt (f : Fields)
  /-- ITRZIP (R383): Pushes a ZIP of the top two roots. -/
  | itrzip (f : Fields)
  /-- ITRCHAIN (R383): Pushes a CHAIN of the top two roots. -/
  | itrchain (f : Fields)
  /-- ITRFLAT (R382): Pushes a FLATTEN adaptor. -/
  | itrflat (f : Fields)
  /-- ITRNEXT (R385): Pulls the next run of the stream into the receiving lanes. -/
  | itrnext (f : Fields)
  /-- ITRENOUGH (R386): Ends a slot's stream upstream. -/
  | itrenough (f : Fields)
  /-- ITRSAVE (R387): Writes a slot image to memory. -/
  | itrsave (f : Fields)
  /-- ITRLOAD (R387): Replaces a slot from a memory image. -/
  | itrload (f : Fields)
  /-- CPY (R388): Starts an asynchronous byte copy. -/
  | cpy (f : Fields)
  /-- CPY2D (R389): Starts an asynchronous strided row copy. -/
  | cpy2d (f : Fields)
  /-- VEER (R391): Queues a lane-group split request on a link. -/
  | veer (f : Fields)
  /-- VEERQ (R392): Reads a link's split report. -/
  | veerq (f : Fields)
  /-- FWAIT (R393): Waits for and reads a handle, acquiring the operation's writes. -/
  | fwait (f : Fields)
  /-- FTEST (R394): Tests whether a handle is full without waiting. -/
  | ftest (f : Fields)
  /-- FCANCEL (R395): Stops a handle's operation if cancellable and reports it. -/
  | fcancel (f : Fields)
  /-- TRAP (R397): Raises the software trap. -/
  | trapOp (f : Fields)
  /-- TRET (R398): Returns from a trap handler to tpc. -/
  | tret (f : Fields)
  /-- CSRR (R399): Reads a CSR into a vector pair. -/
  | csrr (f : Fields)
  /-- CSRW (R399): Writes a CSR with no behaviour of its own. -/
  | csrw (f : Fields)
  /-- CSRW_TPC_TBASE (R410): Writes tpc or tbase, trapping on reserved bits. -/
  | csrwTpcTbase (f : Fields)
  /-- CSRW_TSTATUS (R410): Writes tstatus, changing only REPR. -/
  | csrwTstatus (f : Fields)
  /-- CSRW_ERRSEED (R462): Loads the injector state from the written seed. -/
  | csrwErrseed (f : Fields)
  /-- CSRW_ERRRATE (R400): Sets the injector rate; zero stops injection. -/
  | csrwErrrate (f : Fields)
  /-- TLBINV_PAGE (R401): Invalidates one page's translations on every die. -/
  | tlbinvPage (f : Fields)
  /-- TLBINV_AS (R401): Invalidates every translation of an ASID. -/
  | tlbinvAs (f : Fields)
  /-- TLBINV_ALL (R401): Invalidates every translation. -/
  | tlbinvAll (f : Fields)
  /-- TLBPROBE (R402): Walks a space's tables and returns the entry reached. -/
  | tlbprobe (f : Fields)
  /-- NOPRE_BEGIN (R403): Raises the lane's non-preemptible region depth. -/
  | nopreBegin (f : Fields)
  /-- NOPRE_END (R403): Lowers the lane's non-preemptible region depth. -/
  | nopreEnd (f : Fields)
  /-- BKPT (R397): Raises the breakpoint trap. -/
  | bkpt (f : Fields)
  /-- ERRINJ_REG (R404): Marks a register poisoned. -/
  | errinjReg (f : Fields)
  /-- ERRINJ_ONCE (R404): Injects one residue mismatch into the next vector-ALU instruction. -/
  | errinjOnce (f : Fields)
  /-- ERRINJ_TWICE (R404): Injects two mismatches, causing a pipeline-error trap. -/
  | errinjTwice (f : Fields)
  /-- ERRINJ_SECTOR (R404): Marks a memory sector poisoned at its home. -/
  | errinjSector (f : Fields)
  /-- CKPT (R405): Starts a checkpoint increment of the context. -/
  | ckpt (f : Fields)
  /-- HALT (R406): Ends the workgroup, evacuates the core and stops it. -/
  | halt (f : Fields)
  /-- NOP_PACKET (R195): Command packet that is skipped with its body. -/
  | nopPacket (q len : Nat)
  /-- LAUNCH (R197): Puts a node into the ready pool after legality checks. -/
  | launch (q : Nat) (p : LaunchPkt)
  /-- INDIRECT_LAUNCH (R200): Launch whose workgroup count is read when the node becomes ready. -/
  | indirectLaunch (q : Nat) (p : LaunchPkt)
  /-- FENCE_PACKET (R205): Holds the queue until N memory counters compare true. -/
  | fencePacket (q : Nat) (cs : List FenceCtr)
  /-- LOOP (R206): Parses a body of packets count times. -/
  | loopPacket (q : Nat) (mem : Bool) (body : W32) (word : W64)
  /-- IF (R206): Skips words when a memory comparison is false. -/
  | ifPacket (q : Nat) (w64 : Bool) (cmp : BitVec 3) (skip : W32) (addr value : W64)
  /-- SEGMENT_BEGIN (R207): Starts executing and recording a segment. -/
  | segmentBegin (q : Nat) (seg retry : BitVec 4)
  /-- SEGMENT_END (R207): Ends a segment recording. -/
  | segmentEnd (q : Nat) (seg : BitVec 4)
  /-- REPLAY (R207): Executes a recorded segment again. -/
  | replay (q : Nat) (seg : BitVec 4)
  /-- CKPT_PACKET (R206): Starts a checkpoint increment after earlier nodes complete. -/
  | ckptPacket (q : Nat) (wait : Bool) (addr : W64)
  /-- SIGNAL_WRITE64 (R206): Releasing 8-byte write, optionally raising a host interrupt. -/
  | signalWrite64 (q : Nat) (p : SignalPkt)
  /-- SIGNAL_RED_ADD (R206): Releasing n64 RED add, optionally raising a host interrupt. -/
  | signalRedAdd (q : Nat) (p : SignalPkt)
  /-- SIGNAL_WRITE32 (R206): Releasing 4-byte write of the low half. -/
  | signalWrite32 (q : Nat) (p : SignalPkt)
  /-- DOORBELL (R194): A store to a doorbell page offset prompts a WIDX read within 100 ns. -/
  | doorbell (cp off width : Nat)
  /-- WIDX_POLL (R193): Command processor rereads an idle queue's WIDX within 1 us. -/
  | widxPoll (q : Nat)
  /-- QUEUE_RESUME (R193): STATE written back to running resumes parsing where it stopped. -/
  | queueResume (q : Nat)
  /-- FENCE_COUNTER_POLL (R205): Rereads each unsatisfied FENCE counter at least every 500 ns. -/
  | fenceCounterPoll (q : Nat)
  /-- FENCE_DEADLINE (R205): A FENCE counter's deadline passes, failing the step or halting the queue. -/
  | fenceDeadline (q : Nat)
  /-- NODE_READY (R202): A node's predecessors complete and it becomes ready; indirect counts are read. -/
  | nodeReady (n : Nat)
  /-- NODE_DISPATCH (R208): The pool places a ready node's workgroups on cores. -/
  | nodeDispatch (n : Nat) (places : List Placement)
  /-- NODE_COMPLETE (R203): Last lane exits and writes perform; status word written. -/
  | nodeComplete (n : Nat)
  /-- SEGMENT_RETRY (R207): After dispatched nodes of a failed step end, the segment runs again or the queue halts. -/
  | segmentRetry (q : Nat)
  /-- CLASS_PREEMPTION (R209): A workgroup blocked 20 us pre-empts lower classes on a permitted core. -/
  | classPreemption (n wgi core : Nat)
  /-- ARRAY_STEP (R210): At a step boundary the array takes the next queued step by class. -/
  | arrayStep (core quarter : Nat)
  /-- ARRAY_STEP_COMPLETE (R364): A matrix step finishes, spills perform and handles fill. -/
  | arrayStepComplete (core quarter : Nat)
  /-- ARRAY_SLOT_PREEMPTION (R210): A step waiting 10 us for a slot pre-empts a lower-class slot holder. -/
  | arraySlotPreemption (core quarter : Nat)
  /-- MXMULT_CHUNK (R211): An MXMULT chunk starts once its tiles are READY. -/
  | mxmultChunk (core quarter : Nat)
  /-- JOIN_TIMEOUT (R173): A quad waiting at a JOIN target is offered after 64 clocks. -/
  | joinTimeout (wg quad : Nat)
  /-- DOZE_EXPIRY (R293): A dozing lane's count expires and it continues. -/
  | dozeExpiry (wg lane : Nat)
  /-- TRANSLATION_MISS_COMPLETE (R31): A page walk completes and the waiting quads may issue. -/
  | translationMissComplete (k : Nat)
  /-- PAGE_FAULT_SERVICE_COMPLETE (R35): Fault service ends and held accesses replay. -/
  | pageFaultServiceComplete (asid va : Nat) (leaf : Option LeafWrite)
  /-- LOAD_DATA_RETURN (R61): A missing sector arrives and destination registers fill. -/
  | loadDataReturn (id : Nat)
  /-- TILE_FILL_COMPLETE (R53): All sectors arrive; tile READY and TFILL handle full. -/
  | tileFillComplete (wg idx : Nat)
  /-- TILE_DRAIN_COMPLETE (R53): Write-backs acknowledged; tile READY and TDRAIN handle full. -/
  | tileDrainComplete (wg idx : Nat)
  /-- TILE_RELEASE (R351): A freed tile's write-backs are acknowledged and its entry released. -/
  | tileRelease (wg idx : Nat)
  /-- MIGRATION_EPOCH (R38): Every 100 us heat records are evaluated and cleared. -/
  | migrationEpoch (die : Nat)
  /-- MIGRATION_START (R40): A region is marked migrating and write permission withdrawn. -/
  | migrationStart (region frame : Nat)
  /-- MIGRATION_COPY_COMPLETE (R40): Copy done; entries rewritten and waiting writes released. -/
  | migrationCopyComplete (region : Nat)
  /-- MIGRATION_ABANDON (R40): Copy not done within 40 us; migration abandoned. -/
  | migrationAbandon (region : Nat)
  /-- STICK_DRAIN (R42): Before hot-removal every region on a stick is migrated or the drain refused. -/
  | stickDrain (stick : Nat)
  /-- OVERFLOW_SLOT_SUPPLIED (R46): Module OS supplies an overflow slot and the waiting write performs. -/
  | overflowSlotSupplied (stick slot : Nat)
  /-- MEMORY_LINK_RETRAIN_FAIL (R77): A memory link fails retraining and its stick leaves service. -/
  | memoryLinkRetrainFail (stick : Nat)
  /-- DRIFT_RING_WRITE (R93): Engine writes reserved records then advances WIDX with release. -/
  | driftRingWrite (asid ring : Nat)
  /-- KMERGE_BATCH (R97): KMERGE ingests its next batch of up to 8 records. -/
  | kmergeBatch (op : Nat)
  /-- ENGINE_OPERATION_COMPLETE (R142): An asynchronous operation completes and its handle becomes full. -/
  | engineOperationComplete (op : Nat)
  /-- ITERATOR_PULL_COMMIT (R238): A pull commits destinations, predicate and cursors. -/
  | iteratorPullCommit (wg slot : Nat)
  /-- ITERATOR_SLOT_MOVE (R232): A workgroup waiting 20 us for an iterator slot is moved. -/
  | iteratorSlotMove (wg core : Nat)
  /-- VEER_REQUEST_SERVE (R110): A link's head request is clamped, served and a hold started. -/
  | veerRequestServe (link : Nat)
  /-- LANE_GROUP_TURN_START (R106): A group whose rest has passed begins turning. -/
  | laneGroupTurnStart (link grp : Nat)
  /-- LANE_GROUP_TURN_COMPLETE (R106): A turning group finishes its dead time and carries the new direction. -/
  | laneGroupTurnComplete (link grp : Nat)
  /-- VEER_HOLD_EXPIRY (R110): A hold ends and the next request may be served or adaptive mode resumes. -/
  | veerHoldExpiry (link : Nat)
  /-- ADAPTIVE_TURN (R107): Adaptive mode turns groups toward the busier direction. -/
  | adaptiveTurn (link grp : Nat)
  /-- LANE_GROUP_RETIRE (R113): Link monitor retires a failing group and replays its flits. -/
  | laneGroupRetire (link grp : Nat)
  /-- RECALIBRATION_START (R114): One group is drained and taken out for recalibration. -/
  | recalibrationStart (link grp : Nat)
  /-- RECALIBRATION_END (R114): Recalibration ends within 500 us and the group returns. -/
  | recalibrationEnd (link : Nat)
  /-- LINK_OUT_OF_SERVICE (R115): A link with fewer than 4 working groups is rerouted through another die. -/
  | linkOutOfService (link : Nat)
  /-- LINK_RESTORE (R473): Module OS retrains retired groups one at a time. -/
  | linkRestore (link grp : Nat)
  /-- BARRIER_ARRIVAL_COUNT (R119): A release arrival counts once the thread's writes perform. -/
  | barrierArrivalCount (tree : Bool) (wg idx lane : Nat)
  /-- TREE_BARRIER_RELEASE (R118): Root sees all AND inputs high and raises the release line. -/
  | treeBarrierRelease (idx : Nat)
  /-- TREE_BARRIER_REARM (R118): After every waiter leaves, the release line lowers and the barrier re-arms. -/
  | treeBarrierRearm (idx : Nat)
  /-- LOCAL_BARRIER_RELEASE (R116): Remaining count reaches zero and waits complete. -/
  | localBarrierRelease (wg idx : Nat)
  /-- LOCAL_BARRIER_REARM (R116): After the last waiter leaves, remaining is set to reload. -/
  | localBarrierRearm (wg idx : Nat)
  /-- QUEUE_FLIT_DELIVERY (R124): An in-flight flit is delivered to its receive queue, or discarded if the workgroup exited. -/
  | queueFlitDelivery (k : Nat)
  /-- WORKGROUP_SAVE (R416): A workgroup is pre-empted and its state written to the save area. -/
  | workgroupSave (wg : Nat) (why : SaveCause)
  /-- WORKGROUP_RESTORE (R419): A saved workgroup is rebound and offered on a permitted core. -/
  | workgroupRestore (wg core : Nat)
  /-- NOPRE_BOUND_EXPIRY (R417): A region reaches its bound; the save proceeds or the test is skipped. -/
  | nopreBoundExpiry (wg : Nat)
  /-- INFIELD_TEST_DUE (R421): In-field test falls due and the core's workgroups are evacuated. -/
  | infieldTestDue (core : Nat)
  /-- INFIELD_TEST_RESULT (R421): Test passes and the core returns, or fails and it is quarantined. -/
  | infieldTestResult (core : Nat) (pass : Bool)
  /-- CKPT_INCREMENT (R464): A checkpoint increment clears D, invalidates and copies dirty pages. -/
  | ckptIncrement (k : Nat)
  /-- GLQ (R429): A store to GLQ pushes a token into the gate-logit queue. -/
  | glq (die ring : Nat) (value : W64)
  /-- MRES (R426): ATOM add on MRES reserves a metadata index. -/
  | mres (die ring : Nat)
  /-- RIDX_WRITE (R428): Consumer writes RIDX to free metadata records. -/
  | ridxWrite (die ring : Nat) (value : W64)
  /-- CONTROL_BLOCK_ACCESS_IGNORED (R424): A disallowed ring control block access has no effect and is counted. -/
  | controlBlockAccessIgnored (die ring : Nat)
  /-- METADATA_DELIVERY (R426): Ring controller delivers the next record once its SEQ matches and latches it. -/
  | metadataDelivery (die ring : Nat)
  /-- GATE_LOGIT_POP (R430): Co-processor pops a token, computes softmax top-K and appends records. -/
  | gateLogitPop (die : Nat)
  /-- COPROCESSOR_RESERVE_RETRY (R430): Co-processor retries a failed slot reservation every 200 ns. -/
  | coprocessorReserveRetry (die : Nat)
  /-- RING_CONFIGURATION (R424): Module OS configures a ring, refusing an illegal routed configuration. -/
  | ringConfiguration (die ring : Nat) (cfg : RingCfg)
  /-- ASID_REGISTRATION (R23): Module OS registers or withdraws an address-space descriptor. -/
  | asidRegistration (asid : BitVec 16) (desc : Option SpaceDesc)
  /-- PARTITION_TABLE_WRITE (R65): Module OS writes a partition-table entry; K values 5 to 7 ignored. -/
  | partitionTableWrite (idx : BitVec 4) (entry : W32)
  /-- HOST_SNOOP (R466): A CXL host snoop is served at the home slice after recall. -/
  | hostSnoop (addr : Nat)
  /-- HOST_MEMORY_ACCESS (R466): A host access to module memory is served at the home slice. -/
  | hostMemoryAccess (acc : OutsideAccess)
  /-- FABRIC_PORT_RETIRE (R468): A failed fabric port is retired and traffic moves to others. -/
  | fabricPortRetire (port : Nat)
  /-- FABRIC_LOAD_TIMEOUT (R468): A load to an unreachable module returns poison after 50 us. -/
  | fabricLoadTimeout (id : Nat)
  /-- DOMAIN_ID_ASSIGN (R467): Management controller assigns the module's domain ID at bring-up. -/
  | domainIdAssign (id : BitVec 6)
  /-- POWER_ON (R470): Boot ROM verifies patches, trains dies and starts Overcast service. -/
  | powerOn (patch : W32) (signed : Bool) (die : Nat)
  /-- OVERCAST_END (R470): Overcast service ends once dies and links are in service or retired. -/
  | overcastEnd (dies : List Nat) (retired : List (Nat × Nat))
  /-- LIVE_PATCH (R472): A patch takes effect on each command processor between packets. -/
  | livePatch (version : W32) (signed : Bool)
  /-- ATTESTATION_REPORT (R472): Security block signs an attestation report with the next leaf. -/
  | attestationReport (challenge : W64)
  /-- DIE_OFFLINE (R473): A die is quarantined, its workgroups moved and regions migrated. -/
  | dieOffline (die : Nat)
  /-- STICK_REPLACEMENT (R473): A stick is drained, replaced, trained and returned. -/
  | stickReplacement (stick : Nat)
  /-- POWER_CAP_EVALUATION (R475): Every 50 us a die withholds or restores a sixteenth of issue slots. -/
  | powerCapEvaluation (die power flux : Nat)
  /-- INPUT_POWER_LIMIT_EXPIRY (R475): Input above 3,400 W for 10 ms makes every die withhold steps. -/
  | inputPowerLimitExpiry (power : Nat)
  /-- TELEMETRY_PUBLISH (R474): Each power stage publishes its telemetry word every 1 ms. -/
  | telemetryPublish (stage : Nat) (word : W64)
  /-- CONNECTOR_HEALTH_REPORT (R476): Each connector reports its health record once a minute. -/
  | connectorHealthReport (conn : BitVec 8) (word : W64)
  /-- WRITE_ACKNOWLEDGEMENT (R250): A store, RED or atomic is performed where it is applied and acknowledged, filling a returning atomic's destination and freeing its store-queue entry. -/
  | writeAcknowledgement (id : Nat)
  /-- OWNERSHIP_GRANT (R57): The home slice grants line ownership to a tile or L1, and the write or atomic that waited for it proceeds. -/
  | ownershipGrant (id : Nat)
  /-- CACHE_MAINTENANCE_COMPLETE (R75): A CMAINT operation completes, releasing later accesses to its range and any FENCE that waited on it. -/
  | cacheMaintenanceComplete (id : Nat)
  /-- MEMORY_LINK_CRC_REPLAY (R76): A memory-link flit with a CRC error is replayed from the link's retry buffer. -/
  | memoryLinkCrcReplay (stick : Nat)
  /-- UNCORRECTABLE_SRAM_ERROR (R459): An uncorrectable error in on-die SRAM poisons its granule, or fails the node with CODE 5 where the state has no poison bit. -/
  | uncorrectableSramError (g : SramGranule)
  /-- DOLDRUMS_ENTRY (R191): A group that has not issued for 256 arithmetic clocks leaves the active set, and its registers fall to the Doldrums voltage. -/
  | doldrumsEntry (wg grp : Nat)
  /-- FABRIC_REMOTE_ACCESS (R467): A load, store, atomic or RED from another module arrives over a fabric port and is performed at this module's home slice or memory link controller. -/
  | fabricRemoteAccess (acc : OutsideAccess)
  /-- FABRIC_MODULE_UNREACHABLE (R468): A module of the domain becomes unreachable, so writes to it are dropped and logged and their nodes complete with CODE 5. -/
  | fabricModuleUnreachable (m : BitVec 6)
  /-- HUB_CORE_MEMORY_ACCESS (R150): A hub application core or command processor performs a memory access or a RISC-V FENCE, which acts as a .sc fence at .sys. -/
  | hubCoreMemoryAccess (acc : OutsideAccess)
  /-- COMPRESSED_STATE_SETUP (R45): The module OS writes the size-table base, slot pool and overflow region into a memory link controller. -/
  | compressedStateSetup (stick : Nat) (base pool overflow : W64)
  /-- COMPRESSED_PAGE_REPACK (R46): The module OS re-packs an overflowed compressed page, returning it invisibly from overflow to its compressed slot. -/
  | compressedPageRepack (page : Nat)
  /-- QUEUE_BINDING (R192): The module OS binds a command queue to a tenant context and a command processor, giving it a doorbell index. -/
  | queueBinding (q asid : Nat) (desc : W64)
  /-- QUEUE_HALTED_BY_MODULE_OS (R192): The module OS writes STATE 0b10, and the command processor stops parsing the queue. -/
  | queueHaltedByModuleOs (q : Nat)
  /-- HALTED_CORE_RETURN (R406): The module OS returns a halted core to service so that it takes workgroups again. -/
  | haltedCoreReturn (core : Nat)
  /-- POWER_LOSS (R472): The module loses power, after which at most an identity leaf may be skipped, never reused. -/
  | powerLoss
  deriving DecidableEq, Repr

end Sys2Proof
end

