-- ==== Sys2Proof/Machine/Bits.lean ====
section
/-! DEFINITION. Bit fields, widths and byte order used by every family. -/
namespace Sys2Proof.Machine

/-- Bits `hi:lo` of a word as a number. -/
def bits {w : Nat} (x : BitVec w) (hi lo : Nat) : Nat := (x.extractLsb' lo (hi + 1 - lo)).toNat

/-- A word with bits `lo + n - 1 : lo` replaced. -/
def setBits {w : Nat} (x : BitVec w) (lo n : Nat) (v : Nat) : BitVec w :=
  let m : BitVec w := BitVec.ofNat w ((2 ^ n - 1) * 2 ^ lo)
  (x &&& ~~~ m) ||| (BitVec.ofNat w ((v % 2 ^ n) * 2 ^ lo))

/-- The low word of a pair, and the high one. -/
def lo32 (x : W64) : W32 := x.extractLsb' 0 32
def hi32 (x : W64) : W32 := x.extractLsb' 32 32

/-- A pair, low word first (R256). -/
def pair (lo hi : W32) : W64 := hi ++ lo

/-- Zero and sign extension of a 32-bit value to 64 bits. -/
def zx (x : W32) : W64 := x.zeroExtend 64
def sx (x : W32) : W64 := x.signExtend 64

/-- Little-endian bytes of a number (R245). -/
def bytesLE : Nat → Nat → List Byte
  | 0, _ => []
  | n + 1, x => BitVec.ofNat 8 x :: bytesLE n (x / 256)

/-- The number of little-endian bytes. -/
def natLE : List Byte → Nat
  | [] => 0
  | b :: bs => b.toNat + 256 * natLE bs

/-- Width in bytes of a TM or TA type code (R260, R324). -/
def typeWidth (var : BitVec 4) : Nat :=
  match var.toNat with
  | 0 => 1 | 4 => 1 | 11 => 1 | 12 => 1
  | 1 => 2 | 5 => 2 | 9 => 2 | 10 => 2
  | 3 => 8 | 7 => 8
  | _ => 4

/-- The forms of 64 bits: VAR 3 and 7 (R271). -/
def isWide (var : BitVec 4) : Bool := var == 3 || var == 7

/-- Signed integer types (Table 12-5). -/
def isSigned (var : BitVec 4) : Bool := var.toNat < 4

/-- The variant schemes of Table 12-5. -/
def varTI (var : BitVec 4) : Bool := var == 2 || var == 3 || var == 6 || var == 7
def varTL (var : BitVec 4) : Bool := var == 6 || var == 7
def varTF (var : BitVec 4) : Bool := var == 8
def varTM (var : BitVec 4) : Bool := decide (var.toNat ≤ 12)
def varTA (var : BitVec 4) : Bool := varTI var || var == 8 || var == 10

/-- A list with one position changed. -/
def upd {α : Type} (l : List α) (i : Nat) (f : α → α) : List α :=
  match l, i with
  | [], _ => []
  | a :: l, 0 => f a :: l
  | a :: l, i + 1 => a :: upd l i f

/-- Insert into an ascending list of numbers without repeats. -/
def insertNat (n : Nat) : List Nat → List Nat
  | [] => [n]
  | m :: l => if n < m then n :: m :: l else if n = m then m :: l else m :: insertNat n l

end Sys2Proof.Machine
end

