-- ==== Sys2Proof/Machine/Float.lean ====
section
/-! DEFINITION. Number formats and exact arithmetic (spec/10 R215 to R224): a floating value is a sign, a whole number
and a power of two; an operation forms its exact result and rounds once. -/
namespace Sys2Proof.Machine

/-! ### Formats (Table 10-1) -/

/-- How a format writes infinities and NaN. -/
inductive Specials where
  /-- Exponent all ones. -/
  | ieee
  /-- E4M3: no infinity, one NaN magnitude. -/
  | nanOnly
  /-- E2M1. -/
  | none
  deriving DecidableEq, Repr

structure FFmt where
  /-- Exponent and mantissa bits. -/
  eb : Nat
  mb : Nat
  bias : Nat
  sp : Specials
  /-- Encoding of the largest finite magnitude, and of the canonical NaN. -/
  maxEnc : Nat
  nan : Nat
  deriving DecidableEq, Repr

def fp32 : FFmt := { eb := 8, mb := 23, bias := 127, sp := .ieee, maxEnc := 0x7F7FFFFF, nan := 0x7FC00000 }
def fp16 : FFmt := { eb := 5, mb := 10, bias := 15, sp := .ieee, maxEnc := 0x7BFF, nan := 0x7E00 }
def bf16 : FFmt := { eb := 8, mb := 7, bias := 127, sp := .ieee, maxEnc := 0x7F7F, nan := 0x7FC0 }
def e4m3 : FFmt := { eb := 4, mb := 3, bias := 7, sp := .nanOnly, maxEnc := 0x7E, nan := 0x7F }
def e5m2 : FFmt := { eb := 5, mb := 2, bias := 15, sp := .ieee, maxEnc := 0x7B, nan := 0x7E }
def e2m1 : FFmt := { eb := 2, mb := 1, bias := 1, sp := .none, maxEnc := 7, nan := 0 }

/-- Format codes (Table 10-3); INT8 and INT4 are not floating. -/
def fmtOf (code : Nat) : FFmt :=
  match code with
  | 1 => e4m3 | 2 => e5m2 | 3 => e2m1 | 6 => bf16 | 7 => fp16 | _ => fp32

/-! ### Values -/

/-- A value: NaN, an infinity, or (−1)^s × m × 2^e. -/
inductive Fl where
  | nan
  | inf (s : Bool)
  | fin (s : Bool) (m : Nat) (e : Int)
  deriving DecidableEq, Repr

/-- Exponent of a format's smallest subnormal. -/
def FFmt.emin (f : FFmt) : Int := 1 - (f.bias : Int) - (f.mb : Int)

/-- The sign bit's position. -/
def FFmt.width (f : FFmt) : Nat := f.eb + f.mb

/-- Encoding of infinity. -/
def FFmt.infEnc (f : FFmt) : Nat := (2 ^ f.eb - 1) * 2 ^ f.mb

/-- A value read from an encoding (R215). -/
def FFmt.decode (f : FFmt) (x : Nat) : Fl :=
  let s := x / 2 ^ f.width % 2 == 1
  let g := x % 2 ^ f.width
  let ex := g / 2 ^ f.mb
  let ma := g % 2 ^ f.mb
  if f.sp = .ieee && ex == 2 ^ f.eb - 1 then (if ma = 0 then .inf s else .nan)
  else if f.sp = .nanOnly && g == f.nan then .nan
  else if ex = 0 then .fin s ma f.emin
  else .fin s (ma + 2 ^ f.mb) (f.emin + (ex : Int) - 1)

/-! ### Rounding (R220) -/

inductive Mode where
  | rne | rz | ru | rd
  deriving DecidableEq, Repr

def Mode.of (n : Nat) : Mode := match n with | 0 => .rne | 1 => .rz | 2 => .ru | _ => .rd

/-- Bits of a number: 0 for 0. -/
def bitLen (n : Nat) : Nat := if n = 0 then 0 else Nat.log2 n + 1

/-- `m ÷ 2^sh` rounded to a whole number, for a value of sign `s`. -/
def roundShift (mode : Mode) (s : Bool) (m sh : Nat) : Nat :=
  let sh := min sh (bitLen m + 2)
  let q := m >>> sh
  let r := m - q <<< sh
  let half := 1 <<< sh
  let up := match mode with
    | .rne => decide (2 * r > half) || (2 * r == half && q % 2 == 1)
    | .rz => false
    | .ru => !s && r != 0
    | .rd => s && r != 0
  if up then q + 1 else q

/-- A finite value rounded into a format with an unbounded exponent above: sign, and an encoding of the magnitude that
may pass the largest finite one. -/
def FFmt.roundMag (f : FFmt) (mode : Mode) (s : Bool) (m : Nat) (e : Int) : Nat :=
  if m = 0 then 0
  else
    let ex := max f.emin ((bitLen m : Int) + e - (f.mb + 1 : Nat))
    let q := if ex ≤ e then m <<< (e - ex).toNat else roundShift mode s m (ex - e).toNat
    (ex - f.emin).toNat * 2 ^ f.mb + q

def FFmt.signed (f : FFmt) (s : Bool) (mag : Nat) : Nat := (if s then 2 ^ f.width else 0) + mag

/-- An overflow without `.sat` in a format with infinities (Table 10-4). -/
def FFmt.overflow (f : FFmt) (mode : Mode) (s : Bool) : Nat :=
  match mode with
  | .rne => f.infEnc
  | .rz => f.maxEnc
  | .ru => if s then f.maxEnc else f.infEnc
  | .rd => if s then f.infEnc else f.maxEnc

/-- A value written in a format by a conversion (R221, Table 10-4). -/
def FFmt.convert (f : FFmt) (mode : Mode) (sat : Bool) (v : Fl) : Nat :=
  match v with
  | .nan => f.nan
  | .inf s =>
    (match f.sp with
     | .ieee => f.signed s (if sat then f.maxEnc else f.infEnc)
     | .nanOnly => if sat then f.signed s f.maxEnc else f.nan
     | .none => f.signed s f.maxEnc)
  | .fin s m e =>
    let g := f.roundMag mode s m e
    if g ≤ f.maxEnc then f.signed s g
    else
      match f.sp with
      | .ieee => f.signed s (if sat then f.maxEnc else f.overflow mode s)
      | .nanOnly => if sat then f.signed s f.maxEnc else f.nan
      | .none => f.signed s f.maxEnc

/-- An arithmetic result: RNE, infinities at overflow (R220). -/
def FFmt.pack (f : FFmt) (v : Fl) : Nat := f.convert .rne false v

/-- A value rounded to a whole number (R222), NaN apart. -/
def Fl.toWhole (mode : Mode) (s : Bool) (m : Nat) (e : Int) : Int :=
  let q := if 0 ≤ e then m <<< e.toNat else roundShift mode s m (-e).toNat
  if s then -(q : Int) else q

/-- R222: rounded by the mode, clamped to a range; NaN gives 0. -/
def Fl.toInt (mode : Mode) (lo hi : Int) (v : Fl) : Int :=
  match v with
  | .nan => 0
  | .inf s => if s then lo else hi
  | .fin s m e => max lo (min hi (Fl.toWhole mode s m e))

/-- An integer as a value. -/
def Fl.ofInt (i : Int) : Fl := .fin (decide (i < 0)) i.natAbs 0

/-! ### Exact sums and products -/

/-- A finite value as a whole number of units of 2^`e0`, `e0` at most its exponent. -/
def scaled (e0 : Int) (s : Bool) (m : Nat) (e : Int) : Int :=
  let x : Int := m <<< (e - e0).toNat
  if s then -x else x

/-- The exact product (R304): ∞ × 0 is NaN. -/
def Fl.mul (a b : Fl) : Fl :=
  match a, b with
  | .nan, _ => .nan
  | _, .nan => .nan
  | .inf s, .inf t => .inf (s != t)
  | .inf s, .fin t m _ => if m = 0 then .nan else .inf (s != t)
  | .fin s m _, .inf t => if m = 0 then .nan else .inf (s != t)
  | .fin s m e, .fin t n g => .fin (s != t) (m * n) (e + g)

/-- The exact sum of two values: a zero sum is +0 unless both terms are −0 (R304). -/
def Fl.add (a b : Fl) : Fl :=
  match a, b with
  | .nan, _ => .nan
  | _, .nan => .nan
  | .inf s, .inf t => if s = t then .inf s else .nan
  | .inf s, .fin .. => .inf s
  | .fin .., .inf t => .inf t
  | .fin s m e, .fin t n g =>
    let e0 := min e g
    let x := scaled e0 s m e + scaled e0 t n g
    if x = 0 then .fin (m = 0 && n = 0 && s && t) 0 0
    else .fin (decide (x < 0)) x.natAbs e0

def Fl.neg : Fl → Fl
  | .nan => .nan
  | .inf s => .inf (!s)
  | .fin s m e => .fin (!s) m e

/-- The exact sum of a list (R223): the terms in any order give the same value; −0 only when every term is −0. -/
def Fl.sum (ts : List Fl) : Fl :=
  match ts with
  | [] => .fin false 0 0
  | t :: ts => ts.foldl Fl.add t

/-! ### FP32 operations on bits (R304) -/

def f32 (x : W32) : Fl := fp32.decode x.toNat
def ofFl (v : Fl) : W32 := BitVec.ofNat 32 (fp32.pack v)

def fAdd (a b : W32) : W32 := ofFl ((f32 a).add (f32 b))
def fSub (a b : W32) : W32 := ofFl ((f32 a).add (f32 b).neg)
def fMul (a b : W32) : W32 := ofFl ((f32 a).mul (f32 b))
def fFma (a b c : W32) : W32 := ofFl (((f32 a).mul (f32 b)).add (f32 c))

/-- Total order of values that are no NaN: −0 below +0. -/
def fBelow (f : FFmt) (a b : Nat) : Bool :=
  let key := fun (x : Nat) =>
    let g : Int := (x % 2 ^ f.width : Nat)
    if x / 2 ^ f.width % 2 = 1 then -g - 1 else g
  decide (key a < key b)

/-- minimumNumber and maximumNumber on encodings (R72, R304). -/
def FFmt.minNum (f : FFmt) (a b : Nat) : Nat :=
  if f.decode a = .nan then (if f.decode b = .nan then f.nan else b)
  else if f.decode b = .nan then a
  else if fBelow f b a then b else a

def FFmt.maxNum (f : FFmt) (a b : Nat) : Nat :=
  if f.decode a = .nan then (if f.decode b = .nan then f.nan else b)
  else if f.decode b = .nan then a
  else if fBelow f a b then b else a

def FFmt.addNum (f : FFmt) (a b : Nat) : Nat := f.pack ((f.decode a).add (f.decode b))

def fMin (a b : W32) : W32 := BitVec.ofNat 32 (fp32.minNum a.toNat b.toNat)
def fMax (a b : W32) : W32 := BitVec.ofNat 32 (fp32.maxNum a.toNat b.toNat)

def isNan32 (a : W32) : Bool := f32 a == .nan

def nan32 : W32 := 0x7FC00000

def fAbs (a : W32) : W32 := if isNan32 a then nan32 else a &&& 0x7FFFFFFF
def fNeg (a : W32) : W32 := if isNan32 a then nan32 else a ^^^ 0x80000000

/-- Numerical comparison of values that are no NaN: zeros compare equal. -/
def Fl.lt (a b : Fl) : Bool :=
  match a, b with
  | .nan, _ => false
  | _, .nan => false
  | .inf s, .inf t => s && !t
  | .inf s, .fin .. => s
  | .fin .., .inf t => !t
  | .fin s m e, .fin t n g => let e0 := min e g; decide (scaled e0 s m e < scaled e0 t n g)

def Fl.eq (a b : Fl) : Bool :=
  match a, b with
  | .nan, _ => false
  | _, .nan => false
  | a, b => !a.lt b && !b.lt a

/-- FCMP (Table 12-6, R305). -/
def fcmpHolds (var : Nat) (a b : W32) : Bool :=
  let x := f32 a
  let y := f32 b
  match var with
  | 0 => x.eq y
  | 1 => !x.eq y
  | 2 => x.lt y
  | 3 => x.lt y || x.eq y
  | 4 => y.lt x
  | 5 => y.lt x || x.eq y
  | 6 => x != .nan && y != .nan
  | _ => x == .nan || y == .nan

/-- FCLASS (Table 14-2). -/
def fclassOf (a : W32) : W32 :=
  let s := a.getLsbD 31
  let ex := bits a 30 23
  let ma := bits a 22 0
  let k := if ex = 255 then (if ma = 0 then (if s then 0 else 7) else if a.getLsbD 22 then 9 else 8)
    else if ex = 0 then (if ma = 0 then (if s then 3 else 4) else if s then 2 else 5)
    else if s then 1 else 6
  1 <<< k

/-- FROUND (R307). -/
def fRound (mode : Mode) (a : W32) : W32 :=
  match f32 a with
  | .nan => nan32
  | .inf _ => a
  | .fin s m e => if 0 ≤ e || m = 0 then a
    else BitVec.ofNat 32 (fp32.signed s (fp32.roundMag .rne s (roundShift mode s m (-e).toNat) 0))

/-- FSCALE (R308). -/
def fScale (a b : W32) : W32 :=
  match f32 a with
  | .fin s m e => ofFl (.fin s m (e + b.toInt))
  | .nan => nan32
  | _ => a

end Sys2Proof.Machine
end

