-- ==== Sys2Proof/WellFormed.lean ====
section
/-! DEFINITION. Which instruction terms stand for words of the encoding (spec/12 R248, R251, R255, R256): every operand
is one its field can encode, and VAR and bits 19:8 agree with the row of the opcode table.  A well-formed instruction
may still be illegal: the checks of Table 12-14 are made when it issues (Machine/Checks.lean). -/
namespace Sys2Proof

/-- Bytes that name nothing in any field (Table 12-3). -/
def Operand.badByte (b : BitVec 8) : Bool := b == 0xFA || b == 0xFB || b == 0xFC || b == 0xFF

/-- DST holds no literal and no immediate: their bytes name nothing there (Table 12-3). -/
def Operand.okDst : Operand → Bool
  | .imm _ | .lit _ | .used => false
  | .bad b => badByte b || b == 0xFD || b == 0xFE
  | _ => true

/-- A holds no immediate (R255: in B only). -/
def Operand.okA : Operand → Bool
  | .imm _ | .used => false
  | .bad b => badByte b || b == 0xFD
  | _ => true

/-- B admits the immediate and a literal. -/
def Operand.okB : Operand → Bool
  | .used => false
  | .bad b => badByte b
  | _ => true

/-- C is no operand exactly when B is the immediate (R256). -/
def Operand.okC (b c : Operand) : Bool :=
  match b, c with
  | .imm _, .used => true
  | .imm _, _ => false
  | _, .used => false
  | _, c => c.okA

/-- The operands of an instruction word can be encoded. -/
def Fields.wf (f : Fields) : Bool := f.dst.okDst && f.a.okA && f.b.okB && f.b.okC f.c

/-- A relative transfer keeps its offset apart: A, B and C are no operands (R248). -/
def Fields.wfRel (f : Fields) : Bool := f.dst.okDst && f.a == .zero && f.b == .zero && f.c == .zero

/-- An address below 2^52, aligned. -/
def addrFits (a : W64) (align : Nat) : Bool := decide (a.toNat < 2 ^ 52) && a.toNat % align == 0

/-- A declared operand (Table 9-5): a mode that reads or writes, and 1 byte to 1 TiB. -/
def OperandDecl.wf (o : OperandDecl) : Bool := o.mode != 0 && decide (1 ≤ o.len.toNat ∧ o.len.toNat ≤ 2 ^ 40)

/-- The body of a launch packet (Tables 9-3 and 9-5): each field fits its place, and those that the packet has not are zero. -/
def LaunchPkt.wf (p : LaunchPkt) (ind : Bool) : Bool :=
  decide (p.ntree ≤ 32 ∧ p.ndep ≤ 3 ∧ p.scal ≤ 192 ∧ p.drift < 2 ^ 16 ∧ p.tiles < 2 ^ 8 ∧ p.dtags.length = 3 ∧ p.ops.length ≤ 16
    ∧ p.aff.length < 2 ^ 8 ∧ p.args.length ≤ 192 ∧ p.priv.toNat % 64 = 0)
    && addrFits p.entry 8 && addrFits p.staddr 8 && p.ops.all OperandDecl.wf
    && (if ind then addrFits p.gaddr 4 && p.gridm1 == 0 else p.gaddr == 0)

/-- A counter of a FENCE (R205): aligned to its width. -/
def FenceCtr.wf (c : FenceCtr) : Bool := c.addr.toNat % (if c.w64 then 8 else 4) == 0

/-- The fields of the term agree with the row of the opcode table its constructor stands for, and the term is the
reading of some word.  Packets: the fields fit their places (R195, Tables 9-3 to 9-6).  An event has no word, and each
of its parameters is legal. -/
def Instr.wf : Instr → Bool
  | .nop f => f.wf
  | .mov f => f.wf
  | .sel f => f.wf
  | .rdspec f => f.wf
  | .iadd f => f.wf
  | .isub f => f.wf
  | .imul f => f.wf
  | .imulhi f => f.wf
  | .imad f => f.wf
  | .imin f => f.wf
  | .imax f => f.wf
  | .iabs f => f.wf
  | .iaddc f => f.wf
  | .lea f => f.wf
  | .icmp f => f.wf
  | .clamp f => f.wf
  | .land f => f.wf
  | .lor f => f.wf
  | .lxor f => f.wf
  | .ltab f => f.wf
  | .shl f => f.wf
  | .shr f => f.wf
  | .sar f => f.wf
  | .rot f => f.wf
  | .bfe f => f.wf
  | .bfi f => f.wf
  | .popc f => f.wf
  | .clz f => f.wf
  | .brev f => f.wf
  | .permb f => f.wf
  | .plop f => f.wf
  | .pmovToPredicate f => f.wf && decide (f.var = 0)
  | .pmovFromPredicate f => f.wf && decide (f.var = 1)
  | .bra f _ => f.wfRel
  | .brx f => f.wf
  | .call f _ => f.wfRel
  | .callx f => f.wf
  | .ret f => f.wf
  | .join f _ => f.wfRel
  | .exitOp f => f.wf
  | .yield f => f.wf
  | .doze f => f.wf
  | .repOp f => f.wf
  | .gshape f => f.wf
  | .elect f => f.wf
  | .voteAll f => f.wf && decide (f.var = 0)
  | .voteAny f => f.wf && decide (f.var = 1)
  | .voteBallot f => f.wf && decide (f.var = 2)
  | .voteCount f => f.wf && decide (f.var = 3)
  | .matchOp f => f.wf
  | .wspill f => f.wf
  | .wfill f => f.wf
  | .fadd f => f.wf
  | .fsub f => f.wf
  | .fmul f => f.wf
  | .ffma f => f.wf
  | .fmin f => f.wf
  | .fmax f => f.wf
  | .fabs f => f.wf
  | .fneg f => f.wf
  | .fcmp f => f.wf
  | .fclass f => f.wf
  | .fround f => f.wf
  | .fscale f => f.wf
  | .frcp f => f.wf
  | .frsq f => f.wf
  | .fexp2 f => f.wf
  | .flog2 f => f.wf
  | .ftanh f => f.wf
  | .cvtf f => f.wf
  | .cvtfi f => f.wf
  | .cvtif f => f.wf
  | .pack8 f => f.wf
  | .pack4 f => f.wf
  | .unpk8 f => f.wf
  | .unpk4 f => f.wf
  | .dot4 f => f.wf
  | .dot8 f => f.wf
  | .idot4 f => f.wf
  | .idot8 f => f.wf
  | .pfma f => f.wf
  | .lshfl f => f.wf
  | .lperm f => f.wf
  | .qswap f => f.wf
  | .qbcast f => f.wf
  | .gred f => f.wf
  | .gscan f => f.wf
  | .v2s f => f.wf
  | .ld f => f.wf
  | .st f => f.wf
  | .lds f => f.wf
  | .sts f => f.wf
  | .ldu f => f.wf
  | .ldl f => f.wf
  | .stl f => f.wf
  | .pref f => f.wf
  | .atom f => f.wf
  | .atomcas f => f.wf
  | .red f => f.wf
  | .atoms f => f.wf
  | .fence f => f.wf
  | .cmaintClean f => f.wf && decide (f.var.extractLsb' 0 2 = 0)
  | .cmaintInv f => f.wf && decide (f.var.extractLsb' 0 2 = 1)
  | .cmaintClinv f => f.wf && decide (f.var.extractLsb' 0 2 = 2)
  | .barinit f => f.wf
  | .barreg f => f.wf
  | .bararr f => f.wf
  | .barwait f => f.wf
  | .barsync f => f.wf
  | .bardrop f => f.wf
  | .qbind f => f.wf
  | .qpoll f => f.wf
  | .tclaim f => f.wf
  | .tfill f => f.wf
  | .tdrain f => f.wf
  | .tstat f => f.wf
  | .tfree f => f.wf
  | .rbres f => f.wf
  | .rbpub f => f.wf
  | .rbtake f => f.wf
  | .rbfree f => f.wf
  | .rbmeta f => f.wf
  | .mxldw f => f.wf
  | .mxmul f => f.wf
  | .mxmult f => f.wf
  | .mxprom f => f.wf
  | .mxzero f => f.wf
  | .mxrd f => f.wf
  | .mxstat f => f.wf
  | .mxfence f => f.wf
  | .cvset f => f.wf
  | .cvqry f => f.wf
  | .kacc f => f.wf
  | .kprobe f => f.wf
  | .kdrain f => f.wf
  | .kcfg f => f.wf
  | .kstat f => f.wf
  | .kflush f => f.wf
  | .kmergeBlock f => f.wf && decide (f.var.extractLsb' 2 1 = 0)
  | .kmergeRing f => f.wf && decide (f.var.extractLsb' 2 1 = 1)
  | .kclear f => f.wf
  | .itrsrcRange f => f.wf && decide (f.q.extractLsb' 8 1 = 0)
  | .itrsrcList f => f.wf && decide (f.q.extractLsb' 7 2 = 2)
  | .itrsrcBitmap f => f.wf && decide (f.q.extractLsb' 7 2 = 3)
  | .itrmapAffine f => f.wf && decide (f.q.extractLsb' 8 1 = 0)
  | .itrmapGather f => f.wf && decide (f.q.extractLsb' 8 1 = 1)
  | .itrfilt f => f.wf
  | .itrzip f => f.wf
  | .itrchain f => f.wf
  | .itrflat f => f.wf
  | .itrnext f => f.wf
  | .itrenough f => f.wf
  | .itrsave f => f.wf
  | .itrload f => f.wf
  | .cpy f => f.wf
  | .cpy2d f => f.wf
  | .veer f => f.wf
  | .veerq f => f.wf
  | .fwait f => f.wf
  | .ftest f => f.wf
  | .fcancel f => f.wf
  | .trapOp f => f.wf
  | .tret f => f.wf
  | .csrr f => f.wf
  | .csrw f => f.wf && decide (¬ (f.q = 0x002 ∨ f.q = 0x004 ∨ f.q = 0x003 ∨ f.q = 0x010 ∨ f.q = 0x011))
  | .csrwTpcTbase f => f.wf && decide (f.q = 0x002 ∨ f.q = 0x004)
  | .csrwTstatus f => f.wf && decide (f.q = 0x003)
  | .csrwErrseed f => f.wf && decide (f.q = 0x010)
  | .csrwErrrate f => f.wf && decide (f.q = 0x011)
  | .tlbinvPage f => f.wf && decide (f.var = 0)
  | .tlbinvAs f => f.wf && decide (f.var = 1)
  | .tlbinvAll f => f.wf && decide (f.var = 2)
  | .tlbprobe f => f.wf
  | .nopreBegin f => f.wf && decide (f.gp = 7 ∧ f.var = 0)
  | .nopreEnd f => f.wf && decide (f.gp = 7 ∧ f.var = 1)
  | .bkpt f => f.wf
  | .errinjReg f => f.wf && decide (f.var = 0 ∧ f.q.extractLsb' 8 4 = 0)
  | .errinjOnce f => f.wf && decide (f.var = 0 ∧ f.q.extractLsb' 8 4 = 1)
  | .errinjTwice f => f.wf && decide (f.var = 0 ∧ f.q.extractLsb' 8 4 = 2)
  | .errinjSector f => f.wf && decide (f.var = 0 ∧ f.q.extractLsb' 8 4 = 3)
  | .ckpt f => f.wf
  | .halt f => f.wf
  | .nopPacket q len => decide (q < 64 ∧ 1 ≤ len ∧ len ≤ 4095)
  | .launch q p => decide (q < 64) && p.wf false
  | .indirectLaunch q p => decide (q < 64) && p.wf true
  | .fencePacket q cs => decide (q < 64 ∧ 1 ≤ cs.length ∧ cs.length ≤ 12) && cs.all FenceCtr.wf
  | .loopPacket q mem _ word => decide (q < 64) && (if mem then addrFits word 4 else decide (word.toNat < 2 ^ 32))
  | .ifPacket q w64 _ _ addr _ => decide (q < 64) && addrFits addr (if w64 then 8 else 4)
  | .segmentBegin q _ _ => decide (q < 64)
  | .segmentEnd q _ => decide (q < 64)
  | .replay q _ => decide (q < 64)
  | .ckptPacket q _ addr => decide (q < 64) && addrFits addr 64
  | .signalWrite64 q p => decide (q < 64) && addrFits p.addr 8
  | .signalRedAdd q p => decide (q < 64) && addrFits p.addr 8
  | .signalWrite32 q p => decide (q < 64) && addrFits p.addr 4
  | .doorbell cp _ _ => decide (cp < 4)
  | .widxPoll q => decide (q < 64)
  | .queueResume q => decide (q < 64)
  | .fenceCounterPoll q => decide (q < 64)
  | .fenceDeadline q => decide (q < 64)
  | .nodeReady .. => true
  | .nodeDispatch .. => true
  | .nodeComplete .. => true
  | .segmentRetry q => decide (q < 64)
  | .classPreemption _ _ core => decide (core < 64)
  | .arrayStep core quarter => decide (core < 64 ∧ quarter < 4)
  | .arrayStepComplete core quarter => decide (core < 64 ∧ quarter < 4)
  | .arraySlotPreemption core quarter => decide (core < 64 ∧ quarter < 4)
  | .mxmultChunk core quarter => decide (core < 64 ∧ quarter < 4)
  | .joinTimeout .. => true
  | .dozeExpiry .. => true
  | .translationMissComplete .. => true
  | .pageFaultServiceComplete asid _ _ => decide (asid < 65536)
  | .loadDataReturn .. => true
  | .tileFillComplete .. => true
  | .tileDrainComplete .. => true
  | .tileRelease .. => true
  | .migrationEpoch die => decide (die < 4)
  | .migrationStart region frame => decide (region < 24 * 65536 ∧ frame < 24 * 65536)
  | .migrationCopyComplete region => decide (region < 24 * 65536)
  | .migrationAbandon region => decide (region < 24 * 65536)
  | .stickDrain stick => decide (stick < 24)
  | .overflowSlotSupplied stick _ => decide (stick < 24)
  | .memoryLinkRetrainFail stick => decide (stick < 24)
  | .driftRingWrite asid ring => decide (ring < 64 ∧ asid < 65536)
  | .kmergeBatch .. => true
  | .engineOperationComplete .. => true
  | .iteratorPullCommit .. => true
  | .iteratorSlotMove _ core => decide (core < 64)
  | .veerRequestServe link => decide (link < 10)
  | .laneGroupTurnStart link _ => decide (link < 10)
  | .laneGroupTurnComplete link _ => decide (link < 10)
  | .veerHoldExpiry link => decide (link < 10)
  | .adaptiveTurn link _ => decide (link < 10)
  | .laneGroupRetire link _ => decide (link < 10)
  | .recalibrationStart link _ => decide (link < 10)
  | .recalibrationEnd link => decide (link < 10)
  | .linkOutOfService link => decide (link < 10)
  | .linkRestore link _ => decide (link < 10)
  | .barrierArrivalCount tree _ idx _ => decide (idx < (if tree then 32 else 16))
  | .treeBarrierRelease idx => decide (idx < 32)
  | .treeBarrierRearm idx => decide (idx < 32)
  | .localBarrierRelease _ idx => decide (idx < 16)
  | .localBarrierRearm _ idx => decide (idx < 16)
  | .queueFlitDelivery .. => true
  | .workgroupSave .. => true
  | .workgroupRestore _ core => decide (core < 64)
  | .nopreBoundExpiry .. => true
  | .infieldTestDue core => decide (core < 64)
  | .infieldTestResult core _ => decide (core < 64)
  | .ckptIncrement .. => true
  | .glq die ring _ => decide (die < 4 ∧ ring < 64)
  | .mres die ring => decide (die < 4 ∧ ring < 64)
  | .ridxWrite die ring _ => decide (die < 4 ∧ ring < 64)
  | .controlBlockAccessIgnored die ring => decide (die < 4 ∧ ring < 64)
  | .metadataDelivery die ring => decide (die < 4 ∧ ring < 64)
  | .gateLogitPop die => decide (die < 4)
  | .coprocessorReserveRetry die => decide (die < 4)
  | .ringConfiguration die ring _ => decide (die < 4 ∧ ring < 64)
  | .asidRegistration .. => true
  | .partitionTableWrite .. => true
  | .hostSnoop .. => true
  | .hostMemoryAccess .. => true
  | .fabricPortRetire port => decide (port < 8)
  | .fabricLoadTimeout .. => true
  | .domainIdAssign .. => true
  | .powerOn _ _ die => decide (die < 4)
  | .overcastEnd .. => true
  | .livePatch .. => true
  | .attestationReport .. => true
  | .dieOffline die => decide (die < 4)
  | .stickReplacement stick => decide (stick < 24)
  | .powerCapEvaluation die _ _ => decide (die < 4)
  | .inputPowerLimitExpiry .. => true
  | .telemetryPublish .. => true
  | .connectorHealthReport .. => true
  | .writeAcknowledgement .. => true
  | .ownershipGrant .. => true
  | .cacheMaintenanceComplete .. => true
  | .memoryLinkCrcReplay stick => decide (stick < 24)
  | .uncorrectableSramError .. => true
  | .doldrumsEntry .. => true
  | .fabricRemoteAccess .. => true
  | .fabricModuleUnreachable .. => true
  | .hubCoreMemoryAccess .. => true
  | .compressedStateSetup stick _ _ _ => decide (stick < 24)
  | .compressedPageRepack .. => true
  | .queueBinding q asid _ => decide (q < 64 ∧ asid < 65536)
  | .queueHaltedByModuleOs q => decide (q < 64)
  | .haltedCoreReturn core => decide (core < 64)
  | .powerLoss .. => true

end Sys2Proof
end

