-- ==== Sys2Proof/Decode.lean ====
section
/-! DEFINITION. The decoder of instruction words and its encoder (spec/12). Decoding is total: every 64-bit word with
the literal slots after it gives an instruction or a reason by name. -/
namespace Sys2Proof

/-- Why a word is no instruction; each reason is one check of Table 12-14. -/
inductive DecodeErr where
  /-- Check 10: the opcode is unassigned (R267). -/
  | unassigned
  /-- Check 11: a guard the opcode does not accept (R252), where VAR or bits 19:8 choose no row. -/
  | guard
  /-- Check 12: a VAR the opcode does not list (R260). -/
  | var
  /-- Check 13: bits 19:8 name nothing (R404). -/
  | q
  /-- Check 5: a literal slot is missing (R248); the clause checks find it first. -/
  | literal
  deriving DecidableEq, Repr

/-- The subcode of Table 12-14 (illegal instruction) for a decoding refusal. -/
def DecodeErr.subcode : DecodeErr → Nat
  | .unassigned => 1
  | .guard => 2
  | .var => 3
  | .q => 4
  | .literal => 4

/-- Table 12-3 for a byte below 0xFD, and for the bytes no field gives a meaning. -/
def Operand.ofByte (b : BitVec 8) : Operand :=
  if h : b.toNat < 0x20 then .v ⟨b.toNat, h⟩
  else if h : b.toNat - 0x20 < 192 then .s ⟨b.toNat - 0x20, h⟩
  else if h : b.toNat - 0xE0 < 8 then .p ⟨b.toNat - 0xE0, h⟩
  else if h : b.toNat - 0xE8 < 8 then .h ⟨b.toNat - 0xE8, h⟩
  else if h : b.toNat - 0xF0 < 4 then .qtx ⟨b.toNat - 0xF0, h⟩
  else if h : b.toNat - 0xF4 < 4 then .qrx ⟨b.toNat - 0xF4, h⟩
  else if b = 0xF8 then .zero
  else if b = 0xF9 then .lane
  else .bad b

/-- The byte that names an operand. -/
def Operand.toByte : Operand → BitVec 8
  | .v n => BitVec.ofNat 8 n.val
  | .s n => BitVec.ofNat 8 (0x20 + n.val)
  | .p n => BitVec.ofNat 8 (0xE0 + n.val)
  | .h n => BitVec.ofNat 8 (0xE8 + n.val)
  | .qtx n => BitVec.ofNat 8 (0xF0 + n.val)
  | .qrx n => BitVec.ofNat 8 (0xF4 + n.val)
  | .zero => 0xF8
  | .lane => 0xF9
  | .imm _ => 0xFD
  | .lit _ => 0xFE
  | .used => 0
  | .bad b => b

/-- The literal slot an operand takes (R248). -/
def Operand.lits : Operand → List W64
  | .lit w => [w]
  | _ => []

/-- A or C as an operand: 0xFE takes the next literal (R248). -/
def Operand.take (b : BitVec 8) (ls : List W64) : Option (Operand × List W64) :=
  if b = 0xFE then
    match ls with
    | l :: ls => some (.lit l, ls)
    | [] => none
  else some (.ofByte b, ls)

/-- The fields of a word as the bits stand (Table 12-2). -/
structure RawWord where
  opc : BitVec 8
  gn  : BitVec 1
  gp  : BitVec 3
  dst : BitVec 8
  a   : BitVec 8
  b   : BitVec 8
  c   : BitVec 8
  q   : BitVec 12
  var : BitVec 4
  ta  : BitVec 1
  tb  : BitVec 1
  tc  : BitVec 1
  h   : BitVec 1
  deriving DecidableEq, Repr

/-- Table 12-2 read. -/
def RawWord.ofWord (w : W64) : RawWord where
  opc := w.extractLsb' 56 8
  gn  := w.extractLsb' 55 1
  gp  := w.extractLsb' 52 3
  dst := w.extractLsb' 44 8
  a   := w.extractLsb' 36 8
  b   := w.extractLsb' 28 8
  c   := w.extractLsb' 20 8
  q   := w.extractLsb' 8 12
  var := w.extractLsb' 4 4
  ta  := w.extractLsb' 3 1
  tb  := w.extractLsb' 2 1
  tc  := w.extractLsb' 1 1
  h   := w.extractLsb' 0 1

/-- Table 12-2 written. -/
def RawWord.toWord (r : RawWord) : W64 :=
  r.opc ++ (r.gn ++ (r.gp ++ (r.dst ++ (r.a ++ (r.b ++ (r.c ++ (r.q ++ (r.var ++
    (r.ta ++ (r.tb ++ (r.tc ++ r.h)))))))))))

/-- The opcodes whose A, B and C fields are one 24-bit offset (R248, R249): BRA, CALL, JOIN. -/
def isRelative (o : BitVec 8) : Bool := o == 0x20 || o == 0x22 || o == 0x25

/-- A, B and C as operands, with the literal slots they take in that order (R248). -/
def takeABC (r : RawWord) (ls : List W64) : Option (Operand × Operand × Operand) :=
  match Operand.take r.a ls with
  | none => none
  | some (a, ls) =>
    if r.b = 0xFD then some (a, .imm r.c, .used)
    else match Operand.take r.b ls with
      | none => none
      | some (b, ls) =>
        match Operand.take r.c ls with
        | none => none
        | some (c, _) => some (a, b, c)

/-- The fields with A, B and C given. -/
def RawWord.fields (r : RawWord) (a b c : Operand) : Fields where
  gn := r.gn == 1
  gp := r.gp
  dst := .ofByte r.dst
  a := a
  b := b
  c := c
  q := r.q
  var := r.var
  ta := r.ta == 1
  tb := r.tb == 1
  tc := r.tc == 1
  h := r.h == 1

/-- Opcodes 0x00 to 0x3F (Tables 12-9 to 12-13). -/
def buildInt (o : Nat) (f : Fields) (off : BitVec 24) : Except DecodeErr Instr :=
  match o with
  | 0x00 => .ok (.nop f)
  | 0x01 => .ok (.mov f)
  | 0x02 => .ok (.sel f)
  | 0x03 => .ok (.rdspec f)
  | 0x04 => .ok (.iadd f)
  | 0x05 => .ok (.isub f)
  | 0x06 => .ok (.imul f)
  | 0x07 => .ok (.imulhi f)
  | 0x08 => .ok (.imad f)
  | 0x09 => .ok (.imin f)
  | 0x0A => .ok (.imax f)
  | 0x0B => .ok (.iabs f)
  | 0x0C => .ok (.iaddc f)
  | 0x0D => .ok (.lea f)
  | 0x0E => .ok (.icmp f)
  | 0x0F => .ok (.clamp f)
  | 0x10 => .ok (.land f)
  | 0x11 => .ok (.lor f)
  | 0x12 => .ok (.lxor f)
  | 0x13 => .ok (.ltab f)
  | 0x14 => .ok (.shl f)
  | 0x15 => .ok (.shr f)
  | 0x16 => .ok (.sar f)
  | 0x17 => .ok (.rot f)
  | 0x18 => .ok (.bfe f)
  | 0x19 => .ok (.bfi f)
  | 0x1A => .ok (.popc f)
  | 0x1B => .ok (.clz f)
  | 0x1C => .ok (.brev f)
  | 0x1D => .ok (.permb f)
  | 0x1E => .ok (.plop f)
  | 0x1F => if f.var = 0 then .ok (.pmovToPredicate f) else if f.var = 1 then .ok (.pmovFromPredicate f) else .error .var
  | 0x20 => .ok (.bra f off)
  | 0x21 => .ok (.brx f)
  | 0x22 => .ok (.call f off)
  | 0x23 => .ok (.callx f)
  | 0x24 => .ok (.ret f)
  | 0x25 => .ok (.join f off)
  | 0x26 => .ok (.exitOp f)
  | 0x27 => .ok (.yield f)
  | 0x28 => .ok (.doze f)
  | 0x29 => .ok (.repOp f)
  | 0x2A => .ok (.gshape f)
  | 0x2B => .ok (.elect f)
  | 0x2C => if f.var = 0 then .ok (.voteAll f) else if f.var = 1 then .ok (.voteAny f) else if f.var = 2 then .ok (.voteBallot f) else if f.var = 3 then .ok (.voteCount f) else .error .var
  | 0x2D => .ok (.matchOp f)
  | 0x2E => .ok (.wspill f)
  | 0x2F => .ok (.wfill f)
  | _ => .error .unassigned

/-- Opcodes 0x40 to 0x7F (Tables 12-9 to 12-13). -/
def buildFlt (o : Nat) (f : Fields) : Except DecodeErr Instr :=
  match o with
  | 0x40 => .ok (.fadd f)
  | 0x41 => .ok (.fsub f)
  | 0x42 => .ok (.fmul f)
  | 0x43 => .ok (.ffma f)
  | 0x44 => .ok (.fmin f)
  | 0x45 => .ok (.fmax f)
  | 0x46 => .ok (.fabs f)
  | 0x47 => .ok (.fneg f)
  | 0x48 => .ok (.fcmp f)
  | 0x49 => .ok (.fclass f)
  | 0x4A => .ok (.fround f)
  | 0x4B => .ok (.fscale f)
  | 0x4C => .ok (.frcp f)
  | 0x4D => .ok (.frsq f)
  | 0x4E => .ok (.fexp2 f)
  | 0x4F => .ok (.flog2 f)
  | 0x50 => .ok (.ftanh f)
  | 0x52 => .ok (.cvtf f)
  | 0x53 => .ok (.cvtfi f)
  | 0x54 => .ok (.cvtif f)
  | 0x55 => .ok (.pack8 f)
  | 0x56 => .ok (.pack4 f)
  | 0x57 => .ok (.unpk8 f)
  | 0x58 => .ok (.unpk4 f)
  | 0x59 => .ok (.dot4 f)
  | 0x5A => .ok (.dot8 f)
  | 0x5B => .ok (.idot4 f)
  | 0x5C => .ok (.idot8 f)
  | 0x5D => .ok (.pfma f)
  | 0x60 => .ok (.lshfl f)
  | 0x61 => .ok (.lperm f)
  | 0x62 => .ok (.qswap f)
  | 0x63 => .ok (.qbcast f)
  | 0x64 => .ok (.gred f)
  | 0x65 => .ok (.gscan f)
  | 0x66 => .ok (.v2s f)
  | _ => .error .unassigned

/-- Opcodes 0x80 to 0xBF (Tables 12-9 to 12-13). -/
def buildMem (o : Nat) (f : Fields) : Except DecodeErr Instr :=
  match o with
  | 0x80 => .ok (.ld f)
  | 0x81 => .ok (.st f)
  | 0x82 => .ok (.lds f)
  | 0x83 => .ok (.sts f)
  | 0x84 => .ok (.ldu f)
  | 0x85 => .ok (.ldl f)
  | 0x86 => .ok (.stl f)
  | 0x87 => .ok (.pref f)
  | 0x88 => .ok (.atom f)
  | 0x89 => .ok (.atomcas f)
  | 0x8A => .ok (.red f)
  | 0x8B => .ok (.atoms f)
  | 0x8C => .ok (.fence f)
  | 0x8D => if f.var.extractLsb' 0 2 = 0 then .ok (.cmaintClean f) else if f.var.extractLsb' 0 2 = 1 then .ok (.cmaintInv f) else if f.var.extractLsb' 0 2 = 2 then .ok (.cmaintClinv f) else .error .var
  | 0x8E => .ok (.barinit f)
  | 0x8F => .ok (.barreg f)
  | 0x90 => .ok (.bararr f)
  | 0x91 => .ok (.barwait f)
  | 0x92 => .ok (.barsync f)
  | 0x93 => .ok (.bardrop f)
  | 0x94 => .ok (.qbind f)
  | 0x95 => .ok (.qpoll f)
  | 0x96 => .ok (.tclaim f)
  | 0x97 => .ok (.tfill f)
  | 0x98 => .ok (.tdrain f)
  | 0x99 => .ok (.tstat f)
  | 0x9A => .ok (.tfree f)
  | 0x9B => .ok (.rbres f)
  | 0x9C => .ok (.rbpub f)
  | 0x9D => .ok (.rbtake f)
  | 0x9E => .ok (.rbfree f)
  | 0x9F => .ok (.rbmeta f)
  | _ => .error .unassigned

/-- Opcodes 0xC0 to 0xCF (Tables 12-9 to 12-13). -/
def buildMat (o : Nat) (f : Fields) : Except DecodeErr Instr :=
  match o with
  | 0xC0 => .ok (.mxldw f)
  | 0xC1 => .ok (.mxmul f)
  | 0xC2 => .ok (.mxmult f)
  | 0xC3 => .ok (.mxprom f)
  | 0xC4 => .ok (.mxzero f)
  | 0xC5 => .ok (.mxrd f)
  | 0xC6 => .ok (.mxstat f)
  | 0xC7 => .ok (.mxfence f)
  | 0xC8 => .ok (.cvset f)
  | 0xC9 => .ok (.cvqry f)
  | _ => .error .unassigned

/-- Opcodes 0xD0 to 0xDF (Tables 12-9 to 12-13). -/
def buildDrf (o : Nat) (f : Fields) : Except DecodeErr Instr :=
  match o with
  | 0xD0 => .ok (.kacc f)
  | 0xD1 => .ok (.kprobe f)
  | 0xD2 => .ok (.kdrain f)
  | 0xD3 => .ok (.kcfg f)
  | 0xD4 => .ok (.kstat f)
  | 0xD5 => .ok (.kflush f)
  | 0xD6 => if f.var.extractLsb' 2 1 = 0 then .ok (.kmergeBlock f) else .ok (.kmergeRing f)
  | 0xD7 => .ok (.kclear f)
  | 0xD8 => if f.q.extractLsb' 7 2 = 2 then .ok (.itrsrcList f) else if f.q.extractLsb' 7 2 = 3 then .ok (.itrsrcBitmap f) else .ok (.itrsrcRange f)
  | 0xD9 => if f.q.extractLsb' 8 1 = 0 then .ok (.itrmapAffine f) else .ok (.itrmapGather f)
  | 0xDA => .ok (.itrfilt f)
  | 0xDB => .ok (.itrzip f)
  | 0xDC => .ok (.itrchain f)
  | 0xDD => .ok (.itrflat f)
  | 0xDE => .ok (.itrnext f)
  | 0xDF => .ok (.itrenough f)
  | _ => .error .unassigned

/-- Opcodes 0xE0 to 0xEF (Tables 12-9 to 12-13). -/
def buildCpy (o : Nat) (f : Fields) : Except DecodeErr Instr :=
  match o with
  | 0xE0 => .ok (.itrsave f)
  | 0xE1 => .ok (.itrload f)
  | 0xE2 => .ok (.cpy f)
  | 0xE3 => .ok (.cpy2d f)
  | 0xE4 => .ok (.veer f)
  | 0xE5 => .ok (.veerq f)
  | 0xE6 => .ok (.fwait f)
  | 0xE7 => .ok (.ftest f)
  | 0xE8 => .ok (.fcancel f)
  | _ => .error .unassigned

/-- Opcodes 0xF0 to 0xFF (Tables 12-9 to 12-13). -/
def buildSys (o : Nat) (f : Fields) : Except DecodeErr Instr :=
  match o with
  | 0xF0 => .ok (.trapOp f)
  | 0xF1 => .ok (.tret f)
  | 0xF2 => .ok (.csrr f)
  | 0xF3 => if f.q = 0x002 ∨ f.q = 0x004 then .ok (.csrwTpcTbase f) else if f.q = 0x003 then .ok (.csrwTstatus f) else if f.q = 0x010 then .ok (.csrwErrseed f) else if f.q = 0x011 then .ok (.csrwErrrate f) else .ok (.csrw f)
  | 0xF4 => if f.var = 0 then .ok (.tlbinvPage f) else if f.var = 1 then .ok (.tlbinvAs f) else if f.var = 2 then .ok (.tlbinvAll f) else .error .var
  | 0xF5 => .ok (.tlbprobe f)
  | 0xF6 => if ¬ f.gp = 7 then .error .guard else if f.var = 0 then .ok (.nopreBegin f) else if f.var = 1 then .ok (.nopreEnd f) else .error .var
  | 0xF7 => .ok (.bkpt f)
  | 0xF8 => if ¬ f.var = 0 then .error .var else if f.q.extractLsb' 8 4 = 0 then .ok (.errinjReg f) else if f.q.extractLsb' 8 4 = 1 then .ok (.errinjOnce f) else if f.q.extractLsb' 8 4 = 2 then .ok (.errinjTwice f) else if f.q.extractLsb' 8 4 = 3 then .ok (.errinjSector f) else .error .q
  | 0xF9 => .ok (.ckpt f)
  | 0xFA => .ok (.halt f)
  | _ => .error .unassigned

/-- The instruction an opcode and its fields stand for, or why there is none (R267; check 10 of Table 12-14, and checks
11 to 13 where they alone decide between rows of the opcode table). -/
def buildInstr (o : BitVec 8) (f : Fields) (off : BitVec 24) : Except DecodeErr Instr :=
  match (o.extractLsb' 6 2).toNat with
  | 0 => buildInt o.toNat f off
  | 1 => buildFlt o.toNat f
  | 2 => buildMem o.toNat f
  | _ =>
    match (o.extractLsb' 4 2).toNat with
    | 0 => buildMat o.toNat f
    | 1 => buildDrf o.toNat f
    | 2 => buildCpy o.toNat f
    | _ => buildSys o.toNat f

/-- The instruction of a word, with the literal slots that follow it. -/
def decodeInstr (w : W64) (ls : List W64) : Except DecodeErr Instr :=
  let r := RawWord.ofWord w
  if isRelative r.opc then
    buildInstr r.opc (r.fields .zero .zero .zero) (r.a ++ (r.b ++ r.c))
  else match takeABC r ls with
    | none => .error .literal
    | some (a, b, c) => buildInstr r.opc (r.fields a b c) 0

/-- How many literal slots a word takes, for an unassigned opcode too (R248). -/
def literalCount (w : W64) : Nat :=
  let r := RawWord.ofWord w
  if isRelative r.opc then 0
  else
    (if r.a = 0xFE then 1 else 0) +
    (if r.b = 0xFD then 0 else (if r.b = 0xFE then 1 else 0) + (if r.c = 0xFE then 1 else 0))

/-- A Boolean as a bit of a word. -/
def bit1 (b : Bool) : BitVec 1 := if b then 1 else 0

/-- The raw fields of an instruction whose operands are encoded field by field. -/
def Fields.raw (f : Fields) (o : BitVec 8) : RawWord where
  opc := o
  gn := bit1 f.gn
  gp := f.gp
  dst := f.dst.toByte
  a := f.a.toByte
  b := f.b.toByte
  c := match f.b with
    | .imm i => i
    | _ => f.c.toByte
  q := f.q
  var := f.var
  ta := bit1 f.ta
  tb := bit1 f.tb
  tc := bit1 f.tc
  h := bit1 f.h

/-- The raw fields of a relative transfer: the offset fills A, B and C. -/
def Fields.rawRel (f : Fields) (o : BitVec 8) (off : BitVec 24) : RawWord :=
  { f.raw o with a := off.extractLsb' 16 8, b := off.extractLsb' 8 8, c := off.extractLsb' 0 8 }

/-- The opcode of an instruction row and its fields; packets and events have none. -/
def Instr.code : Instr → Option (BitVec 8 × Fields × BitVec 24)
  | .nop f => some (0x00, f, 0)
  | .mov f => some (0x01, f, 0)
  | .sel f => some (0x02, f, 0)
  | .rdspec f => some (0x03, f, 0)
  | .iadd f => some (0x04, f, 0)
  | .isub f => some (0x05, f, 0)
  | .imul f => some (0x06, f, 0)
  | .imulhi f => some (0x07, f, 0)
  | .imad f => some (0x08, f, 0)
  | .imin f => some (0x09, f, 0)
  | .imax f => some (0x0A, f, 0)
  | .iabs f => some (0x0B, f, 0)
  | .iaddc f => some (0x0C, f, 0)
  | .lea f => some (0x0D, f, 0)
  | .icmp f => some (0x0E, f, 0)
  | .clamp f => some (0x0F, f, 0)
  | .land f => some (0x10, f, 0)
  | .lor f => some (0x11, f, 0)
  | .lxor f => some (0x12, f, 0)
  | .ltab f => some (0x13, f, 0)
  | .shl f => some (0x14, f, 0)
  | .shr f => some (0x15, f, 0)
  | .sar f => some (0x16, f, 0)
  | .rot f => some (0x17, f, 0)
  | .bfe f => some (0x18, f, 0)
  | .bfi f => some (0x19, f, 0)
  | .popc f => some (0x1A, f, 0)
  | .clz f => some (0x1B, f, 0)
  | .brev f => some (0x1C, f, 0)
  | .permb f => some (0x1D, f, 0)
  | .plop f => some (0x1E, f, 0)
  | .pmovToPredicate f => some (0x1F, f, 0)
  | .pmovFromPredicate f => some (0x1F, f, 0)
  | .bra f off => some (0x20, f, off)
  | .brx f => some (0x21, f, 0)
  | .call f off => some (0x22, f, off)
  | .callx f => some (0x23, f, 0)
  | .ret f => some (0x24, f, 0)
  | .join f off => some (0x25, f, off)
  | .exitOp f => some (0x26, f, 0)
  | .yield f => some (0x27, f, 0)
  | .doze f => some (0x28, f, 0)
  | .repOp f => some (0x29, f, 0)
  | .gshape f => some (0x2A, f, 0)
  | .elect f => some (0x2B, f, 0)
  | .voteAll f => some (0x2C, f, 0)
  | .voteAny f => some (0x2C, f, 0)
  | .voteBallot f => some (0x2C, f, 0)
  | .voteCount f => some (0x2C, f, 0)
  | .matchOp f => some (0x2D, f, 0)
  | .wspill f => some (0x2E, f, 0)
  | .wfill f => some (0x2F, f, 0)
  | .fadd f => some (0x40, f, 0)
  | .fsub f => some (0x41, f, 0)
  | .fmul f => some (0x42, f, 0)
  | .ffma f => some (0x43, f, 0)
  | .fmin f => some (0x44, f, 0)
  | .fmax f => some (0x45, f, 0)
  | .fabs f => some (0x46, f, 0)
  | .fneg f => some (0x47, f, 0)
  | .fcmp f => some (0x48, f, 0)
  | .fclass f => some (0x49, f, 0)
  | .fround f => some (0x4A, f, 0)
  | .fscale f => some (0x4B, f, 0)
  | .frcp f => some (0x4C, f, 0)
  | .frsq f => some (0x4D, f, 0)
  | .fexp2 f => some (0x4E, f, 0)
  | .flog2 f => some (0x4F, f, 0)
  | .ftanh f => some (0x50, f, 0)
  | .cvtf f => some (0x52, f, 0)
  | .cvtfi f => some (0x53, f, 0)
  | .cvtif f => some (0x54, f, 0)
  | .pack8 f => some (0x55, f, 0)
  | .pack4 f => some (0x56, f, 0)
  | .unpk8 f => some (0x57, f, 0)
  | .unpk4 f => some (0x58, f, 0)
  | .dot4 f => some (0x59, f, 0)
  | .dot8 f => some (0x5A, f, 0)
  | .idot4 f => some (0x5B, f, 0)
  | .idot8 f => some (0x5C, f, 0)
  | .pfma f => some (0x5D, f, 0)
  | .lshfl f => some (0x60, f, 0)
  | .lperm f => some (0x61, f, 0)
  | .qswap f => some (0x62, f, 0)
  | .qbcast f => some (0x63, f, 0)
  | .gred f => some (0x64, f, 0)
  | .gscan f => some (0x65, f, 0)
  | .v2s f => some (0x66, f, 0)
  | .ld f => some (0x80, f, 0)
  | .st f => some (0x81, f, 0)
  | .lds f => some (0x82, f, 0)
  | .sts f => some (0x83, f, 0)
  | .ldu f => some (0x84, f, 0)
  | .ldl f => some (0x85, f, 0)
  | .stl f => some (0x86, f, 0)
  | .pref f => some (0x87, f, 0)
  | .atom f => some (0x88, f, 0)
  | .atomcas f => some (0x89, f, 0)
  | .red f => some (0x8A, f, 0)
  | .atoms f => some (0x8B, f, 0)
  | .fence f => some (0x8C, f, 0)
  | .cmaintClean f => some (0x8D, f, 0)
  | .cmaintInv f => some (0x8D, f, 0)
  | .cmaintClinv f => some (0x8D, f, 0)
  | .barinit f => some (0x8E, f, 0)
  | .barreg f => some (0x8F, f, 0)
  | .bararr f => some (0x90, f, 0)
  | .barwait f => some (0x91, f, 0)
  | .barsync f => some (0x92, f, 0)
  | .bardrop f => some (0x93, f, 0)
  | .qbind f => some (0x94, f, 0)
  | .qpoll f => some (0x95, f, 0)
  | .tclaim f => some (0x96, f, 0)
  | .tfill f => some (0x97, f, 0)
  | .tdrain f => some (0x98, f, 0)
  | .tstat f => some (0x99, f, 0)
  | .tfree f => some (0x9A, f, 0)
  | .rbres f => some (0x9B, f, 0)
  | .rbpub f => some (0x9C, f, 0)
  | .rbtake f => some (0x9D, f, 0)
  | .rbfree f => some (0x9E, f, 0)
  | .rbmeta f => some (0x9F, f, 0)
  | .mxldw f => some (0xC0, f, 0)
  | .mxmul f => some (0xC1, f, 0)
  | .mxmult f => some (0xC2, f, 0)
  | .mxprom f => some (0xC3, f, 0)
  | .mxzero f => some (0xC4, f, 0)
  | .mxrd f => some (0xC5, f, 0)
  | .mxstat f => some (0xC6, f, 0)
  | .mxfence f => some (0xC7, f, 0)
  | .cvset f => some (0xC8, f, 0)
  | .cvqry f => some (0xC9, f, 0)
  | .kacc f => some (0xD0, f, 0)
  | .kprobe f => some (0xD1, f, 0)
  | .kdrain f => some (0xD2, f, 0)
  | .kcfg f => some (0xD3, f, 0)
  | .kstat f => some (0xD4, f, 0)
  | .kflush f => some (0xD5, f, 0)
  | .kmergeBlock f => some (0xD6, f, 0)
  | .kmergeRing f => some (0xD6, f, 0)
  | .kclear f => some (0xD7, f, 0)
  | .itrsrcRange f => some (0xD8, f, 0)
  | .itrsrcList f => some (0xD8, f, 0)
  | .itrsrcBitmap f => some (0xD8, f, 0)
  | .itrmapAffine f => some (0xD9, f, 0)
  | .itrmapGather f => some (0xD9, f, 0)
  | .itrfilt f => some (0xDA, f, 0)
  | .itrzip f => some (0xDB, f, 0)
  | .itrchain f => some (0xDC, f, 0)
  | .itrflat f => some (0xDD, f, 0)
  | .itrnext f => some (0xDE, f, 0)
  | .itrenough f => some (0xDF, f, 0)
  | .itrsave f => some (0xE0, f, 0)
  | .itrload f => some (0xE1, f, 0)
  | .cpy f => some (0xE2, f, 0)
  | .cpy2d f => some (0xE3, f, 0)
  | .veer f => some (0xE4, f, 0)
  | .veerq f => some (0xE5, f, 0)
  | .fwait f => some (0xE6, f, 0)
  | .ftest f => some (0xE7, f, 0)
  | .fcancel f => some (0xE8, f, 0)
  | .trapOp f => some (0xF0, f, 0)
  | .tret f => some (0xF1, f, 0)
  | .csrr f => some (0xF2, f, 0)
  | .csrw f => some (0xF3, f, 0)
  | .csrwTpcTbase f => some (0xF3, f, 0)
  | .csrwTstatus f => some (0xF3, f, 0)
  | .csrwErrseed f => some (0xF3, f, 0)
  | .csrwErrrate f => some (0xF3, f, 0)
  | .tlbinvPage f => some (0xF4, f, 0)
  | .tlbinvAs f => some (0xF4, f, 0)
  | .tlbinvAll f => some (0xF4, f, 0)
  | .tlbprobe f => some (0xF5, f, 0)
  | .nopreBegin f => some (0xF6, f, 0)
  | .nopreEnd f => some (0xF6, f, 0)
  | .bkpt f => some (0xF7, f, 0)
  | .errinjReg f => some (0xF8, f, 0)
  | .errinjOnce f => some (0xF8, f, 0)
  | .errinjTwice f => some (0xF8, f, 0)
  | .errinjSector f => some (0xF8, f, 0)
  | .ckpt f => some (0xF9, f, 0)
  | .halt f => some (0xFA, f, 0)
  | .nopPacket .. => none
  | .launch .. => none
  | .indirectLaunch .. => none
  | .fencePacket .. => none
  | .loopPacket .. => none
  | .ifPacket .. => none
  | .segmentBegin .. => none
  | .segmentEnd .. => none
  | .replay .. => none
  | .ckptPacket .. => none
  | .signalWrite64 .. => none
  | .signalRedAdd .. => none
  | .signalWrite32 .. => none
  | .doorbell .. => none
  | .widxPoll .. => none
  | .queueResume .. => none
  | .fenceCounterPoll .. => none
  | .fenceDeadline .. => none
  | .nodeReady .. => none
  | .nodeDispatch .. => none
  | .nodeComplete .. => none
  | .segmentRetry .. => none
  | .classPreemption .. => none
  | .arrayStep .. => none
  | .arrayStepComplete .. => none
  | .arraySlotPreemption .. => none
  | .mxmultChunk .. => none
  | .joinTimeout .. => none
  | .dozeExpiry .. => none
  | .translationMissComplete .. => none
  | .pageFaultServiceComplete .. => none
  | .loadDataReturn .. => none
  | .tileFillComplete .. => none
  | .tileDrainComplete .. => none
  | .tileRelease .. => none
  | .migrationEpoch .. => none
  | .migrationStart .. => none
  | .migrationCopyComplete .. => none
  | .migrationAbandon .. => none
  | .stickDrain .. => none
  | .overflowSlotSupplied .. => none
  | .memoryLinkRetrainFail .. => none
  | .driftRingWrite .. => none
  | .kmergeBatch .. => none
  | .engineOperationComplete .. => none
  | .iteratorPullCommit .. => none
  | .iteratorSlotMove .. => none
  | .veerRequestServe .. => none
  | .laneGroupTurnStart .. => none
  | .laneGroupTurnComplete .. => none
  | .veerHoldExpiry .. => none
  | .adaptiveTurn .. => none
  | .laneGroupRetire .. => none
  | .recalibrationStart .. => none
  | .recalibrationEnd .. => none
  | .linkOutOfService .. => none
  | .linkRestore .. => none
  | .barrierArrivalCount .. => none
  | .treeBarrierRelease .. => none
  | .treeBarrierRearm .. => none
  | .localBarrierRelease .. => none
  | .localBarrierRearm .. => none
  | .queueFlitDelivery .. => none
  | .workgroupSave .. => none
  | .workgroupRestore .. => none
  | .nopreBoundExpiry .. => none
  | .infieldTestDue .. => none
  | .infieldTestResult .. => none
  | .ckptIncrement .. => none
  | .glq .. => none
  | .mres .. => none
  | .ridxWrite .. => none
  | .controlBlockAccessIgnored .. => none
  | .metadataDelivery .. => none
  | .gateLogitPop .. => none
  | .coprocessorReserveRetry .. => none
  | .ringConfiguration .. => none
  | .asidRegistration .. => none
  | .partitionTableWrite .. => none
  | .hostSnoop .. => none
  | .hostMemoryAccess .. => none
  | .fabricPortRetire .. => none
  | .fabricLoadTimeout .. => none
  | .domainIdAssign .. => none
  | .powerOn .. => none
  | .overcastEnd .. => none
  | .livePatch .. => none
  | .attestationReport .. => none
  | .dieOffline .. => none
  | .stickReplacement .. => none
  | .powerCapEvaluation .. => none
  | .inputPowerLimitExpiry .. => none
  | .telemetryPublish .. => none
  | .connectorHealthReport .. => none
  | .writeAcknowledgement .. => none
  | .ownershipGrant .. => none
  | .cacheMaintenanceComplete .. => none
  | .memoryLinkCrcReplay .. => none
  | .uncorrectableSramError .. => none
  | .doldrumsEntry .. => none
  | .fabricRemoteAccess .. => none
  | .fabricModuleUnreachable .. => none
  | .hubCoreMemoryAccess .. => none
  | .compressedStateSetup .. => none
  | .compressedPageRepack .. => none
  | .queueBinding .. => none
  | .queueHaltedByModuleOs .. => none
  | .haltedCoreReturn .. => none
  | .powerLoss .. => none

/-- The words of a well-formed instruction: its slot and the literal slots it takes.  A packet or an event has none
here: packets are words of a command queue (Machine/Packets.lean), and an event has no encoding. -/
def encode (i : Instr) : List W64 :=
  match i.code with
  | none => []
  | some (o, f, off) =>
    if isRelative o then [(f.rawRel o off).toWord]
    else (f.raw o).toWord :: (f.a.lits ++ (f.b.lits ++ f.c.lits))

/-- The decoder on a list of words: the first is the slot. -/
def decodeWords : List W64 → Except DecodeErr Instr
  | [] => .error .literal
  | w :: ls => decodeInstr w ls

/-- Little-endian bytes of a 64-bit word (R245). -/
def bytesOfWord (w : W64) : List Byte :=
  (List.range 8).map fun k => w.extractLsb' (8 * k) 8

/-- The word of eight little-endian bytes. -/
def wordOfBytes (bs : List Byte) : W64 :=
  bs.foldr (fun b acc => (acc <<< 8) ||| b.zeroExtend 64) 0

/-- The words of a byte list, eight bytes a word; a shorter rest is dropped. -/
def wordsOfBytes : Nat → List Byte → List W64
  | 0, _ => []
  | n + 1, bs => if bs.length < 8 then [] else wordOfBytes (bs.take 8) :: wordsOfBytes n (bs.drop 8)

/-- The decoder on bytes: a 64-bit slot and the literal slots after it, each little-endian (R245). -/
def decodeBytes (bs : List Byte) : Except DecodeErr Instr := decodeWords (wordsOfBytes (bs.length / 8) bs)

/-- The bytes of the slot whose bits are `w`, and of three literal slots of zeros. -/
def tableBytes (w : Nat) : List Byte :=
  bytesOfWord (BitVec.ofNat 64 w) ++ List.replicate 24 0

/-- What the decoder reads from an instruction whose bits are `w` (the host's question, one word of a table row). -/
def decodeTableWord (_nbits w : Nat) : Option Instr :=
  match decodeBytes (tableBytes w) with
  | .ok i => some i
  | .error _ => none

end Sys2Proof
end

