-- ==== Sys2Proof/Config.lean ====
section
/-! DEFINITION. What one device fixes and the manual leaves open: opaque constants without a body, so that no proof
can lean on a number of them. -/
namespace Sys2Proof

/-- The value of an undefined register, byte or choice.  The machine applies it to a counter of the state
(`State.free`), so two uses are unrelated. See log entry 3. -/
opaque Config.freeValue : Nat → BitVec 64

/-- What the special-function unit answers inside the bound of Table 14-3: function number (0 FRCP, 1 FRSQ,
2 FEXP2, 3 FLOG2, 4 FTANH) and input bits to an index into the answers the bound allows. It is a fixed function
of its input bits (R309). See log entry 6. -/
opaque Config.specialChoice : Nat → BitVec 32 → Nat

/-- The per-thread space's base address of a node (R22: fixed at launch, its value not given). See log entry 7. -/
opaque Config.nodeBase : Nat → BitVec 64

/-- The compressed length, in 32-byte sectors, of a page of compressed optimiser state (R44 to R46: the compressed form is
not architectural). See log entry 25. -/
opaque Config.compressedSectors : List Byte → Nat

/-- Which of the candidates a cache, a TLB or a directory replaces: a number that the model takes modulo the candidates,
applied to its count of replacements (R49, R63: replacement is not architectural). See log entry 83. -/
opaque Config.victim : Nat → Nat

/-- What a byte of memory that nothing has written reads as (DESIGN CHOICE: the manual gives no contents of memory at
power-on). See log entry 1. -/
def unlistedByte (_addr : Nat) : Byte := 0

end Sys2Proof
end

