-- ==== Sys2Proof/Machine/State.lean ====
section
/-! DEFINITION. The state of the DV9: every piece of state spec/ gives the machine, as plain data, and the state after
reset.  A record per unit: `Clock` (the model's own counters and the time), `Exec` (lanes, workgroups, nodes, cores),
`MemSys` (memory, caches, translation), `Net` (links, tree barriers, flits), `Routed` (rings), `CmdProc` (queues),
`Hub` (services of the hub) and the module OS's log. -/
namespace Sys2Proof.Machine

/-- Why a step can stop the whole machine. -/
inductive Fault where
  /-- Raised by every instruction meaning when the gang names a workgroup that does not exist or holds no such lane:
  there is no such issue on the device.  Safe: the machine stops where the device does nothing. -/
  | noGang
  deriving DecidableEq, Repr

/-- Why an instruction has no meaning. -/
inductive Refusal where
  /-- Raised by an arm of `exec` without a meaning.  Safe: nothing is claimed of it. -/
  | notModelled (mnemonic : String)
  deriving DecidableEq, Repr

/-! ### Memory -/

/-- Bytes by location, addresses strictly rising, no entry equal to what an unlisted address reads as. -/
abbrev Memory := List Host.Cell

/-- The addresses of a memory rise strictly, from above `lo`. -/
def Memory.wfFrom : Option Nat → Memory → Bool
  | _, [] => true
  | lo, (a, b) :: m =>
    (match lo with | none => true | some l => decide (l < a)) && (b != unlistedByte a) && Memory.wfFrom (some a) m

/-- The canonical form. -/
def Memory.wf (m : Memory) : Bool := Memory.wfFrom none m

/-! ### Lanes (08 R165) -/

/-- A v or s register (R186). -/
structure Reg where
  val    : W32 := 0
  full   : Bool := true
  poison : Bool := false
  deriving DecidableEq, Repr

/-- A trap that an operation left for the first reader of its result (R34, R239, R381). -/
structure ErrMark where
  cause : Nat
  tval  : W64
  deriving DecidableEq, Repr

/-- A handle register (R187, R381): value, full bit, the operation it stands for while pending (0: none), the error
mark, and the scope of the acquire its first read makes (R142, R144). -/
structure HReg where
  val  : W32 := 0
  full : Bool := true
  op   : Nat := 0
  err  : Option ErrMark := none
  acq  : Option Nat := none
  deriving DecidableEq, Repr

/-- The destinations and predicate of a failed pull; the first read of one takes the trap (R239). -/
structure PullMark where
  regs  : BitVec 64
  pred  : BitVec 8
  cause : Nat
  tval  : W64
  deriving DecidableEq, Repr

/-- What a lane waits for inside an instruction that it has begun. -/
inductive Wait where
  | none
  /-- At a JOIN's target, for the live quads of the group, with the clocks left (R173). -/
  | join (target : W64) (left : Nat)
  /-- DOZE, with the clocks left (R293). -/
  | doze (left : Nat)
  /-- Arrived at a group-wide instruction, with the operands it brought (R176), or guarded off (R298). -/
  | group (guard : Bool) (a b c : W64) (pa pb pc : Bool)
  /-- A group-wide instruction has completed for the lane, whose result (none: guarded off) awaits the credits of its
  quad's flits (R122): value, poison, and the encoding of a poisoned source. -/
  | result (r : Option (W64 × Bool × W64))
  /-- Arrived at a GSHAPE naming a width (R174), with the pc after it, its clause, and its repetitions. -/
  | gshape (width : Nat) (next nextClause : W64) (k : Nat)
  /-- In a wait for a barrier's release (R116), with the pc after it, its clause, and its repetitions. -/
  | barrier (tree : Bool) (idx : Nat) (next nextClause : W64) (k : Nat)
  deriving DecidableEq, Repr

/-- The operand registers of a MXMUL that a lane has signed, until the lane reads its handle (R146, R364). -/
structure MxHeld where
  op    : Nat
  /-- Their stack entries, and the call depth at the signature. -/
  regs  : BitVec 64
  depth : Nat
  /-- The lane had executed MXFENCE after its last write to them. -/
  fenced : Bool
  /-- Entries written since the signature: what they held then, and what was written last. -/
  olds  : List (Nat × Reg) := []
  news  : List (Nat × Reg) := []
  deriving DecidableEq, Repr

/-- One lane (R165, R181 to R187, R409). -/
structure Lane where
  /-- The slot it executes next, or the header of its next clause. -/
  pc      : W64 := 0
  /-- The header of the clause of `pc` (equal to `pc` when `pc` is a header). The model's own. -/
  clause  : W64 := 0
  /-- Call depth. -/
  d       : Nat := 0
  /-- Lowest resident frame. -/
  lo      : Nat := 0
  /-- The stack: 64 entries. -/
  v       : List Reg := List.replicate 64 ⟨0, true, false⟩
  /-- p0 to p6 in bits 0 to 6; bit 7 is not used (p7 reads true). -/
  p       : BitVec 8 := 0
  /-- Predicates that a pending ITRNEXT will write (R236). -/
  pbusy   : BitVec 8 := 0
  h       : List HReg := List.replicate 8 ⟨0, true, 0, none, none⟩
  tcause  : W64 := 0
  tval    : W64 := 0
  tpc     : W64 := 0
  tstatus : W64 := 0
  tbase   : W64 := 0
  tsave   : W64 := 0
  /-- The header of the clause of `tpc`, as the trap found it; and whether a CSRW has set `tpc` since. The model's own. -/
  tclause : W64 := 0
  tset    : Bool := false
  /-- Repetition of the REP in progress. -/
  rep     : Nat := 0
  /-- NOPRE depth (R403). -/
  nopre   : Nat := 0
  exited  : Bool := false
  helper  : Bool := false
  wait    : Wait := .none
  /-- The 64 KiB pages whose translation misses have been walked for the unissued instruction (R31). -/
  walked  : List Nat := []
  /-- A line request of its last memory instruction holds the port of its quarter, for want of a lane-miss entry (R59). -/
  atPort  : Bool := false
  /-- The tiles that its unissued instruction names and waits for: workgroup and index (R54, R346). -/
  atTile  : List (Nat × Nat) := []
  /-- Stack entries written since the last MXFENCE (R146). -/
  unfenced : BitVec 64 := 0
  mxHeld  : List MxHeld := []
  /-- Entries whose first read is an acquire at `.dev`: KACC destinations (R452). -/
  racq    : BitVec 64 := 0
  /-- The same for destinations that are scalars of its group, and predicates. -/
  sracq   : List Nat := []
  pracq   : BitVec 8 := 0
  marks   : List PullMark := []
  /-- Mismatches injected by ERRINJ, 0 to 2 (R404). -/
  inject  : Nat := 0
  /-- Flits popped for an instruction that has not issued yet (R123), each with its queue. -/
  flits   : List (Nat × W32) := []
  /-- Stack entries that a read of a queue, still without its flit, has marked empty (R186). -/
  owed    : List Nat := []
  /-- The words of the clause that the lane is in, header first (R245, R268: fetched and checked once, whole). The
  model's own; empty where they must be fetched again. -/
  code    : List W64 := []
  /-- The gang that issues the clause's slots with it; 0 when its quad has dropped out (R171). The model's own. -/
  gang    : Nat := 0
  /-- Issues of its quad that have passed its subset over (R167). -/
  passed  : Nat := 0
  /-- Arithmetic clocks for which the picker passes it over after a YIELD (R293). -/
  shy     : Nat := 0
  /-- The picker passes it over once, after a clause with the Y hint (R250). -/
  hint    : Bool := false
  /-- When the lane began to wait at its unissued instruction, if it waits. -/
  since   : Option Nat := Option.none
  /-- When its unissued push or ITRLOAD began to wait for a physical iterator slot (R232: 20 µs). -/
  slotFrom : Option Nat := Option.none
  /-- Something that it may wait for has changed: it is not known to be blocked (R167, R190). The model's own. -/
  retry   : Bool := false
  /-- It has taken a pipeline-error trap: it is saved at its instruction, unissued (R414). -/
  pipe    : Bool := false
  deriving DecidableEq, Repr

/-- A group's scalars (R184); it is in the Doldrums when it has not issued in the last 256 arithmetic clocks (R191). -/
structure Group where
  s         : List Reg := List.replicate 192 ⟨0, true, false⟩
  lastIssue : Nat := 0
  doldrums  : Bool := true
  deriving DecidableEq, Repr

/-! ### Workgroups -/

/-- The presentation that the first signature recorded (R363), and the signers with their handle numbers. -/
structure CvPend where
  brec  : W64
  slot  : Nat
  rowq  : Nat
  nb    : Nat
  areg  : Nat
  hold  : Bool
  op    : Nat
  tval  : W64
  signers : List Nat
  deriving DecidableEq, Repr

/-- A convergence register (Table 8-6) and the collection in progress. -/
structure CvReg where
  decl   : W64 := 0
  signed : W64 := 0
  word2  : W64 := 0
  pend   : Option CvPend := none
  deriving DecidableEq, Repr

/-- A barrier, local or tree (R116, R338 to R343). Keys name lanes: workgroup id × 1024 + lane. -/
structure Barrier where
  reload   : Nat := 0
  remaining : Nat := 0
  reg      : List Nat := []
  /-- Arrived and not yet waited. -/
  outstanding : List Nat := []
  /-- Release arrivals that do not count yet (R119). -/
  pend     : List Nat := []
  /-- Waiting at the barrier. -/
  waiting  : List Nat := []
  /-- The remaining count has reached zero and the release has not happened yet. -/
  due      : Bool := false
  /-- Between release and re-arm. -/
  released : Bool := false
  /-- Lanes stalled at an arrival. -/
  stalled  : List Nat := []
  deriving DecidableEq, Repr

/-- A Drift entry (R84). -/
structure DEntry where
  set    : Nat
  way    : Nat
  key    : W64
  val    : W64
  poison : Bool
  age    : Nat
  deriving DecidableEq, Repr

/-- A configured Drift table (R81, Table 4-8). -/
structure DTable where
  cfg      : W64
  ring     : W64
  entries  : List DEntry := []
  counters : List W64 := List.replicate 8 0
  /-- Since when an instruction waits for ring space (Table 4-8, index 5). -/
  waitFrom : Option Nat := none
  deriving DecidableEq, Repr

/-- Tile states (Table 3-1). -/
inductive TileState where
  | empty | filling | ready | draining
  deriving DecidableEq, Repr

/-- A tile instruction that waits for its turn (R346): 0 TFILL, 1 TDRAIN, 2 TFREE; its operation; the lanes that named
the tile before it; what its handle's trap would say. -/
structure TileCmd where
  kind  : Nat
  op    : Nat
  ahead : List Nat
  tval  : W64
  deriving DecidableEq, Repr

/-- A claimed tile (R52 to R57). -/
structure Tile where
  idx    : Nat
  state  : TileState := .empty
  vpage  : W64
  data   : Memory := []
  /-- Byte offsets written since the last write-back. -/
  dirty  : List Nat := []
  /-- Owned lines. -/
  owned  : BitVec 32 := 0
  /-- Poisoned sectors. -/
  poison : BitVec 128 := 0
  /-- The first write to the page has been checked against W and C (R55). -/
  wchecked : Bool := false
  /-- The TFILL and TDRAIN operations in progress (0: none). -/
  fillOp : Nat := 0
  drainOp : Nat := 0
  /-- A fill follows the drain in progress (R53). -/
  refill : Bool := false
  /-- The tile is freed when its write-backs are acknowledged (R351). -/
  freeing : Bool := false
  /-- It is DRAINING for a recall of an owned line, whose dirty sectors have been written (Table 3-2, R69). -/
  recalled : Bool := false
  /-- A page fault holds the fill (R55). -/
  held   : Bool := false
  /-- Lanes that wait at an instruction naming the tile. -/
  waiters : List Nat := []
  /-- Tile instructions in arrival order. -/
  queue  : List TileCmd := []
  deriving DecidableEq, Repr

/-- An iterator object: four words (Tables 11-2, 11-3). -/
structure ItrObj where
  w0 : W64
  w1 : W64
  w2 : W64
  w3 : W64
  deriving DecidableEq, Repr

/-- A receiving lane of a pull: the stack entries of its destinations. -/
structure PullLane where
  lane : Nat
  d1   : List Nat
  d2   : List Nat
  deriving DecidableEq, Repr

/-- What waits in a slot's arrival order (R243). -/
inductive ItrOp where
  /-- With the encodings of DST and D2. -/
  | pull (recv helpers : List PullLane) (pred : Nat) (dst d2 : BitVec 8)
  | enough
  | save (addr : W64) (op : Nat)
  /-- With the `tval` of an illegal-operand trap of its handle; `opens`: the image's header said OPEN or VALID at the issue,
  so that the slot is bound for it. -/
  | load (addr : W64) (op : Nat) (tval : W64) (opens : Bool)
  deriving DecidableEq, Repr

/-- An iterator slot (Table 11-1, R232). -/
structure ItrSlot where
  state : Nat := 0
  w64   : Bool := false
  bnd   : Bool := false
  err   : Bool := false
  nroot : Nat := 0
  deliv : W64 := 0
  objs  : List ItrObj := []
  /-- It holds a physical slot. -/
  bound : Bool := false
  queue : List ItrOp := []
  /-- The 64 KiB page whose fault holds the pull at the head of the queue (R239). -/
  held  : Option Nat := none
  deriving DecidableEq, Repr

/-- A weight descriptor (R357): stash or memory source, edge, record. -/
structure WDesc where
  tile : Bool
  addr : W64
  west : Bool
  srec : W64
  deriving DecidableEq, Repr

/-- One accumulator that is not the cleared one (R225 to R230): row, column, FIX, tag (0 finite, 1 +∞, 2 −∞, 3 NaN). -/
structure MxAcc where
  row    : Nat
  col    : Nat
  fix    : W32
  tag    : Nat
  poison : Bool
  deriving DecidableEq, Repr

/-- Elements of an activation or weight block: row or k, k or column, encoded bits, poison. -/
structure MxElem where
  row    : Nat
  k      : Nat
  bits   : BitVec 16
  poison : Bool
  deriving DecidableEq, Repr

/-- The A latch of a slot (R365). -/
structure MxHold where
  areg : Nat
  nb   : Nat
  afmt : Nat
  elems : List MxElem
  deriving DecidableEq, Repr

/-- A bound logical slot (Table 16-5, R367). -/
structure MxSlot where
  /-- Physical slot; 4: none yet, after a restore (R373). -/
  phys    : Nat
  ovf     : Bool := false
  /-- Latched scale pair: weight format and scale, activation format and scale. -/
  latch   : Option (Nat × Nat × Nat × Nat) := none
  hold    : Option MxHold := none
  scope   : Nat
  ebase   : BitVec 8
  base    : W64
  stride  : W32
  acc     : List MxAcc := []
  spills  : Nat := 0
  reloads : Nat := 0
  deriving DecidableEq, Repr

/-- Where a result goes that arrives later: stack entries, a scalar or a pair of a group, a predicate, a send register. -/
inductive Dest where
  | none
  | v (entries : List Nat)
  | s (grp n : Nat) (wide : Bool)
  | p (n : Nat)
  /-- A receive queue, fixed at issue: workgroup index and queue (R121). -/
  | q (idx rq : Nat)
  deriving DecidableEq, Repr

/-- Queued matrix work of a workgroup on one array (R210, R358). -/
inductive MxStep where
  | ldw (op : Nat) (desc : WDesc)
  /-- A collected MXMUL; `latched`: its A block is the slot's latch (R365). -/
  | mul (op slot rowq nb : Nat) (areg : Nat) (hold : Bool) (brec : W64) (latched : Bool) (elems : List MxElem)
  /-- MXMULT: next chunk and chunk count, edge, first tiles, records, spills and error status so far. -/
  | mult (op slot rowq nb next count : Nat) (west : Bool) (wt atl : Nat) (wrec arec : W64) (spills : Nat) (err : Option ErrMark)
  | zero (op slot scope : Nat) (ebase : BitVec 8) (base : Option W64) (stride : W32)
  | prom (op slot first last : Nat)
  /-- MXRD of one lane: destination, row, column, FP32 form. -/
  | rd (op slot lane : Nat) (dst : Dest) (row col : Nat) (fp : Bool)
  deriving DecidableEq, Repr

/-- A queued step: its place in the issue order of the device, and the `tval` of an operand trap of its handle. -/
structure MxQueued where
  seq  : Nat
  tval : W64
  step : MxStep
  deriving DecidableEq, Repr

/-- Matrix state of a workgroup in one quarter (R357). -/
structure MxQuarter where
  /-- The descriptor of the MXLDW issued last (R363). -/
  wdesc : Option WDesc := none
  /-- The workgroup's weight descriptor as the steps taken so far left it (R357, R358, R366). -/
  inForce : Option WDesc := none
  slots : List (Option MxSlot) := [none, none, none, none]
  /-- In issue order. -/
  steps : List MxQueued := []
  /-- The step at the cells, once the array took it. -/
  cell  : Option MxQueued := none
  /-- Since when a need for a physical slot waits (R210). -/
  since : Option Nat := none
  deriving DecidableEq, Repr

/-- A subset that a quad offers to its picker, and since when (R167, R170). -/
structure Offer where
  quad  : Nat
  pc    : W64
  since : Nat
  deriving DecidableEq, Repr

/-- Where a workgroup is. -/
inductive Residence where
  /-- On a core: die × 16 + core. -/
  | core (c : Nat)
  /-- Saved (R416). -/
  | saved
  /-- Every non-helper lane has exited (R169); the core it ended on. -/
  | ended (c : Nat)
  deriving DecidableEq, Repr

/-- A workgroup. -/
structure Wg where
  id     : Nat
  node   : Nat
  /-- Index in the node's grid. -/
  index  : Nat
  /-- N: launched lanes, helpers not counted. -/
  n      : Nat
  /-- Group width of the current shape. -/
  width  : Nat
  cls    : Nat := 0
  place  : Residence
  lanes  : List Lane := []
  groups : List Group := []
  cv     : List CvReg := List.replicate 8 ⟨0, 0, 0, none⟩
  bars   : List Barrier := List.replicate 16 ⟨0, 0, [], [], [], [], false, false, []⟩
  qtx    : List (Option (Nat × Nat)) := [none, none, none, none]
  qrx    : List (List W32) := [[], [], [], []]
  drift  : List (Option DTable) := [none, none, none, none]
  tiles  : List Tile := []
  /-- The entry of the core's tile table that its index 0 names (R52). -/
  tileBase : Nat := 0
  itr    : List ItrSlot := List.replicate 8 ({} : ItrSlot)
  mx     : List MxQuarter := List.replicate 4 ({} : MxQuarter)
  /-- What its quads offer, from their last issue on (R170). The model's own. -/
  offers : List Offer := []
  /-- The quads that have reached a JOIN's target for which others of their group wait (R173): target and quad. -/
  reached : List (W64 × Nat) := []
  /-- When it entered its non-preemptible region (R417). -/
  regionSince : Option Nat := none
  /-- A save was asked for and not made yet (R415). -/
  saveAsked : Option SaveCause := none
  /-- It is moved for want of an iterator slot: it is restored where one is free (R232). -/
  forSlot : Bool := false
  /-- The image of its last save (Tables 18-9, 18-10). -/
  area   : List Byte := []
  /-- Where the module OS has allotted its save area: space and address (R418). -/
  areaAt : Option (BitVec 16 × W64) := none
  /-- Its region has passed the bound, which is logged (R417). -/
  overran : Bool := false
  deriving DecidableEq, Repr

/-- A node's life (R197 to R204). -/
inductive NodeState where
  | waiting | ready | running | done
  deriving DecidableEq, Repr

/-- An entry of a node's trap log (R412). -/
structure TrapLog where
  wg    : Nat
  lane  : Nat
  cause : Nat
  tval  : W64
  tpc   : W64
  deriving DecidableEq, Repr

/-- A node (R197 to R204). -/
structure Node where
  id       : Nat
  queue    : Nat
  asid     : BitVec 16
  launch   : LaunchPkt
  indirect : Bool := false
  state    : NodeState := .waiting
  preds    : List Nat := []
  grid     : Nat := 0
  /-- CODE so far (0: none). -/
  code     : Nat := 0
  killed   : Nat := 0
  /-- Base of the per-thread space (R22, R201). -/
  base     : W64 := 0
  trees    : List Nat := []
  readyAt  : Nat := 0
  /-- Index of its packet's header word (R193). -/
  pkt      : Nat := 0
  /-- Since when its next workgroup, or all of a node with tree barriers, finds no room (R209). -/
  since    : Option Nat := none
  /-- Core of each placed workgroup, by index (the core map, R163). -/
  map      : List (Nat × Nat) := []
  log      : List TrapLog := []
  /-- It belongs to a segment execution (R207). -/
  segment  : Bool := false
  deriving DecidableEq, Repr

/-- A core's own registers and service state (R9, R208, R399, R462). -/
structure Core where
  ccount   : W64 := 0
  inService : Bool := true
  quarantined : Bool := false
  halted   : Bool := false
  testing  : Bool := false
  errseed  : W32 := 1
  errrate  : W32 := 0
  x        : W32 := 1
  /-- Units of four L1 ways, 1 to 6 (R47). -/
  split    : Nat := 6
  /-- Whose weights each quarter's array holds (R358), with their elements. -/
  weights  : List (Option (Nat × WDesc × List MxElem)) := [none, none, none, none]
  /-- Residue retries counted (R457). -/
  retries  : Nat := 0
  /-- Mismatches, by unit of Table 18-1, that the next checked operation of the unit meets: 1 in its first execution, 2 in
  its second too (R456). -/
  mismatch : List Nat := [0, 0, 0, 0, 0]
  /-- TCLAIMs that waited for a block that another tile mirrors (R347). -/
  claimWaits : Nat := 0
  deriving DecidableEq, Repr

/-- The gang that issues now: the argument of `exec` besides the instruction. The model's own (R172). -/
structure Gang where
  wg     : Nat
  lanes  : List Nat
  pc     : W64
  clause : W64
  slot   : Nat
  /-- The pc after this instruction when nothing is transferred. -/
  next   : W64
  /-- The header of the clause that holds `next`. -/
  nextClause : W64
  /-- The header after this clause. -/
  after  : W64
  /-- Repetitions of this instruction (R259). -/
  k      : Nat := 1
  deriving DecidableEq, Repr

/-- Engine work that the arrival order of the device decides: kind with what it needs. -/
inductive EngineKind where
  /-- A copy of `rows` rows of `len` bytes: addresses, strides, declared scope, bytes copied so far (R388, R389). -/
  | cpy (dst src : W64) (len rows : Nat) (dstride sstride : W64) (scope done : Nat)
  | tfill (idx : Nat)
  | tdrain (idx : Nat)
  /-- Records to write at an address. -/
  | kdrain (addr : W64) (recs : List (W64 × W64 × Bool)) (scope : Nat)
  | kflush (table : Nat)
  /-- Records left (`none`: the ring's WIDX is not read yet), records ingested, RIDX at the start, and whether RIDX is
  still to be written for the last batch (R96). -/
  | kmerge (table : Nat) (ring : Bool) (addr : W64) (left : Option Nat) (done start : Nat) (owed : Bool)
  | itr (slot : Nat)
  | veer (link : Nat)
  | ckpt
  deriving DecidableEq, Repr

/-- An operation in progress (R187, R381). -/
structure EngineOp where
  id   : Nat
  wg   : Nat
  asid : BitVec 16
  core : Nat
  kind : EngineKind
  deriving DecidableEq, Repr

/-- Ring records reserved and not yet written (R92, R93). -/
structure RingWrite where
  asid  : BitVec 16
  ring  : W64
  first : Nat
  recs  : List (W64 × W64 × Bool)
  /-- Locations of the records and of WIDX, translated at reservation. -/
  locs  : List Nat
  wloc  : Nat
  wg    : Nat
  core  : Nat
  /-- KACC destinations to fill: lane, place, status. -/
  dests : List (Nat × Dest × W32)
  /-- A KFLUSH to complete when WIDX has passed (0: none), with its count. -/
  op    : Nat
  count : Nat
  /-- The KMERGE that made the records (0: none). -/
  merge : Nat
  deriving DecidableEq, Repr

/-- Bytes that an engine of a KDRAIN or a KFLUSH writes, until the first read of its handle: what they are, and what stood
there when they were taken (R94, R143). -/
structure Drained where
  op   : Nat
  asid : BitVec 16
  addr : W64
  new  : List Byte
  old  : List Byte
  deriving DecidableEq, Repr

/-- A parameter that the manual lets the module OS set. -/
inductive OsSetting where
  /-- A tenant's slot quota, borrow limit and the pool of a die (R432). -/
  | slotQuota (die part q l pool : Nat)
  /-- A tenant's per-core Drift quota (R79). -/
  | driftQuota (part n : Nat)
  /-- The dies allotted to a tenant (R199): bit d for die d. -/
  | dieAllot (part : Nat) (dies : BitVec 4)
  /-- The bound of a non-preemptible region, ns (R417). -/
  | regionBound (ns : Nat)
  /-- Ratio, floor, rest in ns, concurrency of migrations (Table 2-8). -/
  | policy (ratio floor rest conc : Nat)
  /-- The flux limit of a die in tenths of W/cm² (R475). -/
  | flux (limit : Nat)
  /-- The host link was trained as a CXL 3.1 type 2 device, or as plain PCIe (R466). -/
  | hostLink (cxl : Bool)
  /-- A BAR window on module memory: its first byte and its length (R466). -/
  | barWindow (base len : Nat)
  /-- The save area of a workgroup: space and address (R418). -/
  | saveArea (wg : Nat) (asid : BitVec 16) (addr : W64)
  deriving DecidableEq, Repr

/-- What acts next: the model's own schedule (plain data; the device's free choices). -/
inductive Action where
  /-- A gang issues the clause, or the slot, at a pc: the quads it takes. -/
  | issue (wg : Nat) (pc : W64) (quads : List Nat)
  /-- A command processor takes the next packet of a queue (R192). -/
  | parse (q : Nat)
  /-- A packet or event of the opcode table happens. -/
  | event (i : Instr)
  /-- Time passes, ns. -/
  | tick (n : Nat)
  /-- A sector leaves an L1 (replacement, R50, R51). -/
  | evict (core sector : Nat)
  /-- The module OS maps a register page at a physical address: `die` (a die's control blocks) or a doorbell page. -/
  | mapPage (doorbell : Bool) (unit addr : Nat)
  /-- The module OS sets one of its parameters. -/
  | osSet (x : OsSetting)
  /-- The module OS asks for a save (R415, Table 18-7). -/
  | askSave (wg : Nat) (why : SaveCause)
  /-- One `dcount` counter (of die 0 to 3, or 4: the hub) runs ahead of the others (R9: they are not synchronised). -/
  | drift (unit : Nat) (ticks : Nat)
  /-- A line leaves an L2 slice (replacement, R63). -/
  | evictL2 (line : Nat)
  /-- A buffer chip corrects a single-symbol error (R77). -/
  | corrected (stick : Nat)
  /-- Missing sectors arrive for a unit of a core, whose miss-status entries they free: 0 copy engines, 1 iterator gathers,
  2 weight loads, 3 Drift streams (R60). -/
  | engineReads (core unit n : Nat)
  /-- The residue checker of a unit of a core meets a mismatch in its next operation, or in both executions (R456). -/
  | mismatch (core unit : Nat) (second : Bool)
  /-- The adders at a sector's home, or its link controller's, meet one in the next update there (R458). -/
  | adderMismatch (sector : Nat) (second : Bool)
  /-- The RV32 core of a die writes a byte of its scratchpad (R8). -/
  | scratch (die addr : Nat) (b : Byte)
  deriving DecidableEq, Repr

/-- Execution state. -/
structure Exec where
  gang   : Option Gang := none
  agenda : List Action := []
  wgs    : List Wg := []
  nodes  : List Node := []
  cores  : List Core := List.replicate 64 ({} : Core)
  ops    : List EngineOp := []
  ringWrites : List RingWrite := []
  drained : List Drained := []
  deriving DecidableEq, Repr

/-! ### Memory system -/

/-- A sector of an L1 (R49 to R51, R69). -/
structure L1Sector where
  core   : Nat
  /-- Location of its first byte. -/
  loc    : Nat
  data   : List Byte
  valid  : BitVec 32
  dirty  : BitVec 32
  poison : Bool
  /-- The core owns its line (R69). -/
  owned  : Bool
  /-- The partition that its accesses carry (R65). -/
  part   : BitVec 4 := 0
  deriving DecidableEq, Repr

/-- A line in an L2 slice (R63): the line's location, the set that holds it, after partitioning (R66), and its valid and
dirty sectors. The bytes of module memory stand in `MemSys.mem`, and those of host memory in `MemSys.l2host`. -/
structure L2Line where
  line  : Nat
  set   : Nat
  valid : BitVec 4
  dirty : BitVec 4
  deriving DecidableEq, Repr

/-- An entry of a slice's ownership directory (R69): a line, its owner core, and its kind: a stash line, or an L1 atomic
line. -/
structure DirEntry where
  line  : Nat
  core  : Nat
  stash : Bool
  deriving DecidableEq, Repr

/-- A partition-table entry (Table 3-4). -/
structure PartEntry where
  k   : BitVec 3 := 0
  xw  : BitVec 4 := 1
  vsh : BitVec 6 := 12
  deriving DecidableEq, Repr

/-- A translation held by a TLB (R30). The unit is a core's µTLB-L (0 to 63: the core), a die's shared TLB (64 + die), a
core's µTLB-E (128 + core), or 1000 and above: the hub's. -/
structure TlbEntry where
  unit  : Nat
  asid  : BitVec 16
  /-- 0: 1 GiB, 1: 2 MiB, 2: 64 KiB. -/
  level : Nat
  /-- Virtual address divided by the page size. -/
  vpn   : Nat
  leaf  : W64
  /-- Location of the entry in memory. -/
  entry : Nat
  deriving DecidableEq, Repr

/-- A translation miss (R31): core, space and 64 KiB page, with the lanes that wait. -/
structure Miss where
  core : Nat
  asid : BitVec 16
  page : Nat
  lanes : List (Nat × Nat)
  deriving DecidableEq, Repr

/-- Kinds of pending lane access. Operation code 0 add, 1 min, 2 max; type code (Table 12-5); `loc`: in the core's L1. -/
inductive AccKind where
  | load (signed : Bool)
  | store
  | red (op ty : Nat)
  | atom (op ty : Nat) (loc : Bool)
  | cas (loc : Bool)
  deriving DecidableEq, Repr

/-- A lane access issued and not yet performed (R35, R59, R61, R69, R71, R335). -/
structure Acc where
  id    : Nat
  /-- The instruction it belongs to: the lanes of one instruction share it. -/
  batch : Nat
  wg    : Nat
  lane  : Nat
  core  : Nat
  asid  : BitVec 16
  kind  : AccKind
  va    : W64
  width : Nat
  /-- Location once translated; `none` while a page fault or a migration holds it. -/
  loc   : Option Nat
  /-- Its line request waits for a lane-miss entry (R59). -/
  atPort : Bool := false
  data  : W64 := 0
  cmp   : W64 := 0
  poison : Bool := false
  scope : Nat := 0
  acq   : Bool := false
  rel   : Bool := false
  dst   : Dest := .none
  /-- The other lanes of which this is a read too: an LDU's (R329). -/
  readers : List Nat := []
  /-- When it was issued (R468: 50 µs). -/
  since : Nat := 0
  deriving DecidableEq, Repr

/-- A CMAINT in progress (R75): operation, level, and the addresses of its lines. -/
structure Maint where
  id    : Nat
  /-- The instruction it belongs to: its lanes' ranges are one operation (R337). -/
  batch : Nat := 0
  wg    : Nat
  lane  : Nat
  core  : Nat
  asid  : BitVec 16
  op    : Nat
  level : Nat
  lo    : W64
  hi    : W64
  deriving DecidableEq, Repr

/-- An address space registered with the device (R23) and the privileged mark of its context (R396). -/
structure Space where
  asid : BitVec 16
  root : BitVec 36
  t    : Bool
  part : BitVec 4
  rlim : BitVec 13
  privileged : Bool
  deriving DecidableEq, Repr

/-- A migration in progress (R40), of `span` regions from `region` on to as many from `frame` on: more than one where a table
lies across their ends. -/
structure Migration where
  region : Nat
  frame  : Nat
  start  : Nat
  span   : Nat := 1
  deriving DecidableEq, Repr

/-- Heat of a region: sector fills and write-backs by each die in the epoch (R38). -/
structure Heat where
  region : Nat
  counts : List Nat
  deriving DecidableEq, Repr

/-- A register page mapped by the module OS (R194, R424). -/
structure RegPage where
  doorbell : Bool
  unit : Nat
  addr : Nat
  deriving DecidableEq, Repr

/-- Compressed-state setup of a stick (R45, R473). -/
structure StickSetup where
  stick : Nat
  base  : W64
  pool  : W64
  overflow : W64
  /-- Free overflow slots. -/
  slots : List Nat
  deriving DecidableEq, Repr

/-- A page in overflow (R46), or moving there once its stick has a slot. -/
structure Overflow where
  page : Nat
  slot : Option Nat
  deriving DecidableEq, Repr

structure MemSys where
  mem     : Memory := []
  /-- Poisoned sectors (location ÷ 32). -/
  poison  : List Nat := []
  l1      : List L1Sector := []
  /-- The lines that the L2 slices hold (R62, R63). -/
  l2      : List L2Line := []
  /-- L2 copies of host sectors (R64): location, bytes, dirty mask. -/
  l2host  : List (Nat × List Byte × BitVec 32) := []
  /-- The ownership directories, in the order of the grants (R69). -/
  dir     : List DirEntry := []
  /-- The partition table: the same contents on every die (R65). -/
  parts   : List PartEntry := List.replicate 16 ({} : PartEntry)
  /-- The partition that the access in progress carries (R65). The model's own. -/
  tag     : BitVec 4 := 0
  /-- Replacements made so far: feeds `Config.victim`. The model's own. -/
  replaced : Nat := 0
  /-- Sector reads in flight of each core's privileged units: copy engines, iterator gathers, weight loads, Drift streams
  (R60). -/
  engMiss : List (List Nat) := List.replicate 64 [0, 0, 0, 0]
  tlb     : List TlbEntry := []
  misses  : List Miss := []
  missq   : List Miss := []
  acc     : List Acc := []
  maint   : List Maint := []
  /-- Pages in fault service: space and 64 KiB page (R35). -/
  faults  : List (BitVec 16 × Nat) := []
  heat    : List Heat := []
  /-- Ratio, floor, rest in ns, concurrency (Table 2-8). -/
  policy  : Nat × Nat × Nat × Nat := (2, 4096, 10000000, 8)
  migs    : List Migration := []
  /-- Candidates of the last epochs: region and destination die (Table 2-8). -/
  cands   : List (Nat × Nat) := []
  /-- Sticks being drained (R42). -/
  draining : List Nat := []
  /-- Sticks out of service with their data: their sectors read as poisoned (R77, R473). -/
  lost    : List Nat := []
  /-- The module's ID in its domain (R467). -/
  domain  : Option (BitVec 6) := none
  /-- End of the last migration of a region. -/
  migrated : List (Nat × Nat) := []
  pages   : List RegPage := []
  setup   : List StickSetup := []
  overflow : List Overflow := []
  overflowWaits : Nat := 0
  crcReplays : List Nat := List.replicate 24 0
  /-- Sectors whose next update by an adder meets a residue mismatch, once or twice, and the updates repeated (R458). -/
  adderBad : List (Nat × Bool) := []
  adderRetries : Nat := 0
  /-- Single-symbol errors corrected by each stick's buffer chip (R77). -/
  corrected : List Nat := List.replicate 24 0
  /-- When each die's heat records were last evaluated (R38). -/
  epochs  : List Nat := [0, 0, 0, 0]
  deriving DecidableEq, Repr

/-! ### Links, tree and flits (05) -/

/-- A lane group of a link. `up` points toward the higher end. -/
structure LaneGroup where
  up      : Bool
  /-- The earliest end of the turn in progress: `up` is already the new direction. -/
  turning : Option Nat := none
  retired : Bool := false
  recal   : Bool := false
  lastTurn : Nat := 0
  /-- The time its first rest counts from (0 at reset: none). -/
  turned  : Bool := false
  deriving DecidableEq, Repr

/-- A queued VEER (R108). -/
structure VeerReq where
  wg   : Nat
  cls  : Nat
  up   : Bool
  greq : Nat
  hold : Nat
  op   : Nat
  vsh  : Nat
  deriving DecidableEq, Repr

/-- A request being served: its groups turn (R110). -/
structure VeerServe where
  req    : VeerReq
  target : Nat
  cl     : Bool
  deriving DecidableEq, Repr

structure Link where
  groups : List LaneGroup
  reqs   : List VeerReq := []
  serving : Option VeerServe := none
  /-- Holder's workgroup, class, end of the hold in ns. -/
  hold   : Option (Nat × Nat × Nat) := none
  /-- The group in recalibration began at. -/
  recalStart : Nat := 0
  out    : Bool := false
  deriving DecidableEq, Repr

/-- A flit in flight (R122, R124). -/
structure Flit where
  srcWg   : Nat
  srcLane : Nat
  node    : Nat
  index   : Nat
  queue   : Nat
  data    : W32
  deriving DecidableEq, Repr

structure Net where
  links : List Link
  trees : List Barrier := List.replicate 32 ⟨0, 0, [], [], [], [], false, false, []⟩
  /-- The node each tree barrier is allotted to. -/
  treeOwner : List (Option Nat) := List.replicate 32 none
  flits : List Flit := []
  discards : Nat := 0
  /-- Fabric ports retired (of 8). -/
  portsRetired : List Nat := []
  unreachable : List (BitVec 6) := []
  deriving DecidableEq, Repr

/-! ### Routed layers (19) -/

/-- Slot states (15 R352). -/
inductive SlotState where
  | free | reserved | published | taken
  deriving DecidableEq, Repr

/-- A slot: state and metadata latch (token, expert, weight) (R427). -/
structure RingSlot where
  state : SlotState := .free
  latch : Option (W32 × BitVec 16 × W32) := none
  deriving DecidableEq, Repr

/-- A ring control block (Table 19-1) and the controller's own lists. -/
structure Ring where
  st      : BitVec 2 := 0
  part    : BitVec 4 := 0
  sbase   : BitVec 52 := 0
  slotsm1 : BitVec 16 := 0
  slines  : BitVec 16 := 0
  mbase   : BitVec 52 := 0
  mcapm1  : BitVec 15 := 0
  mres    : W64 := 0
  mdlv    : W64 := 0
  ridx    : W64 := 0
  ptail   : W32 := 0
  glq     : W32 := 0
  lbase   : BitVec 52 := 0
  em1     : BitVec 8 := 0
  km1     : BitVec 2 := 0
  norm    : Bool := false
  lstride : W32 := 0
  asid    : BitVec 16 := 0
  slots   : List RingSlot := []
  /-- Published slots not taken, in publication order. -/
  published : List Nat := []
  /-- Free slots, in the order they became free. -/
  freeOrder : List Nat := []
  deriving DecidableEq, Repr

/-- The co-processor's token in progress (R430): ring, token, choices left (expert, weight). -/
structure CopJob where
  ring  : Nat
  token : W32
  left  : List (BitVec 16 × W32)
  /-- A reserved slot and the metadata index taken for it, not yet written. -/
  slot  : Option (Nat × W64) := none
  deriving DecidableEq, Repr

/-- A tenant's slot quota on a die (R432). -/
structure Quota where
  die  : Nat
  part : Nat
  q    : Nat
  l    : Nat
  deriving DecidableEq, Repr

structure Routed where
  /-- Ring r of die d at 64 d + r. -/
  rings : List Ring := List.replicate 256 ({} : Ring)
  /-- Gate-logit queue of each die: ring and token. -/
  glq   : List (List (Nat × W32)) := [[], [], [], []]
  cop   : List (Option CopJob) := [none, none, none, none]
  quotas : List Quota := []
  /-- The 128 KiB scratchpad of each die's RV32 core (R8). -/
  scratch : List Memory := [[], [], [], []]
  /-- Shared pool B of each die. -/
  pool  : List Nat := [0, 0, 0, 0]
  ignored : Nat := 0
  discarded : Nat := 0
  deriving DecidableEq, Repr

/-! ### Command processors (09) -/

/-- An open LOOP: the index of its first body word, its length, iterations left, and its header's index. -/
structure LoopState where
  start : Nat
  body  : Nat
  left  : Nat
  header : Nat
  deriving DecidableEq, Repr

/-- A counter of the FENCE in progress (R205). -/
structure FenceWait where
  c    : FenceCtr
  done : Bool
  deriving DecidableEq, Repr

/-- What a queue holds at, after parsing a packet. -/
inductive QueueHold where
  | none
  /-- A FENCE, parsed at the given hub count. -/
  | fence (cs : List FenceWait) (since : W64)
  /-- CKPT with WAIT: its increment runs. -/
  | ckpt
  deriving DecidableEq, Repr

/-- One execution of a segment (R207). -/
structure SegState where
  seg    : Nat
  retry  : Nat
  /-- Executions that failed so far. -/
  fails  : Nat := 0
  /-- Index of the header of its SEGMENT-BEGIN or REPLAY. -/
  header : Nat
  /-- While it records: index of its first packet; the words before `start + words.length` are in the store. While it
  replays: 0 when the queue stands at its REPLAY. -/
  start  : Nat := 0
  /-- Loops open when it began. -/
  depth  : Nat := 0
  /-- Words recorded, or the words being replayed. -/
  words  : List W64 := []
  /-- Parse point in the stored words when it replays; `none` while it records. -/
  pos    : Option Nat := none
  failed : Bool := false
  nodes  : List Nat := []
  /-- What the queue held at when an earlier step began again. -/
  outer  : QueueHold := .none
  deriving DecidableEq, Repr

structure Queue where
  /-- Bound: context, processor, doorbell index. -/
  asid   : BitVec 16
  cp     : Nat
  index  : Nat
  /-- Address of the descriptor in the context's space. -/
  desc   : W64
  base   : W64
  capw   : Nat
  widx   : Nat := 0
  ridx   : Nat := 0
  /-- 0 running, 1 halted on error, 2 halted by the module OS. -/
  state  : Nat := 0
  cause  : Nat := 0
  pkt    : Nat := 0
  /-- Parse point: index of the next header word. -/
  pos    : Nat := 0
  loops  : List LoopState := []
  /-- Packets below this index are skipped (IF, LOOP with count 0: R206). -/
  skipTo : Nat := 0
  hold   : QueueHold := .none
  /-- RIDX, or word 4 with STATE, CAUSE and PKT, is still to be written in the descriptor (R193). -/
  ridxOwed  : Bool := false
  stateOwed : Bool := false
  /-- The segment that is open, or the step that replays; a REPLAY inside either leaves the outer ones in `under`. -/
  seg    : Option SegState := none
  under  : List SegState := []
  /-- Steps whose packets are all parsed, with nodes that have not completed. -/
  past   : List SegState := []
  /-- Segment stores (number and words) and their RETRY. -/
  stores : List (Nat × List W64 × Nat) := []
  /-- Nodes of this queue, latest first. -/
  nodes  : List Nat := []
  lastPoll : Nat := 0
  deriving DecidableEq, Repr

/-- An increment whose D bits are cleared: accesses with a lower id were translated before (R43); pages left, as
virtual address and size; pages copied. -/
structure CkptRun where
  mark  : Nat
  pages : List (Nat × Nat)
  done  : Nat
  /-- DEST and INCR of the descriptor, as the increment read them (Table 26-2). -/
  dest  : W64
  incr  : W32
  /-- Why its handle will trap, once a record could not be made. -/
  failed : Option ErrMark := none
  /-- Log bytes written by earlier increments and by this one (DUSED at its end). -/
  used  : W64
  deriving DecidableEq, Repr

/-- A checkpoint increment (R463 to R465). -/
structure CkptJob where
  /-- The operation whose handle it fills, and its workgroup; 0 for a packet. -/
  op    : Nat
  wg    : Nat
  queue : Option Nat
  asid  : BitVec 16
  addr  : W64
  run   : Option CkptRun := none
  deriving DecidableEq, Repr

structure CmdProc where
  queues : List (Nat × Queue) := []
  irqs   : List (BitVec 11) := []
  ignored : Nat := 0
  ckpts  : List CkptJob := []
  /-- The index that each processor considers first for its next packet (R192). -/
  turn   : List Nat := [0, 0, 0, 0]
  /-- Pages that a status write waits for, and those that the module OS could not supply (R204). -/
  statusWaits : List (BitVec 16 × Nat) := []
  statusGone  : List (BitVec 16 × Nat) := []
  deriving DecidableEq, Repr

/-! ### Hub services (27) -/

/-- Service phase of the module (R470, R471). -/
inductive Phase where
  | off | overcast | service
  deriving DecidableEq, Repr

structure Hub where
  phase   : Phase := .off
  spaces  : List Space := []
  /-- The region that each of the copy engines copies (R7, Table 2-9); engine 7 is the checkpoint streamer (log entry
  108). -/
  copyEngines : List (Option Nat) := List.replicate 8 none
  /-- The host link is operated as a CXL type 2 device (R466). -/
  cxl     : Bool := false
  /-- The BAR windows that the module OS maps: first byte and length (R466). -/
  windows : List (Nat × Nat) := []
  dies    : List Bool := [false, false, false, false]
  /-- The die of Overcast service. -/
  first   : Nat := 0
  patch   : W32 := 0
  rollback : W32 := 0
  leaf    : Nat := 0
  withheld : List Nat := [0, 0, 0, 0]
  /-- Tenths of W/cm² (R475). -/
  fluxLimit : Nat := 260
  /-- Bound of a non-preemptible region, ns (R417). -/
  regionBound : Nat := 100000
  /-- Per-core Drift quotas of the tenants (R79). -/
  driftQuotas : List Nat := List.replicate 16 16384
  /-- Dies allotted to each tenant (R199): bit d for die d. -/
  dieAllot : List (BitVec 4) := List.replicate 16 15
  telemetry : List W64 := List.replicate 6 0
  health  : List (BitVec 8 × W64) := []
  /-- The module OS's CSRs 0x100 to 0x1FF (Table 17-10). -/
  osCsr   : List W64 := List.replicate 256 0
  /-- Challenges signed, with the leaf used. -/
  reports : List (W64 × Nat) := []
  deriving DecidableEq, Repr

/-- Entries of the module OS's log and counters. -/
inductive Log where
  /-- A status word was lost: the node's queue and its tag (R204). -/
  | statusLost (queue tag : Nat)
  | malformed (loc : Nat)
  | overrun (wg : Nat)
  | testSkipped (core : Nat)
  | coreFailed (core : Nat)
  /-- A halted core holds no workgroup any more (R406). -/
  | coreHalted (core : Nat)
  | stepRetried (queue : Nat)
  | groupRetired (link grp : Nat)
  | linkOut (link : Nat)
  | drainRefused (stick region : Nat)
  | stickLost (stick : Nat)
  | ringRefused (die ring : Nat)
  | poisonToken (die : Nat) (token : W32)
  | droppedWrite (node : Nat)
  | portRetired (port : Nat)
  | patchRefused (version : W32)
  | saveFailed (wg : Nat)
  | attestRefused
  | residue (core unit : Nat) (injected : Bool)
  /-- An adder's second mismatch: the sector is poisoned (R458). -/
  | adderResidue (loc : Nat)
  | dieRetired (die : Nat)
  deriving DecidableEq, Repr

/-- The model's counters and the time. -/
structure Clock where
  /-- Nanoseconds since reset. -/
  now    : Nat := 0
  /-- `dcount` of dies 0 to 3, then of the hub (R9). -/
  dcount : List W64 := [0, 0, 0, 0, 0]
  /-- Feeds `Config.freeValue`. -/
  free   : Nat := 0
  nextId : Nat := 1
  deriving DecidableEq, Repr

/-- The whole machine. -/
structure State where
  ck  : Clock
  ex  : Exec
  ms  : MemSys
  net : Net
  rt  : Routed
  cp  : CmdProc
  hub : Hub
  log : List Log
  deriving DecidableEq, Repr

/-- A link at reset: the default split (Table 5-1), the lower-numbered half toward the higher end. -/
def Link.ofGroups (g : Nat) : Link :=
  { groups := List.replicate (g / 2) ⟨true, none, false, false, 0, false⟩ ++
      List.replicate (g - g / 2) ⟨false, none, false, false, 0, false⟩ }

/-- The machine right after reset: no workgroup, no node, memory with nothing listed, every table at its reset value;
the boot ROM has not run yet (R470). Values the manual does not give are named in log entry 4. -/
def State.reset : State where
  ck := {}
  ex := {}
  ms := {}
  net := { links := List.replicate 6 (Link.ofGroups 24) ++ List.replicate 4 (Link.ofGroups 8) }
  rt := {}
  cp := {}
  hub := {}
  log := []

end Sys2Proof.Machine
end

