-- ==== Sys2Proof/Machine/Mem.lean ====
section
/-! DEFINITION. The one memory: bytes, home slices and the sets of the L2, partitions, L1 sets and ways, ownership
directories, tiles' owned lines, poison, TLBs and translation (spec/02, spec/03).  A location is `TGT × 2^48 + physical address`; a compressed-state page has locations of its own
under 3 (R44: plain data to every program). -/
namespace Sys2Proof.Machine

/-! ### Bytes -/

/-- The byte at a location. -/
def Memory.read : Memory → Nat → Byte
  | [], a => unlistedByte a
  | (k, b) :: m, a => if a = k then b else if a < k then unlistedByte a else Memory.read m a

/-- One byte written, keeping the canonical form. -/
def Memory.write : Memory → Nat → Byte → Memory
  | [], a, b => if b = unlistedByte a then [] else [(a, b)]
  | (k, c) :: m, a, b =>
    if a = k then (if b = unlistedByte a then m else (a, b) :: m)
    else if a < k then (if b = unlistedByte a then (k, c) :: m else (a, b) :: (k, c) :: m)
    else (k, c) :: Memory.write m a b

def Memory.readBytes (m : Memory) (a : Nat) : Nat → List Byte
  | 0 => []
  | n + 1 => m.read a :: m.readBytes (a + 1) n

def Memory.writeBytes (m : Memory) (a : Nat) : List Byte → Memory
  | [] => m
  | b :: bs => (m.write a b).writeBytes (a + 1) bs

/-- Write the bytes whose mask bit is set. -/
def Memory.writeMasked (m : Memory) (a : Nat) (mask : BitVec 32) : Nat → List Byte → Memory
  | _, [] => m
  | i, b :: bs => (if mask.getLsbD i then m.write (a + i) b else m).writeMasked a mask (i + 1) bs

def Memory.readNat (m : Memory) (a n : Nat) : Nat := natLE (m.readBytes a n)

/-! ### Locations -/

def locTgt (loc : Nat) : Nat := loc / 2 ^ 48
def locPa (loc : Nat) : Nat := loc % 2 ^ 48

/-- Host or fabric memory (R326). -/
def isOutside (loc : Nat) : Bool := locTgt loc == 1 || locTgt loc == 2

/-- The stick of a module location (R27); compressed pages lie on the stick of their frame. -/
def locStick (loc : Nat) : Nat :=
  if locTgt loc = 3 then locPa loc / 2 ^ 38 else locPa loc / 2 ^ 37 % 32

/-- The Drave die that is home (R37, R62). -/
def homeDie (loc : Nat) : Nat :=
  if locTgt loc = 1 then locPa loc / 4096 % 4 else locStick loc / 6

/-- The module a fabric location names (R27). -/
def locModule (loc : Nat) : BitVec 6 := BitVec.ofNat 6 (locPa loc / 2 ^ 42)

def sectorOf (loc : Nat) : Nat := loc / 32 * 32
def lineOf (loc : Nat) : Nat := loc / 128 * 128

/-- The mask of `n` bytes from byte `i` of a sector. -/
def byteMask (i n : Nat) : BitVec 32 := BitVec.ofNat 32 ((2 ^ n - 1) * 2 ^ i)

def fullMask : BitVec 32 := BitVec.ofNat 32 (2 ^ 32 - 1)

/-- Bytes at byte `i` of a sector, in a whole sector's width. -/
def wideBytes (i : Nat) (bs : List Byte) : List Byte := List.replicate i 0 ++ bs ++ List.replicate (32 - i - bs.length) 0

/-! ### Poison of sectors at home (R459, R460) -/

/-- A location on a stick that left service with its data (R473). -/
def MemSys.lostLoc (ms : MemSys) (loc : Nat) : Bool :=
  (locTgt loc == 0 || locTgt loc == 3) && ms.lost.contains (locStick loc)

def MemSys.poisoned (ms : MemSys) (loc : Nat) : Bool := ms.poison.contains (loc / 32) || ms.lostLoc loc

def MemSys.setPoison (ms : MemSys) (loc : Nat) (p : Bool) : MemSys :=
  if p then { ms with poison := insertNat (loc / 32) ms.poison }
  else { ms with poison := ms.poison.filter (· != loc / 32) }

/-! ### Home slices, sets and partitions (R62 to R67) -/

/-- The physical address that selects the slice and the set of a line; a compressed page lies at its frame (R44). -/
def linePa (loc : Nat) : Nat := if locTgt loc = 3 then locPa loc / 131072 * 65536 + locPa loc % 65536 else locPa loc

/-- Bits `hi` to `lo` of a physical address. -/
def paBits (loc hi lo : Nat) : Nat := linePa loc / 2 ^ lo % 2 ^ (hi - lo + 1)

/-- The slice of the home die (R62). -/
def l2Slice (loc : Nat) : Nat := paBits loc 10 7 ^^^ paBits loc 25 22 ^^^ paBits loc 29 26 ^^^ paBits loc 33 30

/-- The set before partitioning (R62). -/
def l2Set (loc : Nat) : Nat := paBits loc 21 11

/-- Bits 10:11−k of a set index are replaced by bits 3:4−k of the partition (R66). -/
def partSet (k : Nat) (p : BitVec 4) (set : Nat) : Nat := p.toNat / 2 ^ (4 - k) * 2 ^ (11 - k) + set % 2 ^ (11 - k)

/-- The set of a line for the access in progress. -/
def MemSys.setOf (ms : MemSys) (loc : Nat) : Nat := partSet (ms.parts.getD ms.tag.toNat {}).k.toNat ms.tag (l2Set loc)

/-- What `f` does for a partition's access. -/
def MemSys.tagged (ms : MemSys) (p : BitVec 4) (f : MemSys → MemSys) : MemSys := { f { ms with tag := p } with tag := ms.tag }

/-- The bit of a sector in its line. -/
def sectorBit (loc : Nat) : BitVec 4 := 1#4 <<< (loc / 32 % 4)

/-- The line lies in the set of the slice that is home of a location. -/
def L2Line.mate (x : L2Line) (loc set : Nat) : Bool := x.set == set && homeDie x.line == homeDie loc && l2Slice x.line == l2Slice loc

/-- Before a write or a grant, the line's other candidate sets are examined: their dirty sectors move to the set that the
access uses, and those copies are dropped (R67). The sectors given become valid and dirty there. -/
def MemSys.l2Merge (ms : MemSys) (loc : Nat) (dirty : BitVec 4) : MemSys :=
  if locTgt loc = 2 then ms else
  let mine := ms.l2.filter (·.line == lineOf loc)
  let d := mine.foldl (fun m x => m ||| x.dirty) dirty
  let v := (mine.filter (·.set == ms.setOf loc)).foldl (fun m x => m ||| x.valid) d
  { ms with l2 := { line := lineOf loc, set := ms.setOf loc, valid := v, dirty := d } :: ms.l2.filter (·.line != lineOf loc) }

/-- A read brings a sector into the set of its partition; a copy that another set holds dirty moves there (R63, R67). -/
def MemSys.l2Read (ms : MemSys) (loc : Nat) : MemSys :=
  let ms := if ms.l2.any fun x => x.line == lineOf loc && x.set != ms.setOf loc && x.dirty != 0 then ms.l2Merge loc 0 else ms
  let mine := fun (x : L2Line) => x.line == lineOf loc && x.set == ms.setOf loc
  { ms with l2 :=
      if ms.l2.any mine then ms.l2.map fun x => if mine x then { x with valid := x.valid ||| sectorBit loc } else x
      else { line := lineOf loc, set := ms.setOf loc, valid := sectorBit loc, dirty := 0 } :: ms.l2 }

/-- A sector is filled into its home slice (R63); of host memory, L2 holds the bytes as of then (R64). No L2 holds another
module's (R62). -/
def MemSys.l2Fill (ms : MemSys) (sec : Nat) : MemSys :=
  if locTgt sec = 2 then ms
  else
    let ms := if locTgt sec = 1 && (ms.l2host.find? (fun e => e.1 == sec)).isNone then
      { ms with l2host := (sec, ms.mem.readBytes sec 32, 0) :: ms.l2host } else ms
    ms.l2Read sec

/-- The bytes of a sector at its home. -/
def MemSys.homeBytes (ms : MemSys) (sec : Nat) : List Byte :=
  if locTgt sec = 1 then
    match ms.l2host.find? (fun e => e.1 == sec) with
    | some e => e.2.1
    | none => ms.mem.readBytes sec 32
  else ms.mem.readBytes sec 32

/-- Replace the masked bytes of a list. -/
def mergeBytes (mask : BitVec 32) : Nat → List Byte → List Byte → List Byte
  | i, o :: os, n :: ns => (if mask.getLsbD i then n else o) :: mergeBytes mask (i + 1) os ns
  | _, os, _ => os

/-! ### Compressed pages (R44 to R46) -/

/-- A 32 KiB slot of a page at locations of target 3. -/
def pageSlot (loc : Nat) : Nat := locPa loc / 65536

/-- A size-table entry (Table 2-10). -/
def sizeEntry (moved : Option Nat) (n : Nat) : Nat :=
  match moved with
  | some k => 2 ^ 31 + k % 2 ^ 19 * 2 ^ 12 + 2048
  | none => n % 4096

/-- The size table of a stick holds the entry of a slot of its pool. -/
def MemSys.setSize (ms : MemSys) (st : StickSetup) (page e : Nat) : MemSys :=
  { ms with mem := ms.mem.writeBytes (st.base.toNat + 4 * (page - st.pool.toNat / 32768)) (bytesLE 4 e) }

/-- A page takes a free overflow slot of its stick, or waits for one. -/
def MemSys.overflowPage (ms : MemSys) (st : StickSetup) (page : Nat) : MemSys :=
  match st.slots with
  | k :: rest =>
    let take := fun (x : StickSetup) => if x.stick == st.stick then { x with slots := rest } else x
    ({ ms with setup := ms.setup.map take
               overflow := ms.overflow ++ [{ page, slot := some k }] } : MemSys).setSize st page (sizeEntry (some k) 0)
  | [] => { ms with overflow := ms.overflow ++ [{ page, slot := none }], overflowWaits := ms.overflowWaits + 1 }

/-- A write to the page waits for an overflow slot (R46). -/
def MemSys.pageWaits (ms : MemSys) (loc : Nat) : Bool :=
  locTgt loc == 3 && ms.overflow.any fun o => o.page == pageSlot loc && o.slot.isNone

/-- A write reaches a compressed page on its stick: its size, or its move to the overflow region. -/
def MemSys.recompress (ms : MemSys) (loc : Nat) : MemSys :=
  let page := pageSlot loc
  match ms.setup.find? (·.stick == locStick loc) with
  | none => ms
  | some st =>
    if ms.overflow.any (·.page == page) then ms
    else
      let n := max 1 (Config.compressedSectors (ms.mem.readBytes (3 * 2 ^ 48 + page * 65536) 65536))
      if n ≤ 1024 then ms.setSize st page (sizeEntry none n) else ms.overflowPage st page

/-- Masked bytes reach the home of a sector, which holds it dirty (R50, R63). A whole clean sector clears poison; a poisoned write sets it
(R460). A stick that is gone keeps nothing. -/
def MemSys.homeWrite (ms : MemSys) (sec : Nat) (mask : BitVec 32) (bs : List Byte) (p : Bool) : MemSys :=
  if ms.lostLoc sec then ms else
  let ms :=
    if locTgt sec = 1 then
      let ms := if (ms.l2host.find? (fun e => e.1 == sec)).isNone then
        { ms with l2host := (sec, ms.mem.readBytes sec 32, 0) :: ms.l2host } else ms
      { ms with l2host := ms.l2host.map fun e =>
          if e.1 == sec then (sec, mergeBytes mask 0 e.2.1 bs, e.2.2 ||| mask) else e }
    else { ms with mem := ms.mem.writeMasked sec mask 0 bs }
  let ms := ms.l2Merge sec (sectorBit sec)
  if p then ms.setPoison sec true
  else if mask = fullMask then ms.setPoison sec false
  else ms

/-- A dirty host sector reaches host memory (R150, Table 3-7). -/
def MemSys.cleanHost (ms : MemSys) (sec : Nat) : MemSys :=
  match ms.l2host.find? (fun e => e.1 == sec) with
  | some e =>
    { ms with
      mem := ms.mem.writeMasked sec e.2.2 0 e.2.1
      l2 := ms.l2.map fun x => if x.line == lineOf sec then { x with dirty := x.dirty &&& ~~~ sectorBit sec } else x
      l2host := ms.l2host.map fun e => if e.1 == sec then (sec, e.2.1, 0) else e }
  | none => ms

/-- Every dirty host sector (a release at `.sys`, R150). -/
def MemSys.cleanHosts (ms : MemSys) : MemSys :=
  (ms.l2host.map (·.1)).foldl MemSys.cleanHost ms

/-- The home slice writes the dirty sectors of a line to memory; the line is kept (Table 3-7). A compressed page that must
first move to an overflow slot keeps its sectors in L2 until it has one (R46). -/
def MemSys.l2Clean (ms : MemSys) (line : Nat) : MemSys :=
  if locTgt line != 1 && ms.l2.all (fun x => x.line != line || x.dirty == 0) then ms
  else
    let ms := if locTgt line = 3 then ms.recompress line else ms
    if ms.pageWaits line then ms
    else
      let ms := if locTgt line = 1 then (List.range 4).foldl (fun ms k => ms.cleanHost (line + 32 * k)) ms else ms
      { ms with l2 := ms.l2.map fun x => if x.line == line then { x with dirty := 0 } else x }

/-- The clean sectors that `p` names leave L2; a line without sectors leaves with them. -/
def MemSys.l2DropIf (ms : MemSys) (line : Nat) (p : Nat → Bool) : MemSys :=
  let keep := fun (x : L2Line) => (List.range 4).foldl (fun (m : BitVec 4) k =>
    if p (line + 32 * k) && !x.dirty.getLsbD k then m &&& ~~~ (1#4 <<< k) else m) x.valid
  { ms with
    l2 := (ms.l2.map fun x => if x.line == line then { x with valid := keep x } else x).filter fun x => x.line != line || x.valid != 0
    l2host := ms.l2host.filter fun e => !(lineOf e.1 == line && p e.1 && e.2.2 == 0) }

/-- A line leaves L2 once it is clean (R63). -/
def MemSys.l2Drop (ms : MemSys) (line : Nat) : MemSys := (ms.l2Clean line).l2DropIf line fun _ => true

/-! ### L1 sectors (R49 to R51) -/

def MemSys.l1Find (ms : MemSys) (core sec : Nat) : Option L1Sector :=
  ms.l1.find? fun x => x.core == core && x.loc == sec

def MemSys.l1Put (ms : MemSys) (x : L1Sector) : MemSys :=
  { ms with l1 := x :: ms.l1.filter fun y => !(y.core == x.core && y.loc == x.loc) }

def MemSys.l1Del (ms : MemSys) (core sec : Nat) : MemSys :=
  { ms with l1 := ms.l1.filter fun y => !(y.core == core && y.loc == sec) }

/-- A heat record counts sector fills or write-backs by a die (R38); a region of compressed pages is that of their
frames. -/
def MemSys.heatAdd (ms : MemSys) (sec die : Nat) (n : Nat := 1) : MemSys :=
  if locTgt sec = 1 || locTgt sec = 2 then ms
  else
    let r := if locTgt sec = 3 then locPa sec / 2 ^ 22 else sec / 2 ^ 21
    match ms.heat.find? (fun h => h.region == r) with
    | some _ => { ms with heat := ms.heat.map fun h => if h.region == r then { h with counts := upd h.counts die (· + n) } else h }
    | none => { ms with heat := { region := r, counts := upd [0, 0, 0, 0] die (· + n) } :: ms.heat }

/-- The dirty bytes of a sector reach the home; the sector stays, clean (R50). -/
def MemSys.writeRaw (ms : MemSys) (x : L1Sector) : MemSys :=
  if x.dirty = 0 then ms
  else ((ms.tagged x.part fun ms => ms.homeWrite x.loc x.dirty x.data x.poison).heatAdd x.loc (x.core / 16)).l1Put { x with dirty := 0 }

/-- Written back if dirty, and dropped. -/
def MemSys.giveUp (ms : MemSys) (core sec : Nat) : MemSys :=
  match ms.l1Find core sec with
  | some x => (ms.writeRaw x).l1Del core sec
  | none => ms

/-- A core owns a line in its L1 (R69). -/
def MemSys.l1Owns (ms : MemSys) (core line : Nat) : Bool := ms.l1.any fun x => x.core == core && x.owned && lineOf x.loc == line

/-- The core's sectors of a line when it is granted: what they hold clean may be stale and is dropped (R51, R69). -/
def MemSys.l1Grant (ms : MemSys) (core line : Nat) : MemSys :=
  { ms with l1 := ms.l1.map fun x =>
      if x.core == core && lineOf x.loc == line && !x.owned then { x with valid := x.dirty, owned := true } else x }

/-- The L1 that owns a line gives it up, but for the core `keep` (R69): every dirty sector of it is written back. -/
def MemSys.recallL1 (ms : MemSys) (line : Nat) (keep : Option Nat) : MemSys :=
  (ms.l1.filter fun x => x.owned && lineOf x.loc == line && some x.core != keep).foldl
    (fun ms x => ms.giveUp x.core x.loc) ms

/-- The acquire action of Table 6-1 at `.die` and wider: clean sectors are dropped, and of a dirty sector the bytes that
this core did not write, so that later reads of them are filled (R50, R135). -/
def MemSys.dropClean (ms : MemSys) (core : Nat) : MemSys :=
  { ms with l1 := (ms.l1.filter fun x => !(x.core == core && x.dirty == 0 && !x.owned)).map fun x =>
      if x.core == core && !x.owned then { x with valid := x.dirty } else x }

/-- A sector is filled from its home under the bytes already written (R50); its owner elsewhere has been recalled. -/
def MemSys.l1Fill (ms : MemSys) (core sec : Nat) (own : Bool) : MemSys :=
  let ms := (ms.l2Fill sec).heatAdd sec (core / 16)
  let hb := ms.homeBytes sec
  let hp := ms.poisoned sec
  let own := own || ms.l1Owns core (lineOf sec)
  match ms.l1Find core sec with
  | some x =>
    ms.l1Put { x with data := mergeBytes (~~~ x.valid) 0 x.data hb, valid := fullMask, owned := x.owned || own,
                      poison := x.poison || (hp && x.dirty != fullMask) }
  | none => ms.l1Put { core, loc := sec, data := hb, valid := fullMask, dirty := 0, poison := hp, owned := own, part := ms.tag }

/-- Bytes are written into an L1 and marked dirty, without a fill (R50). -/
def MemSys.l1Write (ms : MemSys) (core loc : Nat) (bs : List Byte) (p : Bool) : MemSys :=
  let sec := sectorOf loc
  let mask := byteMask (loc - sec) bs.length
  let wide := wideBytes (loc - sec) bs
  match ms.l1Find core sec with
  | some x => ms.l1Put { x with data := mergeBytes mask 0 x.data wide, valid := x.valid ||| mask,
                                dirty := x.dirty ||| mask, poison := x.poison || p, part := ms.tag }
  | none => ms.l1Put { core, loc := sec, data := wide, valid := mask, dirty := mask, poison := p
                       owned := ms.l1Owns core (lineOf sec), part := ms.tag }

/-- All bytes of an access are in the L1. -/
def MemSys.l1Has (ms : MemSys) (core loc n : Nat) : Bool :=
  match ms.l1Find core (sectorOf loc) with
  | some x => let m := byteMask (loc - sectorOf loc) n; x.valid &&& m == m
  | none => false

/-- The bytes of an access in the L1, with poison. -/
def MemSys.l1Read (ms : MemSys) (core loc n : Nat) : List Byte × Bool :=
  match ms.l1Find core (sectorOf loc) with
  | some x => ((x.data.drop (loc - sectorOf loc)).take n, x.poison)
  | none => ([], false)

/-- A whole clean sector written by one instruction clears the sector's poison (R460). -/
def MemSys.l1Clear (ms : MemSys) (core sec : Nat) : MemSys :=
  match ms.l1Find core sec with
  | some x => ms.l1Put { x with poison := false }
  | none => ms

/-- A register page at a location (R194, R424): the page and the offset in it. -/
def MemSys.regPage (ms : MemSys) (loc : Nat) : Option (RegPage × Nat) :=
  (ms.pages.find? fun g => decide (g.addr ≤ loc) && decide (loc < g.addr + (if g.doorbell then 4096 else 8192))).map
    fun g => (g, loc - g.addr)

/-! ### Translation (R21 to R35) -/

/-- Kinds of access for Table 2-7. -/
inductive Access where
  | read | write | fetch | both
  deriving DecidableEq, Repr

def Access.writes : Access → Bool
  | .write | .both => true
  | _ => false

def Access.reads : Access → Bool
  | .read | .both => true
  | _ => false

/-- What a walk ends at. -/
inductive Walk where
  /-- Level, leaf, and the location of the entry. -/
  | leaf (level : Nat) (entry : W64) (ent : Nat)
  | absent (ent : Nat) (entry : W64)
  | forbidden (ent : Nat) (entry : W64)
  | malformed (ent : Nat)
  | poisoned (ent : Nat)
  deriving DecidableEq, Repr

/-- log2 of the page a leaf maps (Table 2-3). -/
def pageBits (level : Nat) : Nat := if level = 0 then 30 else if level = 1 then 21 else 16

/-- A malformed entry (R28). -/
def malformedEntry (level : Nat) (e : W64) : Bool :=
  e.getLsbD 63 &&
  (if e.getLsbD 62 then
    bits e 50 48 != 0 || bits e 47 16 % 2 ^ (pageBits level - 16) != 0 || bits e 53 52 == 3
      || (bits e 53 52 == 0 && bits e 47 42 != 0)
      || ((bits e 53 52 == 0 || bits e 53 52 == 2) && 24 ≤ bits e 41 37)
      || (e.getLsbD 57 && (level != 2 || bits e 53 52 != 0))
      || (e.getLsbD 15 && !e.getLsbD 57)
  else bits e 61 48 != 0 || level == 2)

/-- One table entry at home. -/
def MemSys.entryAt (ms : MemSys) (a : Nat) : W64 := BitVec.ofNat 64 (ms.mem.readNat a 8)

/-- A level of the walk: the entry at `a`, then what follows. A table pointer and ROOT carry no TGT, and the manual has no
stick check for them: what they name is module memory, whatever their bits 47:37 (DESIGN CHOICE, log entry 96). -/
def walkAt (ms : MemSys) (level a : Nat) (next : Nat → Walk) : Walk :=
  if ms.poisoned a then .poisoned a
  else
    let e := ms.entryAt a
    if malformedEntry level e then .malformed a
    else match e.getLsbD 63, e.getLsbD 62 with
      | false, false => .absent a e
      | false, true => .forbidden a e
      | true, true => .leaf level e a
      | true, false => next (bits e 47 8 * 256)

/-- The three-level walk (R25, R26). -/
def walk (ms : MemSys) (sp : Space) (va : W64) : Walk :=
  walkAt ms 0 (sp.root.toNat * 4096 + bits va 51 30 * 8) fun t1 =>
    walkAt ms 1 (t1 + bits va 29 21 * 8) fun t2 =>
      walkAt ms 2 (t2 + bits va 20 16 * 8) fun _ => .malformed 0

/-- R21 and R24. -/
def addressOk (sp : Space) (va : W64) : Bool :=
  bits va 63 52 == 0 && decide (bits va 51 30 < 512 * (sp.rlim.toNat + 1))

/-- The location a leaf gives an address (R25, R27, R44). -/
def leafLoc (level : Nat) (e : W64) (va : W64) : Nat :=
  let off := va.toNat % 2 ^ pageBits level
  if e.getLsbD 57 then 3 * 2 ^ 48 + (bits e 41 16 * 2 + bits e 15 15) * 65536 + off
  else bits e 53 52 * 2 ^ 48 + bits e 47 16 * 65536 + off

/-- Outcomes of an access (Table 2-7), and a miss that must be walked first. -/
inductive Xl where
  | ok (loc : Nat)
  | viol
  | fault
  /-- The walk read a poisoned entry (R28). -/
  | poison (ent : Nat)
  | miss
  deriving DecidableEq, Repr

/-- The last rows of Table 2-7, for a leaf. -/
def leafOutcome (sp : Space) (level : Nat) (e : W64) (va : W64) (k : Access) : Xl :=
  let q := e.getLsbD 56
  if q && !sp.t then .viol
  else if k.writes && !q && sp.t then .viol
  else if k = .fetch && !e.getLsbD 59 then .viol
  else if k.reads && !e.getLsbD 61 then .viol
  else if k.writes && !e.getLsbD 60 && !e.getLsbD 51 then .viol
  else if k.writes && !e.getLsbD 60 then .fault
  else .ok (leafLoc level e va)

/-- A fabric address that names this module is a location of its own memory (R27). -/
def Xl.own (x : Xl) (domain : Option (BitVec 6)) : Xl :=
  match x, domain with
  | .ok loc, some d => if locTgt loc = 2 && locModule loc == d then .ok (loc % 2 ^ 42) else .ok loc
  | x, _ => x

/-- Table 2-7 by a walk. -/
def walkOutcome (ms : MemSys) (sp : Space) (va : W64) (k : Access) : Xl :=
  if !addressOk sp va then .viol
  else match walk ms sp va with
    | .forbidden .. => .viol
    | .malformed _ => .viol
    | .poisoned a => .poison a
    | .absent .. => .fault
    | .leaf lv e _ => (leafOutcome sp lv e va k).own ms.domain

/-! ### TLBs (R30) -/

/-- The unit number of the hub's translations. -/
def hubUnit : Nat := 1000

/-- The µTLB of a core's privileged engine path. -/
def engineUnit (core : Nat) : Nat := 128 + core

/-- The die whose shared TLB and walkers serve a unit: its core's own (R30); the hub's misses have none. -/
def unitDie (unit : Nat) : Option Nat :=
  if unit < 64 then some (unit / 16) else if 128 ≤ unit && unit < 192 then some ((unit - 128) / 16) else none

/-- A held translation of a unit. -/
def MemSys.tlbFind (ms : MemSys) (unit : Nat) (asid : BitVec 16) (va : W64) : Option TlbEntry :=
  ms.tlb.find? fun t => t.unit == unit && t.asid == asid && t.vpn == va.toNat / 2 ^ pageBits t.level

/-- A unit's translation: its own TLB, then its die's shared one (R30). -/
def MemSys.tlbLookup (ms : MemSys) (unit : Nat) (asid : BitVec 16) (va : W64) : Option TlbEntry :=
  match ms.tlbFind unit asid va with
  | some t => some t
  | none => (unitDie unit).bind fun d => ms.tlbFind (64 + d) asid va

/-- The translation of an access: by a held entry; else by a walk, when the miss has been walked; else a miss. -/
def xlate (ms : MemSys) (unit : Nat) (sp : Space) (va : W64) (k : Access) (walked : Bool) : Xl :=
  if !addressOk sp va then .viol
  else match ms.tlbLookup unit sp.asid va with
    | some t => (leafOutcome sp t.level t.leaf va k).own ms.domain
    | none => if walked then walkOutcome ms sp va k else .miss

/-- The entries that one set of a unit's TLB holds: 96 and 48 in the µTLBs, 8 ways in each of the 1,024 sets of a shared
TLB (R30). -/
def tlbWays (unit : Nat) : Option Nat :=
  if unit < 64 then some 96 else if unit < 128 then some 8 else if unit < 192 then some 48 else none

/-- Two entries compete for the same ways: one unit's, in a shared TLB those of one set (log entry 84). -/
def TlbEntry.mate (t u : TlbEntry) : Bool :=
  u.unit == t.unit && ((unitDie t.unit).isSome || u.vpn % 1024 == t.vpn % 1024)

/-- An entry is installed in its unit's TLB, which replaces one that is in its way. -/
def MemSys.tlbAdd (ms : MemSys) (t : TlbEntry) : MemSys :=
  let rest := ms.tlb.filter fun u => !(u.unit == t.unit && u.asid == t.asid && u.level == t.level && u.vpn == t.vpn)
  let mates := rest.filter t.mate
  match tlbWays t.unit with
  | some n =>
    if mates.length < n then { ms with tlb := t :: rest }
    else
      let go := mates[Config.victim ms.replaced % mates.length]?
      { ms with tlb := t :: rest.filter (fun u => some u != go), replaced := ms.replaced + 1 }
  | none => { ms with tlb := t :: rest }

/-- An entry is held by a unit and by its die's shared TLB (R30). -/
def MemSys.tlbHold (ms : MemSys) (t : TlbEntry) : MemSys :=
  match unitDie t.unit with
  | some d => (ms.tlbAdd { t with unit := 64 + d }).tlbAdd t
  | none => ms.tlbAdd t

/-- A leaf found by a walk is held (R30). -/
def MemSys.tlbFill (ms : MemSys) (unit : Nat) (sp : Space) (va : W64) : MemSys :=
  if !addressOk sp va then ms
  else match walk ms sp va with
    | .leaf lv e a => ms.tlbHold { unit, asid := sp.asid, level := lv, vpn := va.toNat / 2 ^ pageBits lv, leaf := e, entry := a }
    | _ => ms

/-- An entry of the shared TLB that served a unit is held by the unit too. -/
def MemSys.tlbKeep (ms : MemSys) (unit : Nat) (asid : BitVec 16) (va : W64) : MemSys :=
  match ms.tlbFind unit asid va, ms.tlbLookup unit asid va with
  | none, some t => ms.tlbAdd { t with unit }
  | _, _ => ms

/-- The bits an access sets in its entry: A, and D at the first write (R29). -/
def adBits (k : Access) : W64 := if k.writes then 3 <<< 54 else 1 <<< 54

/-- The read-modify-write of an entry at its home, which sets A and D there and in the held copies (R29). -/
def MemSys.setAD (ms : MemSys) (t : TlbEntry) (k : Access) : MemSys :=
  let e := ms.entryAt t.entry ||| adBits k
  let ms := ms.homeWrite (sectorOf t.entry) (byteMask (t.entry % 32) 8) (wideBytes (t.entry % 32) (bytesLE 8 e.toNat)) false
  { ms with tlb := ms.tlb.map fun u => if u.asid == t.asid && u.entry == t.entry then { u with leaf := u.leaf ||| adBits k } else u }

/-- The leaf of an address, as a location of its frame; a fabric address that names this module is its own memory. -/
def MemSys.locOf (ms : MemSys) (sp : Space) (va : W64) : Option Nat :=
  match (if addressOk sp va then walk ms sp va else .malformed 0) with
  | .leaf lv e _ =>
    (match (Xl.ok (leafLoc lv e va)).own ms.domain with
     | .ok loc => some loc
     | _ => none)
  | _ => none

/-- Where the entry of an address stands at a level of its space's table. -/
def MemSys.entryLoc (ms : MemSys) (sp : Space) (va : W64) (level : Nat) : Option Nat :=
  let a0 := sp.root.toNat * 4096 + bits va 51 30 * 8
  let next := fun (e : W64) => if e.getLsbD 63 && !e.getLsbD 62 then some (bits e 47 8 * 256) else none
  match level with
  | 0 => some a0
  | 1 => (next (ms.entryAt a0)).map (· + bits va 29 21 * 8)
  | _ => ((next (ms.entryAt a0)).bind fun t => next (ms.entryAt (t + bits va 29 21 * 8))).map (· + bits va 20 16 * 8)

/-- The address space of a context. -/
def Hub.space (h : Hub) (asid : BitVec 16) : Option Space := h.spaces.find? (·.asid == asid)

/-! ### Misses and faults in service (R31, R35) -/

/-- A page is put into fault service (R35). -/
def MemSys.faultNote (ms : MemSys) (asid : BitVec 16) (va : W64) : MemSys :=
  if ms.faults.contains (asid, va.toNat / 65536) then ms else { ms with faults := ms.faults ++ [(asid, va.toNat / 65536)] }

/-- A translation miss is recorded: joined, newly outstanding, or queued when 64 are outstanding (R31). -/
def MemSys.addMiss (ms : MemSys) (core : Nat) (asid : BitVec 16) (va : W64) (wg lane : Nat) : MemSys :=
  let page := va.toNat / 65536
  let hit := fun (m : Miss) => m.core == core && m.asid == asid && m.page == page
  let join := fun (m : Miss) => if hit m && !m.lanes.contains (wg, lane) then { m with lanes := m.lanes ++ [(wg, lane)] } else m
  if ms.misses.any hit || ms.missq.any hit then { ms with misses := ms.misses.map join, missq := ms.missq.map join }
  else
    let m : Miss := { core, asid, page, lanes := [(wg, lane)] }
    if (ms.misses.filter (·.core == core)).length < 64 then { ms with misses := ms.misses ++ [m] }
    else { ms with missq := ms.missq ++ [m] }

/-! ### A migrating region holds writes (R40) -/

/-- A location lies in a region, as plain memory or as a compressed page. -/
def inRegion (r loc : Nat) : Bool :=
  (locTgt loc == 0 && locPa loc / 2 ^ 21 == r) || (locTgt loc == 3 && locPa loc / 2 ^ 22 == r)

/-- A location lies in a run of `n` regions from `r` on. -/
def inRun (r n loc : Nat) : Bool :=
  (locTgt loc == 0 && decide (r ≤ locPa loc / 2 ^ 21) && decide (locPa loc / 2 ^ 21 < r + n))
    || (locTgt loc == 3 && decide (r ≤ locPa loc / 2 ^ 22) && decide (locPa loc / 2 ^ 22 < r + n))

/-- A location that a migration moves, and one where it moves to. -/
def Migration.takes (m : Migration) (loc : Nat) : Bool := inRun m.region m.span loc
def Migration.fills (m : Migration) (loc : Nat) : Bool := inRun m.frame m.span loc

/-- Where a migration moves a location. -/
def Migration.to (m : Migration) (loc : Nat) : Nat :=
  if !m.takes loc then loc
  else if locTgt loc = 0 then m.frame * 2 ^ 21 + (loc - m.region * 2 ^ 21)
  else 3 * 2 ^ 48 + m.frame * 2 ^ 22 + (locPa loc - m.region * 2 ^ 22)

/-- Writes to a location wait: its region migrates. -/
def MemSys.migrating (ms : MemSys) (loc : Nat) : Bool := ms.migs.any fun m => m.takes loc

end Sys2Proof.Machine
end

