-- ==== Sys2Proof/Machine/Checks.lean ====
section
/-! DEFINITION. The checks each instruction meets at its issue: checks 11 to 19 of Table 12-14 (R268), written over the
roles that the opcode tables give the fields. -/
namespace Sys2Proof

/-- A source whose value is the same for every lane of a group (R184). -/
def Operand.uniform : Operand → Bool
  | .s _ | .zero | .imm _ | .lit _ | .used => true
  | _ => false

/-- Destinations that are one scalar for the group. -/
def Operand.isScalar : Operand → Bool
  | .s _ => true
  | _ => false

def Operand.isV : Operand → Bool
  | .v _ => true
  | _ => false

def Operand.isImm : Operand → Bool
  | .imm _ => true
  | _ => false

/-- Fields a trap bit may be set on (R254). -/
def Operand.trapable : Operand → Bool
  | .v _ | .s _ | .h _ | .qrx _ => true
  | _ => false

end Sys2Proof

namespace Sys2Proof.Machine

/-- What a source field's role admits (R255, R256, R262, R271, R356, R380). -/
inductive SRole where
  /-- — : holds 0xF8. -/
  | blank
  /-- A generic source of 32 bits, or of 64 when wide. -/
  | src (wide : Bool)
  | pred
  | handle
  /-- u: uniform 32-bit source. -/
  | u
  /-- up: uniform 64-bit source. -/
  | up
  /-- pr: a register pair, a 64-bit literal or zero. -/
  | pr
  /-- pr without a scalar source (R399). -/
  | vpr
  /-- m: scalar pair or literal. -/
  | mask
  /-- Base of an address: a pair when WB = 1. -/
  | base (wide : Bool)
  /-- C as the offset of an address. -/
  | off
  /-- The first of `n` vector registers. -/
  | vrange (n : Nat)
  | qrx
  /-- The first of four scalars (R389). -/
  | quad
  deriving DecidableEq, Repr

/-- What DST admits. -/
inductive DRole where
  | blank
  /-- A generic destination of 32 bits, or of 64 when wide. -/
  | dst (wide : Bool)
  | pred
  | handle
  /-- A scalar, or a scalar pair. -/
  | scal (wide : Bool)
  /-- The first of `n` vector registers, or zero. -/
  | vrange (n : Nat)
  /-- The first of `n` vector registers (R354). -/
  | vrun (n : Nat)
  /-- A v register or pair. -/
  | vreg (wide : Bool)
  /-- A v register, a pair when wide, or zero. -/
  | vz (wide : Bool)
  /-- The data source of a store: v, s or zero (R323). -/
  | data (wide : Bool)
  | qtx
  /-- A v or s register (R404). -/
  | vs
  /-- Checked with the instruction's own limits. -/
  | any
  deriving DecidableEq, Repr

/-- How one row's fields are read, for the checks. -/
structure Sig where
  /-- Check 12. -/
  var   : Bool
  /-- Check 13 for what is not an A modifier. -/
  q     : Bool := true
  /-- Bits 19:8 are an A modifier. -/
  am    : Bool := false
  /-- Only guards 0b0111 and 0b1111 (R252). -/
  fixed : Bool := false
  /-- H is legal (R254). -/
  hold  : Bool := false
  /-- Reserved to privileged contexts, to test contexts (R396). -/
  priv  : Bool := false
  test  : Bool := false
  dst   : DRole := .blank
  a     : SRole := .blank
  b     : SRole := .blank
  c     : SRole := .blank
  /-- A scalar destination is not held to uniform sources (V2S, VOTE, KDRAIN: R184, R271, R377). -/
  free  : Bool := false
  /-- A scalar destination is legal (R277, R392). -/
  sdst  : Bool := true
  /-- Chapter 13: the lane index is refused in a pair role (R271); elsewhere it is zero-extended (R256). -/
  noLane64 : Bool := false
  /-- TA is legal (R275, R345, R394, R395). -/
  ta    : Bool := true
  /-- Check 19, where the fields alone decide it. -/
  limit : Bool := true
  /-- The unit that checks its residue (Table 18-1: 0 vector ALU, 1 special function and conversion, 3 memory port,
  4 engine port); 5: none. A scalar destination makes unit 0 the scalar ALU, 2. -/
  unit  : Nat := 0
  deriving DecidableEq, Repr

/-- What the checks know of the context. -/
structure CheckCtx where
  scal  : Nat
  width : Nat
  priv  : Bool
  test  : Bool
  deriving DecidableEq, Repr

/-- Registers from `n` on, `k` of them, lie in the window. -/
def vFits (n k : Nat) : Bool := decide (n + k ≤ 32)

/-- Scalars from `n` on, `k` of them, lie below the kernel's count (R184). -/
def sFits (scal n k : Nat) : Bool := decide (n + k ≤ scal)

def wideN (wide : Bool) : Nat := if wide then 2 else 1

/-- Check 16 for a source. -/
def SRole.ok (r : SRole) (scal : Nat) (o : Operand) : Bool :=
  match r, o with
  | .blank, .zero => true
  | .blank, .used => true
  | .src w, .v n => vFits n.val (wideN w)
  | .src w, .s n => sFits scal n.val (wideN w)
  | .src _, .zero => true
  | .src _, .imm _ => true
  | .src _, .lit _ => true
  | .src w, .p _ => !w
  | .src w, .h _ => !w
  | .src w, .qrx _ => !w
  | .src _, .lane => true
  | .pred, .p _ => true
  | .handle, .h _ => true
  | .u, .s n => sFits scal n.val 1
  | .u, .zero => true
  | .u, .imm _ => true
  | .u, .lit _ => true
  | .up, .s n => sFits scal n.val 2
  | .up, .zero => true
  | .up, .imm _ => true
  | .up, .lit _ => true
  | .pr, .v n => vFits n.val 2
  | .pr, .s n => sFits scal n.val 2
  | .pr, .zero => true
  | .pr, .lit _ => true
  | .vpr, .v n => vFits n.val 2
  | .vpr, .zero => true
  | .vpr, .lit _ => true
  | .mask, .s n => sFits scal n.val 2
  | .mask, .lit _ => true
  | .base w, .v n => vFits n.val (wideN w)
  | .base w, .s n => sFits scal n.val (wideN w)
  | .base _, .zero => true
  | .base _, .lit _ => true
  | .base w, .p _ => !w
  | .base w, .h _ => !w
  | .base w, .qrx _ => !w
  | .base w, .lane => !w
  | .off, .v _ => true
  | .off, .s n => sFits scal n.val 1
  | .off, .zero => true
  | .off, .lit _ => true
  | .off, .used => true
  | .off, .p _ => true
  | .off, .h _ => true
  | .off, .qrx _ => true
  | .off, .lane => true
  | .vrange k, .v n => vFits n.val k
  | .qrx, .qrx _ => true
  | .quad, .s n => sFits scal n.val 4
  | _, _ => false

/-- Check 16 for DST. -/
def DRole.ok (r : DRole) (scal : Nat) (o : Operand) : Bool :=
  match r, o with
  | .blank, .zero => true
  | .dst w, .v n => vFits n.val (wideN w)
  | .dst w, .s n => sFits scal n.val (wideN w)
  | .dst _, .zero => true
  | .dst w, .p _ => !w
  | .dst w, .qtx _ => !w
  | .pred, .p _ => true
  | .handle, .h _ => true
  | .scal w, .s n => sFits scal n.val (wideN w)
  | .vrange k, .v n => vFits n.val k
  | .vrange _, .zero => true
  | .vrun k, .v n => vFits n.val k
  | .vreg w, .v n => vFits n.val (wideN w)
  | .vz w, .v n => vFits n.val (wideN w)
  | .vz _, .zero => true
  | .data w, .v n => vFits n.val (wideN w)
  | .data w, .s n => sFits scal n.val (wideN w)
  | .data _, .zero => true
  | .qtx, .qtx _ => true
  | .vs, .v _ => true
  | .vs, .s n => sFits scal n.val 1
  | .any, _ => true
  | _, _ => false

/-- The A modifier's fields (Table 12-4). -/
structure AMod where
  cls  : Nat
  seg  : Nat
  dist : Nat
  fill : Bool
  deriving DecidableEq, Repr

def AMod.of (q : BitVec 12) : AMod where
  cls := bits q 11 10
  seg := bits q 9 7
  dist := bits q 6 1
  fill := q.getLsbD 0

/-- Check 17 (R258). -/
def AMod.ok (q : BitVec 12) (a : Operand) (width : Nat) : Bool :=
  let m := AMod.of q
  if m.cls = 0 then q == 0
  else m.seg != 7 && decide (m.dist < 2 ^ m.seg) && decide (2 ^ m.seg ≤ width) && a.isV

/-- With B the immediate, C is no operand: its role must be blank, or an offset (R256, R262). -/
def immOk (b : Operand) (c : SRole) : Bool :=
  !b.isImm || c == .blank || c == .off

/-- A scalar destination needs uniform sources (R184, R256, R271). A handle in C is a destination (R377). -/
def scalarOk (sg : Sig) (f : Fields) : Bool :=
  match sg.dst with
  | .data _ => true
  | .vs => true
  | _ => !f.dst.isScalar || (sg.sdst && (sg.free || (Operand.uniform f.a && Operand.uniform f.b && (sg.c == .handle || Operand.uniform f.c))))

/-- The role reads a register width of 64 bits. -/
def SRole.wide : SRole → Bool
  | .src w => w
  | .base w => w
  | .up | .pr | .vpr | .mask => true
  | _ => false

/-- The lane index in a pair role of chapter 13 (R271). -/
def laneOk (sg : Sig) (f : Fields) : Bool :=
  !sg.noLane64 || !((sg.a.wide && f.a == .lane) || (sg.b.wide && f.b == .lane) || (sg.c.wide && f.c == .lane))

/-- Checks 11 to 19 of Table 12-14 in order: the cause (Table 18-1) and the subcode of the first that fails. -/
def check (cx : CheckCtx) (sg : Sig) (f : Fields) : Option (Nat × Nat) :=
  if sg.fixed && f.gp != 7 then some (1, 2)
  else if !sg.var then some (1, 3)
  else if !sg.q then some (1, 4)
  else if f.h && !sg.hold then some (1, 5)
  else if (sg.priv && !cx.priv) || (sg.test && !cx.test) then some (1, 6)
  else if !(sg.dst.ok cx.scal f.dst && sg.a.ok cx.scal f.a && sg.b.ok cx.scal f.b && sg.c.ok cx.scal f.c
      && immOk f.b sg.c && laneOk sg f && scalarOk sg f) then some (3, 1)
  else if sg.am && !AMod.ok f.q f.a cx.width then some (3, 2)
  else if (f.ta && !(sg.ta && sg.a != .blank && f.a.trapable)) || (f.tb && !(sg.b != .blank && f.b.trapable))
      || (f.tc && !(sg.c != .blank && f.c.trapable)) then some (3, 3)
  else if !sg.limit then some (3, 4)
  else none

end Sys2Proof.Machine
end

