-- ==== Sys2Proof/Machine/Regs.lean ====
section
/-! DEFINITION. Registers of a lane and its group: the window over the stack, predicates, handles, scalars
(08 R181 to R187), and what one source field reads. -/
namespace Sys2Proof

/-! ### Repetitions (R259) -/

/-- A vector field in repetition `r`, with the step of its width. -/
def Operand.shiftV (o : Operand) (by' : Nat) : Operand :=
  match o with
  | .v n => .v (Fin.ofNat 32 (n.val + by'))
  | o => o

/-- A vector field of `k` registers passes v31 in a repetition. -/
def Operand.pastV (o : Operand) (by' k : Nat) : Bool :=
  match o with
  | .v n => decide (32 < n.val + by' + k)
  | _ => false

end Sys2Proof

namespace Sys2Proof.Machine

/-- The free value number `k` of the counter value `c`: unrelated for different arguments (log entry 3). -/
def freeWord (c k : Nat) : W64 := Config.freeValue (c * 65536 + k)

/-- `n` undefined bytes, the same in every 8. -/
def freeBytes (c n : Nat) : List Byte :=
  (List.range n).map fun k => BitVec.ofNat 8 (freeWord c 7000 / 2 ^ (8 * (k % 8)) % 256).toNat

/-! ### The window (R181) -/

/-- The stack entry of window register `n`. -/
def Lane.entry (l : Lane) (n : Nat) : Nat := (l.d + n / 16) % 4 * 16 + n % 16

/-- One stack entry. -/
def Lane.at (l : Lane) (e : Nat) : Reg := l.v.getD e {}

/-- Window register `n`. -/
def Lane.reg (l : Lane) (n : Nat) : Reg := l.at (l.entry n)

/-- The one-bit mask of a stack entry. -/
def entryBit (e : Nat) : BitVec 64 := (1#64) <<< e

/-- An operand entry of a signed MXMUL whose handle has not been read: its content is undefined (R146, R364). -/
def Lane.held (l : Lane) (e : Nat) : Bool := l.mxHeld.any fun h => h.regs.getLsbD e

/-- An operand register of a signed operation is written: what it held at the signature and what was written last stay known
to the array (R364). -/
def MxHeld.wrote (h : MxHeld) (e : Nat) (old new : Reg) : MxHeld :=
  if h.regs.getLsbD e then
    { h with olds := if h.olds.any (·.1 == e) then h.olds else (e, old) :: h.olds
             news := (e, new) :: h.news.filter (·.1 != e) }
  else h

/-- A stack entry written. While the entry is held the value is a free one (R364). -/
def Lane.put (l : Lane) (free e : Nat) (r : Reg) : Lane :=
  { l with
    v := l.v.set e (if l.held e then { r with val := lo32 (freeWord free (e + 64)) } else r)
    mxHeld := if l.mxHeld.isEmpty then l.mxHeld else l.mxHeld.map fun h => h.wrote e (l.at e) r
    unfenced := l.unfenced ||| entryBit e
    racq := l.racq &&& ~~~ entryBit e
    marks := l.marks.map fun m => { m with regs := m.regs &&& ~~~ entryBit e } }

/-- A stack entry marked empty (R186). -/
def Lane.markEmpty (l : Lane) (e : Nat) : Lane :=
  { l with v := l.v.set e { l.at e with full := false, poison := false }, racq := l.racq &&& ~~~ entryBit e,
           marks := l.marks.map fun m => { m with regs := m.regs &&& ~~~ entryBit e } }

/-- A predicate read: p7 is true (R185). -/
def Lane.pred (l : Lane) (n : Nat) : Bool := n == 7 || l.p.getLsbD n

/-- A predicate written: a write to p7 is discarded (R185). -/
def Lane.setPred (l : Lane) (n : Nat) (b : Bool) : Lane :=
  if n = 7 then l
  else { l with p := (l.p &&& ~~~ ((1#8) <<< n)) ||| (if b then (1#8) <<< n else 0)
                pracq := l.pracq &&& ~~~ ((1#8) <<< n)
                marks := l.marks.map fun m => { m with pred := m.pred &&& ~~~ ((1#8) <<< n) } }

def Lane.handle (l : Lane) (n : Nat) : HReg := l.h.getD n {}
def Lane.setHandle (l : Lane) (n : Nat) (x : HReg) : Lane := { l with h := l.h.set n x }

/-- The guard of an instruction in a lane (R252). -/
def Lane.guard (l : Lane) (f : Fields) : Bool := l.pred f.gp.toNat != f.gn

/-- A predicate that a pull will write (R236). -/
def Lane.predBusy (l : Lane) (n : Nat) : Bool := n != 7 && l.pbusy.getLsbD n

/-! ### What a lane sees of its workgroup -/

/-- The issue a lane takes part in. -/
structure Cx where
  g    : Gang
  w    : Wg
  free : Nat
  now  : Nat
  /-- Credits left at the queue that DST sends to (R122). -/
  credit : Nat := 0
  deriving DecidableEq, Repr

def Wg.lane (w : Wg) (i : Nat) : Lane := w.lanes.getD i {}
def Wg.grpOf (w : Wg) (i : Nat) : Nat := i / w.width
def Wg.group (w : Wg) (k : Nat) : Group := w.groups.getD k {}
def Group.reg (g : Group) (n : Nat) : Reg := g.s.getD n {}

/-- The mark of a failed pull on one of some stack entries, which a read of them takes: the mark, and the lane without it
(R239). -/
def Lane.pulled (l : Lane) (es : List Nat) : Option (Lane × PullMark) :=
  (l.marks.find? fun m => es.any m.regs.getLsbD).map fun m =>
    ({ l with marks := l.marks.filter fun m => !es.any m.regs.getLsbD }, m)

/-- Lanes of a group: its first lane and its lane count (R164). -/
def Wg.grpFirst (w : Wg) (k : Nat) : Nat := k * w.width
def Wg.grpCount (w : Wg) (k : Nat) : Nat := min w.width (w.lanes.length - k * w.width)

/-- The scalar register `n` that lane `i` reads. -/
def Cx.scalar (cx : Cx) (i n : Nat) : Reg := (cx.w.group (cx.w.grpOf i)).reg n

/-! ### One source field -/

/-- The registers of a source are empty (R186, R187): reading waits. A flit the lane kept is full. -/
def srcEmpty (cx : Cx) (i : Nat) (l : Lane) (o : Operand) (wide : Bool) (nth : Nat) : Bool :=
  match o with
  | .v n => !(l.reg n.val).full || (wide && !(l.reg (n.val + 1)).full)
  | .s n => !(cx.scalar i n.val).full || (wide && !(cx.scalar i (n.val + 1)).full)
  | .h n => !(l.handle n.val).full
  | .qrx n => (l.flits.getD nth (4, 0)).1 != n.val
  | _ => false

/-- A predicate source that a pull will write makes the reader wait (R236). -/
def srcBusy (l : Lane) (o : Operand) : Bool :=
  match o with
  | .p n => l.predBusy n.val
  | _ => false

/-- The trap left for the first reader (R239, R381). -/
def srcMark (l : Lane) (o : Operand) (wide : Bool) : Option (ErrMark × Bool) :=
  match o with
  | .v n =>
    (l.marks.find? fun m => m.regs.getLsbD (l.entry n.val) || (wide && m.regs.getLsbD (l.entry (n.val + 1)))).map
      fun m => ({ cause := m.cause, tval := m.tval }, false)
  | .p n =>
    if n.val = 7 then none
    else (l.marks.find? fun m => m.pred.getLsbD n.val).map fun m => ({ cause := m.cause, tval := m.tval }, false)
  | .h n => (l.handle n.val).err.map fun e => (e, true)
  | _ => none

/-- One vector register as a source: the content of a held entry is free (R364). -/
def vsrc (cx : Cx) (i : Nat) (l : Lane) (n : Nat) : W32 :=
  if l.held (l.entry n) then lo32 (freeWord cx.free (128 + 64 * i + l.entry n)) else (l.reg n).val

/-- The value of a source (Table 12-3, R256): 32 bits zero-extended, or 64 when wide. -/
def srcVal (cx : Cx) (i : Nat) (l : Lane) (o : Operand) (wide : Bool) (nth : Nat) : W64 :=
  match o with
  | .v n => if wide then pair (vsrc cx i l n.val) (vsrc cx i l (n.val + 1)) else zx (vsrc cx i l n.val)
  | .s n => if wide then pair (cx.scalar i n.val).val (cx.scalar i (n.val + 1)).val else zx (cx.scalar i n.val).val
  | .p n => if l.pred n.val then 1 else 0
  | .h n => zx (l.handle n.val).val
  | .qrx _ => zx (l.flits.getD nth (0, 0)).2
  | .lane => BitVec.ofNat 64 (i % cx.w.width)
  | .imm b => if wide then b.signExtend 64 else zx (b.signExtend 32)
  | .lit w => if wide then w else zx (lo32 w)
  | _ => 0

/-- A source carries poison (R186). -/
def srcPoison (cx : Cx) (i : Nat) (l : Lane) (o : Operand) (wide : Bool) : Bool :=
  match o with
  | .v n => (l.reg n.val).poison || (wide && (l.reg (n.val + 1)).poison)
  | .s n => (cx.scalar i n.val).poison || (wide && (cx.scalar i (n.val + 1)).poison)
  | _ => false

/-- The acquire that reading this source makes, as a scope code (R142, R144, R452). -/
def srcAcq (l : Lane) (o : Operand) (wide : Bool) : Nat :=
  match o with
  | .h n => (l.handle n.val).acq.getD 0
  | .v n =>
    if l.racq.getLsbD (l.entry n.val) || (wide && l.racq.getLsbD (l.entry (n.val + 1))) then 4 else 0
  | .s n => if l.sracq.contains n.val || (wide && l.sracq.contains (n.val + 1)) then 4 else 0
  | .p n => if l.pracq.getLsbD n.val then 4 else 0
  | _ => 0

/-- The lane after a source has been read: a handle's acquire is made, its MXMUL operands are no longer held, and a
KACC destination's acquire is made. -/
def srcDone (l : Lane) (o : Operand) (wide : Bool) : Lane :=
  match o with
  | .h n =>
    let x := l.handle n.val
    { l.setHandle n.val { x with acq := none } with mxHeld := l.mxHeld.filter fun m => m.op != x.op || x.op == 0 }
  | .v n =>
    if l.racq = 0 then l
    else { l with racq := l.racq &&& ~~~ (entryBit (l.entry n.val) ||| (if wide then entryBit (l.entry (n.val + 1)) else 0)) }
  | .s n => if l.sracq.isEmpty then l else { l with sracq := l.sracq.filter fun k => k != n.val && !(wide && k == n.val + 1) }
  | .p n => if l.pracq = 0 then l else { l with pracq := l.pracq &&& ~~~ ((1#8) <<< n.val) }
  | _ => l

/-- The mark of a source is cleared when its trap is taken (R239, R381). -/
def srcUnmark (l : Lane) (o : Operand) (wide : Bool) : Lane :=
  match o with
  | .h n => l.setHandle n.val { l.handle n.val with err := none }
  | .v n => { l with marks := l.marks.filter fun m =>
      !(m.regs.getLsbD (l.entry n.val) || (wide && m.regs.getLsbD (l.entry (n.val + 1)))) }
  | .p n => { l with marks := l.marks.filter fun m => !m.pred.getLsbD n.val }
  | _ => l

end Sys2Proof.Machine
end

