-- ==== Sys2Proof/Machine/Ops.lean ====
section
/-! DEFINITION. Operations shared by every family: reaching a workgroup, handles and register fills, barriers' drops,
convergence collection, the end of a lane and of a workgroup, TAKING A TRAP and returning from one, and the rule by which
the lanes of one gang take effect (spec/08, spec/18). -/
namespace Sys2Proof.Machine

/-- The outcome of a step. -/
abbrev Out := Host.Outcome State Fault Refusal

/-! ### Reaching a part of the state -/

def State.wg? (s : State) (id : Nat) : Option Wg := s.ex.wgs.find? (·.id == id)
def State.setWg (s : State) (w : Wg) : State :=
  { s with ex := { s.ex with wgs := s.ex.wgs.map fun x => if x.id == w.id then w else x } }
def State.modWg (s : State) (id : Nat) (f : Wg → Wg) : State :=
  { s with ex := { s.ex with wgs := s.ex.wgs.map fun x => if x.id == id then f x else x } }
def State.node? (s : State) (id : Nat) : Option Node := s.ex.nodes.find? (·.id == id)
def State.modNode (s : State) (id : Nat) (f : Node → Node) : State :=
  { s with ex := { s.ex with nodes := s.ex.nodes.map fun x => if x.id == id then f x else x } }
def State.modCore (s : State) (c : Nat) (f : Core → Core) : State :=
  { s with ex := { s.ex with cores := upd s.ex.cores c f } }
def State.core (s : State) (c : Nat) : Core := s.ex.cores.getD c {}
def State.modMs (s : State) (f : MemSys → MemSys) : State := { s with ms := f s.ms }
def State.note (s : State) (x : Log) : State := { s with log := x :: s.log }
def State.freshId (s : State) : State := { s with ck := { s.ck with nextId := s.ck.nextId + 1 } }
def State.freshIds (s : State) (n : Nat) : State := { s with ck := { s.ck with nextId := s.ck.nextId + n } }
def State.tickFree (s : State) : State := { s with ck := { s.ck with free := s.ck.free + 1 } }

def Wg.modLane (w : Wg) (i : Nat) (f : Lane → Lane) : Wg := { w with lanes := upd w.lanes i f }

/-- The core of a workgroup; a workgroup that is not on one reads core 0 and does not issue. -/
def Wg.core (w : Wg) : Nat :=
  match w.place with
  | .core c => c
  | .ended c => c
  | .saved => 0

def Wg.ended (w : Wg) : Bool :=
  match w.place with
  | .ended _ => true
  | _ => false

def Wg.onCore (w : Wg) (c : Nat) : Bool := w.place == .core c

/-- A lane that can act for itself. -/
def Lane.live (l : Lane) : Bool := !l.exited && !l.helper

/-- The lane a helper shadows (R168). -/
def Wg.shadow (w : Wg) (q : Nat) : Option Nat :=
  (List.range 4).map (4 * q + ·) |>.find? fun i => (w.lanes[i]?.map Lane.live).getD false

def State.space (s : State) (w : Wg) : Space :=
  match s.node? w.node with
  | some n => (s.hub.space n.asid).getD { asid := n.asid, root := 0, t := false, part := 0, rlim := 0, privileged := false }
  | none => { asid := 0, root := 0, t := false, part := 0, rlim := 0, privileged := false }

def State.launch (s : State) (w : Wg) : LaunchPkt :=
  match s.node? w.node with
  | some n => n.launch
  | none => { entry := 0 }

/-- What the checks of Table 12-14 know. -/
def State.checkCtx (s : State) (w : Wg) : CheckCtx where
  scal := (s.launch w).scal
  width := w.width
  priv := (s.space w).privileged
  test := (s.space w).t

/-! ### Node results (Table 9-8) -/

/-- A CODE of a node: an uncorrectable error keeps its place over the others, and the first cause over a kill. -/
def Node.fail (n : Node) (code : Nat) : Node :=
  { n with code := if n.code = 0 || code = 5 then code else n.code }

/-! ### Register fills and handles -/

/-- A stack entry becomes full (a pending producer completes, R186); an exited lane's value is discarded (R292). -/
def Lane.fill (l : Lane) (free e : Nat) (v : W32) (p : Bool) : Lane :=
  if l.exited then l else l.put free e { val := v, full := true, poison := p }

/-- A handle becomes full in every register of the workgroup that holds the operation, copies included (R187, R144); an exited
lane's is discarded (R292). -/
def Lane.fillHandle (l : Lane) (op : Nat) (v : W32) (err : Option ErrMark) (scope : Nat) : Lane :=
  if l.exited then l else
  { l with h := l.h.map fun x =>
      if !x.full && x.op == op then { x with val := v, full := true, err := err, acq := some scope } else x }

/-- An operation completes: its handles become full and it is no longer in progress (R381). -/
def State.completeOp (s : State) (wg op : Nat) (v : W32) (err : Option ErrMark) (scope : Nat) : State :=
  let s := s.modWg wg fun w => { w with lanes := w.lanes.map (·.fillHandle op v err scope) }
  { s with ex := { s.ex with ops := s.ex.ops.filter (·.id != op) } }

/-! ### Barriers: a drop (R343, R453) -/

/-- Key of a lane in a barrier. -/
def barKey (wg lane : Nat) : Nat := wg * 1024 + lane

/-- The remaining count falls by one; at zero the release is due (R116). -/
def Barrier.count (b : Barrier) : Barrier :=
  { b with remaining := b.remaining - 1, due := b.due || b.remaining == 1 }

/-- A drop by a registered lane, explicit or at an exit. -/
def Barrier.drop (b : Barrier) (k : Nat) : Barrier :=
  if b.reg.contains k then
    let b1 := { b with reg := b.reg.filter (· != k), reload := b.reload - 1 }
    if b.released || b.outstanding.contains k || b.pend.contains k then b1 else b1.count
  else b

/-- A lane that ends also waits no more. -/
def Barrier.leave (b : Barrier) (k : Nat) : Barrier :=
  let b1 := b.drop k
  { b1 with waiting := b1.waiting.filter (· != k), stalled := b1.stalled.filter (· != k) }

/-! ### Collected matrix operations (R362 to R364, R179, R180) -/

/-- The quarter that holds a lane: blocks of 64 lanes go to the quarters in turn (log entry 10). -/
def quarterOf (lane : Nat) : Nat := lane / 64 % 4

/-- A request holds the memory port of a quarter: no memory instruction of the quarter leaves (R59). -/
def MemSys.portHeld (ms : MemSys) (core qt : Nat) : Bool :=
  ms.acc.any fun a => a.atPort && a.core == core && quarterOf a.lane == qt

/-- Bits of an element of format code `fmt` (Table 10-3): 16 for FP16 and BF16, 4 for the 4-bit formats, else 8. -/
def elemBits (fmt : Nat) : Nat := if fmt = 6 ∨ fmt = 7 then 16 else if fmt = 3 ∨ fmt = 5 then 4 else 8

/-- The format field of a scale record (Table 10-2). -/
def recFmt (r : W64) : Nat := bits r 63 56

/-- Elements that one register of a signing lane holds (R362). -/
def regElems (e bitsN q b l : Nat) (r : Reg) : List MxElem :=
  (List.range e).filterMap fun h =>
    let x : BitVec 16 := BitVec.ofNat 16 (bits r.val (bitsN * h + bitsN - 1) (bitsN * h))
    if x = 0 ∧ !r.poison then none
    else some { row := 16 * b + e * q + l * e / 64, k := e * (l % (64 / e)) + h, bits := x, poison := r.poison }

/-- The signature of an operation in a lane. -/
def Lane.heldFor (l : Lane) (op : Nat) : Option MxHeld := l.mxHeld.find? (·.op == op)

/-- The stack entry of a window register at a call depth. -/
def entryOf (depth n : Nat) : Nat := (depth + n / 16) % 4 * 16 + n % 16

/-- An operand register of lane `i`, as the collector finds it: undefined where no MXFENCE followed the last write before the
signature (R146); the value at the signature or the one written since, for a register written since (R364); else what it
holds. -/
def captured (free i : Nat) (h : MxHeld) (l : Lane) (n : Nat) : Reg :=
  let e := entryOf h.depth n
  let pick := (freeWord free (4096 + 64 * i + e))
  if !h.fenced then { l.at e with val := lo32 pick }
  else match h.olds.find? (·.1 == e), h.news.find? (·.1 == e) with
    | some o, some x => if pick.getLsbD 0 then x.2 else o.2
    | some o, none => o.2
    | _, _ => l.at e

/-- The elements of a lane's operand registers that `p` names; `base` is the first lane of the declaration. -/
def laneElems (free base i : Nat) (h : MxHeld) (l : Lane) (areg nb fmt : Nat) (p : Nat → Bool) : List MxElem :=
  let bn := elemBits fmt
  let e := 32 / bn
  (List.range nb).flatMap fun b =>
    (List.range (16 / e)).flatMap fun q =>
      let n := areg + b * (16 / e) + q
      if p (entryOf h.depth n) then regElems e bn q b (i - base) (captured free i h l n) else []

/-- The operand block as the collector captures it when the declaration completes (R363). -/
def captureA (w : Wg) (free op base : Nat) (decl : W64) (areg nb fmt : Nat) : List MxElem :=
  (List.range 64).flatMap fun k =>
    match (if decl.getLsbD k then (w.lane (base + k)).heldFor op else none) with
    | some h => laneElems free base (base + k) h (w.lane (base + k)) areg nb fmt fun _ => true
    | none => []

/-- The places of the elements that one register of a lane holds (R362). -/
def elemPlace (e q b l : Nat) (x : MxElem) : Bool := x.row == 16 * b + e * q + l * e / 64 && x.k / e == l % (64 / e)

/-- A captured block when its operation is applied: for an element of a register that its lane has written since, before its
handle was read, the captured value or the new one (R364). -/
def recapture (w : Wg) (free op areg nb fmt : Nat) (es : List MxElem) : List MxElem :=
  let e := 32 / elemBits fmt
  (List.range w.lanes.length).foldl (fun es i =>
    match (w.lane i).heldFor op with
    | none => es
    | some h =>
      let l := i % 64
      let late := fun x => h.fenced && h.news.any fun y => y.1 == x
      let there := fun x => (List.range nb).any fun b => (List.range (16 / e)).any fun q =>
        late (entryOf h.depth (areg + b * (16 / e) + q)) && (freeWord free (4096 + 64 * i + entryOf h.depth (areg + b * (16 / e) + q))).getLsbD 1
          && elemPlace e q b l x
      es.filter (fun x => !there x) ++
        (laneElems free (i - l) i { h with olds := h.news } (w.lane i) areg nb fmt fun x =>
          late x && (freeWord free (4096 + 64 * i + x)).getLsbD 1)) es

def MxStep.slot : MxStep → Option Nat
  | .ldw .. => none
  | .mul _ k .. => some k
  | .mult _ k .. => some k
  | .zero _ k .. => some k
  | .prom _ k .. => some k
  | .rd _ k .. => some k

/-- The latch of a slot as the issue order leaves it: register, blocks, format (R365). -/
def MxQuarter.holdAt (q : MxQuarter) (k : Nat) : Option (Nat × Nat × Nat) :=
  (q.cell.toList ++ q.steps).foldl (fun h x =>
    if x.step.slot = some k then
      match x.step with
      | .mul _ _ _ nb areg hold brec .. => if hold then some (areg, nb, recFmt brec) else none
      | .zero .. => none
      | _ => h
    else h) ((((q.slots.getD k none).bind (·.hold)).map fun h => (h.areg, h.nb, h.afmt)))

/-- A declaration completes: the operation is queued as one step of the array (R363, R455), the register returns to
V = 0. -/
def Wg.issueCv (w : Wg) (free seq cv : Nat) : Wg :=
  let r := w.cv.getD cv {}
  match r.pend with
  | none => { w with cv := w.cv.set cv {} }
  | some p =>
    let base := bits r.word2 9 0
    let q := quarterOf base
    let mq := w.mx.getD q {}
    let latched := (mq.holdAt p.slot).isSome
    let elems := if latched then [] else captureA w free p.op base r.decl p.areg p.nb (recFmt p.brec)
    { w with
      cv := w.cv.set cv {}
      mx := w.mx.set q { mq with steps := mq.steps ++ [{ seq, tval := p.tval, step := .mul p.op p.slot p.rowq p.nb p.areg p.hold p.brec latched elems }] } }

/-- A lane's end clears its bit in every declaration (R180). Each operation that this completes is a step of its own in
the issue order, from `seq` on. -/
def Wg.dropCv (w : Wg) (free seq lane : Nat) : Wg :=
  (List.range 8).foldl (fun w c =>
    let r := w.cv.getD c {}
    let base := bits r.word2 9 0
    if r.word2.getLsbD 63 && base ≤ lane && lane < base + 64 && r.decl.getLsbD (lane - base) then
      let m := ~~~ entryBit (lane - base)
      let r1 := { r with decl := r.decl &&& m, signed := r.signed &&& m }
      if r1.decl = 0 then { w with cv := w.cv.set c {} }
      else if r1.signed = r1.decl then ({ w with cv := w.cv.set c r1 } : Wg).issueCv free (seq + c) c
      else { w with cv := w.cv.set c r1 }
    else w) w

/-! ### Tiles: write-back (R53, R57) -/

/-- Bytes of a tile. -/
def Tile.bytes (t : Tile) (off n : Nat) : List Byte := t.data.readBytes off n

/-- Sectors with dirty bytes. -/
def Tile.dirtySectors (t : Tile) : List Nat := t.dirty.foldr (fun o l => insertNat (o / 32) l) []

/-- The dirty mask of a sector. -/
def Tile.sectorMask (t : Tile) (k : Nat) : BitVec 32 :=
  t.dirty.foldl (fun m o => if o / 32 = k then m ||| (1#32) <<< (o % 32) else m) 0

/-- A register page reached by an agent that is no lane (R194, R424): a 4-byte store rings a doorbell and prompts its command
processor next; any other access has no effect and is counted. -/
def State.regTouch (s : State) (g : RegPage) (off : Nat) (bell : Bool) : State :=
  let s := s.tickFree
  if g.doorbell && bell && off % 4 == 0 && decide (off / 4 < 16) then
    { s with ex := { s.ex with agenda := .event (.doorbell g.unit off 4) :: s.ex.agenda } }
  else if g.doorbell then { s with cp := { s.cp with ignored := s.cp.ignored + 1 } }
  else { s with rt := { s.rt with ignored := s.rt.ignored + 1 } }

/-- Dirty sectors of a tile reach their homes, at the location its block has now (R55), for a partition (R65). A register page
takes none of them (R194, R424). -/
def MemSys.tileWrite (ms : MemSys) (core : Nat) (part : BitVec 4) (t : Tile) (loc : Nat) : MemSys :=
  if (ms.regPage loc).isSome then ms else ms.tagged part fun ms => t.dirtySectors.foldl (fun ms k =>
    let sec := loc + 32 * k
    ((ms.recallL1 (lineOf sec) none).homeWrite sec (t.sectorMask k) (t.bytes (32 * k) 32) (t.poison.getLsbD k)).heatAdd sec (core / 16)) ms

/-- The write-backs of a tile to a register page are counted. -/
def State.tileTouch (s : State) (t : Tile) (loc : Nat) : State :=
  match s.ms.regPage loc with
  | some (g, off) => t.dirtySectors.foldl (fun s _ => s.regTouch g off false) s
  | none => s

/-- A tile becomes clean and gives up its lines. -/
def Tile.cleaned (t : Tile) : Tile := { t with dirty := [], owned := 0 }

/-- A location of a module that cannot be reached, or any other module's while the ports are closed (R468, R471). -/
def State.unreachable (s : State) (loc : Nat) : Bool :=
  locTgt loc == 2 && (s.hub.phase == .overcast || s.net.unreachable.contains (locModule loc))

/-- A write by an agent to an unreachable module, dropped and logged; `State.blame` names its node. -/
def State.dropWrite (s : State) : State := s.note (.droppedWrite 0)

/-- The dropped writes of a step are logged for the node of a workgroup, which completes with CODE 5 (R468). -/
def State.blame (s0 : State) (wg : Nat) (s : State) : State :=
  let new := s.log.take (s.log.length - s0.log.length)
  if new.contains (.droppedWrite 0) then
    match s.wg? wg with
    | none => s
    | some w => ({ s with log := new.map (fun e => if e == .droppedWrite 0 then .droppedWrite w.node else e) ++ s0.log } : State).modNode
        w.node (·.fail 5)
  else s

def State.modTile (s : State) (wg idx : Nat) (f : Tile → Tile) : State :=
  s.modWg wg fun w => { w with tiles := w.tiles.map fun t => if t.idx == idx then f t else t }

/-- Where a tile's block lies now. -/
def State.tileLoc (s : State) (w : Wg) (t : Tile) : Option Nat := s.ms.locOf (s.space w) t.vpage

/-- The part of a tile that lies in one line. -/
def Tile.onlyLine (t : Tile) (k : Nat) : Tile := { t with dirty := t.dirty.filter fun o => o / 128 == k }

/-- A tile gives up one of its lines, whose dirty sectors are being written; READY, it is DRAINING until that is
acknowledged (Table 3-2, R69). -/
def Tile.dropLine (t : Tile) (k : Nat) : Tile :=
  let ready := t.state == .ready && !t.freeing
  { t with dirty := t.dirty.filter fun o => o / 128 != k, owned := t.owned &&& ~~~ (1#32 <<< k)
           state := if ready then .draining else t.state, recalled := t.recalled || ready }

/-- A tile gives up one of its lines, whose write-back a page fault holds: its bytes stay in the tile, which is DRAINING until
the service lets them be written (R35, R55). -/
def Tile.holdLine (t : Tile) (k : Nat) : Tile :=
  { t with owned := t.owned &&& ~~~ (1#32 <<< k), recalled := false
           state := if t.state == .ready && !t.freeing then .draining else t.state }

/-- The line of a location in a tile that owns it. -/
def State.ownsLine (s : State) (w : Wg) (t : Tile) (line : Nat) : Option Nat :=
  if t.owned = 0 then none
  else match s.tileLoc w t with
    | none => none
    | some loc => if loc ≤ line && line < loc + 4096 && t.owned.getLsbD ((line - loc) / 128) then some ((line - loc) / 128) else none

/-- A line is recalled from the tile that owns it, its page being open to the write-back: the end of the recursion of
`State.serveN`. -/
def State.recallTiles (s : State) (line : Nat) : State :=
  s.ex.wgs.foldl (fun s w =>
    w.tiles.foldl (fun s t =>
      match s.ownsLine w t line with
      | none => s
      | some k =>
        ({ s with ms := s.ms.tileWrite w.core (s.space w).part (t.onlyLine k) (line - 128 * k) } : State).modTile w.id t.idx
          (·.dropLine k)) s) s

/-- A line is recalled from whatever owns it, but for the L1 of `keep`. -/
def State.recallRaw (s : State) (line : Nat) (keep : Option Nat) : State :=
  (s.recallTiles line).modMs (·.recallL1 line keep)

/-! ### Translation by hardware, and serving a line (R28 to R30, R55, R63, R69)

A slice that serves a line recalls it from its owner; the write-back of a tile is translated, and sets D in an entry that a
slice serves in turn. The functions of this section take the serving of a line as an argument, and `State.serveN` ties the
knot. -/

/-- How a slice serves a line: it has a way for it, and its owner is recalled, but for the L1 of `keep`. -/
abbrev Serve := State → Nat → Option Nat → State

/-- The locations of the entries that a walk reads. -/
def MemSys.walkLocs (ms : MemSys) (sp : Space) (va : W64) : List Nat := [0, 1, 2].filterMap (ms.entryLoc sp va)

/-- A walk reads its entries at L2: their owners are recalled. -/
def State.openWalkBy (srv : Serve) (s : State) (sp : Space) (va : W64) : State :=
  (s.ms.walkLocs sp va).foldl (fun s a => (srv s (lineOf a) none).modMs (·.l2Fill (sectorOf a))) s

/-- A malformed entry met by a walk is logged (R28). -/
def State.noteWalk (s : State) (sp : Space) (va : W64) : State :=
  match walk s.ms sp va with
  | .malformed a => s.note (.malformed a)
  | _ => s

/-- A WALK for a unit: its leaf is held, a malformed entry is logged. -/
def State.walkBy (srv : Serve) (s : State) (unit : Nat) (sp : Space) (va : W64) : State :=
  if !addressOk sp va then s else ((s.openWalkBy srv sp va).noteWalk sp va).modMs (·.tlbFill unit sp va)

/-- A and D are set in memory, by a read-modify-write at L2, and in the held copies; an entry held with the bits set writes
nothing (R29). -/
def State.touchBy (srv : Serve) (s : State) (unit : Nat) (sp : Space) (va : W64) (k : Access) : State :=
  match s.ms.tlbLookup unit sp.asid va with
  | some t => if t.leaf &&& adBits k = adBits k then s else (srv s (lineOf t.entry) none).modMs (·.setAD t k)
  | none => s

/-- An access by a unit that waits for no miss (R30, R60): held, or walked inside the operation; A and D are set when it
proceeds. The access carries the partition of its space (R65). -/
def State.xlateWith (srv : Serve) (s : State) (unit : Nat) (sp : Space) (va : W64) (k : Access) : Xl × State :=
  let s := s.modMs fun ms => { ms with tag := sp.part }
  let s := if (s.ms.tlbLookup unit sp.asid va).isSome then s.modMs (·.tlbKeep unit sp.asid va) else s.walkBy srv unit sp va
  let r := xlate s.ms unit sp va k true
  match r with
  | .ok _ => (r, s.touchBy srv unit sp va k)
  | _ => (r, s)

/-- A line is recalled from a tile. Its write-back is a write to its page, translated when it is made, which sets D (R29,
R55). A page fault holds it, and nobody sees the bytes before (R35); where the page no longer admits the write they stay
unwritten (log entry 12). -/
def State.recallTile (srv : Serve) (s : State) (w : Wg) (t : Tile) (line k : Nat) : State :=
  let r := s.xlateWith srv w.core (s.space w) t.vpage .write
  let s1 := r.2.modMs fun ms => { ms with tag := s.ms.tag }
  match r.1 with
  | .ok loc =>
    ((s1.tileTouch (t.onlyLine k) loc).modMs (·.tileWrite w.core (s.space w).part (t.onlyLine k) (line - 128 * k))).modTile w.id t.idx (·.dropLine k)
  | .fault => (s1.modMs (·.faultNote (s.space w).asid t.vpage)).modTile w.id t.idx (·.holdLine k)
  | _ => s1.modTile w.id t.idx (·.dropLine k)

/-- A line is recalled from its owner, but for the L1 of `keep`. -/
def State.recallBy (srv : Serve) (s : State) (line : Nat) (keep : Option Nat) : State :=
  (s.ex.wgs.foldl (fun s w => w.tiles.foldl (fun s t =>
    match s.ownsLine w t line with
    | none => s
    | some k => s.recallTile srv w t line k) s) s).modMs (·.recallL1 line keep)

/-- A way of the line's set is free, or holds it. -/
def MemSys.l2HasRoom (ms : MemSys) (line : Nat) : Bool :=
  locTgt line == 2 || (ms.l2.any fun x => x.line == line && x.set == ms.setOf line)
    || decide ((ms.l2.filter fun x => x.mate line (ms.setOf line)).length < 16)

/-- A slice has 16 ways (R63): when the set of a line is full, a line of it is replaced, one that no wait for an overflow
slot holds there if there is one (log entry 84): its owner is recalled, and its dirty sectors are written to memory. -/
def State.roomBy (srv : Serve) (s : State) (line : Nat) : State :=
  if s.ms.l2HasRoom line then s
  else
    let mates := s.ms.l2.filter fun x => x.mate line (s.ms.setOf line)
    let k := Config.victim s.ms.replaced % mates.length
    (mates.drop k ++ mates.take k).foldl (fun s x =>
        if s.ms.l2HasRoom line then s else (s.recallBy srv x.line none).modMs (·.l2Drop x.line))
      (s.modMs fun ms => { ms with replaced := ms.replaced + 1 })

/-- A slice serves a line, with recalls inside recalls down to a depth. -/
def State.serveN : Nat → Serve
  | 0, s, line, keep => s.recallRaw line keep
  | n + 1, s, line, keep =>
    let srv : Serve := fun s line keep => State.serveN n s line keep
    (s.roomBy srv line).recallBy srv line keep

/-- As many recalls can stand one inside another as there are tiles. -/
def State.depth (s : State) : Nat := s.ex.wgs.foldl (fun n w => n + w.tiles.length) 2

/-- THE HOME SLICE SERVES AN ACCESS (R63, R69): it has a way for the line, and ownership is recalled from whatever holds it
but the L1 of `keep`. -/
def State.recall (s : State) (line : Nat) (keep : Option Nat) : State := State.serveN s.depth s line keep

/-- A line is recalled from its owner. -/
def State.recallOwned (s : State) (line : Nat) (keep : Option Nat) : State := s.recallBy State.recall line keep

/-- The set of a line has a way for it. -/
def State.l2Room (s : State) (line : Nat) : State := s.roomBy State.recall line

/-- A line leaves its L2 slice (R63): its owner is recalled, and its dirty sectors are written to memory. -/
def State.evictL2 (s : State) (line : Nat) : State := (s.recallOwned line none).modMs (·.l2Drop line)

/-- A walk for a unit. -/
def State.walkFor (s : State) (unit : Nat) (sp : Space) (va : W64) : State := s.walkBy State.recall unit sp va

/-- The translation of an access by a unit that waits for no miss. -/
def State.xlateBy (s : State) (unit : Nat) (sp : Space) (va : W64) (k : Access) : Xl × State := s.xlateWith State.recall unit sp va k

/-- Translation is kept and A and D are set by an access that proceeds (R29, R30). -/
def State.used (s : State) (w : Wg) (va : W64) (k : Access) : State := (s.xlateBy w.core (s.space w) va k).2

/-- The home slice has a line at hand: owners recalled (R69), the sector filled (R63, R64). -/
def State.openHome (s : State) (loc : Nat) : State := (s.recall (lineOf loc) none).modMs (·.l2Fill (sectorOf loc))

/-- The lines of a tile with dirty bytes. -/
def Tile.dirtyLines (t : Tile) : List Nat := t.dirty.foldr (fun o l => insertNat (o / 128) l) []

/-- The write-back of a whole tile, line by line. A block whose page no longer admits the write keeps its bytes unwritten (log
entry 12). -/
def State.drainTile (s : State) (w : Wg) (t : Tile) : State × Bool :=
  if t.dirty.isEmpty then (s, true)
  else
    let r := s.xlateBy (engineUnit w.core) (s.space w) t.vpage .write
    match r.1 with
    | .ok loc =>
      if r.2.unreachable loc then (r.2.blame w.id r.2.dropWrite, true)
      else (t.dirtyLines.foldl (fun s k =>
        (s.l2Room (loc + 128 * k)).modMs (·.tileWrite w.core (s.space w).part (t.onlyLine k) loc)) (r.2.tileTouch t loc), true)
    | _ => (r.2, false)

/-- What `f` does for a partition (R65). -/
def State.forPart (s : State) (p : BitVec 4) (f : State → State) : State :=
  (f (s.modMs fun ms => { ms with tag := p })).modMs fun ms => { ms with tag := s.ms.tag }

/-- A dirty sector of an L1 reaches its home. -/
def State.writeBack (s : State) (x : L1Sector) : State :=
  s.forPart x.part fun s => (s.recall (lineOf x.loc) (some x.core)).modMs (·.writeRaw x)

/-- A sector leaves an L1, written back if dirty. -/
def State.evictSector (s : State) (core sec : Nat) : State :=
  match s.ms.l1Find core sec with
  | some x => (s.writeBack x).modMs (·.l1Del core sec)
  | none => s

/-- A line leaves an L1; the core gives it up if it owns it (R69). -/
def State.evictLine (s : State) (core line : Nat) : State :=
  (List.range 4).foldl (fun s k => s.evictSector core (line + 32 * k)) s

/-- The set of an L1 that a line lies in: virtual address bits 14:7, which are the location's (R49). -/
def l1Set (loc : Nat) : Nat := loc / 128 % 256

/-- The lines that an L1 holds in a set. -/
def MemSys.l1Lines (ms : MemSys) (core set : Nat) : List Nat :=
  ((ms.l1.filter fun x => x.core == core && l1Set x.loc == set).map fun x => lineOf x.loc).eraseDups

/-- An L1 has 4 × m ways (R47, R49): when the set of a line is full, a line of it is replaced. -/
def State.l1Room (s : State) (core line : Nat) : State :=
  let lines := s.ms.l1Lines core (l1Set line)
  if lines.contains line || decide (lines.length < 4 * (s.core core).split) then s
  else match lines[Config.victim s.ms.replaced % lines.length]? with
    | some v => (s.modMs fun ms => { ms with replaced := ms.replaced + 1 }).evictLine core v
    | none => s

/-- The dirty sectors of a core reach their homes: a release at `.die` and wider (R134) cleans those it does not own;
pre-emption and a workgroup's exit clean all (R50). -/
def State.cleanCore (s : State) (core : Nat) (owned : Bool) : State :=
  (s.ms.l1.filter fun x => x.core == core && x.dirty != 0 && (owned || !x.owned)).foldl State.writeBack s

/-- A sector is filled into an L1 from its home. -/
def State.fillSector (s : State) (core sec : Nat) (own : Bool) : State :=
  ((s.l1Room core (lineOf sec)).recall (lineOf sec) (some core)).modMs (·.l1Fill core sec own)

/-- A core's own copy of a sector that it does not own: written back and dropped, before an update of its own at the
home. -/
def State.shedSector (s : State) (core sec : Nat) : State :=
  match s.ms.l1Find core sec with
  | some x => if x.owned then s else s.evictSector core sec
  | none => s

/-! ### The ownership directory (R69) -/

/-- An entry's owner still holds the line. -/
def State.holds (s : State) (e : DirEntry) : Bool :=
  if e.stash then s.ex.wgs.any fun w => w.core == e.core && w.tiles.any fun t => (s.ownsLine w t e.line).isSome
  else s.ms.l1Owns e.core e.line

/-- The entries of a line's slice whose owners hold their lines, oldest grant first. -/
def State.directory (s : State) (line : Nat) : List DirEntry :=
  s.ms.dir.filter fun e => homeDie e.line == homeDie line && l2Slice e.line == l2Slice line && s.holds e

/-- OWNERSHIP IS GRANTED, once other owners are recalled: the directory has 8,192 entries, and when it is full the entry
granted longest ago is recalled first (R69). The home slice holds the line, in one set (R67). -/
def State.grant (s : State) (core line : Nat) (stash : Bool) : State :=
  let d := s.directory line
  if d.any fun e => e.line == line && e.core == core then s
  else
    let s := match d with
      | e :: _ => if d.length < 8192 then s else s.recallOwned e.line none
      | [] => s
    { s with ms := { s.ms.l2Merge line 0 with
        dir := (s.ms.dir.filter fun e => s.holds e && e.line != line) ++ [{ line := line, core := core, stash := stash }] } }

/-! ### The end of a workgroup (R169) -/

/-- A write-back of a tile meets a page fault and is held (R35, R55). -/
def State.drainFaults (s : State) (w : Wg) (t : Tile) : Bool :=
  !t.dirty.isEmpty && (walkOutcome s.ms (s.space w) t.vpage .write == .fault)

/-- A write-back of a tile is held: by a page fault, or while the region of its block migrates (R40). -/
def State.drainHeld (s : State) (w : Wg) (t : Tile) : Bool :=
  s.drainFaults w t || (!t.dirty.isEmpty && (s.tileLoc w t).any s.ms.migrating)

/-- The matrix slots of a quarter are given up, once no work of the workgroup is queued there (R292, R357). -/
def MxQuarter.giveUp (q : MxQuarter) : MxQuarter :=
  if q.steps.isEmpty && q.cell.isNone then { q with slots := [none, none, none, none] } else q

/-- A halted core that holds no workgroup reports itself (R406). -/
def State.reportHalted (s : State) (core : Nat) : State :=
  if (s.core core).halted && !(s.ex.wgs.any fun w => w.onCore core) then s.note (.coreHalted core) else s

/-- Every non-helper lane has exited: tiles are written back and released, tables, slots and holds are given up, and
the core's dirty sectors leave (R50, R53, R107, R232). The flits that its queues still hold keep their credits until the node
ends: R124 returns the credits of flits that arrive later, and does not speak of these (DESIGN CHOICE, log entry 94). -/
def State.endWg (s : State) (id : Nat) : State :=
  match s.wg? id with
  | none => s
  | some w =>
    let s := w.tiles.foldl (fun s t => if s.drainHeld w t then s else (s.drainTile w t).1) s
    let s := s.cleanCore w.core true
    let s := s.modWg id fun w => { w with
      place := .ended w.core, drift := [none, none, none, none]
      tiles := (w.tiles.filter fun t => s.drainHeld w t).map fun t => { t with freeing := true, queue := [] }
      itr := w.itr.map fun x => { x with bound := false }
      mx := w.mx.map MxQuarter.giveUp }
    let s := { s with ex := { s.ex with ops := s.ex.ops.filter fun o => !(o.wg == id &&
      (match o.kind with | .tfill _ => true | .tdrain _ => true | _ => false)) } }
    ({ s with net := { s.net with links := s.net.links.map fun (l : Link) =>
        match l.hold with
        | some h => if h.1 == id then { l with hold := none } else l
        | none => l } }).reportHalted w.core

/-- The lane's own part of an exit. -/
def Lane.ended (l : Lane) : Lane :=
  { l with exited := true, wait := .none, nopre := 0, marks := [], since := none, slotFrom := none, retry := false, pipe := false, atTile := [], atPort := false }

/-- A lane ends (R169, R292): drops at its barriers, leaves its convergence declarations; the helpers that shadow it end
with it, and the last one ends the workgroup. The drop counts in the step in which the workgroup's dirty sectors leave its core
(DESIGN CHOICE, log entry 100). -/
def State.exitLane (s : State) (id i : Nat) : State :=
  match s.wg? id with
  | none => s
  | some w =>
    if (w.lane i).exited then s
    else
      let isShadow := w.shadow (i / 4) == some i
      let k := barKey id i
      let s := s.modWg id fun w =>
        let w := { w with lanes := upd w.lanes i Lane.ended, bars := w.bars.map (fun (b : Barrier) => b.leave k) }
        let w := if isShadow then
            { w with lanes := (List.range 4).foldl (fun ls j => upd ls (4 * (i / 4) + j) fun l => if l.helper then l.ended else l) w.lanes }
          else w
        w.dropCv s.ck.free s.ck.nextId i
      let s := { (s.freshIds 8).tickFree with net := { s.net with trees := s.net.trees.map (fun (b : Barrier) => b.leave k) } }
      match s.wg? id with
      | none => s
      | some w => if w.lanes.any Lane.live then s else s.endWg id

/-! ### Taking a trap (R411, R412) -/

/-- The trap goes to the module OS: poison, no handler, or a trap inside a handler. -/
def Lane.toOs (l : Lane) (cause : Nat) : Bool :=
  cause == 13 || bits l.tbase 51 9 == 0 || l.tstatus.getLsbD 63

/-- `tstatus` at a trap (Table 18-4). -/
def packStatus (clt eng : Bool) (rep nopre : Nat) : W64 :=
  BitVec.ofNat 64 (2 ^ 63 + (if clt then 2 ^ 62 else 0) + (if eng then 2 ^ 61 else 0) + rep % 16 * 2 ^ 57 + nopre % 16 * 2 ^ 53)

/-- Address bits of a code address (Table 18-3). -/
def pcMask (a : W64) : W64 := BitVec.ofNat 64 (bits a 51 3 * 8)

/-- The handler's clause header (R411): VEC × 512 + 32 × CAUSE. -/
def vectorOf (tbase : W64) (cause : Nat) : W64 := BitVec.ofNat 64 (bits tbase 51 9 * 512 + 32 * cause)

/-- The entries that a read of a queue had marked empty hold their values again: the read has its flit, or it is given
up (R186). -/
def Lane.unowe (l : Lane) : Lane :=
  { l with v := l.owed.foldl (fun v e => v.set e { v.getD e {} with full := true }) l.v, owed := [] }

/-- A read of a queue waits for its flit: its destination is empty (R186). -/
def Lane.owing (l : Lane) (es : List Nat) : Lane :=
  { l with v := es.foldl (fun v e => v.set e { v.getD e {} with full := false }) l.v, owed := es }

/-- A kernel trap is delivered to the lane: the trap registers are written and the lane goes on at its vector; nothing
else of it changes. -/
def Lane.deliver (l0 : Lane) (cause : Nat) (tval : W64) (clt eng : Bool) : Lane :=
  let l := l0.unowe
  { l with
    tcause := BitVec.ofNat 64 (cause % 256)
    tval := tval
    tpc := pcMask l.pc
    tclause := l.clause
    tset := false
    tstatus := packStatus clt eng l.rep l.nopre
    pc := vectorOf l.tbase cause
    clause := vectorOf l.tbase cause
    flits := [], code := [], gang := 0, hint := false
    rep := 0, wait := .none, walked := [], since := none, slotFrom := none, retry := false, atTile := [] }

/-- A trap that goes to the module OS ends the thread as a kill, and the node's log and CODE say so (R412, R422,
R461). -/
def State.kill (s : State) (id i : Nat) (cause : Nat) (tval : W64) : State :=
  match s.wg? id with
  | none => s
  | some w =>
    if (w.lane i).exited then s
    else
      let e : TrapLog := { wg := w.index, lane := i, cause := cause, tval := tval, tpc := pcMask (w.lane i).pc }
      let s := s.modNode w.node fun n =>
        let n := { n with log := n.log ++ [e], killed := if cause = 13 then min (n.killed + 1) 0xFFFFFFFF else n.killed }
        n.fail (if cause = 13 && n.segment then 5 else 2)
      s.exitLane id i

def mapLanes (f : Nat → Lane → Lane) : Nat → List Lane → List Lane
  | _, [] => []
  | k, l :: ls => f k l :: mapLanes f (k + 1) ls

/-- Flits taken, at the head of their queues again. -/
def returnFlits (fl : List (Nat × W32)) (qrx : List (List W32)) : List (List W32) :=
  fl.foldr (fun (x : Nat × W32) q => q.set x.1 (x.2 :: q.getD x.1 [])) qrx

/-- Flits that a lane kept for an instruction that traps go back to the head of their queues: the trap is precise, and
the instruction pops them again (R123, R268). -/
def Wg.giveBack (w : Wg) (i : Nat) : Wg :=
  ({ w with qrx := returnFlits (w.lane i).flits w.qrx } : Wg).modLane i fun l => { l with flits := [] }

/-- A helper is at the pc of the lane it shadows, and waits at a group-wide instruction while that lane does (R168). -/
def Wg.syncHelpers (w : Wg) : Wg :=
  { w with lanes := mapLanes (fun i l =>
      if l.helper && !l.exited then
        match w.shadow (i / 4) with
        | some j => let x := w.lane j
                    { l with pc := x.pc, clause := x.clause, rep := x.rep, d := x.d, lo := x.lo, code := x.code, gang := x.gang
                             wait := match x.wait with
                               | .group .. | .result _ => l.wait
                               | _ => .none }
        | none => l
      else l) 0 w.lanes }

/-- TAKING A TRAP: the one shared operation. A helper takes none, and follows the lane it shadows (R168). -/
def State.takeTrap (s : State) (id i : Nat) (cause : Nat) (tval : W64) (clt eng : Bool) : State :=
  match s.wg? id with
  | none => s
  | some w =>
    let l := w.lane i
    if l.helper || l.exited then s
    else
      let s := s.modWg id (·.giveBack i)
      if l.toOs cause then s.kill id i cause tval
      else s.modWg id fun w => (w.modLane i fun l => l.deliver cause tval clt eng).syncHelpers

/-- The return from a trap (R413): INH is cleared and the lane resumes at `tpc`, in the clause whose header is `c`, a REP at
REPR. -/
def Lane.retTrap (l : Lane) (c : W64) : Lane :=
  { l with
    tstatus := l.tstatus &&& ~~~ (1#64 <<< 63)
    pc := l.tpc
    clause := c
    rep := bits l.tstatus 60 57 }

/-! ### One gang instance (R172, R272) -/

/-- An effect of a lane outside itself. -/
inductive Fx where
  /-- A scalar of the lane's group is written. -/
  | scal (n : Nat) (r : Reg)
  /-- A flit is sent through a send register. -/
  | send (q : Nat) (v : W32)
  /-- An acquire at a scope (R142). -/
  | acquire (scope : Nat)
  /-- A memory access, or what a waiting lane starts. -/
  | act (f : State → State)
  /-- A store has written `n` bytes from a location on, or from a byte of a tile (workgroup and index). -/
  | stored (tile : Option (Nat × Nat)) (loc n : Nat) (poison : Bool)

/-- What one lane does at an instruction. -/
inductive LOut where
  /-- Executed; the lane goes on at the next slot, or the next repetition. -/
  | done (l : Lane) (fx : List Fx)
  /-- Executed with its own next pc. -/
  | go (l : Lane) (fx : List Fx)
  /-- Not executed: the lane stays. -/
  | stay (l : Lane)
  /-- Not executed: the lane stays, and what it waits for is started. -/
  | wait (l : Lane) (fx : List Fx)
  | trap (l : Lane) (cause : Nat) (tval : W64) (eng : Bool)
  /-- A trap of the kernel's, with effects that the attempt leaves outside the lane. -/
  | trapFx (l : Lane) (cause : Nat) (tval : W64) (fx : List Fx)
  /-- Executed: the lane ends (EXIT). -/
  | exit (l : Lane)

/-- The lane has arrived at a group-wide instruction or at a barrier, and waits for others (R176, R116). -/
def Lane.partnered (l : Lane) : Bool :=
  match l.wait with
  | .group .. => true
  | .barrier .. => true
  | _ => false

/-- The lane makes its quad drop out. One that has arrived and waits for others does not: the others of its quad proceed
(Table 8-5). -/
def LOut.stays : LOut → Bool
  | .stay _ => true
  | .wait l _ => !l.partnered
  | _ => false

def LOut.fx : LOut → List Fx
  | .done _ fx => fx
  | .go _ fx => fx
  | .wait _ fx => fx
  | .trapFx _ _ _ fx => fx
  | _ => []

/-- The lane leaves its clause, and its gang with it; after a clause with the Y hint it is passed over once (R250). -/
def Lane.leave (l : Lane) : Lane := { l with hint := (l.code.headD 0).getLsbD 27, code := [], gang := 0 }

/-- The lane past an instruction: the next repetition of a REP, or the next slot (R259, R294). -/
def Lane.advance (g : Gang) (l : Lane) : Lane :=
  if l.rep + 1 < g.k then { l with rep := l.rep + 1, flits := [], walked := [], since := none, slotFrom := none, retry := false, atTile := [] }
  else
    let l := { l with pc := g.next, clause := g.nextClause, rep := 0, flits := [], walked := [], since := none, slotFrom := none, retry := false, atTile := [] }
    if g.nextClause = g.clause then l else l.leave

/-- A lane whose wait at an instruction is over goes on: at the next repetition, or at the next slot (R259). -/
def Lane.goOn (l : Lane) (next nextClause : W64) (k : Nat) : Lane :=
  let l1 := { l with wait := .none, since := none, slotFrom := none, retry := false, gang := 0 }
  if l.rep + 1 < k then { l1 with rep := l.rep + 1 }
  else
    let l2 := { l1 with pc := next, clause := nextClause, rep := 0 }
    if nextClause = l.clause then l2 else l2.leave

/-- A lane that waits at its instruction: its quad has dropped out of the gang (R171). -/
def Lane.stalled (now : Nat) (l : Lane) : Lane := { l with since := some (l.since.getD now), gang := 0, retry := false }

/-- A quad of the gang drops out when one of its lanes waits (R61, R171). -/
def quadStays (g : Gang) (w : Wg) (out : Nat → Lane → LOut) (q : Nat) : Bool :=
  g.lanes.any fun j => j / 4 == q && (out j (w.lane j)).stays

/-- Lane `i` after the instruction; traps that go to the module OS leave the lane for `State.takeTrap`. -/
def laneAfter (g : Gang) (w : Wg) (now : Nat) (out : Nat → Lane → LOut) (i : Nat) (l : Lane) : Lane :=
  if !g.lanes.contains i then l
  else if quadStays g w out (i / 4) then
    match out i l with
    | .stay l' => l'.stalled now
    | .wait l' _ => if l'.partnered && !l.partnered then l.stalled now else l'.stalled now
    | _ => l.stalled now
  else match out i l with
    | .done l' _ => l'.advance g
    | .go l' _ => { l'.leave with walked := [], since := none, slotFrom := none, retry := false, atTile := [] }
    | .stay l' => l'
    | .wait l' _ => l'.stalled now
    | .trap l' c t e => if l'.toOs c then { l' with flits := [] } else l'.deliver c t false e
    | .trapFx l' c t _ => if l'.toOs c then { l' with flits := [] } else l'.deliver c t false false
    | .exit l' => l'

/-- The lane's own trap ends the instruction in it. -/
def LOut.isTrap : LOut → Bool
  | .trap .. => true
  | .trapFx .. => true
  | _ => false

/-- The flits of the lanes that trap go back, the lowest lane's to the front. -/
def giveBacks (g : Gang) (w : Wg) (out : Nat → Lane → LOut) (w1 : Wg) : Wg :=
  g.lanes.foldr (fun i w1 =>
    if !(w.lane i).flits.isEmpty && !quadStays g w out (i / 4) && (out i (w.lane i)).isTrap then
      { w1 with qrx := returnFlits (w.lane i).flits w1.qrx }
    else w1) w1

/-- The effects of a lane that executed; from a quad that dropped out, what its lanes wait for. It has not arrived where it
would wait for others. -/
def laneFx (g : Gang) (w : Wg) (out : Nat → Lane → LOut) (i : Nat) : List (Nat × Fx) :=
  if quadStays g w out (i / 4) then
    match out i (w.lane i) with
    | .wait l fx => if l.partnered then [] else fx.map fun x => (i, x)
    | _ => []
  else (out i (w.lane i)).fx.map fun x => (i, x)

/-- A scalar is written in a group (R184). -/
def Wg.putScalar (w : Wg) (k n : Nat) (r : Reg) : Wg :=
  { w with groups := upd w.groups k fun g => { g with s := g.s.set n r } }

/-- A flit is on its way to a receive queue of the sender's node (R121, R122). -/
def State.sendFlit (s : State) (id lane idx rq : Nat) (v : W32) : State :=
  match s.wg? id with
  | none => s
  | some w => { s with net := { s.net with flits := s.net.flits ++
      [{ srcWg := id, srcLane := lane, node := w.node, index := idx, queue := rq, data := v }] } }

/-- An effect is applied. The core map translates a bound send register at each send (R121). -/
def State.applyFx (s : State) (id core : Nat) (x : Nat × Fx) : State :=
  match x.2 with
  | .scal n r => s.modWg id fun w => w.putScalar (w.grpOf x.1) n r
  | .send q v =>
    match s.wg? id with
    | none => s
    | some w =>
      match w.qtx.getD q none with
      | none => s
      | some (idx, rq) => s.sendFlit id x.1 idx rq v
  | .acquire sc => if 3 ≤ sc then s.modMs (·.dropClean core) else s
  | .act f => f s
  | .stored .. => s

/-- Lanes whose trap goes to the module OS, and lanes that exit, in ascending order. -/
def laneEnd (g : Gang) (w : Wg) (out : Nat → Lane → LOut) (s : State) (i : Nat) : State :=
  if quadStays g w out (i / 4) then s
  else match out i (w.lane i) with
    | .trap l' c t _ => if l'.toOs c then s.takeTrap w.id i c t false false else s
    | .trapFx l' c t _ => if l'.toOs c then s.takeTrap w.id i c t false false else s
    | .exit _ => s.exitLane w.id i
    | _ => s

/-- ONE GANG INSTANCE: every lane of the gang takes its own outcome, read from the workgroup as it stood. -/
def State.runLanes (s : State) (g : Gang) (w : Wg) (out : Nat → Lane → LOut) : State :=
  let w1 := (giveBacks g w out { w with lanes := mapLanes (laneAfter g w s.ck.now out) 0 w.lanes }).syncHelpers
  let s1 := s.setWg w1
  let s2 := (g.lanes.flatMap (laneFx g w out)).foldl (fun s x => s.applyFx w.id w.core x) s1
  g.lanes.foldl (laneEnd g w out) s2

/-- The gang and its workgroup. -/
def State.withGang (s : State) (k : Gang → Wg → Out) : Out :=
  match s.ex.gang with
  | none => .fault .noGang
  | some g =>
    match s.wg? g.wg with
    | none => .fault .noGang
    | some w => k g w

/-- The `tval` of a decoding trap (R268). -/
def slotVal (g : Gang) (sub : Nat) : W64 := BitVec.ofNat 64 (g.slot % 256 * 256 + sub)

/-- Every active lane takes one trap (R268); a helper does what `zero` says instead (R168). -/
def State.trapAll (s : State) (g : Gang) (w : Wg) (cause : Nat) (tval : W64) (zero : Lane → Lane := id) : State :=
  s.runLanes g w fun _ l => if l.helper then .done (zero l) [] else .trap l cause tval false

/-! ### Residue errors and the injector (R456, R462, R414) -/

/-- One draw of the injector. -/
def xorshift (x : W32) : W32 :=
  let x := x ^^^ (x <<< 13)
  let x := x ^^^ (x >>> 17)
  x ^^^ (x <<< 5)

/-- Draws for `n` operations: the state after, and whether one injects. -/
def draws (rate : W32) : Nat → W32 → W32 × Bool
  | 0, x => (x, false)
  | n + 1, x =>
    let x := xorshift x
    let r := draws rate n x
    (r.1, r.2 || decide (x.toNat < rate.toNat))

/-- A save is asked for by a source of Table 18-7 (R415). A request of the in-field test may be skipped, so another source's
stands before it; a quarantine's, which honours no region, before all. -/
def Wg.ask (w : Wg) (why : SaveCause) : Wg :=
  { w with saveAsked := match w.saveAsked with
      | none => some why
      | some .test => some why
      | some c => some (if why = .quarantine then why else c) }

/-- The residents of a core are asked to be saved. -/
def State.askAll (s : State) (core : Nat) (why : SaveCause) : State :=
  { s with ex := { s.ex with wgs := s.ex.wgs.map fun w => if w.onCore core then w.ask why else w } }

/-- The core is quarantined; its resident workgroups are asked to be saved, whatever their regions (R414). -/
def State.quarantine (s : State) (core : Nat) : State :=
  (s.modCore core fun c => { c with quarantined := true }).askAll core .quarantine

/-- A pipeline-error trap: the instruction has not taken effect, the event is logged for each lane that takes it, no helper
(R168), and these lanes stay at it until they are saved; the core is quarantined. -/
def State.pipelineError (s : State) (g : Gang) (w : Wg) (unit : Nat) (injected : Bool) : State :=
  let s := s.modNode w.node fun n => { n with log := n.log ++ (g.lanes.filter fun i => !(w.lane i).helper).map fun i =>
    { wg := w.index, lane := i, cause := 14, tval := BitVec.ofNat 64 unit, tpc := pcMask (w.lane i).pc } }
  let s := s.modWg w.id fun w => { w with lanes := mapLanes (fun i l =>
    if g.lanes.contains i then { l with inject := 0, pipe := true, since := some (l.since.getD s.ck.now) } else l) 0 w.lanes }
  (s.note (.residue w.core unit injected)).quarantine w.core

/-- Mismatches that ERRINJ has left for the operation of some lanes (R404). -/
def Wg.injected (w : Wg) (unit : Nat) (execs : List Nat) : Nat :=
  if unit = 0 then execs.foldl (fun m i => max m (w.lane i).inject) 0 else 0

/-- The injector draws once for each residue-checked operation of a lane in a test context (R462). -/
def State.drawCount (s : State) (w : Wg) (execs : List Nat) : Nat := if (s.space w).t then execs.length else 0

/-- The draws that inject nothing. -/
def State.drawn (s : State) (w : Wg) (n : Nat) : State :=
  if n = 0 then s else s.modCore w.core fun c => { c with x := (draws c.errrate n c.x).1 }

/-- The residue check of one gang instance (R456): `execs` are the lanes that execute. A mismatch, injected or the
hardware's, has the unit execute once more; a second one is a pipeline-error trap. -/
def State.residue (s : State) (g : Gang) (w : Wg) (unit : Nat) (execs : List Nat) (k : State → Wg → Out) : Out :=
  let c := s.core w.core
  let inj := w.injected unit execs
  let n := s.drawCount w execs
  let real := if execs.isEmpty then 0 else c.mismatch.getD unit 0
  let d1 := draws c.errrate n c.x
  if unit = 5 then k s w
  else if inj = 0 && real = 0 && !d1.2 then k (s.drawn w n) w
  else
    let d2 := draws c.errrate n d1.1
    let again := d2.2 || decide (1 < inj)
    let s := s.modCore w.core fun c =>
      { c with x := d2.1, retries := c.retries + 1, mismatch := if execs.isEmpty then c.mismatch else c.mismatch.set unit 0 }
    if again || decide (1 < real) then .next (s.pipelineError g w unit again)
    else
      let w := if unit = 0 then { w with lanes := mapLanes (fun i l => if execs.contains i then { l with inject := 0 } else l) 0 w.lanes } else w
      k s w

end Sys2Proof.Machine
end

