-- ==== Sys2Proof/Machine/Operands.lean ====
section
/-! DEFINITION. Operand forms: which fields an instruction reads, when a lane must wait or trap for them, the A modifier,
destinations, and the frame every per-lane instruction runs in (12 R252 to R258, 13 R272). -/
namespace Sys2Proof.Machine

/-- The field is read as a value. -/
def SRole.reads : SRole → Bool
  | .blank | .handle | .vrange _ | .qrx | .quad => false
  | _ => true

/-- The registers DST writes are wide. -/
def DRole.wide : DRole → Bool
  | .dst w | .scal w | .vreg w | .vz w | .data w => w
  | _ => false

/-- Values of the sources, their poison, and the encoding of the first poisoned one (Table 18-1, code 13). -/
structure Vals where
  a  : W64 := 0
  b  : W64 := 0
  c  : W64 := 0
  pa : Bool := false
  pb : Bool := false
  pc : Bool := false
  /-- Encoding of the first poisoned source. -/
  tag : W64 := 0
  deriving DecidableEq, Repr

/-- Any source that was read is poisoned (R273). -/
def Vals.poison (v : Vals) : Bool := v.pa || v.pb || v.pc

/-- One source to read: the lane it belongs to, that lane, operand, width, trap bit, its place among the qrx fields. -/
structure Src where
  i    : Nat
  l    : Lane
  o    : Operand
  wide : Bool
  trap : Bool
  nth  : Nat

def isQrx : Operand → Bool
  | .qrx _ => true
  | _ => false

/-! ### The A modifier (R258) -/

/-- The source lane's index in the group, for the lane of index `l`. -/
def AMod.from (m : AMod) (l : Nat) : Nat :=
  let n := 2 ^ m.seg
  let b := l - l % n
  if m.cls = 1 then b + (l % n + m.dist) % n
  else if m.cls = 2 then l ^^^ m.dist
  else b + m.dist

/-- A lane that can be a source of another: in this gang instance, in the group, not exited, no helper, its quad not among
those that drop out here (R171). -/
def Cx.canGive (cx : Cx) (away : List Nat) (k j : Nat) : Bool :=
  let n := cx.w.grpFirst k + j
  decide (j < cx.w.grpCount k) && cx.g.lanes.contains n && (cx.w.lane n).live && !away.contains (n / 4)

/-- The lane whose A is read: another lane, the lane itself, or nobody (zero). -/
def aSource (cx : Cx) (am : Bool) (away : List Nat) (f : Fields) (i : Nat) (l : Lane) : Option (Nat × Lane) :=
  let m := AMod.of f.q
  if !am || m.cls = 0 then some (i, l)
  else
    let k := cx.w.grpOf i
    let j := m.from (i - cx.w.grpFirst k)
    if cx.canGive away k j then
      let n := cx.w.grpFirst k + j
      some (n, if n = i then l else cx.w.lane n)
    else if m.fill then none
    else some (i, l)

/-! ### Sends (R121, R122) -/

/-- A send through a register without a binding traps (R121). -/
def unboundStop (cx : Cx) (r : DRole) (f : Fields) (l : Lane) : Option LOut :=
  match r, f.dst with
  | .qtx, _ => none
  | _, .qtx q => if !l.helper && (cx.w.qtx.getD q.val none).isNone then some (.trap l 3 (slotVal cx.g 4) false) else none
  | _, _ => none

/-- The lane's send finds no credit left by the lanes before it (R122). -/
def creditStop (cx : Cx) (f : Fields) (i : Nat) (l : Lane) : Bool :=
  match f.dst with
  | .qtx _ => !l.helper &&
      decide (cx.credit ≤ (cx.g.lanes.filter fun j => decide (j < i) && (cx.w.lane j).live && (cx.w.lane j).guard f).length)
  | _ => false

/-! ### Destinations that a writer waits for -/

/-- A destination whose producer is pending makes the writer wait (R186, R275). -/
def dstBusy (cx : Cx) (i : Nat) (l : Lane) (r : DRole) (o : Operand) : Bool :=
  match r, o with
  | .blank, _ => false
  | .data _, _ => false
  | .any, _ => false
  | .vrange k, .v n => (List.range k).any fun j => !(l.reg (n.val + j)).full
  | .vrun k, .v n => (List.range k).any fun j => !(l.reg (n.val + j)).full
  | _, .v n => !(l.reg n.val).full || (r.wide && !(l.reg (n.val + 1)).full)
  | _, .s n => !(cx.scalar i n.val).full || (r.wide && !(cx.scalar i (n.val + 1)).full)
  | _, .h n => !(l.handle n.val).full
  | _, .p n => l.predBusy n.val
  | _, _ => false

/-- A lane waits for what is its own: its guard's predicate, B, C, the destination, a credit. -/
def ownStop (cx : Cx) (sg : Sig) (f : Fields) (i : Nat) (l : Lane) : Bool :=
  l.predBusy f.gp.toNat || (l.guard f &&
    ((sg.b.reads && (srcEmpty cx i l f.b sg.b.wide (if isQrx f.a then 1 else 0) || srcBusy l f.b))
      || (sg.c.reads && (srcEmpty cx i l f.c sg.c.wide ((if isQrx f.a then 1 else 0) + (if isQrx f.b then 1 else 0)) || srcBusy l f.c))
      || dstBusy cx i l sg.dst f.dst || creditStop cx f i l))

/-- One more round: with the quads found so far inactive, those with a lane that waits for what is its own, or for an A that
is empty. -/
def awayStep (cx : Cx) (sg : Sig) (f : Fields) (d : List Nat) : List Nat :=
  ((cx.g.lanes.filter fun i =>
    let l := cx.w.lane i
    d.contains (i / 4) || (!l.exited && (ownStop cx sg f i l || (l.guard f &&
      match aSource cx sg.am d f i l with
      | some (j, lj) => srcEmpty cx j lj f.a sg.a.wide 0
      | none => false)))).map (· / 4)).eraseDups

/-- THE QUADS OF THE GANG THAT DROP OUT at an instruction with an A modifier (R171): their lanes are inactive in this gang
instance, and give no A (R258). -/
def awayQuads (cx : Cx) (sg : Sig) (f : Fields) : List Nat :=
  if sg.am && (AMod.of f.q).cls != 0 then (List.range 16).foldl (fun d _ => awayStep cx sg f d) [] else []

/-- A per-lane instruction: its fields' roles, which of A, B and C a lane reads, further sources (a range, a store's
data), and what the lane does with the values. A further source: operand, width, trap bit. -/
structure LaneSpec where
  sig  : Sig
  use  : Lane → Fields → Bool × Bool × Bool := fun _ _ => (true, true, true)
  more : Fields → List (Operand × Bool × Bool) := fun _ => []
  /-- The lane whose A is read; none reads as zero. -/
  giver : Cx → Fields → Nat → Lane → Option (Nat × Lane) := fun cx f i l => aSource cx sig.am (awayQuads cx sig f) f i l
  /-- The instruction's own limits fail on the sources that are there (check 19, R268). -/
  bad : Cx → Nat → Lane → Fields → Bool := fun _ _ _ _ => false
  body : Cx → Nat → Lane → Fields → Vals → LOut

/-! ### Sources of a lane -/

def sources (cx : Cx) (sp : LaneSpec) (f : Fields) (i : Nat) (l : Lane) : List Src :=
  let u := sp.use l f
  let qa := if u.1 && isQrx f.a then 1 else 0
  let qb := if u.2.1 && isQrx f.b then 1 else 0
  (if u.1 && sp.sig.a.reads then
    match sp.giver cx f i l with
    | some (j, lj) => [{ i := j, l := lj, o := f.a, wide := sp.sig.a.wide, trap := f.ta, nth := 0 }]
    | none => []
  else []) ++
  (if u.2.1 && sp.sig.b.reads then [{ i, l, o := f.b, wide := sp.sig.b.wide, trap := f.tb, nth := qa }] else []) ++
  (if u.2.2 && sp.sig.c.reads then [{ i, l, o := f.c, wide := sp.sig.c.wide, trap := f.tc, nth := qa + qb }] else []) ++
  (sp.more f).map fun x => { i, l, o := x.1, wide := x.2.1, trap := x.2.2, nth := qa + qb }

def Src.empty (cx : Cx) (x : Src) : Bool := srcEmpty cx x.i x.l x.o x.wide x.nth || srcBusy x.l x.o
def Src.traps (cx : Cx) (x : Src) : Bool := x.trap && srcEmpty cx x.i x.l x.o x.wide x.nth

/-- Why a lane does not execute yet. -/
inductive Stop where
  | wait
  /-- With the marked source, and whether another lane's register carries the mark. -/
  | trap (cause : Nat) (tval : W64) (eng : Bool) (o : Operand) (wide : Bool) (other : Bool)
  deriving DecidableEq, Repr

/-- The trap left for the first reader of a source. A receiving thread of a failed pull takes it at another receiving lane's
destination as well as at its own (R239). -/
def Src.mark (cx : Cx) (i : Nat) (x : Src) : Option (ErrMark × Bool) :=
  (srcMark x.l x.o x.wide).filter fun m =>
    x.i == i || (!m.2 && (cx.w.lane i).marks.any fun y => y.cause == m.1.cause && y.tval == m.1.tval)

/-- An empty source with its trap bit traps; an empty one waits; then a trap left for the first reader is taken
(R186, R408, R239, R381). -/
def stopOf (cx : Cx) (i : Nat) (xs : List Src) : Option Stop :=
  match xs.find? (Src.traps cx) with
  | some x => some (.trap 4 (x.o.toByte.zeroExtend 64) false .zero false false)
  | none =>
    if xs.any (Src.empty cx) then some .wait
    else
      match xs.findSome? (fun x => (x.mark cx i).map fun m => (m, x)) with
      | some (m, x) => some (.trap m.1.cause m.1.tval m.2 x.o x.wide (x.i != i))
      | none => none

/-- The lane with the mark of the trap cleared. -/
def Lane.unmarked (l : Lane) (cause : Nat) (tval : W64) (o : Operand) (wide other : Bool) : Lane :=
  if other then { l with marks := l.marks.filter fun y => !(y.cause == cause && y.tval == tval) } else srcUnmark l o wide

/-- A field of 32 bits that is there: its value counts for a limit. -/
def limitOf (cx : Cx) (i : Nat) (l : Lane) (o : Operand) : Option Nat :=
  if srcEmpty cx i l o false 0 then none else some (lo32 (srcVal cx i l o false 0)).toNat

/-- The values a lane reads. -/
def valsOf (cx : Cx) (sp : LaneSpec) (f : Fields) (i : Nat) (l : Lane) : Vals :=
  let u := sp.use l f
  let qa := if u.1 && isQrx f.a then 1 else 0
  let qb := if u.2.1 && isQrx f.b then 1 else 0
  let ua := u.1 && sp.sig.a.reads
  let ub := u.2.1 && sp.sig.b.reads
  let uc := u.2.2 && sp.sig.c.reads
  let pa := ua && match sp.giver cx f i l with
    | some (j, lj) => srcPoison cx j lj f.a sp.sig.a.wide
    | none => false
  let pb := ub && srcPoison cx i l f.b sp.sig.b.wide
  let pc := uc && srcPoison cx i l f.c sp.sig.c.wide
  { a := if ua then (match sp.giver cx f i l with
      | some (j, lj) => srcVal cx j lj f.a sp.sig.a.wide 0
      | none => 0) else 0
    b := if ub then srcVal cx i l f.b sp.sig.b.wide qa else 0
    c := if uc then srcVal cx i l f.c sp.sig.c.wide (qa + qb) else 0
    pa, pb, pc
    tag := (if pa then f.a.toByte else if pb then f.b.toByte else f.c.toByte).zeroExtend 64 }

/-- The lane after its sources have been read. -/
def afterRead (xs : List Src) (i : Nat) (l : Lane) : Lane :=
  xs.foldl (fun l x => if x.i = i then srcDone l x.o x.wide else l) l

/-- The lane with the acquires that its reads would make still to be made: an instruction that does not execute has read
nothing (R407). -/
def Lane.unread (l0 l : Lane) : Lane := { l with h := l0.h, racq := l0.racq, sracq := l0.sracq, pracq := l0.pracq, mxHeld := l0.mxHeld }

/-- What an instruction comes to that started from the lane `l0` and has read its sources. -/
def LOut.unread (l0 : Lane) : LOut → LOut
  | .stay l => .stay (l0.unread l)
  | .wait l fx => if l.partnered then .wait l fx else .wait (l0.unread l) fx
  | .trap l c t e => .trap (l0.unread l) c t e
  | .trapFx l c t fx => .trapFx (l0.unread l) c t fx
  | o => o

/-- The first read of an operation's handle, by whichever lane and from whichever copy, acquires its writes (R144). -/
def State.handleRead (s : State) (op : Nat) : State :=
  if s.ex.drained.any (·.op == op) then { s with ex := { s.ex with drained := s.ex.drained.filter (·.op != op) } } else s

/-- The operation whose handle a source is, if its acquire is still to be made. -/
def Src.firstRead (i : Nat) (x : Src) : Option Nat :=
  match x.o with
  | .h n => if x.i = i && (x.l.handle n.val).acq.isSome && (x.l.handle n.val).op != 0 then some (x.l.handle n.val).op else none
  | _ => none

/-- The acquires its reads make (R142, R144, R452). -/
def readAcq (xs : List Src) (i : Nat) : List Fx :=
  let a := xs.foldl (fun m x => if x.i = i then max m (srcAcq x.l x.o x.wide) else m) 0
  (if a = 0 then [] else [.acquire a]) ++ (xs.filterMap (Src.firstRead i)).map fun op => .act (·.handleRead op)

/-! ### Destinations -/

/-- The registers a field names from its first on. -/
def SRole.span : SRole → Nat
  | .vrange k => k
  | r => wideN r.wide
def DRole.span : DRole → Nat
  | .vrange k => k
  | .vrun k => k
  | r => wideN r.wide

/-- The stack entries that DST writes; a store's data is no destination. -/
def destEntries (l : Lane) (r : DRole) (o : Operand) : List Nat :=
  match r, o with
  | .dst _, .v n | .vrange _, .v n | .vrun _, .v n | .vreg _, .v n | .vz _, .v n | .vs, .v n =>
    (List.range r.span).map fun j => l.entry (n.val + j)
  | _, _ => []

/-- The destination becomes full with 0 (R168). -/
def Lane.zeroDest (l : Lane) (free : Nat) (r : DRole) (o : Operand) : Lane :=
  match r, o with
  | .dst _, .p n | .pred, .p n => l.setPred n.val false
  | _, _ => (destEntries l r o).foldl (fun l e => l.put free e {}) l

/-- A result written (Table 12-3): registers, a predicate from bit 0 — a poisoned one kills the lane (R273) —, a flit,
or nothing. -/
def write (cx : Cx) (l : Lane) (o : Operand) (wide : Bool) (v : W64) (p : Bool) (tag : W64) : LOut :=
  match o with
  | .v n =>
    let l := l.put cx.free (l.entry n.val) { val := lo32 v, full := true, poison := p }
    .done (if wide then l.put cx.free (l.entry (n.val + 1)) { val := hi32 v, full := true, poison := p } else l) []
  | .s n =>
    .done l (.scal n.val { val := lo32 v, full := true, poison := p } ::
      (if wide then [.scal (n.val + 1) { val := hi32 v, full := true, poison := p }] else []))
  | .p n => if p then .trap l 13 tag false else .done (l.setPred n.val (v.getLsbD 0)) []
  | .qtx q => .done l [.send q.val (lo32 v)]
  | _ => .done l []

/-- The same effects with further ones before them. -/
def LOut.addFx (fx : List Fx) : LOut → LOut
  | .done l fs => .done l (fx ++ fs)
  | .go l fs => .go l (fx ++ fs)
  | .wait l fs => .wait l (if l.partnered then fx ++ fs else fs)
  | o => o

/-- A second part after a first: both execute, or neither does. -/
def LOut.andThen (l0 : Lane) (o : LOut) (k : Lane → LOut) : LOut :=
  match o with
  | .done l fx =>
    (match k l with
     | .stay _ => .stay l0
     | .wait _ fs => .wait l0 fs
     | .trap _ c t e => .trap l0 c t e
     | .trapFx _ c t fs => .trapFx l0 c t fs
     | o => o.addFx fx)
  | o => o

/-- A helper raises no trap and sends nothing: where a trap would arise its destination becomes full with 0 (R168). -/
def LOut.forHelper (cx : Cx) (f : Fields) (r : DRole) (l : Lane) (o : LOut) : LOut :=
  if !l.helper then o
  else match o with
    | .trap l' _ _ _ => .done (l'.zeroDest cx.free r f.dst) []
    | .trapFx l' _ _ _ => .done (l'.zeroDest cx.free r f.dst) []
    | .done l' fx => .done l' (fx.filter fun x => match x with | .send _ _ => false | _ => true)
    | o => o

/-! ### Flits (R121 to R123) -/

/-- The queues that a lane pops for A, B and C, in order: those of the fields it reads (R276). -/
def popQueues (sp : LaneSpec) (f : Fields) (l : Lane) : List Nat :=
  let u := sp.use l f
  [(u.1 && sp.sig.a.reads, f.a), (u.2.1 && sp.sig.b.reads, f.b), (u.2.2 && sp.sig.c.reads, f.c)].filterMap fun x =>
    match x.2 with
    | .qrx n => if x.1 then some n.val else none
    | _ => none

/-- A lane takes the flits it still needs, one from each named queue in order, as far as they go; it keeps what it
got. -/
def popLane (w : Wg) (i : Nat) : List Nat → Wg
  | [] => w
  | q :: qs =>
    match w.qrx.getD q [] with
    | x :: xs => popLane ({ w with qrx := w.qrx.set q xs, lanes := upd w.lanes i fun l => { l with flits := l.flits ++ [(q, x)] } }) i qs
    | [] => w

/-- The guard of a lane: busy, left with a trap, or a value (R236, R239, R252). -/
def guardStop (f : Fields) (l : Lane) : Option LOut :=
  if f.gp = 7 then none
  else if l.predBusy f.gp.toNat then some (.stay l)
  else match l.marks.find? fun m => m.pred.getLsbD f.gp.toNat with
    | some m => some (.trap { l with marks := l.marks.filter fun m => !m.pred.getLsbD f.gp.toNat } m.cause m.tval false)
    | none => none

/-- The destination of a queued matrix read. -/
def MxStep.dest : MxStep → Dest
  | .rd _ _ _ d .. => d
  | _ => .none

/-- Results still to come that a queue will receive: each holds its credit from its issue on (R122). -/
def State.lateFlits (s : State) (node idx rq : Nat) : Nat :=
  (s.ms.acc.filter fun a => a.dst == .q idx rq && (s.wg? a.wg).any fun u => u.node == node).length
    + (s.ex.ringWrites.flatMap fun r => if (s.wg? r.wg).any (·.node == node) then r.dests.filter (·.2.1 == .q idx rq) else []).length
    + ((s.ex.wgs.filter fun u => u.node == node).flatMap fun u => u.mx.flatMap fun m =>
        (m.cell.toList ++ m.steps).filter fun x => x.step.dest == .q idx rq).length

/-- Credits left at the queue a bound send register names: 32 less the flits queued, in flight and still to come
(R122). -/
def State.credits (s : State) (w : Wg) (q : Nat) : Nat :=
  match w.qtx.getD q none with
  | none => 0
  | some (idx, rq) =>
    let flying := (s.net.flits.filter fun x => x.node == w.node && x.index == idx && x.queue == rq).length
    let queued := match s.ex.wgs.find? (fun x => x.node == w.node && x.index == idx) with
      | some x => (x.qrx.getD rq []).length
      | none => 0
    32 - (flying + queued + s.lateFlits w.node idx rq)

/-! ### The frame of a per-lane instruction -/

/-- The step by which a repetition advances a field (R259). -/
def repStep (r : Nat) (wide : Bool) : Nat := if wide then 2 * r else r

/-- The fields in repetition `r` (R259: vector fields only). -/
def repFields (sg : Sig) (f : Fields) (r : Nat) : Fields :=
  if r = 0 then f
  else { f with dst := f.dst.shiftV (repStep r sg.dst.wide), a := f.a.shiftV (repStep r sg.a.wide),
                b := f.b.shiftV (repStep r sg.b.wide), c := f.c.shiftV (repStep r sg.c.wide) }

/-- A repetition that would pass v31 (R259). -/
def repPast (sg : Sig) (f : Fields) (r : Nat) : Bool :=
  r != 0 && (f.dst.pastV (repStep r sg.dst.wide) sg.dst.span || f.a.pastV (repStep r sg.a.wide) sg.a.span
    || f.b.pastV (repStep r sg.b.wide) sg.b.span || f.c.pastV (repStep r sg.c.wide) sg.c.span)

/-- A lane that waits for sources: when only flits are missing, its destination is marked empty (R186). -/
def stayFor (cx : Cx) (sp : LaneSpec) (f : Fields) (i : Nat) (l : Lane) (xs : List Src) : LOut :=
  .stay (if xs.all (fun x => isQrx x.o || !x.empty cx) && !dstBusy cx i l sp.sig.dst f.dst then
    l.owing (destEntries l sp.sig.dst f.dst) else l)

/-- Check 19 for what the fields alone do not decide: an unbound send register (R121), and the instruction's own limits
(R268). It comes before every other cause (R408). -/
def limitStop (cx : Cx) (sp : LaneSpec) (f : Fields) (i : Nat) (l : Lane) : Option LOut :=
  (unboundStop cx sp.sig.dst f l).or (if sp.bad cx i l f then some (.trap l 3 (slotVal cx.g 4) false) else none)

/-- What holds a lane up whose guard is true: a limit, its sources, its quad's end in this gang instance (R171), a credit, or
its destination. -/
def laneStop (cx : Cx) (sp : LaneSpec) (f : Fields) (i : Nat) (l : Lane) (xs : List Src) : Option LOut :=
  match limitStop cx sp f i l with
  | some o => some o
  | none =>
    match stopOf cx i xs with
    | some .wait => some (stayFor cx sp f i l xs)
    | some (.trap c t e o w x) => some (.trap (l.unmarked c t o w x) c t e)
    | none =>
      if (awayQuads cx sp.sig f).contains (i / 4) || (sp.sig.dst != .qtx && creditStop cx f i l) || dstBusy cx i l sp.sig.dst f.dst
        then some (.stay l)
      else none

/-- One lane whose guard is true: it is held up, or executes. -/
def laneBody (cx : Cx) (sp : LaneSpec) (f : Fields) (i : Nat) (l : Lane) (xs : List Src) : LOut :=
  match laneStop cx sp f i l xs with
  | some o => o
  | none => ((sp.body cx i (afterRead xs i l) f (valsOf cx sp f i l)).unread l).addFx (readAcq xs i)

/-- A repetition past v31 traps; a helper's destination, where the repetition still has one, becomes full with 0. -/
def pastOut (cx : Cx) (sg : Sig) (f0 : Fields) (l : Lane) : LOut :=
  let f := repFields sg f0 l.rep
  LOut.forHelper cx f (if f0.dst.pastV (repStep l.rep sg.dst.wide) sg.dst.span then .blank else sg.dst) l
    (.trap l 3 (slotVal cx.g 1) false)

/-- The lane has read its guard, which may be the first read of a KACC's destination (R252, R452). -/
def LOut.guarded (f : Fields) (l : Lane) (o : LOut) : LOut :=
  if !l.pracq.getLsbD f.gp.toNat then o
  else match o with
    | .done l' fx => .done (srcDone l' (.p f.gp.toFin) false) (.acquire 4 :: fx)
    | .go l' fx => .go (srcDone l' (.p f.gp.toFin) false) (.acquire 4 :: fx)
    | o => o

/-- One lane at an instruction. -/
def laneOut (cx : Cx) (sp : LaneSpec) (f0 : Fields) (i : Nat) (l : Lane) : LOut :=
  if repPast sp.sig f0 l.rep then pastOut cx sp.sig f0 l
  else
    let f := repFields sp.sig f0 l.rep
    match guardStop f l with
    | some o => o.forHelper cx f sp.sig.dst l
    | none =>
      LOut.guarded f l (if !l.guard f then .done l []
        else LOut.forHelper cx f sp.sig.dst l (laneBody cx sp f i l (sources cx sp f i l)))

/-- The lanes that execute. -/
def execLanes (g : Gang) (w : Wg) (f : Fields) (out : Nat → Lane → LOut) : List Nat :=
  g.lanes.filter fun i => !(w.lane i).helper && !quadStays g w out (i / 4) && (w.lane i).guard f

/-- The free counter moves on when a lane of the gang holds undefined registers. -/
def State.spendFree (s : State) (g : Gang) (w : Wg) : State :=
  if g.lanes.any fun i => !(w.lane i).mxHeld.isEmpty then s.tickFree else s

/-- The issue as its lanes see it. -/
def State.cxOf (s : State) (g : Gang) (w : Wg) (f : Fields) : Cx where
  g := g
  w := w
  free := s.ck.free
  now := s.ck.now
  credit := match f.dst with
    | .qtx q => s.credits w q.val
    | _ => 0

/-- A lane that has its flits traps for a source, or at a limit (R121, R186). -/
def popTraps (cx : Cx) (sp : LaneSpec) (f : Fields) (i : Nat) : Bool :=
  (match stopOf cx i (sources cx sp f i (cx.w.lane i)) with
   | some (.trap ..) => true
   | _ => false) || (limitStop cx sp f i (cx.w.lane i)).isSome

/-- Pops of one gang instance, in ascending lane order, helpers included (R123). A lane whose guard is not true takes
nothing (R253), and neither does one that waits for a predicate it reads (R236) or traps before it executes; what a lane took
for an instruction that then traps goes back (`giveBacks`). -/
def popFlits (g : Gang) (sp : LaneSpec) (f : Fields) (w : Wg) : Wg :=
  if !(isQrx f.a || isQrx f.b || isQrx f.c) then w
  else g.lanes.foldl (fun w i =>
    let w := w.modLane i Lane.unowe
    let l := w.lane i
    if l.exited || (guardStop f l).isSome || !l.guard f || srcBusy l f.a || srcBusy l f.b || srcBusy l f.c
        || repPast sp.sig f l.rep then w
    else
      let w1 := popLane w i ((popQueues sp f l).drop l.flits.length)
      if popTraps { g, w := w1, free := 0, now := 0 } sp (repFields sp.sig f l.rep) i then w else w1) w

/-- What a helper comes to where every lane takes a decoding trap: its destination, if the field names one, becomes full
with 0 (R168). -/
def helperTrapped (s : State) (w : Wg) (sg : Sig) (f : Fields) (l : Lane) : Lane :=
  if sg.dst.ok (s.checkCtx w).scal f.dst then l.zeroDest s.ck.free sg.dst f.dst else l

/-- A PER-LANE INSTRUCTION: decoding checks for every lane, then each lane for itself (R272), then what the effects of
all of them decide together. -/
def laneExecWith (sp : LaneSpec) (f : Fields) (post : Nat → List Fx → State → State) (s : State) : Out :=
  s.withGang fun g w0 =>
    match check (s.checkCtx w0) sp.sig f with
    | some (c, sub) => .next (s.trapAll g w0 c (slotVal g sub) (helperTrapped s w0 sp.sig f))
    | none =>
      let w1 := popFlits g sp f w0
      let out1 := laneOut (s.cxOf g w1 f) sp f
      s.residue g w1 (if sp.sig.unit = 0 && f.dst.isScalar then 2 else sp.sig.unit) (execLanes g w1 f out1) fun s w =>
        let out := laneOut (s.cxOf g w f) sp f
        .next ((post w.core ((g.lanes.flatMap (laneFx g w out)).map (·.2)) (s.runLanes g w out)).spendFree g w)

/-- A per-lane instruction whose lanes decide nothing together. -/
def laneExec (sp : LaneSpec) (f : Fields) (s : State) : Out := laneExecWith sp f (fun _ _ s => s) s

/-- A per-lane instruction that computes one result of its sources: a value of 32 bits, or of 64 when DST is wide. -/
def aluSpec (sg : Sig) (fn : Vals → W64) : LaneSpec where
  sig := sg
  body := fun cx _ l f v => write cx l f.dst sg.dst.wide (fn v) v.poison v.tag

end Sys2Proof.Machine
end

