-- ==== Sys2Proof/Machine/Flags.lean ====
section
/-! DEFINITION. Predicate computations: the integer compare codes (Table 12-6), the comparison codes of packets and
filters (Table 9-4), truth tables (R264), and writing a predicate (R273). -/
namespace Sys2Proof.Machine

/-- ICMP (Table 12-6): codes 0 to 9 compare 32 bits, 10 to 15 pairs. -/
def icmpHolds (var : Nat) (a b : W64) : Bool :=
  let x := lo32 a
  let y := lo32 b
  match var with
  | 0 => x == y
  | 1 => x != y
  | 2 => decide (x.toInt < y.toInt)
  | 3 => decide (x.toInt ≤ y.toInt)
  | 4 => decide (x.toInt > y.toInt)
  | 5 => decide (x.toInt ≥ y.toInt)
  | 6 => decide (x.toNat < y.toNat)
  | 7 => decide (x.toNat ≤ y.toNat)
  | 8 => decide (x.toNat > y.toNat)
  | 9 => decide (x.toNat ≥ y.toNat)
  | 10 => a == b
  | 11 => a != b
  | 12 => decide (a.toInt < b.toInt)
  | 13 => decide (a.toInt ≥ b.toInt)
  | 14 => decide (a.toNat < b.toNat)
  | _ => decide (a.toNat ≥ b.toNat)

/-- The comparison codes of Table 9-4, on 64 bits or on the low 32. -/
def cmpHolds (w64 : Bool) (cmp : Nat) (m v : W64) : Bool :=
  let x := if w64 then m else zx (lo32 m)
  let y := if w64 then v else zx (lo32 v)
  let sx' := if w64 then m.toInt else (lo32 m).toInt
  let sy' := if w64 then v.toInt else (lo32 v).toInt
  match cmp with
  | 0 => x == y
  | 1 => x != y
  | 2 => decide (x.toNat < y.toNat)
  | 3 => decide (x.toNat ≤ y.toNat)
  | 4 => decide (x.toNat > y.toNat)
  | 5 => decide (x.toNat ≥ y.toNat)
  | 6 => decide (sx' < sy')
  | _ => decide (sx' ≥ sy')

/-- Bit a + 2b + 4c of a truth table (R264). -/
def ttBit (tt : Nat) (a b c : Bool) : Bool :=
  (BitVec.ofNat 8 tt).getLsbD ((if a then 1 else 0) + (if b then 2 else 0) + (if c then 4 else 0))

/-- A truth table on every bit of three words (R282). -/
def ttWord (tt : Nat) {w : Nat} (a b c : BitVec w) : BitVec w :=
  let row := fun (k : Nat) (x y z : BitVec w) => if (BitVec.ofNat 8 tt).getLsbD k then x &&& y &&& z else 0
  row 0 (~~~a) (~~~b) (~~~c) ||| row 1 a (~~~b) (~~~c) ||| row 2 (~~~a) b (~~~c) ||| row 3 a b (~~~c) |||
  row 4 (~~~a) (~~~b) c ||| row 5 a (~~~b) c ||| row 6 (~~~a) b c ||| row 7 a b c

/-- A predicate result: a lane that would write it from a poisoned source is killed, nothing is written (R273). -/
def writePred (l : Lane) (o : Operand) (b : Bool) (v : Vals) : LOut :=
  match o with
  | .p n => if v.poison then .trap l 13 v.tag false else .done (l.setPred n.val b) []
  | _ => .done l []

/-- A per-lane instruction whose result is one predicate. -/
def predSpec (sg : Sig) (fn : Vals → Bool) : LaneSpec where
  sig := sg
  body := fun _ _ l f v => writePred l f.dst (fn v) v

end Sys2Proof.Machine
end

