-- ==== Sys2Proof/Machine/Group.lean ====
section
/-! DEFINITION. The frame of a group-wide instruction over a member mask (08 R176, 13 R298): arrival, completion once for
every participant, and the traps of Table 8-5. -/
namespace Sys2Proof.Machine

/-- What a group-wide instruction combines: the group's first lane and lane count, the mask, and each lane's
contribution — none for an absent, guarded-off, helper or unnamed lane, which stands for the identity. -/
structure GroupCx where
  first   : Nat
  count   : Nat
  mask    : W64
  contrib : Nat → Option Vals

/-- A group-wide instruction: its roles, and the result of the participant `i` (index in the group) with its own
operands. The mask is in C. -/
structure GroupSpec where
  sig : Sig
  res : GroupCx → Nat → Vals → W64 × Bool
  /-- An operand limit that a lane's values fail (check 19). -/
  bad : GroupCx → Nat → Vals → Bool := fun _ _ _ => false

/-- The operands a lane has brought, or brings now. -/
def arrivalVals (cx : Cx) (sp : LaneSpec) (f : Fields) (i : Nat) (l : Lane) : Vals :=
  match l.wait with
  | .group _ a b c pa pb pc => { a, b, c, pa, pb, pc }
  | _ => valsOf cx sp f i l

/-- The lane's guard at its arrival. -/
def arrivalGuard (f : Fields) (l : Lane) : Bool :=
  match l.wait with
  | .group g .. => g
  | _ => l.guard f

/-- It waits at this instruction from an earlier gang instance. -/
def waitsHere (g : Gang) (rep : Nat) (l : Lane) : Bool :=
  match l.wait with
  | .group .. => l.pc == g.pc && l.rep == rep && !l.exited
  | _ => false

/-- Why an executing lane cannot arrive yet, or does not take part: a limit, its own sources, its destination. -/
def arrivalStop (cx : Cx) (sp : LaneSpec) (f : Fields) (i : Nat) (l : Lane) : Option LOut :=
  match l.wait with
  | .group .. => none
  | _ =>
    match guardStop f l with
    | some o => some o
    | none =>
      if !l.guard f then none
      else
        match limitStop cx sp f i l with
        | some o => some o
        | none =>
          match stopOf cx i (sources cx sp f i l) with
          | some .wait => some (stayFor cx sp f i l (sources cx sp f i l))
          | some (.trap c t e o w x) => some (.trap (l.unmarked c t o w x) c t e)
          | none => if dstBusy cx i l sp.sig.dst f.dst then some (.stay l) else none

/-- The member mask of a group: a scalar pair or a literal (R265). -/
def groupMask (w : Wg) (k : Nat) (o : Operand) : W64 :=
  match o with
  | .s n => pair ((w.group k).reg n.val).val ((w.group k).reg (n.val + 1)).val
  | .lit x => x
  | _ => 0

/-- The mask names a lane at or beyond the group's lane count (Table 8-5). -/
def maskTooWide (count : Nat) (m : W64) : Bool := decide (2 ^ count ≤ m.toNat)

/-- An operation has completed for the lane, and its flit waits for a credit (R122). -/
def Lane.hasResult (l : Lane) : Bool :=
  match l.wait with
  | .result _ => true
  | _ => false

/-- A quad of the gang with a lane that cannot arrive. -/
def quadUnready (cx : Cx) (sp : LaneSpec) (f : Fields) (q : Nat) : Bool :=
  cx.g.lanes.any fun j => j / 4 == q &&
    (match arrivalStop cx sp f j (cx.w.lane j) with
     | some (.stay _) => true
     | _ => false)

/-- A quad of the gang with a lane that waits for a credit (R122). -/
def quadOwes (cx : Cx) (q : Nat) : Bool := cx.g.lanes.any fun j => j / 4 == q && (cx.w.lane j).hasResult

/-- A lane has arrived: waiting here, or executing now in a quad that can issue, and named without a trap. -/
def arrived (cx : Cx) (sp : LaneSpec) (f : Fields) (rep n : Nat) : Bool :=
  let l := cx.w.lane n
  waitsHere cx.g rep l ||
    (cx.g.lanes.contains n && !quadOwes cx (n / 4) && !quadUnready cx sp f (n / 4) && (arrivalStop cx sp f n l).isNone)

/-- Every named lane that has not exited has arrived. -/
def groupComplete (cx : Cx) (sp : LaneSpec) (f : Fields) (rep k : Nat) (m : W64) : Bool :=
  (List.range (cx.w.grpCount k)).all fun j =>
    let n := cx.w.grpFirst k + j
    !m.getLsbD j || (cx.w.lane n).exited || arrived cx sp f rep n

/-- Contributions of the participants (Table 8-5, R298). -/
def groupCx (cx : Cx) (sp : LaneSpec) (f : Fields) (rep k : Nat) (m : W64) : GroupCx where
  first := cx.w.grpFirst k
  count := cx.w.grpCount k
  mask := m
  contrib := fun j =>
    let n := cx.w.grpFirst k + j
    let l := cx.w.lane n
    if m.getLsbD j && decide (j < cx.w.grpCount k) && l.live && arrived cx sp f rep n && arrivalGuard f l then
      some (arrivalVals cx sp f n l)
    else none

/-- What reading the fields needs, without a result. -/
def GroupSpec.lane (sp : GroupSpec) : LaneSpec where
  sig := sp.sig
  body := fun _ _ l _ _ => .done l []

/-- A quad of the gang has a lane whose flit finds no credit left by the lanes before it (R122). -/
def creditShort (cx : Cx) (f : Fields) (q : Nat) : Bool :=
  match f.dst with
  | .qtx _ =>
    let sends := fun j => (cx.w.lane j).live && arrivalGuard f (cx.w.lane j)
    cx.g.lanes.any fun i => i / 4 == q && sends i && decide (cx.credit ≤ (cx.g.lanes.filter fun j => decide (j < i) && sends j).length)
  | _ => false

/-- The sources that a lane reads at its arrival, its guard first: a lane that waits here has read them. -/
def arrivalSources (cx : Cx) (sp : LaneSpec) (f : Fields) (i : Nat) (l : Lane) : List Src :=
  match l.wait with
  | .group .. => []
  | _ =>
    { i, l, o := .p f.gp.toFin, wide := false, trap := false, nth := 0 } :: if l.guard f then sources cx sp f i l else []

/-- The lane receives its result, or nothing where its guard was false. -/
def groupGive (cx : Cx) (sg : Sig) (f : Fields) (l : Lane) (r : Option (W64 × Bool × W64)) : LOut :=
  match r with
  | some r => LOut.forHelper cx f sg.dst l (write cx l f.dst sg.dst.wide r.1 r.2.1 r.2.2)
  | none => .done l []

/-- The operation has completed for a lane: its result, or its wait for the credits of its quad's flits (R122). -/
def groupDone (cx : Cx) (sg : Sig) (f : Fields) (i : Nat) (l : Lane) (r : Option (W64 × Bool × W64)) (fx : List Fx) : LOut :=
  if creditShort cx f (i / 4) then .wait { l with wait := .result r } fx
  else (groupGive cx sg f { l with wait := .none } r).addFx fx

/-- The instruction's own limits fail: for every executing lane, whatever its guard, once the selector that they read is
there (R268, R322). They come before every other cause (R408). -/
def groupBad (cx : Cx) (sp : GroupSpec) (f : Fields) (i : Nat) (l : Lane) (k : Nat) (m : W64) : Bool :=
  (l.partnered || !srcEmpty cx i l f.b sp.sig.b.wide 0)
    && sp.bad (groupCx cx sp.lane f l.rep k m) (i - cx.w.grpFirst k) (arrivalVals cx sp.lane f i l)

/-- One lane of the gang, or a lane that waits here. -/
def groupOut (cx : Cx) (sp : GroupSpec) (f0 : Fields) (i : Nat) (l : Lane) : LOut :=
  if repPast sp.sig f0 l.rep then pastOut cx sp.sig f0 l
  else
    let f := repFields sp.sig f0 l.rep
    let k := cx.w.grpOf i
    let m := groupMask cx.w k f.c
    match l.wait with
    | .result r => groupDone cx sp.sig f i l r []
    | _ =>
    if groupBad cx sp f i l k m then LOut.forHelper cx f sp.sig.dst l (.trap l 3 (slotVal cx.g 4) false)
    else match arrivalStop cx sp.lane f i l with
    | some o => o.forHelper cx f sp.sig.dst l
    | none =>
      if arrivalGuard f l && maskTooWide (cx.w.grpCount k) m then
        LOut.forHelper cx f sp.sig.dst l (.trap l 7 m false)
      else if !m.getLsbD (i - cx.w.grpFirst k) then
        if arrivalGuard f l then LOut.forHelper cx f sp.sig.dst l (.trap l 7 m false) else .done l []
      else if maskTooWide (cx.w.grpCount k) m then .done l []
      else
        let v := arrivalVals cx sp.lane f i l
        let xs := arrivalSources cx sp.lane f i l
        let l1 := afterRead xs i l
        if groupComplete cx sp.lane f l.rep k m then
          groupDone cx sp.sig f i l1 (if arrivalGuard f l then
            let r := sp.res (groupCx cx sp.lane f l.rep k m) (i - cx.w.grpFirst k) v
            some (r.1, r.2 || v.pc, v.tag) else none) (readAcq xs i)
        else .wait { l1 with wait := .group (arrivalGuard f l) v.a v.b v.c v.pa v.pb v.pc } (readAcq xs i)

/-- The gang with the lanes that wait at the same instruction: they complete together. -/
def withWaiting (g : Gang) (w : Wg) : Gang :=
  let rep := ((g.lanes.head?).map fun i => (w.lane i).rep).getD 0
  { g with lanes := (List.range w.lanes.length).filter fun i => g.lanes.contains i || waitsHere g rep (w.lane i) }

/-- A GROUP-WIDE INSTRUCTION (R176). -/
def groupExec (sp : GroupSpec) (f : Fields) (s : State) : Out :=
  s.withGang fun g0 w0 =>
    match check (s.checkCtx w0) sp.sig f with
    | some (c, sub) => .next (s.trapAll g0 w0 c (slotVal g0 sub) (helperTrapped s w0 sp.sig f))
    | none =>
      let w1 := popFlits g0 sp.lane f w0
      let g := withWaiting g0 w1
      s.residue g0 w1 sp.sig.unit (execLanes g0 w1 f (groupOut (s.cxOf g w1 f) sp f)) fun s w =>
        .next ((s.runLanes g w (groupOut (s.cxOf g w f) sp f)).spendFree g w)

end Sys2Proof.Machine
end

