-- ==== Sys2Proof/Machine/Int.lean ====
section
/-! DEFINITION. Integer, bit and predicate instructions: opcodes 0x00 to 0x1F (spec/13 R274 to R288). -/
namespace Sys2Proof.Machine

/-! ### Widths -/

/-- A two-source function in the form's width (R271, R272). -/
def op2 (wide : Bool) (fn : {w : Nat} → BitVec w → BitVec w → BitVec w) (a b : W64) : W64 :=
  if wide then fn a b else zx (fn (lo32 a) (lo32 b))

def op1 (wide : Bool) (fn : {w : Nat} → BitVec w → BitVec w) (a : W64) : W64 :=
  if wide then fn a else zx (fn (lo32 a))

def op3 (wide : Bool) (fn : {w : Nat} → BitVec w → BitVec w → BitVec w → BitVec w) (a b c : W64) : W64 :=
  if wide then fn a b c else zx (fn (lo32 a) (lo32 b) (lo32 c))

/-- d, a, b with an A modifier, all in the form's width. -/
def sigBin (f : Fields) (var : Bool) : Sig :=
  { var, am := true, noLane64 := true, dst := .dst (isWide f.var), a := .src (isWide f.var), b := .src (isWide f.var) }

/-- d, a with an A modifier. -/
def sigUn (f : Fields) (var : Bool) : Sig :=
  { var, am := true, noLane64 := true, dst := .dst (isWide f.var), a := .src (isWide f.var) }

/-- d, a, b, c with an A modifier. -/
def sigTri (f : Fields) (var : Bool) : Sig :=
  { var, am := true, noLane64 := true, dst := .dst (isWide f.var), a := .src (isWide f.var), b := .src (isWide f.var)
    c := .src (isWide f.var) }

/-- Every field blank, VAR 0, bits 19:8 zero. -/
def sigBlank (f : Fields) : Sig := { var := f.var == 0, q := f.q == 0, unit := 5 }

/-! ### Moves (Table 13-1) -/

def nopSpec (f : Fields) : LaneSpec where
  sig := sigBlank f
  body := fun _ _ l _ _ => .done l []

/-- R274. -/
def execNop (f : Fields) (s : State) : Out := laneExec (nopSpec f) f s

def isHandle : Operand → Bool
  | .h _ => true
  | _ => false

/-- R275: a handle destination takes a handle as it stands, without reading it. -/
def movHandleSpec (f : Fields) : LaneSpec where
  sig := { var := f.var == 6, q := f.q == 0, dst := .handle, a := .handle, ta := false }
  body := fun _ _ l f _ =>
    match f.dst, f.a with
    | .h d, .h a => .done (l.setHandle d.val (l.handle a.val)) []
    | _, _ => .done l []

/-- What reading MOV's fields needs. -/
def movRead (f : Fields) : LaneSpec where
  sig := { sigUn f (varTL f.var) with free := isHandle f.a }
  body := fun _ _ l _ _ => .done l []

/-- A lane of the gang that executes: no helper, held up by nothing, in a quad that issues. -/
def executes (cx : Cx) (sp : LaneSpec) (f : Fields) (j : Nat) : Bool :=
  (cx.w.lane j).live && (cx.w.lane j).guard f && (arrivalStop cx sp f j (cx.w.lane j)).isNone && !quadUnready cx sp f (j / 4)

/-- A handle read into a scalar: one value when the group's lanes that execute hold one; else a free one (log entry 80). -/
def handleScalar (cx : Cx) (f : Fields) (i : Nat) (a : W64) : W64 × List Fx :=
  match f.dst, f.a with
  | .s _, .h n =>
    if cx.g.lanes.all fun j => !(cx.w.grpOf j == cx.w.grpOf i && executes cx (movRead f) f j)
        || zx ((cx.w.lane j).handle n.val).val == a then (a, [])
    else (zx (lo32 (freeWord cx.free (256 + cx.w.grpOf i))), [.act State.tickFree])
  | _, _ => (a, [])

/-- A helper's handle is no source of its group's scalar: the group's lanes write it (R184). -/
def movSpec (f : Fields) : LaneSpec where
  sig := (movRead f).sig
  body := fun cx i l f v =>
    if l.helper && f.dst.isScalar && isHandle f.a then .done l []
    else
      let r := handleScalar cx f i v.a
      (write cx l f.dst (isWide f.var) r.1 v.poison v.tag).addFx r.2

/-- R275. -/
def execMov (f : Fields) (s : State) : Out :=
  if isHandle f.dst then laneExec (movHandleSpec f) f s else laneExec (movSpec f) f s

/-- The predicate that C names, in a lane. -/
def predOf (l : Lane) (o : Operand) : Bool :=
  match o with
  | .p n => l.pred n.val
  | _ => false

def selSpec (f : Fields) : LaneSpec where
  sig := { sigBin f (varTL f.var) with c := .pred }
  use := fun l f => if predOf l f.c then (true, false, true) else (false, true, true)
  body := fun cx _ l f v => write cx l f.dst (isWide f.var) (if v.c = 1 then v.a else v.b) v.poison v.tag

/-- R276: only the selected source is read. -/
def execSel (f : Fields) (s : State) : Out := laneExec (selSpec f) f s

/-- The special register of index `k` (Table 8-9) in lane `i`. -/
def special (ccount dcount : W64) (core : Nat) (w : Wg) (k i : Nat) : W64 :=
  match k with
  | 0 => BitVec.ofNat 64 i
  | 1 => BitVec.ofNat 64 (i / 4)
  | 2 => BitVec.ofNat 64 (w.grpOf i)
  | 3 => BitVec.ofNat 64 w.index
  | 4 => BitVec.ofNat 64 (core % 16)
  | 5 => BitVec.ofNat 64 (core / 16)
  | 6 => ccount
  | 7 => dcount
  | 8 => if (w.lane i).helper then 1 else 0
  | _ => BitVec.ofNat 64 w.n

def rdspecSpec (f : Fields) (ccount dcount : W64) : LaneSpec where
  sig := { var := decide (f.var.toNat < 10), q := f.q == 0, dst := .dst (f.var == 6 || f.var == 7)
           sdst := f.var == 2 || f.var == 3 || f.var == 4 || f.var == 5 || f.var == 9 }
  body := fun cx i l f _ =>
    write cx l f.dst (f.var == 6 || f.var == 7) (special ccount dcount cx.w.core cx.w f.var.toNat i) false 0

/-- R277: `ccount` and `dcount` are those of the core and die now. -/
def execRdspec (f : Fields) (s : State) : Out :=
  s.withGang fun _ w =>
    laneExec (rdspecSpec f (s.core w.core).ccount (s.ck.dcount.getD (w.core / 16) 0)) f s

/-! ### Arithmetic (Table 13-2) -/

def iaddSpec (f : Fields) : LaneSpec := aluSpec (sigBin f (varTI f.var)) fun v => op2 (isWide f.var) (fun a b => a + b) v.a v.b
/-- R278: d ← (a + b) mod 2^w. -/
def execIadd (f : Fields) (s : State) : Out := laneExec (iaddSpec f) f s

def isubSpec (f : Fields) : LaneSpec := aluSpec (sigBin f (varTI f.var)) fun v => op2 (isWide f.var) (fun a b => a - b) v.a v.b
/-- R278: d ← (a − b) mod 2^w. -/
def execIsub (f : Fields) (s : State) : Out := laneExec (isubSpec f) f s

def imulSpec (f : Fields) : LaneSpec := aluSpec (sigBin f (varTI f.var)) fun v => op2 (isWide f.var) (fun a b => a * b) v.a v.b
/-- R278: d ← (a × b) mod 2^w. -/
def execImul (f : Fields) (s : State) : Out := laneExec (imulSpec f) f s

/-- ⌊a × b ÷ 2^w⌋ mod 2^w by type. -/
def mulHigh (signed : Bool) {w : Nat} (a b : BitVec w) : BitVec w :=
  if signed then BitVec.ofInt w ((a.toInt * b.toInt) / (2 ^ w : Nat)) else BitVec.ofNat w (a.toNat * b.toNat / 2 ^ w)

def imulhiSpec (f : Fields) : LaneSpec :=
  aluSpec (sigBin f (varTI f.var)) fun v => op2 (isWide f.var) (fun a b => mulHigh (isSigned f.var) a b) v.a v.b
/-- R278. -/
def execImulhi (f : Fields) (s : State) : Out := laneExec (imulhiSpec f) f s

def imadSpec (f : Fields) : LaneSpec :=
  aluSpec (sigTri f (varTI f.var)) fun v => op3 (isWide f.var) (fun a b c => a * b + c) v.a v.b v.c
/-- R278: d ← (a × b + c) mod 2^w. -/
def execImad (f : Fields) (s : State) : Out := laneExec (imadSpec f) f s

/-- a < b by type. -/
def ltBy (signed : Bool) {w : Nat} (a b : BitVec w) : Bool :=
  if signed then decide (a.toInt < b.toInt) else decide (a.toNat < b.toNat)

def minBy (signed : Bool) {w : Nat} (a b : BitVec w) : BitVec w := if ltBy signed b a then b else a
def maxBy (signed : Bool) {w : Nat} (a b : BitVec w) : BitVec w := if ltBy signed a b then b else a

def iminSpec (f : Fields) : LaneSpec :=
  aluSpec (sigBin f (varTI f.var)) fun v => op2 (isWide f.var) (fun a b => minBy (isSigned f.var) a b) v.a v.b
/-- R278: the smaller by type. -/
def execImin (f : Fields) (s : State) : Out := laneExec (iminSpec f) f s

def imaxSpec (f : Fields) : LaneSpec :=
  aluSpec (sigBin f (varTI f.var)) fun v => op2 (isWide f.var) (fun a b => maxBy (isSigned f.var) a b) v.a v.b
/-- R278: the larger by type. -/
def execImax (f : Fields) (s : State) : Out := laneExec (imaxSpec f) f s

def absBV {w : Nat} (a : BitVec w) : BitVec w := if a.msb then -a else a

def iabsSpec (f : Fields) : LaneSpec :=
  aluSpec (sigUn f (f.var == 2 || f.var == 3)) fun v => op1 (isWide f.var) (fun a => absBV a) v.a
/-- R278: |a| mod 2^w. -/
def execIabs (f : Fields) (s : State) : Out := laneExec (iabsSpec f) f s

/-- The exact sum with carry: the result and the carry out (R279). -/
def addCarry (wide : Bool) (a b : W64) (c : Bool) : W64 × Bool :=
  let n := if wide then 2 ^ 64 else 2 ^ 32
  let t := a.toNat % n + b.toNat % n + (if c then 1 else 0)
  (BitVec.ofNat 64 (t % n), decide (n ≤ t))

/-- The sum is written, then the carry out, which stays where both name one predicate; a poisoned source kills (R279). -/
def writeCarry (cx : Cx) (l : Lane) (f : Fields) (wide : Bool) (r : W64 × Bool) (v : Vals) : LOut :=
  if v.poison then .trap l 13 v.tag false
  else
    match f.c with
    | .p n =>
      (match write cx l f.dst wide r.1 false 0 with
       | .done l' fx => .done (l'.setPred n.val r.2) fx
       | o => o)
    | _ => .done l []

def iaddcSpec (f : Fields) : LaneSpec where
  sig := { sigBin f (varTL f.var) with c := .pred }
  body := fun cx _ l f v => writeCarry cx l f (isWide f.var) (addCarry (isWide f.var) v.a v.b (v.c == 1)) v
/-- R279. -/
def execIaddc (f : Fields) (s : State) : Out := laneExec (iaddcSpec f) f s

def leaSpec (f : Fields) : LaneSpec :=
  aluSpec { var := true, am := true, noLane64 := true, dst := .dst true, a := .src true, b := .src false } fun v =>
    v.a + (sx (lo32 v.b) <<< f.var.toNat)
/-- R280: d ← (a + (i64(b) << k)) mod 2^64. -/
def execLea (f : Fields) (s : State) : Out := laneExec (leaSpec f) f s

def icmpSpec (f : Fields) : LaneSpec :=
  predSpec { var := true, am := true, noLane64 := true, dst := .pred, a := .src (decide (10 ≤ f.var.toNat)), b := .src (decide (10 ≤ f.var.toNat)) }
    fun v => icmpHolds f.var.toNat v.a v.b
/-- R281. -/
def execIcmp (f : Fields) (s : State) : Out := laneExec (icmpSpec f) f s

def clampSpec (f : Fields) : LaneSpec :=
  aluSpec (sigTri f (varTI f.var)) fun v =>
    op3 (isWide f.var) (fun a b c => minBy (isSigned f.var) (maxBy (isSigned f.var) a b) c) v.a v.b v.c
/-- R278: Min(Max(a, b), c). -/
def execClamp (f : Fields) (s : State) : Out := laneExec (clampSpec f) f s

/-! ### Logic and bit fields (Table 13-3) -/

def landSpec (f : Fields) : LaneSpec := aluSpec (sigBin f (varTL f.var)) fun v => op2 (isWide f.var) (fun a b => a &&& b) v.a v.b
/-- R282. -/
def execLand (f : Fields) (s : State) : Out := laneExec (landSpec f) f s

def lorSpec (f : Fields) : LaneSpec := aluSpec (sigBin f (varTL f.var)) fun v => op2 (isWide f.var) (fun a b => a ||| b) v.a v.b
/-- R282. -/
def execLor (f : Fields) (s : State) : Out := laneExec (lorSpec f) f s

def lxorSpec (f : Fields) : LaneSpec := aluSpec (sigBin f (varTL f.var)) fun v => op2 (isWide f.var) (fun a b => a ^^^ b) v.a v.b
/-- R282. -/
def execLxor (f : Fields) (s : State) : Out := laneExec (lxorSpec f) f s

def ltabSpec (f : Fields) : LaneSpec :=
  aluSpec { sigTri f (varTL f.var) with am := false, q := decide (f.q.toNat < 256) } fun v =>
    op3 (isWide f.var) (fun a b c => ttWord f.q.toNat a b c) v.a v.b v.c
/-- R282, R264: the table is bits 15:8 of the word. -/
def execLtab (f : Fields) (s : State) : Out := laneExec (ltabSpec f) f s

/-- d, a in the form's width, and a 32-bit b. -/
def sigShift (f : Fields) : Sig :=
  { var := varTL f.var, am := true, noLane64 := true, dst := .dst (isWide f.var), a := .src (isWide f.var), b := .src false }

def shlSpec (f : Fields) : LaneSpec := aluSpec (sigShift f) fun v => op1 (isWide f.var) (fun {w} a => if w ≤ (lo32 v.b).toNat then 0 else a <<< (lo32 v.b).toNat) v.a
/-- R283. -/
def execShl (f : Fields) (s : State) : Out := laneExec (shlSpec f) f s

def shrSpec (f : Fields) : LaneSpec := aluSpec (sigShift f) fun v => op1 (isWide f.var) (fun {w} a => if w ≤ (lo32 v.b).toNat then 0 else a >>> (lo32 v.b).toNat) v.a
/-- R283. -/
def execShr (f : Fields) (s : State) : Out := laneExec (shrSpec f) f s

def sarSpec (f : Fields) : LaneSpec :=
  aluSpec (sigShift f) fun v => op1 (isWide f.var) (fun a => a.sshiftRight (min (lo32 v.b).toNat 64)) v.a
/-- R283: a count of the width or more copies the sign to every bit. -/
def execSar (f : Fields) (s : State) : Out := laneExec (sarSpec f) f s

def rotSpec (f : Fields) : LaneSpec :=
  aluSpec (sigShift f) fun v => op1 (isWide f.var) (fun {w} a => a.rotateLeft ((lo32 v.b).toNat % w)) v.a
/-- R283: left by k mod w. -/
def execRot (f : Fields) (s : State) : Out := laneExec (rotSpec f) f s

/-- BFE (R284). -/
def bfeVal (signed : Bool) (pos len : Nat) {w : Nat} (a : BitVec w) : BitVec w :=
  if w ≤ pos ∨ len = 0 then 0
  else
    let n := min len (w - pos)
    let x := a.toNat / 2 ^ pos % 2 ^ n
    if signed && decide (2 ^ (n - 1) ≤ x) then BitVec.ofInt w ((x : Int) - 2 ^ n) else BitVec.ofNat w x

def bfeSpec (f : Fields) : LaneSpec :=
  aluSpec { sigUn f (varTI f.var) with b := .src false, c := .src false } fun v =>
    op1 (isWide f.var) (fun a => bfeVal (isSigned f.var) (lo32 v.b).toNat (lo32 v.c).toNat a) v.a
/-- R284. -/
def execBfe (f : Fields) (s : State) : Out := laneExec (bfeSpec f) f s

/-- BFI (R284). -/
def bfiVal (pos len : Nat) {w : Nat} (a c : BitVec w) : BitVec w :=
  if w ≤ pos ∨ len = 0 then c
  else
    let n := min len (w - pos)
    let m : BitVec w := BitVec.ofNat w ((2 ^ n - 1) * 2 ^ pos)
    (c &&& ~~~ m) ||| ((a <<< pos) &&& m)

def bfiSpec (f : Fields) : LaneSpec :=
  aluSpec { sigUn f (varTL f.var) with b := .src false, c := .src (isWide f.var) } fun v =>
    op2 (isWide f.var) (fun a c => bfiVal (bits v.b 7 0) (bits v.b 15 8) a c) v.a v.c
/-- R284: b[31:16] is ignored. -/
def execBfi (f : Fields) (s : State) : Out := laneExec (bfiSpec f) f s

/-- Number of set bits below bit `n`. -/
def popCount {w : Nat} (a : BitVec w) : Nat → Nat
  | 0 => 0
  | n + 1 => popCount a n + (if a.getLsbD n then 1 else 0)

/-- Number of zero bits above the highest set bit, of the `n` low bits. -/
def leadZeros {w : Nat} (a : BitVec w) : Nat → Nat
  | 0 => 0
  | n + 1 => if a.getLsbD n then 0 else 1 + leadZeros a n

/-- d of 32 bits, a in the form's width. -/
def sigCount (f : Fields) : Sig := { var := varTL f.var, am := true, noLane64 := true, dst := .dst false, a := .src (isWide f.var) }

def popcSpec (f : Fields) : LaneSpec :=
  aluSpec (sigCount f) fun v => BitVec.ofNat 64 (popCount v.a (if isWide f.var then 64 else 32))
/-- R285. -/
def execPopc (f : Fields) (s : State) : Out := laneExec (popcSpec f) f s

def clzSpec (f : Fields) : LaneSpec :=
  aluSpec (sigCount f) fun v => BitVec.ofNat 64 (leadZeros v.a (if isWide f.var then 64 else 32))
/-- R285: w for A = 0. -/
def execClz (f : Fields) (s : State) : Out := laneExec (clzSpec f) f s

def brevSpec (f : Fields) : LaneSpec := aluSpec (sigUn f (varTL f.var)) fun v => op1 (isWide f.var) (fun a => a.reverse) v.a
/-- R285. -/
def execBrev (f : Fields) (s : State) : Out := laneExec (brevSpec f) f s

/-- One byte of PERMB (R286). -/
def permByte (x : W64) (c : W64) (i : Nat) : Nat :=
  let y := bits x (8 * bits c (4 * i + 2) (4 * i) + 7) (8 * bits c (4 * i + 2) (4 * i))
  if c.getLsbD (4 * i + 3) then (if 128 ≤ y then 255 else 0) else y

def permbVal (a b c : W64) : W64 :=
  let x := pair (lo32 a) (lo32 b)
  BitVec.ofNat 64 (permByte x c 0 + 256 * permByte x c 1 + 65536 * permByte x c 2 + 16777216 * permByte x c 3)

def permbSpec (f : Fields) : LaneSpec :=
  aluSpec { var := f.var == 6, am := true, dst := .dst false, a := .src false, b := .src false, c := .src false } fun v =>
    permbVal v.a v.b v.c
/-- R286. -/
def execPermb (f : Fields) (s : State) : Out := laneExec (permbSpec f) f s

/-! ### Predicate logic (Table 13-4) -/

def plopSpec (f : Fields) : LaneSpec :=
  predSpec { var := f.var == 0, q := decide (f.q.toNat < 256), dst := .pred, a := .pred, b := .pred, c := .pred } fun v =>
    ttBit f.q.toNat (v.a == 1) (v.b == 1) (v.c == 1)
/-- R287. -/
def execPlop (f : Fields) (s : State) : Out := laneExec (plopSpec f) f s

def pmovToSpec (f : Fields) : LaneSpec :=
  predSpec { var := f.var == 0, q := f.q == 0, dst := .pred, a := .src false } fun v => lo32 v.a != 0
/-- R288, VAR 0: p ← (a ≠ 0). -/
def execPmovToPredicate (f : Fields) (s : State) : Out := laneExec (pmovToSpec f) f s

def pmovFromSpec (f : Fields) : LaneSpec :=
  aluSpec { var := f.var == 1, q := f.q == 0, dst := .dst false, a := .pred } (·.a)
/-- R288, VAR 1: 1 or 0 to the destination. -/
def execPmovFromPredicate (f : Fields) (s : State) : Out := laneExec (pmovFromSpec f) f s

end Sys2Proof.Machine
end

