-- ==== Sys2Proof/Machine/Access.lean ====
section
/-! DEFINITION. What every class M access shares: the memory qualifier, the address, where an access goes, what makes it
wait, the adders' operations, and performing an access at its place (spec/15 R323 to R335, spec/03 R49 to R73). -/
namespace Sys2Proof.Machine

/-! ### The memory qualifier (R262, Table 12-7) -/

def qmOrd (q : BitVec 12) : Nat := bits q 11 10
def qmScope (q : BitVec 12) : Nat := bits q 9 7
def qmXsc (q : BitVec 12) : Nat := bits q 6 5
def qmWb (q : BitVec 12) : Bool := q.getLsbD 4
def qmOp (q : BitVec 12) : Nat := bits q 3 0

def qmRel (q : BitVec 12) : Bool := qmOrd q == 2 || qmOrd q == 3
def qmAcq (q : BitVec 12) : Bool := qmOrd q == 1 || qmOrd q == 3

/-- Check 13 for Qm: the orders listed, the widest scope, a scope under `.rlx`, the widest OP, and whether XSC and WB
are used. -/
def qmOk (ords : List Nat) (maxScope : Nat) (anyScope : Bool) (maxOp : Nat) (xsc wb : Bool) (q : BitVec 12) : Bool :=
  ords.contains (qmOrd q) && decide (qmScope q ≤ maxScope) && (anyScope || qmOrd q != 0 || qmScope q == 0)
    && decide (qmOp q ≤ maxOp) && (xsc || qmXsc q == 0) && (wb || !qmWb q)

/-! ### The address (R262) -/

def memBase (f : Fields) (v : Vals) : W64 :=
  match f.a with
  | .lit w => w
  | _ => v.a

def memIndex (f : Fields) (v : Vals) : W64 := sx (lo32 v.b) <<< qmXsc f.q

def memOffset (f : Fields) (v : Vals) : W64 :=
  match f.c with
  | .lit w => w
  | .used => 0
  | _ => sx (lo32 v.c)

/-- Base, index and offset. -/
def memAddr (f : Fields) (v : Vals) : W64 := memBase f v + memIndex f v + memOffset f v

/-- Base and index: C is an operand. -/
def atomAddr (f : Fields) (v : Vals) : W64 := memBase f v + memIndex f v

/-- The node of a workgroup. -/
def State.nodeOf (s : State) (w : Wg) : Node :=
  (s.node? w.node).getD { id := w.node, queue := 0, asid := 0, launch := { entry := 0 } }

/-- A private offset's device virtual address (R22, R330). -/
def privateAddr (n : Node) (w : Wg) (i : Nat) (o : W64) : W64 :=
  n.base + BitVec.ofNat 64 ((o.toNat / 4 * (n.grid * w.n) + (w.index * w.n + i)) * 4 + o.toNat % 4)

/-! ### Results that arrive later -/

/-- The destination of a result, fixed at issue. -/
def destOf (w : Wg) (i : Nat) (l : Lane) (o : Operand) (wide : Bool) : Dest :=
  match o with
  | .v n => .v (if wide then [l.entry n.val, l.entry (n.val + 1)] else [l.entry n.val])
  | .s n => .s (w.grpOf i) n.val wide
  | .p n => .p n.val
  | .qtx n =>
    match w.qtx.getD n.val Option.none with
    | some (idx, rq) => .q idx rq
    | Option.none => .none
  | _ => .none

/-- The destination is marked empty (R186); a predicate makes its readers wait (R236). -/
def markDest (l : Lane) (d : Dest) : Lane × List Fx :=
  match d with
  | .v es => (es.foldl Lane.markEmpty l, [])
  | .s _ n wide => (l, .scal n { full := false } :: (if wide then [.scal (n + 1) { full := false }] else []))
  | .p n => (if n = 7 then l else { l with pbusy := l.pbusy ||| 1#8 <<< n }, [])
  | _ => (l, [])

def fillEntries (free : Nat) (v : W64) (p : Bool) (l : Lane) (es : List Nat) : Lane :=
  match es with
  | [e] => l.fill free e (lo32 v) p
  | [e, g] => (l.fill free e (lo32 v) p).fill free g (hi32 v) p
  | _ => l

/-- A result arrives (R61, R186, R335). A poisoned one kills where it would write a predicate (R273). -/
def State.fillDest (s : State) (wg lane : Nat) (d : Dest) (v : W64) (p : Bool) : State :=
  match d with
  | .none => s
  | .v es => s.modWg wg (·.modLane lane fun l => fillEntries s.ck.free v p l es)
  | .s k n wide => s.modWg wg fun w =>
      let w := w.putScalar k n { val := lo32 v, full := true, poison := p }
      if wide then w.putScalar k (n + 1) { val := hi32 v, full := true, poison := p } else w
  | .p n =>
    let s := s.modWg wg (·.modLane lane fun l => { l with pbusy := l.pbusy &&& ~~~ (1#8 <<< n) })
    if p then s.takeTrap wg lane 13 (BitVec.ofNat 64 (0xE0 + n)) false false
    else s.modWg wg (·.modLane lane fun l => l.setPred n (v.getLsbD 0))
  | .q idx rq => s.sendFlit wg lane idx rq (lo32 v)

/-! ### Values -/

/-- A loaded value (R324): 8 bytes as a pair; below 4 bytes signed types sign-extend to 32 bits. -/
def loadVal (signed : Bool) (bs : List Byte) : W64 :=
  let x := natLE bs
  match bs.length with
  | 1 => zx (if signed then (BitVec.ofNat 8 x).signExtend 32 else BitVec.ofNat 32 x)
  | 2 => zx (if signed then (BitVec.ofNat 16 x).signExtend 32 else BitVec.ofNat 32 x)
  | _ => BitVec.ofNat 64 x

/-- An element updated by an adder (Table 3-6, R72): operation 0 add, 1 min, 2 max; type code of Table 12-5. -/
def adder (op ty : Nat) (old x : Nat) : Nat :=
  let int := fun {w : Nat} (a b : BitVec w) (signed : Bool) =>
    (match op with
     | 0 => a + b
     | 1 => minBy signed a b
     | _ => maxBy signed a b).toNat
  let flt := fun (g : FFmt) =>
    match op with
    | 0 => g.addNum old x
    | 1 => g.minNum old x
    | _ => g.maxNum old x
  match ty with
  | 2 => int (BitVec.ofNat 32 old) (BitVec.ofNat 32 x) true
  | 3 => int (BitVec.ofNat 64 old) (BitVec.ofNat 64 x) true
  | 6 => int (BitVec.ofNat 32 old) (BitVec.ofNat 32 x) false
  | 7 => int (BitVec.ofNat 64 old) (BitVec.ofNat 64 x) false
  | 8 => flt fp32
  | _ => flt bf16

/-- What an update does with the old element: the new one, if any. -/
def updated (k : AccKind) (n : Nat) (old : Nat) (data cmp : W64) : Option Nat :=
  let x := data.toNat % 2 ^ (8 * n)
  match k with
  | .store => some x
  | .red op ty => some (adder op ty old x)
  | .atom op ty _ => some (adder op ty old x)
  | .cas _ => if old = cmp.toNat % 2 ^ (8 * n) then some x else none
  | .load _ => none

/-- The element an update leaves, if it writes one: with a poisoned operand or target it leaves a poisoned result, a compare
that fails included (R326). -/
def resulting (k : AccKind) (n : Nat) (old : Nat) (data cmp : W64) (bad : Bool) : Option Nat :=
  match updated k n old data cmp, k with
  | some x, _ => some x
  | none, .cas _ => if bad then some old else none
  | none, _ => none

/-! ### Tiles (R52 to R57) -/

/-- A workgroup holds tiles of a core: it runs there, or ended there with tiles not released yet (R351). -/
def Wg.tilesOn (w : Wg) (c : Nat) : Bool := w.place == .core c || w.place == .ended c

/-- The tile of this core, of this space, that mirrors an address, with its workgroup. -/
def State.tileAt (s : State) (w : Wg) (va : W64) : Option (Wg × Tile) :=
  let asid := (s.space w).asid
  s.ex.wgs.findSome? fun u =>
    if u.tilesOn w.core && (s.space u).asid == asid then
      (u.tiles.find? fun t => t.vpage.toNat / 4096 == va.toNat / 4096).map fun t => (u, t)
    else none

/-- The tile of a core whose block lies at a location. The core's accesses by another address of the block are performed on
it too: one core never holds the same bytes in its L1 and its stash (R56). -/
def State.tileOn (s : State) (core loc : Nat) : Option (Wg × Tile) :=
  s.ex.wgs.findSome? fun u =>
    if u.tilesOn core then
      (u.tiles.find? fun t => (s.tileLoc u t).any fun b => decide (b ≤ loc) && decide (loc < b + 4096)).map fun t => (u, t)
    else none

/-- A first touch starts the fill of an EMPTY tile (R54). -/
def State.startFill (s : State) (wg idx : Nat) : State :=
  s.modTile wg idx fun t => if t.state == .empty && !t.freeing then { t with state := .filling } else t

/-- A tile acquires the ownership of a line that it does not own (R57), for the partition of its space (R65). The core's L1
holds none of it (R56). -/
def State.ownTile (s : State) (w : Wg) (t : Tile) (off : Nat) : State :=
  if t.owned.getLsbD (off / 128) then s
  else match s.tileLoc w t with
    | some loc =>
      let line := loc + off / 128 * 128
      s.forPart (s.space w).part fun s => ((s.evictLine w.core line).recall line none).grant w.core line true
    | none => s

/-- Bytes are written into a READY tile: dirty, owned, checked (R57). -/
def Tile.put (t : Tile) (off : Nat) (bs : List Byte) (p : Bool) : Tile :=
  { t with data := t.data.writeBytes off bs
           dirty := (List.range bs.length).foldl (fun d j => insertNat (off + j) d) t.dirty
           owned := t.owned ||| 1#32 <<< (off / 128)
           poison := if p then t.poison ||| 1#128 <<< (off / 32) else t.poison
           wchecked := true }

/-- A store into a tile. Ownership is recalled from other holders first. -/
def State.tileStore (s : State) (wg idx off : Nat) (bs : List Byte) (p : Bool) : State :=
  match s.wg? wg with
  | none => s
  | some w =>
    match w.tiles.find? (·.idx == idx) with
    | none => s
    | some t => (s.ownTile w t off).modTile wg idx (·.put off bs p)

/-- A lane still waits at an instruction that names a tile. -/
def State.stillWaits (s : State) (wg idx key : Nat) : Bool :=
  match s.wg? (key / 1024) with
  | some w => (w.lane (key % 1024)).live && (w.lane (key % 1024)).atTile.contains (wg, idx)
  | none => false

/-- Completion of a queued tile instruction that finds its index released (R351): the first read of its handle traps. -/
def State.tileLost (s : State) (wg : Nat) (cs : List TileCmd) : State :=
  cs.foldl (fun s c => if c.op = 0 then s else s.completeOp wg c.op 0 (some { cause := 3, tval := c.tval }) 0) s

/-- A tile instruction acts when its turn comes (Table 3-2, R348 to R351). -/
def State.tileAct (s : State) (wg idx : Nat) (t : Tile) (c : TileCmd) (rest : List TileCmd) : State :=
  match c.kind with
  | 0 =>
    s.modTile wg idx fun t => { t with queue := rest, fillOp := c.op, refill := !t.dirty.isEmpty
                                       state := if t.state == .ready && !t.dirty.isEmpty then .draining else .filling }
  | 1 =>
    if t.state == .empty || t.dirty.isEmpty then
      (s.modTile wg idx fun t => { t with queue := rest }).completeOp wg c.op 0 none 4
    else s.modTile wg idx fun t => { t with queue := rest, drainOp := c.op, state := .draining }
  | _ =>
    (s.modTile wg idx fun t => { t with queue := [], freeing := true }).tileLost wg rest

/-- The turns that have come at a tile: the head of its queue acts when the tile is READY or EMPTY and every lane that
named it earlier has gone on. -/
def State.tileTurn (s : State) (wg idx : Nat) : Nat → State
  | 0 => s
  | n + 1 =>
    match (s.wg? wg).bind fun w => w.tiles.find? fun t => t.idx == idx && !t.freeing with
    | none => s
    | some t =>
      match t.queue with
      | [] => s
      | c :: rest =>
        if (t.state == .ready || t.state == .empty)
            && !(t.state == .ready && c.ahead.any fun k => t.waiters.contains k && s.stillWaits wg idx k) then
          (s.tileAct wg idx t c rest).tileTurn wg idx n
        else s

/-- A lane's naming instruction has acted on the tile. -/
def State.tileNamed (s : State) (wg idx key : Nat) : State :=
  (s.modTile wg idx fun t => { t with waiters := t.waiters.filter (· != key)
                                      queue := t.queue.map fun c => { c with ahead := c.ahead.filter (· != key) } }).tileTurn wg idx 64

/-! ### Where an access goes -/

/-- The place of an access, once its lane may make it. -/
inductive Target where
  /-- The lane waits, and starts this. -/
  | wait (fx : List Fx)
  | trap (cause : Nat) (tval : W64)
  /-- A READY tile: its workgroup, index, and the byte in it. -/
  | tile (wg idx off : Nat)
  | mem (loc : Nat)
  /-- A page fault, or a migration that writes wait for. -/
  | held (fault : Bool)

/-- A lane waits at an instruction that names a tile (R346). -/
def State.tileWaiter (s : State) (wg idx id lane : Nat) : State :=
  (s.modTile wg idx fun t => { t with waiters := insertNat (barKey id lane) t.waiters }).modWg id
    (·.modLane lane fun l => if l.atTile.contains (wg, idx) then l else { l with atTile := (wg, idx) :: l.atTile })

/-- A write to a tile's page: checked at the first one against W and C, with the miss that the check needs (R31, R55);
`none`: it may be made. While the block's region migrates it waits (R40). -/
def State.tileWrites (s : State) (w : Wg) (i : Nat) (l : Lane) (u : Wg) (t : Tile) (off : Nat) (mark : Fx) : Option Target :=
  let sp := s.space u
  if t.wchecked then (if (s.tileLoc u t).any s.ms.migrating then some (.wait [mark]) else none)
  else match xlate s.ms w.core sp t.vpage .write (l.walked.contains (t.vpage.toNat / 65536)) with
    | .ok loc => if s.ms.migrating loc then some (.wait [mark]) else none
    | .fault => some (.wait [.act fun s => s.modMs (·.faultNote sp.asid t.vpage), mark])
    | .miss => some (.wait [.act fun s => s.modMs (·.addMiss w.core sp.asid t.vpage w.id i), mark])
    | .poison a => some (.trap 13 (BitVec.ofNat 64 a))
    | .viol => some (.trap 8 (t.vpage + BitVec.ofNat 64 off))

/-- A tile of workgroup `u` named by lane `i` of `w` with an access of a kind (R54, R55, R346): ready and the lane's turn,
waited for, or a violation of the write, at its own address (R34). -/
def State.tileTarget (s : State) (w : Wg) (i : Nat) (l : Lane) (u : Wg) (t : Tile) (va : W64) (k : Access) : Target :=
  let mark : Fx := .act fun s => s.tileWaiter u.id t.idx w.id i
  let off := va.toNat % 4096
  if t.freeing then .wait []
  else match t.state with
    | .empty => .wait [.act fun s => s.startFill u.id t.idx, mark]
    | .ready =>
      if (match t.queue with | [] => false | c :: _ => !c.ahead.contains (barKey w.id i)) then .wait [mark]
      else if k.writes then (s.tileWrites w i l u t off mark).getD (.tile u.id t.idx off)
      else .tile u.id t.idx off
    | _ => .wait [mark]

/-- A device virtual address (R327, R56, Table 2-7). -/
def State.target (s : State) (w : Wg) (i : Nat) (l : Lane) (va tval : W64) (k : Access) : Target :=
  match s.tileAt w va with
  | some (u, t) => s.tileTarget w i l u t va k
  | none =>
    let sp := s.space w
    match xlate s.ms w.core sp va k (l.walked.contains (va.toNat / 65536)) with
    | .ok loc =>
      (match s.tileOn w.core loc with
       | some (u, t) => s.tileTarget w i l u t va k
       | none => if k.writes && s.ms.migrating loc then .held false else .mem loc)
    | .viol => .trap 8 tval
    | .fault => .held true
    | .poison a => .trap 13 (BitVec.ofNat 64 a)
    | .miss => .wait [.act fun s => s.modMs (·.addMiss w.core sp.asid va w.id i)]

/-- A stash address (R328): bits 19:12 the tile index, bits 11:0 the byte. -/
def State.stashTarget (s : State) (w : Wg) (i : Nat) (l : Lane) (va : W64) (k : Access) : Target :=
  if bits va 63 20 != 0 then .trap 8 va
  else match w.tiles.find? (fun t => t.idx == bits va 19 12 && !t.freeing) with
    | none => .trap 8 va
    | some t => s.tileTarget w i l w t va k

/-- The device virtual address of a stash address. -/
def Wg.stashVa (w : Wg) (va : W64) : W64 :=
  match w.tiles.find? (fun t => t.idx == bits va 19 12 && !t.freeing) with
  | some t => t.vpage + BitVec.ofNat 64 (va.toNat % 4096)
  | none => va

/-! ### What a lane's earlier accesses make it wait for -/

/-- An access of a lane: an LDU is a read by each of its reading lanes (R329). -/
def Acc.ofLane (a : Acc) (wg lane : Nat) : Bool := a.wg == wg && (a.lane == lane || a.readers.contains lane)

def Acc.isLoad (a : Acc) : Bool :=
  match a.kind with
  | .load _ => true
  | _ => false

/-- An acquiring access of the lane has not returned (R135). -/
def MemSys.acqPending (ms : MemSys) (wg lane : Nat) : Bool := ms.acc.any fun a => a.acq && a.ofLane wg lane

/-- A pending access is to the sector of an address, by that address or by another of the same location (R129, R130). -/
def State.accNear (s : State) (sp : Space) (a : Acc) (va : W64) : Bool :=
  a.va.toNat / 32 == va.toNat / 32 ||
    (match a.loc.or (s.ms.locOf sp a.va), s.ms.locOf sp va with
     | some x, some y => x / 32 == y / 32
     | _, _ => false)

/-- Earlier accesses of the lane to the same 32-byte sector, or a CMAINT of its over it (R35, R75, R130, R335). -/
def State.sameSector (s : State) (w : Wg) (lane : Nat) (va : W64) : Bool :=
  (s.ms.acc.any fun a => a.ofLane w.id lane && s.accNear (s.space w) a va)
    || s.ms.maint.any fun m => m.wg == w.id && m.lane == lane && decide (m.lo.toNat / 128 * 128 ≤ va.toNat)
        && decide (va.toNat < m.hi.toNat / 128 * 128 + 128)

/-- A pending access goes to a register page, where nothing holds what a store writes (R194, R424). -/
def State.atRegPage (s : State) (w : Wg) (a : Acc) : Bool :=
  ((a.loc.or (s.ms.locOf (s.space w) a.va)).bind s.ms.regPage).isSome

/-- The lane's latest store still pending that covers the bytes of a load: its bytes are what the load receives (R35). -/
def State.forward (s : State) (w : Wg) (lane : Nat) (va : W64) (n : Nat) : Option (List Byte × Bool) :=
  match s.ms.acc.reverse.find? (fun a => a.ofLane w.id lane && s.accNear (s.space w) a va) with
  | some a =>
    if a.kind == .store && !s.atRegPage w a && decide (a.va.toNat ≤ va.toNat) && decide (va.toNat + n ≤ a.va.toNat + a.width) then
      some (((bytesLE a.width a.data.toNat).drop (va.toNat - a.va.toNat)).take n, a.poison)
    else none
  | none => none

/-- A release waits until the lane's reads have returned and, above `.thr`, its writes are performed (R134). -/
def MemSys.releaseWaits (ms : MemSys) (wg lane scope : Nat) : Bool :=
  ms.acc.any fun a => a.ofLane wg lane && (a.isLoad || a.dst != .none || scope != 0)

/-- Engine operations are settled separately (R142); a release at `.die` and wider cleans the core, at `.sys` also the
host sectors (R134, R150). An edge of scope `.die` between threads of different dies, which R127 does not order, is given the
actions of `.dev` too (DESIGN CHOICE, log entry 97). -/
def State.release (s : State) (core scope : Nat) : State :=
  if scope < 3 then s
  else
    let s := s.cleanCore core false
    if scope = 5 then s.modMs (·.cleanHosts) else s

/-- The acquire action (Table 6-1). -/
def State.acquire (s : State) (core scope : Nat) : State := if scope < 3 then s else s.modMs (·.dropClean core)

/-! ### Performing an access -/

/-- The update is made in the core's L1, once ownership is granted. -/
def Acc.isLocal (a : Acc) : Bool :=
  match a.kind with
  | .atom _ _ b => b
  | .cas b => b
  | _ => false

/-- The line requests of one instruction leave in ascending line address (R58). -/
def insertAcc (a : Acc) : List Acc → List Acc
  | [] => [a]
  | b :: l => if b.batch == a.batch && decide (a.va.toNat / 128 < b.va.toNat / 128) then a :: b :: l else b :: insertAcc a l

/-- An access is queued. One that waits for a line to reach the L1 waits for its lane-miss entry (R59). -/
def State.addAcc (s : State) (a : Acc) : State :=
  { s with ck := { s.ck with nextId := s.ck.nextId + 1 }
           ms := { s.ms with acc := insertAcc { a with id := s.ck.nextId, since := s.ck.now, atPort := a.loc.isSome && (a.isLoad || a.isLocal) } s.ms.acc } }

/-! ### Line requests and lane-miss entries (R58, R59) -/

/-- The access waits for a line under an entry of a quarter. -/
def Acc.tracked (a : Acc) (core qt : Nat) : Bool :=
  !a.atPort && a.core == core && quarterOf a.lane == qt && a.loc.isSome && (a.isLoad || a.isLocal)

/-- The lines that the entries of a quarter track. -/
def missLines (acc : List Acc) (core qt : Nat) : List Nat :=
  ((acc.filter (Acc.tracked · core qt)).map fun a => lineOf (a.loc.getD 0)).eraseDups

/-- A line request: what the lanes of one memory instruction touch of one 128-byte line, with the sectors and the bytes they
touch (R58). -/
structure LineReq where
  core    : Nat
  quarter : Nat
  batch   : Nat
  line    : Nat
  sectors : BitVec 4
  bytes   : BitVec 128
  lanes   : List Nat
  deriving DecidableEq, Repr

/-- An access belongs to a request. -/
def LineReq.has (r : LineReq) (a : Acc) : Bool :=
  a.core == r.core && quarterOf a.lane == r.quarter && a.batch == r.batch && a.va.toNat / 128 == r.line

/-- A lane's access joins the request of its line. -/
def LineReq.join (r : LineReq) (a : Acc) : LineReq :=
  { r with sectors := r.sectors ||| sectorBit a.va.toNat
           bytes := r.bytes ||| BitVec.ofNat 128 ((2 ^ a.width - 1) * 2 ^ (a.va.toNat % 128))
           lanes := insertNat a.lane r.lanes }

/-- The requests that stand at the memory ports, in the order in which they leave: instruction by instruction, each in
ascending line address (`insertAcc`). -/
def portRequests (acc : List Acc) : List LineReq :=
  (acc.filter (·.atPort)).foldl (fun rs a =>
    if rs.any (·.has a) then rs.map fun r => if r.has a then r.join a else r
    else rs ++ [({ core := a.core, quarter := quarterOf a.lane, batch := a.batch, line := a.va.toNat / 128
                   sectors := 0, bytes := 0, lanes := [] } : LineReq).join a]) []

/-- The bytes of a load are in its core's L1: it needs no entry (R61). -/
def MemSys.accHits (ms : MemSys) (a : Acc) : Bool :=
  a.isLoad && !(a.acq && decide (3 ≤ a.scope)) && a.loc.any fun loc => ms.l1Has a.core loc a.width && (ms.regPage loc).isNone

/-- A request leaves its port: its bytes are there, it joins the entry of its line, or it takes one of the 64, unless the
request before it holds the port. The ports held so far go along. -/
def MemSys.grantRequest (ms : MemSys) (x : List Acc × List (Nat × Nat)) (r : LineReq) : List Acc × List (Nat × Nat) :=
  let mine := x.1.filter fun a => a.atPort && r.has a
  let lines := missLines x.1 r.core r.quarter
  let needs := (mine.filter fun a => !ms.accHits a).map fun a => lineOf (a.loc.getD 0)
  if x.2.contains (r.core, r.quarter) then x
  else if needs.all fun n => lines.contains n || decide (lines.length < 64) then
    (x.1.map fun a => if a.atPort && r.has a then { a with atPort := false } else a, x.2)
  else (x.1, (r.core, r.quarter) :: x.2)

/-- The requests at the ports take the entries that are free; the lanes of those that find none have not completed their
issue. -/
def State.grantEntries (s : State) : State :=
  if !(s.ms.acc.any (·.atPort)) && !(s.ex.wgs.any fun w => w.lanes.any (·.atPort)) then s else
  let acc := ((portRequests s.ms.acc).foldl s.ms.grantRequest (s.ms.acc, [])).1
  let at' := fun (w : Wg) (i : Nat) => acc.any fun a => a.atPort && a.ofLane w.id i
  let mark := fun (w : Wg) => { w with lanes := mapLanes (fun i l => if l.atPort == at' w i then l else { l with atPort := at' w i }) 0 w.lanes }
  { s with ms := { s.ms with acc := acc }, ex := { s.ex with wgs := s.ex.wgs.map mark } }

/-- The entries of a lane's quarter could run out under the instruction that issues: its requests leave one after another. -/
def MemSys.portShort (ms : MemSys) (core lane : Nat) : Bool :=
  decide (32 < (missLines ms.acc core (quarterOf lane)).length) || ms.portHeld core (quarterOf lane)

/-- The residue check of an update by the adders of a sector's home or link controller (R458): a mismatch repeats it once, in
its place; a second one is logged, and the sector is written as poisoned. -/
def State.adderCheck (s : State) (sec : Nat) (k : AccKind) : State × Bool :=
  match k, s.ms.adderBad.find? (·.1 == sec / 32) with
  | .red .., some x | .atom .., some x =>
    let s := s.modMs fun ms => { ms with adderBad := ms.adderBad.filter (·.1 != sec / 32), adderRetries := ms.adderRetries + 1 }
    (if x.2 then s.note (.adderResidue sec) else s, x.2)
  | _, _ => (s, false)

/-- An update at the home of its location (R71, R73): owners recalled, the line's other sets examined (R67), the core's own
copy shed; old element and whether it is poisoned. Poison is never placed in host memory or another module's (R326), but by
an adder (R458). `core`: 64 and above for an agent that is no core. -/
def State.homeUpdate (s : State) (core loc n : Nat) (k : AccKind) (data cmp : W64) (p : Bool) : State × Nat × Bool :=
  if s.unreachable loc then (s.dropWrite, 0, true) else
  let sec := sectorOf loc
  let s := ((s.recall (lineOf loc) none).shedSector core sec).modMs fun ms => (ms.l2Fill sec).l2Merge sec 0
  let old := natLE (((s.ms.homeBytes sec).drop (loc - sec)).take n)
  let op := s.ms.poisoned sec
  let bad := p || (op && k != .store)
  match (if isOutside loc && bad then none else resulting k n old data cmp bad) with
  | none => (s, old, op)
  | some x =>
    let r := s.adderCheck sec k
    (r.1.modMs fun ms =>
      (ms.homeWrite sec (byteMask (loc - sec) n) (wideBytes (loc - sec) (bytesLE n x)) (p || op || r.2)).heatAdd sec (core / 16), old, op)

/-- THE MEMORY LINK CONTROLLER PERFORMS REDS OF `.sys` ON A LINE OF MODULE MEMORY, `k`: the home slice has cleaned its own copy
and dropped it, and holds none after (R73). While the line's page waits for an overflow slot they wait (R46). -/
def State.atController (s : State) (loc : Nat) (k : State → State) : Option State :=
  let s := s.evictL2 (lineOf loc)
  if s.ms.l2.any fun x => x.line == lineOf loc then none else some ((k s).evictL2 (lineOf loc))

/-- A line is owned by a core's L1 (R69). -/
def State.ownLine (s : State) (core line : Nat) : State :=
  if s.ms.l1Owns core line then s
  else (((s.l1Room core line).recall line (some core)).grant core line false).modMs (·.l1Grant core line)

/-- An update in the core's own L1, under ownership (R69). -/
def State.localUpdate (s : State) (core loc n : Nat) (k : AccKind) (data cmp : W64) (p : Bool) : State × Nat × Bool :=
  let s := s.ownLine core (lineOf loc)
  let s := if s.ms.l1Has core loc n then s else s.fillSector core (sectorOf loc) true
  let r := s.ms.l1Read core loc n
  let old := natLE r.1
  let bad := p || r.2
  match (if isOutside loc && bad then none else resulting k n old data cmp bad) with
  | none => (s, old, r.2)
  | some x => (s.modMs (·.l1Write core loc (bytesLE n x) bad), old, r.2)

/-- The element that an atomic finds in a tile: the bytes written since the last write-back, and else the home's, which
the line's grant has made the latest (R57, R70); and whether it is poisoned. -/
def State.tileElement (s : State) (w : Wg) (t : Tile) (off n : Nat) : Nat × Bool :=
  match s.tileLoc w t with
  | none => (natLE (t.bytes off n), t.poison.getLsbD (off / 32))
  | some loc =>
    let sec := sectorOf (loc + off)
    let home := (s.ms.homeBytes sec).drop (loc + off - sec)
    let mine := fun j => t.dirty.contains (off + j)
    (natLE ((List.range n).map fun j => if mine j then t.data.read (off + j) else home.getD j 0),
      (t.poison.getLsbD (off / 32) && (List.range n).any mine) || (s.ms.poisoned sec && !(List.range n).all mine))

/-- An access in a tile (R56, R334). -/
def State.tileUpdate (s : State) (wg idx off n : Nat) (k : AccKind) (data cmp : W64) (p : Bool) : State × Nat × Bool :=
  match (s.wg? wg).bind fun w => (w.tiles.find? (·.idx == idx)).map fun t => (w, t) with
  | none => (s, 0, false)
  | some (w, t) =>
    match k with
    | .load _ => (s, natLE (t.bytes off n), t.poison.getLsbD (off / 32))
    | .store => (s.tileStore wg idx off (bytesLE n data.toNat) p, 0, false)
    | _ =>
      let s := s.ownTile w t off
      let r := s.tileElement w t off n
      match resulting k n r.1 data cmp (p || r.2) with
      | none => (s, r)
      | some x => (s.modTile wg idx (·.put off (bytesLE n x) (p || r.2)), r)

/-- A plain store into the L1, or a store at `.die` release scope and wider at its home (R50, R134). -/
def State.storeMem (s : State) (core loc n : Nat) (data : W64) (p rel : Bool) (scope : Nat) : State :=
  if rel && decide (3 ≤ scope) then (s.homeUpdate core loc n .store data 0 p).1
  else (s.l1Room core (lineOf loc)).modMs (·.l1Write core loc (bytesLE n data.toNat) p)

/-- A load's bytes read from a core's L1, filled first. -/
def State.loadMem (s : State) (core loc n : Nat) : State × List Byte × Bool :=
  let s := if s.ms.l1Has core loc n then s else s.fillSector core (sectorOf loc) false
  (s, s.ms.l1Read core loc n)

/-! ### Bytes that an engine writes, before the first read of its handle (R94, R143) -/

/-- The bytes of records. -/
def recBytes (rs : List (W64 × W64 × Bool)) : List Byte := rs.flatMap fun r => bytesLE 8 r.1.toNat ++ bytesLE 8 r.2.1.toNat

/-- Another byte that an address may read as, besides the one that memory holds: the byte that an engine is to write there,
or the one that it has written over. -/
def State.engineByte (s : State) (asid : BitVec 16) (va : Nat) (m : Byte) : Option Byte :=
  s.ex.drained.findSome? fun d =>
    if d.asid == asid && decide (d.addr.toNat ≤ va) && decide (va < d.addr.toNat + d.new.length) then
      let n := d.new.getD (va - d.addr.toNat) 0
      some (if m = n then d.old.getD (va - d.addr.toNat) 0 else n)
    else none

/-- A read reaches such bytes. -/
def State.engineOpen (s : State) (asid : BitVec 16) (va n : Nat) : Bool :=
  s.ex.drained.any fun d => d.asid == asid && decide (va < d.addr.toNat + d.new.length) && decide (d.addr.toNat < va + n)

/-- The bytes of a read. R94 leaves them undefined, R143 admits these two values of each (DEDUCED, log entry 113); which of the
two a byte is, is free (log entry 3). -/
def State.mixBytes (s : State) (asid : BitVec 16) (va : Nat) (bs : List Byte) : List Byte :=
  ((List.range bs.length).zip bs).map fun x =>
    match s.engineByte asid (va + x.1) x.2 with
    | some o => if (freeWord s.ck.free (7100 + x.1)).getLsbD 0 then o else x.2
    | none => x.2

/-- What a load receives. -/
def State.lookMem (s : State) (asid : BitVec 16) (va : W64) (core loc n : Nat) : State × List Byte × Bool :=
  let r := s.loadMem core loc n
  if s.engineOpen asid va.toNat n then (r.1.tickFree, s.mixBytes asid va.toNat r.2.1, r.2.2) else r

/-- The bytes at an address as they stand at its home. -/
def State.bytesAt (s : State) (sp : Space) (va : W64) (n : Nat) : List Byte :=
  (List.range n).map fun j =>
    match s.ms.locOf sp (va + BitVec.ofNat 64 j) with
    | some loc => (s.ms.homeBytes (sectorOf loc)).getD (loc - sectorOf loc) 0
    | none => 0

/-- Bytes that an operation writes may read as either value from now on. -/
def State.addDrained (s : State) (op : Nat) (sp : Space) (addr : W64) (new : List Byte) : State :=
  if new.isEmpty then s else
  { s with ex := { s.ex with drained := s.ex.drained ++ [{ op, asid := sp.asid, addr, new, old := s.bytesAt sp addr new.length }] } }

end Sys2Proof.Machine
end

