-- ==== Sys2Proof/Machine/Agents.lean ====
section
/-! DEFINITION. Memory as agents that are no lanes read and write it: command processors, engines, ring controllers, the
routing co-processor, the module OS (spec/02 R30, R60; spec/06 R142, R149, R150).  Each access goes to the home slice. -/
namespace Sys2Proof.Machine

/-- What an agent's access comes to. -/
inductive Got where
  | val (v : Nat) (poison : Bool)
  | viol
  /-- A page fault, now in service, or a migration in progress: the agent waits. -/
  | wait
  /-- A poisoned table entry, at its location. -/
  | poison (ent : Nat)
  deriving DecidableEq, Repr

/-- An agent's access once translated: `k` works at the location. -/
def State.agent (s : State) (unit : Nat) (sp : Space) (va : W64) (a : Access) (k : State → Nat → State × Got) : State × Got :=
  let r := s.xlateBy unit sp va a
  let s := r.2
  match r.1 with
  | .ok loc => if a.writes && s.ms.migrating loc then (s, .wait) else k s loc
  | .fault => (s.modMs (·.faultNote sp.asid va), .wait)
  | .poison e => (s, .poison e)
  | _ => (s, .viol)

/-- What such an access reads: a free value (log entry 85). -/
def State.regBytes (s : State) (n : Nat) : List Byte := freeBytes s.ck.free n

/-- `n` bytes at a location, within one sector, read at the home. -/
def State.homeRead (s : State) (loc n : Nat) : State × Got :=
  if s.unreachable loc then (s, .val 0 true) else
  match s.ms.regPage loc with
  | some (g, off) => (s.regTouch g off false, .val (natLE (s.regBytes n)) false)
  | none =>
  let sec := sectorOf loc
  let s := s.openHome loc
  (s, .val (natLE (((s.ms.homeBytes sec).drop (loc - sec)).take n)) (s.ms.poisoned sec))

/-- Bytes written at the home. -/
def State.homeStore (s : State) (loc n v : Nat) (p : Bool) : State :=
  if s.unreachable loc then s.dropWrite else
  match s.ms.regPage loc with
  | some (g, off) => s.regTouch g off (n == 4)
  | none =>
  let sec := sectorOf loc
  (s.openHome loc).modMs (·.homeWrite sec (byteMask (loc - sec) n) (wideBytes (loc - sec) (bytesLE n v)) p)

/-- A sector as an engine of a core reads it: the home's bytes under the dirty bytes of that core's L1 (R142). -/
def State.engineSector (s : State) (core loc : Nat) : State × List Byte × Bool :=
  if s.unreachable loc then (s, List.replicate 32 0, true) else
  match s.ms.regPage loc with
  | some (g, off) => (s.regTouch g off false, s.regBytes 32, false)
  | none =>
  let sec := sectorOf loc
  let s := s.openHome loc
  match s.ms.l1Find core sec with
  | some x => (s, mergeBytes x.dirty 0 (s.ms.homeBytes sec) x.data,
      (s.ms.poisoned sec && x.dirty != fullMask) || (x.poison && x.dirty != 0))
  | none => (s, s.ms.homeBytes sec, s.ms.poisoned sec)

/-- A sector read of a privileged unit of a core finds a miss-status entry: one of the unit's 32, or one of the 128 that the
four share (R60). -/
def MemSys.engineRoom (ms : MemSys) (core unit : Nat) : Bool :=
  let own := (ms.engMiss.getD core []).getD unit 0
  let shared := (ms.engMiss.getD core []).foldl (fun n x => n + (x - 32)) 0
  decide (own < 32) || decide (shared < 128)

/-- A sector that is missing for an engine of a core: neither the home's L2 holds it nor, whole, the core's L1. -/
def MemSys.engineMisses (ms : MemSys) (core loc : Nat) : Bool :=
  !(ms.l2.any fun x => x.line == lineOf loc && x.valid.getLsbD (loc / 32 % 4))
    && !((ms.l1Find core (sectorOf loc)).any fun x => x.dirty == fullMask)

/-- A missing sector takes an entry of its unit until it has arrived (R60, `State.engineArrives`). -/
def MemSys.engineTakes (ms : MemSys) (core unit : Nat) : MemSys :=
  { ms with engMiss := upd ms.engMiss core fun l => upd l unit (· + 1) }

/-- `n` bytes within one sector, read by an engine of a core: 0 copy engine, 1 iterator gathers, 2 weight loads, 3 Drift
streams. A missing sector takes a miss-status entry, and a unit that finds none waits (R60). -/
def State.engineRead (s : State) (core unit : Nat) (sp : Space) (va : W64) (n : Nat) : State × Got :=
  s.agent (engineUnit core) sp va .read fun s loc =>
    let miss := s.ms.engineMisses core loc
    if miss && !s.ms.engineRoom core unit then (s, .wait)
    else
      let s := if miss then s.modMs (·.engineTakes core unit) else s
      let r := s.engineSector core loc
      let bs := (r.2.1.drop (loc - sectorOf loc)).take n
      if s.engineOpen sp.asid va.toNat n then (r.1.tickFree, .val (natLE (s.mixBytes sp.asid va.toNat bs)) r.2.2)
      else (r.1, .val (natLE bs) r.2.2)

/-- Whole sectors from a 32-byte-aligned address on: their bytes and poison; or the first that does not succeed, with its
address. -/
def State.engineSectors (s : State) (core unit : Nat) (sp : Space) (va : W64) :
    Nat → State × Except (Got × W64) (List (List Byte × Bool))
  | 0 => (s, .ok [])
  | n + 1 =>
    match s.engineRead core unit sp va 32 with
    | (s, .val v p) =>
      (match s.engineSectors core unit sp (va + 32) n with
       | (s, .ok l) => (s, .ok ((bytesLE 32 v, p) :: l))
       | r => r)
    | (s, g) => (s, .error (g, va))

/-- A write by an engine of a core (R142): the core's own copy leaves its L1 first. -/
def State.engineWrite (s : State) (core : Nat) (sp : Space) (va : W64) (n v : Nat) (p : Bool) : State × Got :=
  s.agent (engineUnit core) sp va .write fun s loc => (((s.evictSector core (sectorOf loc))).homeStore loc n v p, .val 0 false)

/-- A read of `n` bytes in a space. -/
def State.agentRead (s : State) (unit : Nat) (sp : Space) (va : W64) (n : Nat) : State × Got :=
  s.agent unit sp va .read fun s loc => s.homeRead loc n

/-- A write of `n` bytes in a space. -/
def State.agentWrite (s : State) (unit : Nat) (sp : Space) (va : W64) (n v : Nat) (p : Bool) : State × Got :=
  s.agent unit sp va .write fun s loc => (s.homeStore loc n v p, .val 0 false)

/-- A RED add of an n64 at its home (Table 3-6). -/
def State.agentAdd (s : State) (unit : Nat) (sp : Space) (va : W64) (v : Nat) : State × Got :=
  s.agent unit sp va .both fun s loc =>
    match s.ms.regPage loc with
    | some (g, off) => (s.regTouch g off false, .val 0 false)
    | none =>
      let r := s.homeUpdate 64 loc 8 (.red 0 7) (BitVec.ofNat 64 v) 0 false
      (r.1, .val r.2.1 r.2.2)

/-- Consecutive 8-byte words, ascending. Poison of any is the poison of all. -/
def State.agentWords (s : State) (unit : Nat) (sp : Space) (va : W64) : Nat → State × Except Got (List W64 × Bool)
  | 0 => (s, .ok ([], false))
  | n + 1 =>
    match s.agentRead unit sp va 8 with
    | (s, .val v p) =>
      (match s.agentWords unit sp (va + 8) n with
       | (s, .ok (ws, q)) => (s, .ok (BitVec.ofNat 64 v :: ws, p || q))
       | r => r)
    | (s, g) => (s, .error g)

/-- The word of some bytes, the first lowest. -/
def wordsNat (ws : List (W64 × Bool)) : Nat := ws.foldr (fun w n => w.1.toNat + 2 ^ 64 * n) 0

/-- Consecutive 8-byte words written by `wr`, which writes at an address so many bytes of a value, each with its poison; those
of a whole sector in one write, which clears the poison that was there (R460). The first address that does not succeed. -/
def putWords (wr : State → W64 → Nat → Nat → Bool → State × Got) (s : State) (va : W64) : List (W64 × Bool) → State × Got × W64
  | [] => (s, .val 0 false, va)
  | w :: x :: y :: z :: ws =>
    if va.toNat % 32 = 0 then
      match wr s va 32 (wordsNat [w, x, y, z]) (w.2 || x.2 || y.2 || z.2) with
      | (s, .val ..) => putWords wr s (va + 32) ws
      | (s, g) => (s, g, va)
    else
      match wr s va 8 w.1.toNat w.2 with
      | (s, .val ..) => putWords wr s (va + 8) (x :: y :: z :: ws)
      | (s, g) => (s, g, va)
  | w :: ws =>
    match wr s va 8 w.1.toNat w.2 with
    | (s, .val ..) => putWords wr s (va + 8) ws
    | (s, g) => (s, g, va)

/-- Words written by an agent in a space. -/
def State.agentPuts (s : State) (unit : Nat) (sp : Space) (va : W64) (ws : List (W64 × Bool)) : State × Got :=
  let r := putWords (fun s a n v p => s.agentWrite unit sp a n v p) s va ws
  (r.1, r.2.1)

/-- Words written by an engine of a core. -/
def State.enginePuts (s : State) (core : Nat) (sp : Space) (va : W64) (ws : List (W64 × Bool)) : State × Got × W64 :=
  putWords (fun s a n v p => s.engineWrite core sp a n v p) s va ws

/-- The error status an access leaves (R34, R381): none when it succeeded. -/
def Got.err (g : Got) (va : W64) : Option ErrMark :=
  match g with
  | .viol => some { cause := 8, tval := va }
  | .poison e => some { cause := 13, tval := BitVec.ofNat 64 e }
  | _ => none

end Sys2Proof.Machine
end

