-- ==== Sys2Proof/Machine/Control.lean ====
section
/-! DEFINITION. Control transfers, repetition, shape, and group-wide questions: opcodes 0x20 to 0x2D (spec/13 R289 to
R298). -/
namespace Sys2Proof.Machine

/-- A lane continues at a clause header. -/
def Lane.jump (l : Lane) (t : W64) : Lane := { l with pc := t, clause := t, rep := 0 }

/-- A relative target: the header of this clause plus 8 × the signed offset (R249). -/
def relTarget (g : Gang) (off : BitVec 24) : W64 := g.clause + (off.signExtend 64 <<< 3)

/-- A register target: bits 2:0 must be zero (R249); a poisoned one kills (R273). -/
def registerTarget (l : Lane) (v : Vals) (k : LOut) : LOut :=
  if v.pa then .trap l 13 v.tag false
  else if bits v.a 2 0 != 0 then .trap l 9 v.a false
  else k

/-! ### Branches (R289) -/

def braSpec (f : Fields) (off : BitVec 24) : LaneSpec where
  sig := sigBlank f
  body := fun cx _ l _ _ => .go (l.jump (relTarget cx.g off)) []
/-- BRA (R289). -/
def execBra (f : Fields) (off : BitVec 24) (s : State) : Out := laneExec (braSpec f off) f s

def sigTarget (f : Fields) : Sig := { var := f.var == 0, q := f.q == 0, a := .pr, unit := 5 }

def brxSpec (f : Fields) : LaneSpec where
  sig := sigTarget f
  body := fun _ _ l _ v => registerTarget l v (.go (l.jump v.a) [])
/-- BRX (R289). -/
def execBrx (f : Fields) (s : State) : Out := laneExec (brxSpec f) f s

/-! ### Calls (R182, R290) -/

/-- The window slides: frame d + 2 comes in full of zeros, and the return address is written to the callee's v15. -/
def Lane.slide (l : Lane) (free : Nat) (ret : W32) : Lane :=
  let l := { l with d := l.d + 1 }
  let l := (List.range 16).foldl (fun l j => l.put free (l.entry (16 + j)) {}) l
  l.put free (l.entry 15) { val := ret, full := true, poison := false }

/-- The entries a CALL writes: the caller's v31 and the frame that comes in. A pending producer there makes the CALL
wait (R186). -/
def callBusy (l : Lane) : Bool :=
  let c := { l with d := l.d + 1 }
  !(l.reg 31).full || (List.range 16).any fun j => !(c.reg (16 + j)).full

/-- The return address: bits 34:3 of the next clause header. -/
def returnWord (after : W64) : W32 := BitVec.ofNat 32 (bits after 34 3)

/-- A CALL: the window-overflow trap, or the transfer after the slide (R182). -/
def callTo (cx : Cx) (l : Lane) (t : W64) : LOut :=
  if l.lo + 2 ≤ l.d then .trap l 5 (BitVec.ofNat 64 l.d) false
  else if callBusy l then .stay l
  else .go ((l.slide cx.free (returnWord cx.g.after)).jump t) []

def callSpec (f : Fields) (off : BitVec 24) : LaneSpec where
  sig := sigBlank f
  body := fun cx _ l _ _ => callTo cx l (relTarget cx.g off)
/-- CALL (R290). -/
def execCall (f : Fields) (off : BitVec 24) (s : State) : Out := laneExec (callSpec f off) f s

/-- Window traps come before a poisoned or misaligned target (R408). -/
def callxSpec (f : Fields) : LaneSpec where
  sig := sigTarget f
  body := fun cx _ l _ v =>
    if l.lo + 2 ≤ l.d then .trap l 5 (BitVec.ofNat 64 l.d) false
    else registerTarget l v (callTo cx l v.a)
/-- CALLX (R290). -/
def execCallx (f : Fields) (s : State) : Out := laneExec (callxSpec f) f s

/-- The target of a RET (R290). -/
def returnTarget (clause : W64) (v15 : W32) : W64 :=
  BitVec.ofNat 64 (bits clause 51 35 * 2 ^ 35 + v15.toNat * 8)

def retSpec (f : Fields) : LaneSpec where
  sig := sigBlank f
  more := fun _ => [(.v 15, false, false)]
  body := fun cx i l _ _ =>
    if l.d = 0 then .trap l 6 0 false
    else if l.lo = l.d then .trap l 6 (BitVec.ofNat 64 l.d) false
    else if (l.reg 15).poison then .trap l 13 15 false
    else .go ({ l with d := l.d - 1 }.jump (returnTarget cx.g.clause (vsrc cx i l 15))) []
/-- RET (R182, R290). -/
def execRet (f : Fields) (s : State) : Out := laneExec (retSpec f) f s

/-! ### Meeting, ending, waiting -/

/-- The quad of a lane has a lane of the gang whose guard is false (R291). -/
def quadGuardedOff (cx : Cx) (f : Fields) (i : Nat) : Bool :=
  cx.g.lanes.any fun j => j / 4 == i / 4 && (cx.w.lane j).live && !(cx.w.lane j).guard f

def joinSpec (f : Fields) (off : BitVec 24) : LaneSpec where
  sig := sigBlank f
  body := fun cx i l f _ =>
    let t := relTarget cx.g off
    .go { l.jump t with wait := if quadGuardedOff cx f i then .none else .join t 64 } []
/-- JOIN (R291, R173): the quad is not offered at the target until the meeting or 64 clocks later. -/
def execJoin (f : Fields) (off : BitVec 24) (s : State) : Out := laneExec (joinSpec f off) f s

def exitSpec (f : Fields) : LaneSpec where
  sig := sigBlank f
  body := fun _ _ l _ _ => if l.helper then .done l [] else .exit l
/-- EXIT (R292, R169). A helper exits with the lane it shadows, and only then (R168). -/
def execExitOp (f : Fields) (s : State) : Out := laneExec (exitSpec f) f s

def yieldSpec (f : Fields) : LaneSpec where
  sig := sigBlank f
  body := fun _ _ l _ _ => .done { l with shy := 16 } []
/-- YIELD (R293): the lane continues at the next clause; its quad is passed over for 16 clocks (`State.issue`). -/
def execYield (f : Fields) (s : State) : Out := laneExec (yieldSpec f) f s

def dozeSpec (f : Fields) : LaneSpec where
  sig := { var := f.var == 0, q := f.q == 0, a := .src false, unit := 5 }
  body := fun _ _ l _ v =>
    if v.pa then .trap l 13 v.tag false
    else
      let n := min (lo32 v.a).toNat (2 ^ 20)
      .done (if n = 0 then { l with shy := 16 } else { l with wait := .doze n }) []
/-- DOZE (R293): the lane is at the next clause and is not offered for that many clocks. -/
def execDoze (f : Fields) (s : State) : Out := laneExec (dozeSpec f) f s

def repSpec (f : Fields) : LaneSpec where
  sig := { var := true, q := f.q == 0, unit := 5 }
  body := fun _ _ l _ _ => .done l []
/-- REP (R294) acts when its clause is decoded: the repeated instruction's gang carries k. In a lane it does nothing, and
its guard has no effect. -/
def execRepOp (f : Fields) (s : State) : Out := laneExec (repSpec f) { f with gp := 7, gn := false } s

/-! ### GSHAPE (R174, R175, R295) -/

def shapeWidth (var : Nat) : Nat := 8 * 2 ^ var

/-- The new groups' scalars come from the old group of their lowest lane (R175). -/
def Wg.reshape (w : Wg) (width : Nat) : Wg :=
  { w with
    width := width
    groups := (List.range ((w.lanes.length + width - 1) / width)).map fun k => w.group (w.grpOf (k * width)) }

/-- A scalar of the workgroup has a pending producer. -/
def Wg.scalarsPending (w : Wg) : Bool := w.groups.any fun g => g.s.any fun r => !r.full

/-- A lane arrives at the meeting. -/
def Lane.meet (l : Lane) (width : Nat) (g : Gang) : Lane :=
  match l.wait with
  | .gshape .. => l
  | _ => { l with wait := .gshape width g.next g.nextClause g.k }

/-- The width a waiting lane named. -/
def Lane.meetWidth (l : Lane) : Option Nat :=
  match l.wait with
  | .gshape w _ _ _ => some w
  | _ => none

/-- The lane leaves the meeting, and its gang: for the next repetition of a REP, or the next slot (R259, R295). -/
def Lane.leaveMeet (l : Lane) : Lane :=
  match l.wait with
  | .gshape _ n c k => l.goOn n c k
  | _ => l

/-- The `tval` of a trap at the slot a lane stands at. -/
def Lane.slotVal (l : Lane) (sub : Nat) : W64 :=
  BitVec.ofNat 64 (((l.pc - l.clause).toNat / 8 - 1) % 256 * 256 + sub)

/-- The meeting, once every live lane has arrived and no scalar write is pending: one width reshapes, different widths
trap every waiting lane. -/
def State.closeMeeting (s : State) (id : Nat) : State :=
  match s.wg? id with
  | none => s
  | some w =>
    let live := (List.range w.lanes.length).filter fun i => (w.lane i).live
    if live.any (fun i => (w.lane i).meetWidth.isNone) || w.scalarsPending then s
    else
      match live.findSome? (fun i => (w.lane i).meetWidth) with
      | none => s
      | some width =>
        if live.all fun i => (w.lane i).meetWidth == some width then
          let w1 := if width = w.width then w else w.reshape width
          s.setWg ({ w1 with lanes := w1.lanes.map Lane.leaveMeet } : Wg).syncHelpers
        else
          live.foldl (fun s i => s.takeTrap id i 3 ((w.lane i).slotVal 4) false false)
            (s.modWg id fun w => { w with lanes := w.lanes.map fun l => { l with wait := .none } })

/-! ### JOIN's meetings (R173, R291) -/

/-- The target at which a lane waits. -/
def Lane.joinAt (l : Lane) : Option W64 :=
  match l.wait with
  | .join t _ => some t
  | _ => none

/-- The live lanes of a group. -/
def Wg.groupLive (w : Wg) (k : Nat) : List Nat :=
  ((List.range (w.grpCount k)).map (w.grpFirst k + ·)).filter fun i => (w.lane i).live

/-- One target of a group's waiting quads: the quads that stand there have reached it; when every live quad of the group
has, all of them wait no more. -/
def Wg.meetAt (w : Wg) (k : Nat) (t : W64) : Wg :=
  let ls := w.groupLive k
  let qs := (ls.map (· / 4)).eraseDups
  let here := qs.filter fun q => w.reached.contains (t, q) || ls.any fun i => i / 4 == q && (w.lane i).pc == t
  if qs.all here.contains then
    { w with
      lanes := mapLanes (fun i l => if ls.contains i && l.joinAt == some t then { l with wait := .none } else l) 0 w.lanes
      reached := w.reached.filter fun x => !(x.1 == t && qs.contains x.2) }
  else { w with reached := (w.reached ++ here.map fun q => (t, q)).eraseDups }

/-- Every meeting of a workgroup's JOINs; where nobody waits, nothing is remembered. -/
def Wg.meetJoins (w : Wg) : Wg :=
  if w.lanes.all fun l => l.joinAt.isNone then { w with reached := [] }
  else (List.range w.groups.length).foldl (fun w k =>
    (((w.groupLive k).filterMap fun i => (w.lane i).joinAt).eraseDups).foldl (fun w t => w.meetAt k t) w) w

/-- GSHAPE. With guard 0b1111 it does nothing (R295). -/
def execGshape (f : Fields) (s : State) : Out :=
  s.withGang fun g w =>
    match check (s.checkCtx w) { var := decide (f.var.toNat < 4), q := f.q == 0, fixed := true, unit := 5 } f with
    | some (c, sub) => .next (s.trapAll g w c (slotVal g sub))
    | none =>
      if f.gn then .next (s.runLanes g w fun _ l => .done l [])
      else
        let s1 := s.modWg w.id fun w => { w with lanes := mapLanes (fun i l =>
          if g.lanes.contains i && l.live then l.meet (shapeWidth f.var.toNat) g else l) 0 w.lanes }
        .next (s1.closeMeeting w.id)

/-! ### Group-wide questions (R296 to R298) -/

/-- The lowest live lane of the gang whose guard is true. -/
def electLane (cx : Cx) (f : Fields) : Option Nat :=
  cx.g.lanes.find? fun i => (cx.w.lane i).live && (cx.w.lane i).guard f

/-- What reading ELECT's fields needs. -/
def electRead (f : Fields) : LaneSpec where
  sig := { var := f.var == 0, q := f.q == 0, dst := .pred }
  body := fun _ _ l _ _ => .done l []

/-- The lane that ELECT chooses: the lowest that executes in this gang instance. A quad with a lane that waits has dropped
out of it (R171, R236), and a lane that traps does not execute. -/
def electPick (cx : Cx) (f : Fields) : Option Nat :=
  cx.g.lanes.find? fun i => executes cx (electRead f) f i

def electSpec (f : Fields) : LaneSpec :=
  { electRead f with body := fun cx i l f _ => writePred l f.dst (electPick cx f == some i) {} }
/-- ELECT (R296). -/
def execElect (f : Fields) (s : State) : Out := laneExec (electSpec f) f s

/-- VOTE's roles. -/
def sigVote (f : Fields) (d : DRole) (var : Nat) : Sig :=
  { var := f.var.toNat == var, q := f.q == 0, dst := d, a := .pred, c := .mask, free := true }

/-- The members that contribute a true predicate. -/
def votes (x : GroupCx) : List Nat :=
  (List.range x.count).filter fun j => match x.contrib j with
    | some v => v.a == 1
    | none => false

def bit64 (b : Bool) : W64 := if b then 1 else 0

/-- AND of the contributions; the identity is true. -/
def voteAllOf (x : GroupCx) : Bool :=
  (List.range x.count).all fun j => match x.contrib j with
    | some v => v.a == 1
    | none => true

def voteAllSpec (f : Fields) : GroupSpec where
  sig := sigVote f .pred 0
  res := fun x _ _ => (bit64 (voteAllOf x), false)
/-- VOTE.ALL (R297). -/
def execVoteAll (f : Fields) (s : State) : Out := groupExec (voteAllSpec f) f s

def voteAnySpec (f : Fields) : GroupSpec where
  sig := sigVote f .pred 1
  res := fun x _ _ => (bit64 (!(votes x).isEmpty), false)
/-- VOTE.ANY (R297). -/
def execVoteAny (f : Fields) (s : State) : Out := groupExec (voteAnySpec f) f s

def voteBallotSpec (f : Fields) : GroupSpec where
  sig := sigVote f (.scal true) 2
  res := fun x _ _ => ((votes x).foldl (fun m j => m ||| entryBit j) 0, false)
/-- VOTE.BALLOT (R297). -/
def execVoteBallot (f : Fields) (s : State) : Out := groupExec (voteBallotSpec f) f s

def voteCountSpec (f : Fields) : GroupSpec where
  sig := sigVote f (.scal false) 3
  res := fun x _ _ => (BitVec.ofNat 64 (votes x).length, false)
/-- VOTE.COUNT (R297). -/
def execVoteCount (f : Fields) (s : State) : Out := groupExec (voteCountSpec f) f s

/-- The non-helper participants whose A equals the lane's own, and whether a poisoned A was combined (R302). -/
def matchOf (x : GroupCx) (wide : Bool) (v : Vals) : W64 × Bool :=
  (List.range x.count).foldl (fun m j =>
    match x.contrib j with
    | some u => (if (if wide then u.a == v.a else lo32 u.a == lo32 v.a) then m.1 ||| entryBit j else m.1, m.2 || u.pa)
    | none => m) (0, v.pa)

def matchSpec (f : Fields) : GroupSpec where
  sig := { var := varTL f.var, q := f.q == 0, noLane64 := true, dst := .dst true, a := .src (isWide f.var), c := .mask }
  res := fun x _ v => matchOf x (isWide f.var) v
/-- MATCH (R297). -/
def execMatchOp (f : Fields) (s : State) : Out := groupExec (matchSpec f) f s

end Sys2Proof.Machine
end

