-- ==== Sys2Proof/Machine/Once.lean ====
section
/-! DEFINITION. The frame of an instruction that acts once per gang issue (08 R172, Table 8-3): every executing lane is
checked and receives its handle; the lowest one whose quad issues acts for all. -/
namespace Sys2Proof.Machine

/-- What an executing lane's operands come to. -/
inductive Dec where
  | ok
  /-- It is not issued yet, and not checked. -/
  | hold (fx : List Fx)
  | wait (fx : List Fx)
  | trap (cause : Nat) (tval : W64)

/-- What comes before a poison kill: a wait before the issue, and an operand limit, which is a decoding check (R408). -/
def Dec.early : Dec → Bool
  | .hold _ => true
  | .trap c _ => c == 3
  | _ => false

structure Once where
  sig : Sig
  dec : Cx → Nat → Lane → Fields → Vals → Dec
  /-- What the acting lane starts. -/
  act : Cx → Nat → Lane → Fields → Vals → State → State
  /-- What every executing lane receives in itself. -/
  own : Cx → Nat → Lane → Fields → Vals → Lane := fun _ _ l _ _ => l
  /-- A result of every executing lane besides a handle. -/
  out : Cx → Lane → Fields → Vals → LOut := fun _ l _ _ => .done l []
  /-- The sources that are poisoned as operands of a resource (R461). -/
  bad : Fields → Vals → Bool := fun _ v => v.poison
  more : Fields → List (Operand × Bool × Bool) := fun _ => []

/-- Reading the fields, without an effect. -/
def Once.read (o : Once) : LaneSpec where
  sig := o.sig
  more := o.more
  body := fun _ _ l _ _ => .done l []

/-- A lane at the instruction with its guard true, under the values `v` that the instruction uses (R381). A limit on the
operands' values is a check of Table 12-14, and comes before the kill for poison (R408, log entry 89). -/
def Once.lane (o : Once) (cx : Cx) (i : Nat) (l : Lane) (f : Fields) (v : Vals) : LOut :=
  if l.helper then .done l []
  else
    let d := o.dec cx i l f v
    if o.bad f v && !d.early then .trap l 13 v.tag false
    else match d with
      | .ok => o.out cx (o.own cx i l f v) f v
      | .hold fx => .wait l fx
      | .wait fx => .wait l fx
      | .trap c t => .trap l c t false

/-- An active non-helper lane with a true guard, held up by nothing of its own: its values may be those used. -/
def Once.able (o : Once) (cx : Cx) (f : Fields) (j : Nat) : Bool :=
  (cx.w.lane j).live && (cx.w.lane j).guard f && (arrivalStop cx o.read f j (cx.w.lane j)).isNone

/-- The values of a lane. -/
def Once.valsAt (o : Once) (cx : Cx) (f : Fields) (j : Nat) : Vals := valsOf cx o.read f j (cx.w.lane j)

/-- The lowest such lane of a quad. -/
def Once.quadLead (o : Once) (cx : Cx) (f : Fields) (q : Nat) : Option Nat := cx.g.lanes.find? fun j => j / 4 == q && o.able cx f j

/-- A quad drops out (R171): a lane of it waits for its sources, or, under the values of its lowest lane, for the
instruction. -/
def Once.holds (o : Once) (cx : Cx) (f : Fields) (q : Nat) : Bool :=
  quadUnready cx o.read f q || (o.quadLead cx f q).any fun j =>
    cx.g.lanes.any fun k => k / 4 == q && o.able cx f k && (o.lane cx k (cx.w.lane k) f (o.valsAt cx f j)).stays

/-- THE LANE THAT ACTS (R381): the lowest active non-helper lane with a true guard, of a quad that issues. -/
def Once.lead (o : Once) (cx : Cx) (f : Fields) : Option Nat :=
  cx.g.lanes.find? fun j => o.able cx f j && !o.holds cx f (j / 4)

/-- The values that lane `i` meets: those of the acting lane; in a quad before it, which waits, its own lowest lane's. -/
def Once.used (o : Once) (cx : Cx) (f : Fields) (i : Nat) : Vals :=
  o.valsAt cx f ((((o.lead cx f).filter fun j => decide (j / 4 ≤ i / 4)).or (o.quadLead cx f (i / 4))).getD i)

def Once.spec (o : Once) : LaneSpec where
  sig := o.sig
  more := o.more
  body := fun cx i l f _ =>
    let v := o.used cx f i
    match o.lane cx i l f v with
    | .done l' fx => if o.lead cx f == some i then .done l' (fx ++ [.act (o.act cx i l f v)]) else .done l' fx
    | x => x

/-- AN INSTRUCTION THAT ACTS ONCE PER GANG ISSUE. -/
def onceExec (o : Once) (f : Fields) (s : State) : Out := laneExec o.spec f s

/-- The handle of an operation begun by this issue (R187): the same in every executing lane, empty. -/
def newHandle (op : Nat) (l : Lane) (f : Fields) : Lane :=
  match f.dst with
  | .h n => l.setHandle n.val { val := 0, full := false, op := op }
  | _ => l

/-- An operation is in progress (R381). -/
def State.startOp (s : State) (op : Nat) (w : Wg) (k : EngineKind) : State :=
  { s.freshId with ex := { s.ex with ops := s.ex.ops ++ [{ id := op, wg := w.id, asid := (s.space w).asid, core := w.core, kind := k }] } }

/-- Issue of an asynchronous operation is a release at `.wg` (R142): the lane's earlier accesses have been made. -/
def issueHolds (s : State) (cx : Cx) (i : Nat) : Bool :=
  s.ms.acqPending cx.w.id i || s.ms.releaseWaits cx.w.id i 2

end Sys2Proof.Machine
end

