-- ==== Sys2Proof/Machine/Drift.lean ====
section
/-! DEFINITION. The Drift store: opcodes 0xD0 to 0xD7, their records and ring reservations, and their events (spec/04 R78 to
R102, spec/16 R374 to R379). -/
namespace Sys2Proof.Machine

/-! ### Configuration (Table 4-1) and values (Table 4-2) -/

def DTable.sets (t : DTable) : Nat := 2 ^ bits t.cfg 43 40
def DTable.ways (t : DTable) : Nat := bits t.cfg 39 37 + 1
def DTable.wideKey (t : DTable) : Bool := t.cfg.getLsbD 36
def DTable.kind (t : DTable) : Nat := bits t.cfg 35 32
/-- 0 EVICT, 1 BYPASS, 2 TRAP. -/
def DTable.pol (t : DTable) : Nat := bits t.cfg 31 30

/-- No reserved bit or code (R81). -/
def cfgOk (c : W64) : Bool :=
  bits c 63 44 == 0 && bits c 29 0 == 0 && decide (bits c 43 40 ≤ 11) && decide (bits c 35 32 ≤ 10) && bits c 31 30 != 3

/-- The lane value of a kind is a pair. -/
def wideKind (k : Nat) : Bool := k == 2 || k == 5 || k == 8

/-- Kinds whose probed value is a pair (R376). -/
def pairKind (k : Nat) : Bool := wideKind k || k == 9 || k == 10

/-- A lane's value in an entry's form. -/
def liftVal (k : Nat) (x : W64) : W64 :=
  match k with
  | 0 | 3 | 6 => zx (lo32 x)
  | 1 | 4 | 7 => sx (lo32 x)
  | 9 => 1
  | 10 => pair (lo32 x) 1
  | _ => x

/-- A record's value in an entry's form (R96). -/
def recVal (k : Nat) (x : W64) : W64 :=
  match k with
  | 0 | 3 | 6 => zx (lo32 x)
  | 1 | 4 | 7 => sx (lo32 x)
  | _ => x

def combineVal (k : Nat) (a b : W64) : W64 :=
  match k with
  | 0 => zx (fAdd (lo32 a) (lo32 b))
  | 1 => sx (lo32 a + lo32 b)
  | 2 => a + b
  | 3 => zx (fMin (lo32 a) (lo32 b))
  | 4 => sx (minBy true (lo32 a) (lo32 b))
  | 5 => minBy true a b
  | 6 => zx (fMax (lo32 a) (lo32 b))
  | 7 => sx (maxBy true (lo32 a) (lo32 b))
  | 8 => maxBy true a b
  | 9 => a + b
  | _ => pair (fAdd (lo32 a) (lo32 b)) (hi32 a + hi32 b)

/-- R85. -/
def foldKey (k : W64) : W64 := k ^^^ (k >>> 11) ^^^ (k >>> 22) ^^^ (k >>> 33)

def DTable.setOf (t : DTable) (k : W64) : Nat := (foldKey k).toNat % t.sets

/-! ### Entries (R84 to R86) -/

/-- A key with its combined value and poison. -/
structure KeyVal where
  key    : W64
  val    : W64
  poison : Bool
  deriving DecidableEq, Repr

abbrev Rec := W64 × W64 × Bool

def DEntry.record (e : DEntry) : Rec := (e.key, e.val, e.poison)

def DTable.find (t : DTable) (k : W64) : Option DEntry := t.entries.find? fun e => e.set == t.setOf k && e.key == k
def DTable.inSet (t : DTable) (st : Nat) : List DEntry := t.entries.filter (·.set == st)
def DTable.freeWay (t : DTable) (st : Nat) : Option Nat :=
  (List.range t.ways).find? fun w => !(t.inSet st).any (·.way == w)

/-- An entry leaves: the ranks of its set close the gap (R86). -/
def DTable.remove (t : DTable) (x : DEntry) : DTable :=
  { t with entries := (t.entries.filter fun e => !(e.set == x.set && e.way == x.way)).map fun e =>
      if e.set = x.set && x.age < e.age then { e with age := e.age - 1 } else e }

/-- The entry of an earlier list leaves, with the rank that it has now. -/
def DTable.drop (t : DTable) (x : DEntry) : DTable :=
  match t.entries.find? fun e => e.set == x.set && e.way == x.way with
  | some e => t.remove e
  | none => t

/-- An entry is allocated, newest of its set. -/
def DTable.install (t : DTable) (st way : Nat) (k : KeyVal) : DTable :=
  { t with entries := t.entries ++ [{ set := st, way, key := k.key, val := k.val, poison := k.poison, age := (t.inSet st).length }] }

def DTable.bump (t : DTable) (i n : Nat) : DTable := { t with counters := upd t.counters i (· + BitVec.ofNat 64 n) }

/-- One key is applied (R87, step 2): its status and the record it emits; `none` where TRAP cannot place it. -/
def DTable.applyKey (t : DTable) (k : KeyVal) : Option (DTable × Nat × List Rec) :=
  let st := t.setOf k.key
  match t.find k.key with
  | some e =>
    some (({ t with entries := t.entries.map fun x => if x.set = e.set && x.way = e.way then
      { x with val := combineVal t.kind x.val k.val, poison := x.poison || k.poison } else x } : DTable).bump 1 1, 0, [])
  | none =>
    match t.freeWay st with
    | some w => some ((t.install st w k).bump 2 1, 1, [])
    | none =>
      match t.pol with
      | 0 =>
        (match (t.inSet st).find? (·.age == 0) with
         | some old => some ((((t.remove old).install st old.way k).bump 2 1).bump 3 1, 2, [old.record])
         | none => none)
      | 1 => some (t.bump 4 1, 3, [(k.key, k.val, k.poison)])
      | _ => none

/-- Keys in order: the table, their statuses, the records; or the set of the first that cannot be placed. -/
def DTable.applyKeys (t : DTable) : List KeyVal → Except Nat (DTable × List (W64 × Nat) × List Rec)
  | [] => .ok (t, [], [])
  | k :: ks =>
    match t.applyKey k with
    | none => .error (t.setOf k.key)
    | some (t, st, rs) =>
      match t.applyKeys ks with
      | .ok (t, sts, rest) => .ok (t, (k.key, st) :: sts, rs ++ rest)
      | .error e => .error e

/-- Drain order: ascending set, then way (R94). -/
def DTable.ordered (t : DTable) : List DEntry :=
  t.entries.foldr (fun e l => insertEntry e l) []
where
  insertEntry (e : DEntry) : List DEntry → List DEntry
    | [] => [e]
    | x :: l => if e.set < x.set || (e.set == x.set && decide (e.way < x.way)) then e :: x :: l else x :: insertEntry e l

/-! ### Ring reservations (R91, R92) -/

/-- A ring descriptor as an engine reads it (Table 4-6). -/
structure RingDesc where
  base : W64
  cap  : Nat
  widx : Nat
  ridx : Nat
  deriving DecidableEq, Repr

/-- The descriptor, read by a core's engine. A word of a poisoned sector is used as it stands: the manual names no effect of
poison here (DEDUCED, log entry 36). -/
def State.readRing (s : State) (core : Nat) (sp : Space) (ring : W64) : State × Except Got RingDesc :=
  match s.engineRead core 3 sp ring 8, s.engineRead core 3 sp (ring + 8) 8, s.engineRead core 3 sp (ring + 16) 8,
    s.engineRead core 3 sp (ring + 24) 8 with
  | (s1, .val b _), (_, .val c _), (_, .val w _), (_, .val r _) =>
    (s1, .ok { base := BitVec.ofNat 64 b, cap := c % 2 ^ 32, widx := w, ridx := r })
  | (_, .val ..), (_, .val ..), (_, .val ..), (s1, g) => (s1, .error g)
  | (_, .val ..), (_, .val ..), (s1, g), _ => (s1, .error g)
  | (_, .val ..), (s1, g), _, _ => (s1, .error g)
  | (s1, g), _, _, _ => (s1, .error g)

/-- A BASE that is not aligned, or a CAP of 0 (R91). -/
def RingDesc.bad (d : RingDesc) : Bool := d.base.toNat % 16 != 0 || d.cap == 0

/-- Where the record of a 64-bit count lies (R91). -/
def RingDesc.addr (d : RingDesc) (i : Nat) : W64 := d.base + BitVec.ofNat 64 (i % 2 ^ 64 % d.cap * 16)

/-- Records from one count of a ring to another: the counts run freely in 64 bits (R91). -/
def ringSpan (lo hi : Nat) : Nat := (hi + (2 ^ 64 - lo % 2 ^ 64)) % 2 ^ 64

/-- What a reservation comes to. -/
inductive Reserved where
  | ok (first : Nat) (locs : List Nat) (wloc : Nat)
  /-- Too little room. -/
  | full
  /-- A page fault, now in service. -/
  | held
  | viol (e : ErrMark)

/-- Records reserved in a ring and not yet written. A ring is the memory that its descriptor lies in, by whatever address. -/
def State.ringPending (s : State) (wloc : Nat) : Nat :=
  (s.ex.ringWrites.filter fun x => x.wloc == wloc).foldl (fun n x => n + x.recs.length) 0

/-- Locations of addresses, each translated as a write; of those that do not succeed the lowest, with its error. -/
def State.reserveLocs (s : State) (core : Nat) (sp : Space) :
    List W64 → State × Except (Option (W64 × ErrMark)) (List Nat)
  | [] => (s, .ok [])
  | a :: as' =>
    let r := s.agent (engineUnit core) sp a .write (fun s loc => (s, .val loc false))
    let rest := r.1.reserveLocs core sp as'
    (rest.1, match r.2, rest.2 with
      | .val loc _, .ok ls => .ok (loc :: ls)
      | .val .., e => e
      | .wait, .error (some x) => .error (some x)
      | .wait, _ => .error none
      | g, .error (some x) => .error (some (if x.1.toNat < a.toNat then x else (a, (g.err a).getD x.2)))
      | g, _ => .error ((g.err a).map fun e => (a, e)))

/-- Where an engine's read finds an address. -/
def State.locAt (s : State) (core : Nat) (sp : Space) (va : W64) : Nat :=
  match (s.agent (engineUnit core) sp va .read fun s loc => (s, .val loc false)).2 with
  | .val loc _ => loc
  | _ => 0

/-- A bad descriptor, or one that cannot be read. -/
def ringErr (g : Got) (ring : W64) : ErrMark := (g.err ring).getD { cause := 8, tval := ring }

/-- `n` records are reserved (R92). -/
def State.reserveRing (s : State) (core : Nat) (sp : Space) (ring : W64) (n : Nat) : State × Reserved :=
  match s.readRing core sp ring with
  | (s, .error .wait) => (s, .held)
  | (s, .error g) => (s, .viol (ringErr g ring))
  | (s, .ok d) =>
    if d.bad then (s, .viol (ringErr .viol ring))
    else
      let first := (d.widx + s.ringPending (s.locAt core sp (ring + 16))) % 2 ^ 64
      if d.cap < ringSpan d.ridx first + n then (s, .full)
      else match s.reserveLocs core sp ((ring + 16) :: (List.range n).map fun i => d.addr (first + i)) with
        | (s, .ok (w :: ls)) => (s, .ok first ls w)
        | (s, .ok []) => (s, .full)
        | (s, .error none) => (s, .held)
        | (s, .error (some a)) => (s, .viol a.2)

def State.addRingWrite (s : State) (x : RingWrite) : State := { s with ex := { s.ex with ringWrites := s.ex.ringWrites ++ [x] } }

/-! ### Reaching a table -/

def Wg.table (w : Wg) (t : Nat) : Option DTable := w.drift.getD t none
def State.setTable (s : State) (wg t : Nat) (x : Option DTable) : State := s.modWg wg fun w => { w with drift := w.drift.set t x }
def State.modTable (s : State) (wg t : Nat) (f : DTable → DTable) : State := s.modWg wg fun w => { w with drift := upd w.drift t fun x => x.map f }

/-- The table that an instruction names, in the workgroup that issues. -/
def State.namedTable (s : State) (f : Fields) : Option DTable :=
  (s.ex.gang.bind fun g => s.wg? g.wg).bind fun w => w.table (f.var.toNat % 4)

/-- Clocks of a time in ns (R9). -/
def State.clocks (s : State) (ns : Nat) : Nat := ns * (if s.hub.phase = .overcast then 6 else 18) / 5

/-- A wait for ring space begins, or ends with a count. -/
def State.ringWait (s : State) (wg t : Nat) : State :=
  s.modTable wg t fun x => { x with waitFrom := some (x.waitFrom.getD s.ck.now) }
def State.waited (s : State) (x : DTable) : DTable :=
  match x.waitFrom with
  | some t => { x with waitFrom := none }.bump 5 (s.clocks (s.ck.now - t))
  | none => x
/-- A wait for ring space is over, however it ended. -/
def State.ringGone (s : State) (wg t : Nat) : State := s.modTable wg t s.waited

/-! ### KACC (R87 to R89, R375) -/

def kaccSig (t : Option DTable) (f : Fields) : Sig :=
  { var := decide (f.var.toNat < 4), q := f.q == 0, dst := .dst false, a := .src (t.any DTable.wideKey)
    b := .src (t.any fun t => wideKind t.kind), limit := t.isSome, unit := 4 }

/-- Reading key and value, without an effect. -/
def kaccRead (t : Option DTable) (f : Fields) : LaneSpec where
  sig := kaccSig t f
  use := fun _ _ => (true, true, false)
  body := fun _ _ l _ _ => .done l []

/-- A lane that takes part: key and value. `none` as the outer value: its quad waits, for a helper too (R171). -/
def kaccLane (cx : Cx) (t : Option DTable) (f : Fields) (j : Nat) : Option (Option (Nat × Vals)) :=
  let l := cx.w.lane j
  if l.exited then some none
  else match laneOut cx (kaccRead t f) f j l with
    | .stay _ | .wait .. => none
    | .trap .. | .trapFx .. => some none
    | _ =>
      let v := valsOf cx (kaccRead t f) f j l
      if l.helper || !l.guard f || v.pa then some none else some (some (j, v))

/-- The lanes that take part, ascending. -/
def kaccLanes (cx : Cx) (t : Option DTable) (f : Fields) : List (Nat × Vals) :=
  (cx.g.lanes.filter fun j => !cx.g.lanes.any fun k => k / 4 == j / 4 && (kaccLane cx t f k).isNone).filterMap fun j =>
    (kaccLane cx t f j).join

/-- The key of a lane (R83). -/
def laneKey (t : DTable) (v : Vals) : W64 := if t.wideKey then v.a else zx (lo32 v.a)

/-- A lane joins the keys: combined with an equal one, or last (R87, step 1). -/
def addKey (kind : Nat) (k : KeyVal) : List KeyVal → List KeyVal
  | [] => [k]
  | x :: l => if x.key = k.key then { x with val := combineVal kind x.val k.val, poison := x.poison || k.poison } :: l else x :: addKey kind k l

def laneKeys (t : DTable) (ls : List (Nat × Vals)) : List KeyVal :=
  ls.foldl (fun ks x => addKey t.kind { key := laneKey t x.2, val := liftVal t.kind x.2.b, poison := x.2.pb && t.kind != 9 } ks) []

/-- What a gang's KACC comes to before it acts. -/
inductive KaccDec where
  | ok
  /-- With what the waiting instruction starts. -/
  | wait (fx : List Fx)
  /-- With what the search for a place in the ring leaves: its walks, and the end of a wait (R28, R94). -/
  | trap (cause : Nat) (tval : W64) (fx : List Fx)

/-- What the whole gang's KACC comes to: a trap, a wait, or the effect on the state for destinations given. The key steps of
one KACC, and of one KPROBE, are one step: those of instructions of different groups, whose interleaving the manual leaves
open (R100, Table 4-9), never interleave here (DESIGN CHOICE, log entry 90). -/
def kaccPlan (s : State) (w : Wg) (t : DTable) (n : Nat) (ls : List (Nat × Vals)) :
    KaccDec × (List (Nat × Dest × W64) → State → State) :=
  match t.applyKeys (laneKeys t ls) with
  | .error st => (.trap 10 (BitVec.ofNat 64 st) [], fun _ s => s)
  | .ok (t1, sts, recs) =>
    let status := fun (key : W64) => (sts.find? fun x => x.1 == key).map (·.2) |>.getD 0
    let fill := fun (ds : List (Nat × Dest × W64)) => ds.map fun d => (d.1, d.2.1, BitVec.ofNat 32 (status d.2.2))
    if recs.isEmpty then
      (.ok, fun ds s => (fill ds).foldl (fun s d => s.fillDest w.id d.1 d.2.1 (zx d.2.2) false) (s.setTable w.id n (some (s.waited t1))))
    else
      match (s.reserveRing w.core (s.space w) t.ring recs.length).2 with
      | .viol e => (.trap e.cause e.tval [.act fun s => (s.reserveRing w.core (s.space w) t.ring recs.length).1.ringGone w.id n], fun _ s => s)
      | .held => (.wait [.act fun s => (s.reserveRing w.core (s.space w) t.ring recs.length).1], fun _ s => s)
      | .full => (.wait [.act fun s => s.ringWait w.id n], fun _ s => s)
      | .ok first locs wloc => (.ok, fun ds s =>
          let s := (s.reserveRing w.core (s.space w) t.ring recs.length).1
          (s.setTable w.id n (some ((s.waited t1).bump 6 recs.length))).addRingWrite
            { asid := (s.space w).asid, ring := t.ring, first, recs, locs, wloc, wg := w.id, core := w.core
              dests := fill ds, op := 0, count := 0, merge := 0 })

def kaccSpec (s : State) (t : Option DTable) (f : Fields) : LaneSpec where
  sig := kaccSig t f
  use := fun _ _ => (true, true, false)
  body := fun cx i l f v =>
    match t with
    | none => .stay l
    | some tb =>
      if l.helper then .done l []
      else if v.pa then .trap l 13 v.tag false
      else
        let ls := kaccLanes cx t f
        let plan := kaccPlan s cx.w tb (f.var.toNat % 4) ls
        let first := fun (fx : List Fx) => if (ls.head?.map (·.1)) == some i then fx else []
        match plan.1 with
        | .trap c x fx => .trapFx l c x (first fx)
        | .wait fx => .wait l (first fx)
        | .ok =>
          let m := markDest l (destOf cx.w i l f.dst false)
          let ds := ls.map fun x => (x.1, destOf cx.w x.1 (cx.w.lane x.1) f.dst false, laneKey tb x.2)
          .done m.1 (m.2 ++ if (ls.getLast?.map (·.1)) == some i then [.act (plan.2 ds)] else [])
/-- KACC. -/
def execKacc (f : Fields) (s : State) : Out := laneExec (kaccSpec s (s.namedTable f) f) f s

/-! ### KPROBE, KSTAT -/

/-- The state word of an entry (Table 4-3). -/
def DEntry.stateWord (e : DEntry) : W32 := BitVec.ofNat 32 (2 ^ 15 + (if e.poison then 2 ^ 14 else 0) + e.age % 8 * 2 ^ 11)

/-- Value registers and the state word from register `n` on, and the predicate in C. -/
def probeWrite (free n : Nat) (two : Bool) (c : Operand) (e : Option DEntry) (l : Lane) : Lane :=
  let v := (e.map (·.val)).getD 0
  let p := e.any (·.poison)
  let l := l.put free (l.entry n) { val := lo32 v, full := true, poison := p }
  let l := if two then l.put free (l.entry (n + 1)) { val := hi32 v, full := true, poison := p } else l
  let l := l.put free (l.entry (n + if two then 2 else 1)) { val := (e.map (·.stateWord)).getD 0 }
  match c with
  | .p k => l.setPred k.val e.isSome
  | _ => l

def kprobeSpec (t : Option DTable) (f : Fields) : LaneSpec where
  sig := { var := decide (f.var.toNat < 4), q := f.q == 0, dst := .vrun (if t.any fun t => pairKind t.kind then 3 else 2)
           a := .src (t.any DTable.wideKey), c := .pred, limit := t.isSome, unit := 4 }
  use := fun _ _ => (true, false, false)
  body := fun cx _ l f v =>
    let two := t.any fun t => pairKind t.kind
    match f.dst, t with
    | .v n, some tb =>
      if l.helper then .done (probeWrite cx.free n.val two f.c none l) []
      else if v.poison then .trap l 13 v.tag false
      else if (match f.c with | .p k => l.predBusy k.val | _ => false) then .stay l
      else .done (probeWrite cx.free n.val two f.c (tb.find (laneKey tb v)) l) []
    | _, _ => .done l []
/-- KPROBE (R94, R376). -/
def execKprobe (f : Fields) (s : State) : Out := laneExec (kprobeSpec (s.namedTable f) f) f s

/-- A counter of Table 4-8. -/
def DTable.counter (t : DTable) (n : Nat) : W64 := if n = 0 then BitVec.ofNat 64 t.entries.length else t.counters.getD n 0

def kstatSpec (f : Fields) : LaneSpec where
  sig := { var := decide (f.var.toNat < 4), q := f.q == 0, dst := .dst true, b := .u, unit := 4 }
  bad := fun cx i l f => (limitOf cx i l f.b).any (15 < ·)
  body := fun cx _ l f v =>
    let n := (lo32 v.b).toNat
    if v.poison then .trap l 13 v.tag false
    else write cx l f.dst true (((cx.w.table (f.var.toNat % 4)).map fun t => if n < 8 then t.counter n else 0).getD 0) false 0
/-- KSTAT (R378). -/
def execKstat (f : Fields) (s : State) : Out := laneExec (kstatSpec f) f s

/-! ### Table-level operations (R94, Table 4-7) -/

def badDrift (cx : Cx) : Dec := .trap 3 (slotVal cx.g 4)

/-- Scope codes 2 to 5 of KDRAIN and the copies. -/
def drainScope (q : BitVec 12) : Nat := bits q 9 7

/-- How many entries a KDRAIN takes. -/
def drainCount (t : Option DTable) (v : Vals) : Nat := min (lo32 v.b).toNat ((t.map fun t => t.entries.length).getD 0)

def kdrainOp (s : State) (t : Option DTable) (f : Fields) : Once where
  sig := { var := decide (f.var.toNat < 4), q := f.q &&& 0xC7F == 0 && decide (2 ≤ drainScope f.q) && decide (drainScope f.q ≤ 5)
           dst := .dst false, a := .pr, b := .u, c := .handle, limit := t.isSome, unit := 4 }
  dec := fun cx i l f v =>
    if v.a.toNat % 16 ≠ 0 then .trap 9 v.a
    else if issueHolds s cx i || (match f.c with | .h n => !(l.handle n.val).full | _ => false) then .hold []
    else .ok
  own := fun _ _ l f _ => newHandle s.ck.nextId l { f with dst := f.c }
  out := fun cx l f v => write cx l f.dst false (BitVec.ofNat 64 (drainCount t v)) false 0
  act := fun cx _ _ f v s =>
    let n := drainCount t v
    let es := ((t.map DTable.ordered).getD []).take n
    let s := s.modTable cx.w.id (f.var.toNat % 4) fun t => (es.foldl DTable.drop t).bump 6 n
    (s.startOp s.ck.nextId cx.w (.kdrain v.a (es.map DEntry.record) (drainScope f.q))).addDrained s.ck.nextId (s.space cx.w) v.a
      (recBytes (es.map DEntry.record))
/-- KDRAIN (R377). -/
def execKdrain (f : Fields) (s : State) : Out := onceExec (kdrainOp s (s.namedTable f) f) f s

/-- Entries that the workgroup's tables would hold with one table reconfigured (R80). -/
def requested (w : Wg) (n : Nat) (t : DTable) : Nat :=
  (List.range 4).foldl (fun k i => k + (if i = n then t.sets * t.ways else ((w.table i).map fun x => x.sets * x.ways).getD 0)) 0

def kcfgOp (s : State) (f : Fields) : Once where
  sig := { var := decide (f.var.toNat < 4), q := f.q == 0, a := .pr, b := .pr, unit := 4 }
  bad := fun _ v => v.pa || (v.pb && bits v.a 31 30 != 2)
  dec := fun cx _ _ f v =>
    let t : DTable := { cfg := v.a, ring := v.b }
    let sum := requested cx.w (f.var.toNat % 4) t
    if !cfgOk v.a || (t.pol != 2 && (v.b == 0 || v.b.toNat % 64 != 0)) then badDrift cx
    else if (s.nodeOf cx.w).launch.drift < sum then .trap 10 (BitVec.ofNat 64 sum)
    else .ok
  act := fun cx _ _ f v s => s.setTable cx.w.id (f.var.toNat % 4) (some { cfg := v.a, ring := v.b })
/-- KCFG (R80, R81). -/
def execKcfg (f : Fields) (s : State) : Out := onceExec (kcfgOp s f) f s

/-- Until the handle's first read, the places of a KFLUSH's records may hold the records or what stood there (R94, R143). -/
def State.addFlushed (s : State) (op : Nat) (w : Wg) (t : DTable) (first : Nat) (recs : List Rec) : State :=
  match (s.readRing w.core (s.space w) t.ring).2 with
  | .ok d => ((List.range recs.length).zip recs).foldl (fun s x => s.addDrained op (s.space w) (d.addr (first + x.1)) (recBytes [x.2])) s
  | .error _ => s

/-- A KFLUSH's reservation. -/
def flushPlan (s : State) (w : Wg) (t : DTable) : State × Reserved :=
  if t.entries.isEmpty then (s, .ok 0 [] 0) else s.reserveRing w.core (s.space w) t.ring t.entries.length

def kflushOp (s : State) (t : Option DTable) (f : Fields) : Once where
  sig := { var := decide (f.var.toNat < 4), q := f.q == 0, dst := .handle, limit := t.any fun t => t.pol != 2, unit := 4 }
  dec := fun cx i _ f _ =>
    match t with
    | none => badDrift cx
    | some tb =>
      if issueHolds s cx i then .hold []
      else match (flushPlan s cx.w tb).2 with
        | .full => .wait [.act fun s => s.ringWait cx.w.id (f.var.toNat % 4)]
        | .held => .wait [.act fun s => (flushPlan s cx.w tb).1]
        | _ => .ok
  own := fun _ _ l f _ => newHandle s.ck.nextId l f
  act := fun cx _ _ f _ s =>
    let n := f.var.toNat % 4
    let op := s.ck.nextId
    match t with
    | none => s
    | some tb =>
      let r := flushPlan s cx.w tb
      let s := r.1.startOp op cx.w (.kflush n)
      match r.2 with
      | .ok first locs wloc =>
        let recs := tb.ordered.map DEntry.record
        let s := s.addFlushed op cx.w tb first recs
        let s := s.setTable cx.w.id n (some ((s.waited { tb with entries := [] }).bump 6 recs.length))
        if recs.isEmpty then s.completeOp cx.w.id op 0 none 4
        else s.addRingWrite { asid := (s.space cx.w).asid, ring := tb.ring, first, recs, locs, wloc, wg := cx.w.id, core := cx.w.core
                              dests := [], op, count := recs.length, merge := 0 }
      | .viol e => (s.ringGone cx.w.id n).completeOp cx.w.id op 0 (some e) 4
      | _ => s
/-- KFLUSH (R92, R94, R378). -/
def execKflush (f : Fields) (s : State) : Out := onceExec (kflushOp s (s.namedTable f) f) f s

def kmergeBlockOp (s : State) (t : Option DTable) (f : Fields) : Once where
  sig := { var := decide (f.var.toNat < 4), q := f.q == 0, dst := .handle, a := .pr, b := .u, limit := t.isSome, unit := 4 }
  dec := fun cx i _ _ v => if v.a.toNat % 16 ≠ 0 then .trap 9 v.a else if issueHolds s cx i then .hold [] else .ok
  own := fun _ _ l f _ => newHandle s.ck.nextId l f
  act := fun cx _ _ f v s =>
    let s1 := s.startOp s.ck.nextId cx.w (.kmerge (f.var.toNat % 4) false v.a (some (lo32 v.b).toNat) 0 0 false)
    if lo32 v.b = 0 then s1.completeOp cx.w.id s.ck.nextId 0 none 4 else s1
/-- KMERGE of a block (R96, R379). -/
def execKmergeBlock (f : Fields) (s : State) : Out := onceExec (kmergeBlockOp s (s.namedTable f) f) f s

def kmergeRingOp (s : State) (t : Option DTable) (f : Fields) : Once where
  sig := { var := decide (4 ≤ f.var.toNat) && decide (f.var.toNat < 8), q := f.q == 0, dst := .handle, a := .pr, limit := t.isSome, unit := 4 }
  dec := fun cx i _ _ v => if v.a = 0 || v.a.toNat % 64 ≠ 0 then badDrift cx else if issueHolds s cx i then .hold [] else .ok
  own := fun _ _ l f _ => newHandle s.ck.nextId l f
  act := fun cx _ _ f v s => s.startOp s.ck.nextId cx.w (.kmerge (f.var.toNat % 4) true v.a none 0 0 false)
/-- KMERGE of a ring (R96, R379). -/
def execKmergeRing (f : Fields) (s : State) : Out := onceExec (kmergeRingOp s (s.namedTable f) f) f s

def kclearOp (t : Option DTable) (f : Fields) : Once where
  sig := { var := decide (f.var.toNat < 4), q := f.q == 0, limit := t.isSome, unit := 4 }
  dec := fun _ _ _ _ _ => .ok
  act := fun cx _ _ f _ s => s.modTable cx.w.id (f.var.toNat % 4) fun t => { t with entries := [] }
/-- KCLEAR (R378). -/
def execKclear (f : Fields) (s : State) : Out := onceExec (kclearOp (s.namedTable f) f) f s

/-! ### Events -/

/-- Records are written at their locations, at `.dev`; the core's own copies leave its L1 (R142). -/
def State.putRecords (s : State) (core : Nat) : List (Rec × Nat) → State
  | [] => s
  | (r, loc) :: l =>
    (((s.evictSector core (sectorOf loc)).homeStore loc 8 r.1.toNat r.2.2).homeStore (loc + 8) 8 r.2.1.toNat r.2.2).putRecords core l

/-- A KACC destination becomes full; its first read acquires (R452). -/
def State.fillAcq (s : State) (wg : Nat) (d : Nat × Dest × W32) : State :=
  let s := s.fillDest wg d.1 d.2.1 (zx d.2.2) false
  match d.2.1 with
  | .v es => s.modWg wg (·.modLane d.1 fun l => { l with racq := es.foldl (fun m e => m ||| entryBit e) l.racq })
  | .s _ n _ => s.modWg wg (·.modLane d.1 fun l => { l with sracq := n :: l.sracq })
  | .p n => s.modWg wg (·.modLane d.1 fun l => { l with pracq := l.pracq ||| 1#8 <<< n })
  | _ => s

/-- The oldest reservation of a ring that is named by an address of a space: the ring is the descriptor's memory. -/
def State.oldestWrite (s : State) (asid ring : Nat) : Option RingWrite :=
  (s.ex.ringWrites.find? fun x => x.asid.toNat == asid && x.ring.toNat == ring).bind fun x =>
    s.ex.ringWrites.find? (·.wloc == x.wloc)

/-- DRIFT_RING_WRITE (R93): the ring's oldest reservation is written, then WIDX passes it. -/
def execDriftRingWrite (asid ring : Nat) (s : State) : Out :=
  match s.oldestWrite asid ring with
  | none => .next s
  | some x =>
    if (x.wloc :: x.locs).any s.ms.migrating then .next s
    else
      let s := s.blame x.wg (((s.putRecords x.core (x.recs.zip x.locs)).evictSector x.core (sectorOf x.wloc)).homeStore x.wloc 8
        (x.first + x.recs.length) false)
      let s := { s with ex := { s.ex with ringWrites := s.ex.ringWrites.erase x } }
      let s := x.dests.foldl (fun s d => s.fillAcq x.wg d) s
      .next (if x.op = 0 then s else s.completeOp x.wg x.op (BitVec.ofNat 32 x.count) none 4)

/-- Records that a KMERGE reads next, by address. A record of a poisoned sector is ingested with the key that stands there, and
its entry is poisoned: the manual does not say whether such a key is a use of poison (DESIGN CHOICE, log entry 102). -/
def State.readRecords (s : State) (core : Nat) (sp : Space) : List W64 → State × Except (Got × W64) (List Rec)
  | [] => (s, .ok [])
  | a :: as' =>
    match s.engineRead core 3 sp a 8, s.engineRead core 3 sp (a + 8) 8 with
    | (s1, .val k p), (_, .val v _) =>
      (match s1.readRecords core sp as' with
       | (s, .ok l) => (s, .ok ((BitVec.ofNat 64 k, BitVec.ofNat 64 v, p) :: l))
       | r => r)
    | (_, .val ..), (s1, g) => (s1, .error (g, a + 8))
    | (s1, g), _ => (s1, .error (g, a))

/-- Records ingested one after another: the table, how many before one that TRAP cannot place, the records emitted. -/
def DTable.ingest (t : DTable) : List Rec → DTable × Nat × List Rec
  | [] => (t, 0, [])
  | r :: rs =>
    let key := if t.wideKey then r.1 else zx (lo32 r.1)
    match t.applyKey { key, val := recVal t.kind r.2.1, poison := r.2.2 } with
    | none => (t, 0, [])
    | some (t, _, out) => let x := (t.bump 7 1).ingest rs; (x.1, x.2.1 + 1, out ++ x.2.2)

def State.setKind (s : State) (op : Nat) (k : EngineKind) : State :=
  { s with ex := { s.ex with ops := s.ex.ops.map fun o => if o.id = op then { o with kind := k } else o } }

/-- A ring-form KMERGE writes the source's RIDX with what it has ingested, and writes again what was held (R96). -/
def State.writeRidx (s : State) (o : EngineOp) (sp : Space) (n : Nat) (addr : W64) (left done start : Nat) : State :=
  match s.engineWrite o.core sp (addr + 24) 8 ((start + done) % 2 ^ 64) false with
  | (s, .val ..) => s.setKind o.id (.kmerge n true addr (some left) done start false)
  | (s, .wait) => s.setKind o.id (.kmerge n true addr (some left) done start true)
  | (s, g) => s.completeOp o.wg o.id (BitVec.ofNat 32 done) (g.err (addr + 24)) 4

/-- The KMERGE still has RIDX to write. -/
def State.ridxOwed (s : State) (op : Nat) : Bool :=
  s.ex.ops.any fun o => o.id == op && match o.kind with
    | .kmerge _ _ _ _ _ _ owed => owed
    | _ => false

/-- A batch of records has been read: it is ingested whole, once its own records are reserved (R97). -/
def State.mergeBatch (s : State) (o : EngineOp) (t : DTable) (n : Nat) (ring : Bool) (addr : W64) (left done start : Nat)
    (rs : List Rec) : State :=
  let sp := spaceOf s o
  let x := t.ingest rs
  let r := if x.2.2.isEmpty then (s, Reserved.ok 0 [] 0) else s.reserveRing o.core sp t.ring x.2.2.length
  match r.2 with
  | .full => s.ringWait o.wg n
  | .held => r.1
  | .viol e => (r.1.ringGone o.wg n).completeOp o.wg o.id (BitVec.ofNat 32 done) (some e) 4
  | .ok first locs wloc =>
    let s := r.1
    let s := s.setTable o.wg n (some ((s.waited x.1).bump 6 x.2.2.length))
    let s := if x.2.2.isEmpty then s else s.addRingWrite { asid := sp.asid, ring := t.ring, first, recs := x.2.2, locs, wloc
                                                           wg := o.wg, core := o.core, dests := [], op := 0, count := 0, merge := o.id }
    let d := done + x.2.1
    let s := if ring then s.writeRidx o sp n addr left d start else s.setKind o.id (.kmerge n ring addr (some left) d start false)
    if x.2.1 < rs.length && !s.ridxOwed o.id then
      s.completeOp o.wg o.id (BitVec.ofNat 32 d) (some { cause := 10, tval := BitVec.ofNat 64 d }) 4
    else s
where
  spaceOf (s : State) (o : EngineOp) : Space :=
    (s.hub.space o.asid).getD { asid := o.asid, root := 0, t := false, part := 0, rlim := 0, privileged := false }

/-- A KMERGE goes on: the ring's WIDX, the next batch of up to 8, or its completion. -/
def State.mergeStep (s : State) (o : EngineOp) (n : Nat) (ring : Bool) (addr : W64) (left : Option Nat) (done start : Nat) : State :=
  let sp := State.mergeBatch.spaceOf s o
  match (s.wg? o.wg).bind fun w => w.table n with
  | none => s.completeOp o.wg o.id (BitVec.ofNat 32 done) none 4
  | some t =>
    let d := if ring then s.readRing o.core sp addr else (s, .ok { base := addr, cap := 2 ^ 64, widx := 0, ridx := 0 })
    match d with
    | (s, .error .wait) => s
    | (s, .error g) => s.completeOp o.wg o.id (BitVec.ofNat 32 done) (some (ringErr g addr)) 4
    | (s, .ok d) =>
      if ring && d.bad then s.completeOp o.wg o.id (BitVec.ofNat 32 done) (some { cause := 8, tval := addr }) 4
      else match left with
        | none => (s.acquire o.core 4).setKind o.id (.kmerge n ring addr (some (ringSpan d.ridx d.widx)) 0 d.ridx false)
        | some k =>
          if k ≤ done then
            if s.ex.ringWrites.any (·.merge == o.id) then s else s.completeOp o.wg o.id (BitVec.ofNat 32 done) none 4
          else
            match s.readRecords o.core sp ((List.range (min 8 (k - done))).map fun i => d.addr (start + done + i)) with
            | (s, .error (.wait, _)) => s
            | (s, .error (g, a)) => s.completeOp o.wg o.id (BitVec.ofNat 32 done) (some (ringErr g a)) 4
            | (s, .ok rs) => s.mergeBatch o t n ring addr k done start rs

/-- KMERGE_BATCH (R97). -/
def execKmergeBatch (op : Nat) (s : State) : Out :=
  match s.ex.ops.find? (·.id == op) with
  | none => .next s
  | some o =>
    match o.kind with
    | .kmerge n ring addr left done start owed =>
      .next (s.blame o.wg (if owed then s.writeRidx o (State.mergeBatch.spaceOf s o) n addr (left.getD 0) done start
        else s.mergeStep o n ring addr left done start))
    | _ => .next s

end Sys2Proof.Machine
end

