-- ==== Sys2Proof/Machine/Iter.lean ====
section
/-! DEFINITION. The iterator engine: opcodes 0xD8 to 0xE1, slots and their images, the element rule, and its events
(spec/11 R232 to R244, spec/17 R382 to R387). -/
namespace Sys2Proof.Machine

/-! ### Objects (Tables 11-2, 11-3) -/

def ItrObj.kind (o : ItrObj) : Nat := bits o.w0 63 60
def ItrObj.fa (o : ItrObj) : Bool := o.w0.getLsbD 59
def ItrObj.fb (o : ItrObj) : Bool := o.w0.getLsbD 58
def ItrObj.cmp (o : ItrObj) : Nat := bits o.w0 55 53
def ItrObj.lw (o : ItrObj) : Nat := bits o.w0 49 48
def ItrObj.pos (o : ItrObj) : Nat := bits o.w0 31 0
def ItrObj.setPos (o : ItrObj) (n : Nat) : ItrObj := { o with w0 := setBits o.w0 0 32 n }

/-- Word 0 of a pushed object. -/
def objHead (kind : Nat) (fa : Bool) (cmp lw : Nat) : W64 :=
  BitVec.ofNat 64 (kind * 2 ^ 60 + (if fa then 2 ^ 59 else 0) + cmp * 2 ^ 53 + lw * 2 ^ 48)

/-- Children: RANGE, LIST and BITMAP are sources; ZIP and CHAIN take two; the others one. -/
def ItrObj.arity (o : ItrObj) : Nat := if o.kind ≤ 3 then 0 else if 8 ≤ o.kind then 2 else 1

/-- Pair-valued: it may stand only as the root (R233). -/
def ItrObj.pairy (o : ItrObj) : Bool := o.kind == 8 || (o.kind == 7 && o.fa)

/-- What R234 admits in an object. -/
def ItrObj.ok (o : ItrObj) : Bool :=
  let k := o.kind
  bits o.w0 57 56 == 0 && bits o.w0 52 50 == 0 && bits o.w0 47 32 == 0
    && decide (1 ≤ k) && decide (k ≤ 9)
    && (!o.fa || [2, 5, 6, 7, 9].contains k) && (!o.fb || k == 7) && (o.cmp == 0 || k == 6)
    && (o.lw == 0 || [2, 5, 6, 7].contains k) && (k != 7 || decide (2 ≤ o.lw))
    && (o.pos == 0 || [1, 2, 3, 7].contains k)
    && (match k with
        | 1 => o.w3 != 0
        | 2 => decide (o.w2.toNat < 2 ^ 32) && o.w3 == 0
        | 3 => decide (o.w2.toNat < 2 ^ 32) && o.w3 == 0
        | 4 => o.w3 == 0
        | 5 => o.w3 == 0
        | 8 => o.w1 == 0 && o.w2 == 0 && o.w3 == 0
        | 9 => o.w1 == 0 && o.w2 == 0 && o.w3 == 0
        | _ => true)

/-! ### The postfix stack (R233) -/

/-- An object joins a stack of roots, top first. -/
def pushRoot (o : ItrObj) (rs : List ItrObj) : Option (List ItrObj) :=
  match o.arity, rs with
  | 0, rs => some (o :: rs)
  | 1, x :: rs => if x.pairy then none else some (o :: rs)
  | 2, x :: y :: rs => if x.pairy || y.pairy then none else some (o :: rs)
  | _, _ => none

/-- The roots of objects in push order, top first. -/
def rootsOf (os : List ItrObj) : Option (List ItrObj) :=
  os.foldl (fun r o => r.bind (pushRoot o)) (some [])

/-- The first object of the subtree whose root is object `i`. -/
def subtreeStart (os : List ItrObj) : Nat → Nat → Nat
  | 0, i => i
  | n + 1, i =>
    match (os[i]?.map ItrObj.arity).getD 0 with
    | 0 => i
    | 1 => subtreeStart os n (i - 1)
    | _ => subtreeStart os n (subtreeStart os n (i - 1) - 1)

/-- The child of a unary object, or child B; and child A. -/
def childB (i : Nat) : Nat := i - 1
def childA (os : List ItrObj) (i : Nat) : Nat := subtreeStart os 8 (i - 1) - 1

/-! ### Elements (R235) -/

/-- What a call of Next answers: an element with its poison, the outer element of a pair, the end, a held gather, a
failure, or the use of a poisoned value. -/
inductive Elem where
  | one (v : W64) (p : Bool)
  | two (v : W64) (p : Bool) (u : W64) (q : Bool)
  | ended
  /-- With the 64 KiB page. -/
  | held (page : Nat)
  | fail (cause : Nat) (tval : W64)
  | kill (tval : W64)
  deriving DecidableEq, Repr

/-- A working copy of the cursors while a pull is evaluated. -/
structure Cursor where
  s    : State
  objs : List ItrObj
  /-- An outer element was loaded. -/
  boundary : Bool

def Cursor.setObj (c : Cursor) (i : Nat) (o : ItrObj) : Cursor := { c with objs := c.objs.set i o }
def Cursor.obj (c : Cursor) (i : Nat) : ItrObj := c.objs.getD i ⟨0, 0, 0, 0⟩

/-- A read of an object (R234): aligned, an engine read, extended; `use`: the engine uses the value, so poison kills. -/
def Cursor.read (c : Cursor) (core : Nat) (sp : Space) (va : W64) (lw : Nat) (signed use : Bool) : Cursor × Elem :=
  let n := 2 ^ lw
  if va.toNat % n ≠ 0 then (c, .fail 9 va)
  else
    let r := c.s.engineRead core 1 sp va n
    let c := { c with s := r.1 }
    match r.2 with
    | .val v p =>
      if p && use then (c, .kill va)
      else (c, .one (if signed then (BitVec.ofNat (8 * n) v).signExtend 64 else BitVec.ofNat 64 v) p)
    | .viol => (c, .fail 8 va)
    | .wait => (c, .held (va.toNat / 65536))
    | .poison e => (c, .kill (BitVec.ofNat 64 e))

/-- A comparison of Table 9-4 on 64 bits. -/
def cmp64 (code : Nat) (a b : W64) : Bool :=
  match code with
  | 0 => a == b
  | 1 => a != b
  | 2 => decide (a.toNat < b.toNat)
  | 3 => decide (a.toNat ≤ b.toNat)
  | 4 => decide (b.toNat < a.toNat)
  | 5 => decide (b.toNat ≤ a.toNat)
  | 6 => decide (a.toInt < b.toInt)
  | _ => decide (b.toInt ≤ a.toInt)

/-- The RANGE value at its cursor, computed exactly. -/
def rangeAt (o : ItrObj) : Option W64 :=
  let v : Int := o.w1.toInt + o.pos * o.w3.toInt
  if o.pos = 2 ^ 32 - 1 || (0 < o.w3.toInt && o.w2.toInt ≤ v) || (o.w3.toInt < 0 && v ≤ o.w2.toInt)
      || v < -(2 ^ 63) || 2 ^ 63 ≤ v then none
  else some (BitVec.ofInt 64 v)

/-- Offsets of the row of outer element `x` (FLATTEN): first and length. -/
def Cursor.row (c : Cursor) (core : Nat) (sp : Space) (o : ItrObj) (x : W64) : Cursor × Except Elem (W64 × Nat) :=
  let n : W64 := BitVec.ofNat 64 (2 ^ o.lw)
  match c.read core sp (o.w1 + x * n) o.lw false true with
  | (c, .one a _) =>
    (match c.read core sp (o.w1 + (x + 1) * n) o.lw false true with
     | (c, .one b _) =>
       if 2 ^ 32 - 1 < b.toNat - a.toNat then (c, .error (.fail 3 0)) else (c, .ok (a, b.toNat - a.toNat))
     | (c, e) => (c, .error e))
  | (c, e) => (c, .error e)

/-- Next, on object `i`. `fuel` bounds the chain of calls and of repetitions. -/
def nextElem (core : Nat) (sp : Space) : Nat → Cursor → Nat → Cursor × Elem
  | 0, c, _ => (c, .held 0)
  | fuel + 1, c, i =>
    let o := c.obj i
    match o.kind with
    | 1 =>
      (match rangeAt o with
       | some v => (c.setObj i (o.setPos (o.pos + 1)), .one v false)
       | none => (c, .ended))
    | 2 =>
      if o.w2.toNat ≤ o.pos then (c, .ended)
      else match c.read core sp (o.w1 + BitVec.ofNat 64 (o.pos * 2 ^ o.lw)) o.lw o.fa false with
        | (c, .held p) => (c, .held p)
        | (c, r) => (c.setObj i (o.setPos (o.pos + 1)), r)
    | 3 =>
      if o.w2.toNat ≤ o.pos then (c, .ended)
      else match c.read core sp (o.w1 + BitVec.ofNat 64 (o.pos / 8)) 0 false true with
        | (c, .one v _) =>
          let c := c.setObj i (o.setPos (o.pos + 1))
          if v.getLsbD (o.pos % 8) then (c, .one (BitVec.ofNat 64 o.pos) false) else nextElem core sp fuel c i
        | (c, r) => (c.setObj i (o.setPos (o.pos + 1)), r)
    | 4 =>
      (match nextElem core sp fuel c (childB i) with
       | (c, .one e p) => (c, .one (o.w1 * e + o.w2) p)
       | r => r)
    | 5 =>
      (match nextElem core sp fuel c (childB i) with
       | (c, .one e p) =>
         let va := o.w1 + e * o.w2
         if p then (c, .kill va) else c.read core sp va o.lw o.fa false
       | r => r)
    | 6 =>
      (match nextElem core sp fuel c (childB i) with
       | (c, .one e p) =>
         let va := o.w1 + e * o.w2
         if p then (c, .kill va)
         else (match c.read core sp va o.lw o.fa true with
           | (c, .one m _) => if cmp64 o.cmp m o.w3 then (c, .one e false) else nextElem core sp fuel c i
           | r => r)
       | r => r)
    | 7 =>
      if o.fb && decide (0 < o.pos) then
        let c := c.setObj i { o.setPos (o.pos - 1) with w3 := o.w3 + 1 }
        (c, if o.fa then .two o.w3 false o.w2 false else .one o.w3 false)
      else
        (match nextElem core sp fuel c (childB i) with
         | (c, .one x p) =>
           if p then (c, .kill (o.w1 + x * BitVec.ofNat 64 (2 ^ o.lw)))
           else (match c.row core sp o x with
             | (c, .ok (a, n)) =>
               let o1 : ItrObj := { (o.setPos n) with w2 := x, w3 := a }
               nextElem core sp fuel { c.setObj i { o1 with w0 := o1.w0 ||| (1#64 <<< 58) } with boundary := true } i
             | (c, .error e) => (c, e))
         | r => r)
    | 8 =>
      (match nextElem core sp fuel c (childA c.objs i) with
       | (c, .one a p) =>
         (match nextElem core sp fuel c (childB i) with
          | (c, .one b q) => (c, .two a p b q)
          | r => r)
       | r => r)
    | _ =>
      if o.fa then nextElem core sp fuel c (childB i)
      else match nextElem core sp fuel c (childA c.objs i) with
        | (c, .ended) => nextElem core sp fuel (c.setObj i { o with w0 := o.w0 ||| (1#64 <<< 59) }) (childB i)
        | r => r

/-- More calls than any stack of eight objects can make for one element. -/
def nextFuel : Nat := 2 ^ 320

/-! ### A pull (R237) -/

/-- What a pull comes to. -/
inductive Pulled where
  /-- Elements in lane order, the committed objects, and whether the stream ended. -/
  | ok (es : List Elem) (objs : List ItrObj) (ended : Bool)
  | held (page : Nat)
  | fail (cause : Nat) (tval : W64)
  | kill (tval : W64)

/-- The failing access of lowest address so far: its cause and address (R239). -/
def lowestFail (bad : Option (Nat × W64)) (cause : Nat) (tval : W64) : Option (Nat × W64) :=
  match bad with
  | some (c, t) => if t.toNat ≤ tval.toNat then some (c, t) else some (cause, tval)
  | none => some (cause, tval)

/-- A pull with a failing access fails. -/
def Pulled.orFail (bad : Option (Nat × W64)) (p : Pulled) : Pulled :=
  match bad with
  | some (c, t) => .fail c t
  | none => p

/-- `n` lanes are filled; `first`: no lane yet. The lanes after a failing access are evaluated too, for the lowest address
that fails. -/
def pullLanes (core : Nat) (sp : Space) (bnd : Bool) (root : Nat) :
    Nat → Bool → Option (Nat × W64) → State → List ItrObj → State × Pulled
  | 0, _, bad, s, os => (s, (Pulled.ok [] os false).orFail bad)
  | n + 1, first, bad, s, os =>
    let r := nextElem core sp nextFuel { s, objs := os, boundary := false } root
    match r.2, bnd && r.1.boundary && !first with
    | .ended, _ => (r.1.s, (Pulled.ok [] os true).orFail bad)
    | _, true => (r.1.s, (Pulled.ok [] os false).orFail bad)
    | .held p, _ => (r.1.s, .held p)
    | .kill t, _ => (r.1.s, (Pulled.kill t).orFail bad)
    | .fail c t, _ =>
      if c = 3 then (r.1.s, (Pulled.fail c t).orFail bad)
      else pullLanes core sp bnd root n false (lowestFail bad c t) r.1.s r.1.objs
    | e, _ =>
      match pullLanes core sp bnd root n false bad r.1.s r.1.objs with
      | (s, .ok es os' b) => (s, .ok (e :: es) os' b)
      | (s, x) => (s, x)

/-! ### Slots (R232) -/

def Wg.itrSlot (w : Wg) (k : Nat) : ItrSlot := w.itr.getD k {}
def State.modItr (s : State) (wg k : Nat) (f : ItrSlot → ItrSlot) : State := s.modWg wg fun w => { w with itr := upd w.itr k f }

/-- A queued load of an OPEN or VALID image keeps the physical slot that was bound for it. -/
def ItrSlot.opening (x : ItrSlot) : Bool :=
  x.queue.any fun q => match q with
    | .load _ _ _ opens => opens
    | _ => false

/-- A stream ends: no objects, no physical slot. -/
def ItrSlot.finish (x : ItrSlot) (err : Bool) : ItrSlot :=
  { x with state := 3, err := x.err || err, objs := [], nroot := 0, bound := x.bound && x.opening }

def ItrSlot.cleared (x : ItrSlot) : ItrSlot := { queue := x.queue, bound := x.bound && x.opening }

/-- Physical slots held on a core (of 32). -/
def State.itrHeld (s : State) (core : Nat) : Nat :=
  (s.ex.wgs.filter (·.onCore core)).foldl (fun n w => n + (w.itr.filter (·.bound)).length) 0

/-- A slot restored without a physical slot (R419). -/
def ItrSlot.unbound (x : ItrSlot) : Bool := (x.state == 1 || x.state == 2) && !x.bound

/-- A restored slot takes a physical slot when one is free. -/
def State.rebindItr (s : State) (w : Wg) (k : Nat) : State :=
  if (w.itrSlot k).unbound && decide (s.itrHeld w.core < 32) then s.modItr w.id k fun x => { x with bound := true } else s

/-- ITRENOUGH takes effect (R242). -/
def ItrSlot.enough (x : ItrSlot) : ItrSlot :=
  match x.state with
  | 2 => x.finish false
  | 3 => x
  | _ => x.cleared

/-- Entries of the queue that take no time of their own act at once. -/
def ItrSlot.drainEnough (x : ItrSlot) : ItrSlot := go x.queue.length x
where
  go : Nat → ItrSlot → ItrSlot
    | 0, x => x
    | n + 1, x =>
      match x.queue with
      | .enough :: q => go n ({ x with queue := q } : ItrSlot).enough
      | _ => x

def ItrSlot.enqueue (x : ItrSlot) (o : ItrOp) : ItrSlot := ({ x with queue := x.queue ++ [o] }).drainEnough

/-- The head of the queue has acted. -/
def ItrSlot.advance (x : ItrSlot) : ItrSlot := ({ x with queue := x.queue.drop 1, held := none }).drainEnough

/-! ### Pushes (R382, R383) -/

def badItr (cx : Cx) : Dec := .trap 3 (slotVal cx.g 4)

/-- The slot after a push, or none where a check fails. A push changes no queue: it is empty. -/
def ItrSlot.push (x : ItrSlot) (var : BitVec 4) (o : ItrObj) : Option ItrSlot :=
  let x := if x.state = 3 && o.arity = 0 then ({} : ItrSlot) else x
  let os := x.objs ++ [o]
  if !o.ok || 8 < os.length then none
  else match rootsOf os with
    | none => none
    | some rs =>
      let x := if x.state = 0 then { x with w64 := var.getLsbD 0, bnd := var.getLsbD 1 } else x
      some { x with objs := os, nroot := rs.length, state := if rs.length = 1 then 2 else 1, bound := true }

def sigPush (f : Fields) (q : Bool) (a b c : SRole) : Sig :=
  { var := f.var &&& 12 == 0, q := q, a := a, b := b, c := c, unit := 4 }

/-- The lane's unissued instruction waits for a physical slot (R232). -/
def slotWait (cx : Cx) (i : Nat) : Dec :=
  .hold [.act fun s => s.modWg cx.w.id (·.modLane i fun l => { l with slotFrom := some (l.slotFrom.getD s.ck.now) })]

/-- A push of the object that `mk` builds of the values. It waits unissued for the slot's earlier operations, and is checked
when it issues (R382). -/
def pushOp (s : State) (f : Fields) (q : Bool) (a b c : SRole) (mk : Vals → ItrObj) : Once where
  sig := sigPush f q a b c
  dec := fun cx i _ f v =>
    let k := bits f.q 11 9
    let x := cx.w.itrSlot k
    if !x.queue.isEmpty || x.unbound || issueHolds s cx i then .hold []
    else if !(mk v).ok then badItr cx
    else match x.push f.var (mk v) with
      | none => badItr cx
      | some _ => if !x.bound && 32 ≤ s.itrHeld cx.w.core then slotWait cx i else .ok
  act := fun cx _ _ f v s => s.modItr cx.w.id (bits f.q 11 9) fun x => (x.push f.var (mk v)).getD x

def qSrc (f : Fields) : Nat := bits f.q 8 7

def itrsrcRangeOp (s : State) (f : Fields) : Once :=
  pushOp s f (f.q &&& 0x070 == 0 && f.q &&& 0x00F == 0) .up .up .up fun v =>
    ⟨objHead (if qSrc f = 0 then 0 else 1) false 0 0, v.a, v.b, v.c⟩
/-- ITRSRC of a range; SRC = 0 has no object (R382). -/
def execItrsrcRange (f : Fields) (s : State) : Out := onceExec (itrsrcRangeOp s f) f s

def itrsrcListOp (s : State) (f : Fields) : Once :=
  pushOp s f (f.q &&& 0x00F == 0) .up .up .blank fun v => ⟨objHead 2 (f.q.getLsbD 4) 0 (bits f.q 6 5), v.a, v.b, 0⟩
/-- ITRSRC of a list. -/
def execItrsrcList (f : Fields) (s : State) : Out := onceExec (itrsrcListOp s f) f s

def itrsrcBitmapOp (s : State) (f : Fields) : Once :=
  pushOp s f (f.q &&& 0x07F == 0) .up .up .blank fun v => ⟨objHead 3 false 0 0, v.a, v.b, 0⟩
/-- ITRSRC of a bitmap. -/
def execItrsrcBitmap (f : Fields) (s : State) : Out := onceExec (itrsrcBitmapOp s f) f s

def itrmapAffineOp (s : State) (f : Fields) : Once :=
  pushOp s f (f.q &&& 0x08F == 0) .up .up .blank fun v => ⟨objHead 4 (f.q.getLsbD 4) 0 (bits f.q 6 5), v.a, v.b, 0⟩
/-- ITRMAP, affine; a nonzero LW or FA is an illegal object (R382). -/
def execItrmapAffine (f : Fields) (s : State) : Out := onceExec (itrmapAffineOp s f) f s

def itrmapGatherOp (s : State) (f : Fields) : Once :=
  pushOp s f (f.q &&& 0x08F == 0) .up .up .blank fun v => ⟨objHead 5 (f.q.getLsbD 4) 0 (bits f.q 6 5), v.a, v.b, 0⟩
/-- ITRMAP, gather. -/
def execItrmapGather (f : Fields) (s : State) : Out := onceExec (itrmapGatherOp s f) f s

def itrfiltOp (s : State) (f : Fields) : Once :=
  pushOp s f (f.q &&& 0x007 == 0) .up .up .up fun v =>
    ⟨objHead 6 (f.q.getLsbD 3) (bits f.q 8 6) (bits f.q 5 4), v.a, v.b, v.c⟩
/-- ITRFILT. -/
def execItrfilt (f : Fields) (s : State) : Out := onceExec (itrfiltOp s f) f s

def itrzipOp (s : State) (f : Fields) : Once :=
  pushOp s f (f.q &&& 0x1FF == 0) .blank .blank .blank fun _ => ⟨objHead 8 false 0 0, 0, 0, 0⟩
/-- ITRZIP (R383). -/
def execItrzip (f : Fields) (s : State) : Out := onceExec (itrzipOp s f) f s

def itrchainOp (s : State) (f : Fields) : Once :=
  pushOp s f (f.q &&& 0x1FF == 0) .blank .blank .blank fun _ => ⟨objHead 9 false 0 0, 0, 0, 0⟩
/-- ITRCHAIN (R383). -/
def execItrchain (f : Fields) (s : State) : Out := onceExec (itrchainOp s f) f s

def itrflatOp (s : State) (f : Fields) : Once :=
  pushOp s f (f.q &&& 0x09F == 0) .up .blank .blank fun v => ⟨objHead 7 (f.q.getLsbD 8) 0 (bits f.q 6 5), v.a, 0, 0⟩
/-- ITRFLAT. -/
def execItrflat (f : Fields) (s : State) : Out := onceExec (itrflatOp s f) f s

/-! ### ITRNEXT (R236, R384, R385) -/

/-- D2: the second destination; none for 0xF8; none of `Option` for what R384 rejects. -/
def secondDst (q : BitVec 12) : Option (Option Nat) :=
  let b := bits q 11 4
  if b = 0xF8 then some none else if b < 32 then some (some b) else none

def pullPred (q : BitVec 12) : Nat := bits q 3 1

/-- Registers that an element occupies. -/
def ItrSlot.width (x : ItrSlot) : Nat := if x.w64 then 2 else 1

/-- The stack entries of destinations from register `n` on. -/
def Lane.entries (l : Lane) (n k : Nat) : List Nat := (List.range k).map fun j => l.entry (n + j)

def sigItrnext (f : Fields) : Sig :=
  { var := f.var == 0, q := f.q &&& 1 == 0, dst := .any, b := .u, unit := 4
    limit := (match f.dst with | .v _ => true | _ => false) && (secondDst f.q).isSome && pullPred f.q != 7 }

/-- A slot number above 7 (R384). -/
def slotBad (cx : Cx) (i : Nat) (l : Lane) (f : Fields) : Bool := (limitOf cx i l f.b).any (7 < ·)

/-- A lane at an ITRNEXT whose sources are ready. -/
def itrnextDec (cx : Cx) (l : Lane) (f : Fields) (v : Vals) : Dec :=
  let k := (lo32 v.b).toNat
  let x := cx.w.itrSlot k
  if 7 < k then badItr cx
  else if (x.queue.any fun q => match q with | .load .. => true | _ => false) then .wait []
  else if x.state = 0 || x.state = 1 then badItr cx
  else
    match f.dst, secondDst f.q with
    | .v n, some d2 =>
      let wd := x.width
      if d2.isSome && x.state = 2 && !((x.objs.getLast?.map ItrObj.pairy).getD false) then badItr cx
      else if 32 < n.val + wd || (match d2 with | some m => 32 < m + wd | none => false) then .trap 3 (slotVal cx.g 1)
      else if ((List.range wd).any fun j => !(l.reg (n.val + j)).full)
          || (match d2 with | some m => (List.range wd).any fun j => !(l.reg (m + j)).full | none => false)
          || l.predBusy (pullPred f.q) then .wait []
      else .ok
    | _, _ => badItr cx

/-- Reading the fields, without an effect. -/
def itrnextRead (f : Fields) : LaneSpec where
  sig := sigItrnext f
  bad := slotBad
  body := fun _ _ l _ _ => .done l []

/-- A lane of the gang: it makes its quad wait (none), or it takes part (a helper with no receiving lane beside it
included), or not. -/
def itrnextPart (cx : Cx) (f : Fields) (j : Nat) : Option Bool :=
  let l := cx.w.lane j
  if l.exited then some false
  else match arrivalStop cx (itrnextRead f) f j l with
    | some (.stay _) => none
    | some _ => some false
    | none =>
      if !l.guard f then some false
      else
        let v := valsOf cx (itrnextRead f) f j l
        match itrnextDec cx l f v with
        | .trap .. => some false
        | .ok => some !v.poison
        | _ => if v.poison then some false else none

/-- The lanes that take part in quads that issue. -/
def itrnextLanes (cx : Cx) (f : Fields) : List Nat :=
  cx.g.lanes.filter fun j => itrnextPart cx f j == some true && !(cx.g.lanes.any fun k => k / 4 == j / 4 && itrnextPart cx f k == none)

/-- The destinations of a lane. -/
def pullLane (cx : Cx) (f : Fields) (wd j : Nat) : PullLane :=
  let l := cx.w.lane j
  { lane := j
    d1 := match f.dst with | .v n => l.entries n.val wd | _ => []
    d2 := match secondDst f.q with | some (some m) => l.entries m wd | _ => [] }

/-- Destinations empty and the predicate interlocked. -/
def Lane.awaitPull (l : Lane) (p : PullLane) (pred : Nat) : Lane :=
  let l := (p.d1 ++ p.d2).foldl Lane.markEmpty l
  { l with pbusy := l.pbusy ||| 1#8 <<< pred }

def itrnextSpec (f : Fields) : LaneSpec where
  sig := sigItrnext f
  bad := slotBad
  body := fun cx i l f v =>
    let k := (lo32 v.b).toNat
    let wd := (cx.w.itrSlot k).width
    let part := itrnextLanes cx f
    let recv := part.filter fun j => (cx.w.lane j).live
    let help := part.filter fun j => !(cx.w.lane j).live
    match itrnextDec cx l f v, v.poison with
      | .trap c t, _ => .trap l c t false
      | _, true => .trap l 13 v.tag false
      | .wait fx, _ => .wait l fx
      | .hold fx, _ => .wait l fx
      | .ok, _ =>
        if recv.isEmpty then .done l []
        else
          let l1 := l.awaitPull (pullLane cx f wd i) (pullPred f.q)
          .done l1 (if recv.head? = some i then [.act fun s => s.modItr cx.w.id k fun x =>
            x.enqueue (.pull (recv.map (pullLane cx f wd)) (help.map (pullLane cx f wd)) (pullPred f.q)
              f.dst.toByte (BitVec.ofNat 8 (bits f.q 11 4)))] else [])
/-- ITRNEXT. -/
def execItrnext (f : Fields) (s : State) : Out := laneExec (itrnextSpec f) f s

/-! ### ITRENOUGH, ITRSAVE, ITRLOAD (R386, R387) -/

def itrenoughOp (f : Fields) : Once where
  sig := { var := f.var == 0, q := f.q == 0, b := .u, unit := 4 }
  dec := fun cx _ _ _ v => if 7 < (lo32 v.b).toNat then badItr cx else .ok
  act := fun cx _ _ _ v s => s.modItr cx.w.id (lo32 v.b).toNat fun x => x.enqueue .enough
/-- ITRENOUGH (R242). -/
def execItrenough (f : Fields) (s : State) : Out := onceExec (itrenoughOp f) f s

def sigImage (f : Fields) : Sig := { var := f.var == 0, q := f.q == 0, dst := .handle, a := .pr, b := .u, unit := 4 }

def itrsaveOp (s : State) (f : Fields) : Once where
  sig := sigImage f
  dec := fun cx i _ _ v =>
    if 7 < (lo32 v.b).toNat then badItr cx
    else if v.a.toNat % 16 ≠ 0 then .trap 9 v.a
    else if issueHolds s cx i then .hold []
    else .ok
  own := fun _ _ l f _ => newHandle s.ck.nextId l f
  act := fun cx _ _ _ v s =>
    let k := (lo32 v.b).toNat
    (s.startOp s.ck.nextId cx.w (.itr k)).modItr cx.w.id k fun x => x.enqueue (.save v.a s.ck.nextId)
/-- ITRSAVE (R241). -/
def execItrsave (f : Fields) (s : State) : Out := onceExec (itrsaveOp s f) f s

/-- An image whose header says OPEN or VALID. -/
def imageOpen (h : Nat) : Bool := h / 2 ^ 62 == 1 || h / 2 ^ 62 == 2

/-- The header read before an ITRLOAD's issue: whether the image is OPEN or VALID; none where the read is held. -/
def loadOpens (s : State) (w : Wg) (a : W64) : Option Bool :=
  match (s.engineRead w.core 1 (s.space w) a 8).2 with
  | .wait => none
  | .val h _ => some (imageOpen h)
  | _ => some false

def itrloadOp (s : State) (f : Fields) : Once where
  sig := sigImage f
  dec := fun cx i _ _ v =>
    let k := (lo32 v.b).toNat
    if 7 < k then badItr cx
    else if v.a.toNat % 16 ≠ 0 then .trap 9 v.a
    else if issueHolds s cx i then .hold []
    else match loadOpens s cx.w v.a with
      | some opens => if opens && !(cx.w.itrSlot k).bound && 32 ≤ s.itrHeld cx.w.core then slotWait cx i else .ok
      | none => .wait [.act fun s => (s.engineRead cx.w.core 1 (s.space cx.w) v.a 8).1]
  own := fun _ _ l f _ => newHandle s.ck.nextId l f
  act := fun cx _ _ _ v s =>
    let k := (lo32 v.b).toNat
    let opens := (loadOpens s cx.w v.a).getD false
    (s.startOp s.ck.nextId cx.w (.itr k)).modItr cx.w.id k fun x =>
      ({ x with bound := x.bound || opens }).enqueue (.load v.a s.ck.nextId (slotVal cx.g 4) opens)
/-- ITRLOAD (R241). -/
def execItrload (f : Fields) (s : State) : Out := onceExec (itrloadOp s f) f s

/-! ### Images (Table 11-1, R241) -/

def ItrSlot.header (x : ItrSlot) : W64 :=
  BitVec.ofNat 64 (x.state * 2 ^ 62 + (if x.w64 then 2 ^ 61 else 0) + (if x.bnd then 2 ^ 60 else 0)
    + (if x.err then 2 ^ 59 else 0) + x.objs.length * 2 ^ 52 + x.nroot * 2 ^ 48)

/-- The 34 words of a slot's image. -/
def ItrSlot.image (x : ItrSlot) : List W64 :=
  let os := x.objs.flatMap fun o => [o.w0, o.w1, o.w2, o.w3]
  [x.header, x.deliv] ++ os ++ List.replicate (32 - os.length) 0

def objsOf : Nat → List W64 → List ItrObj
  | 0, _ => []
  | n + 1, a :: b :: c :: d :: l => ⟨a, b, c, d⟩ :: objsOf n l
  | _ + 1, _ => []

/-- A slot read from an image; none where the image is illegal. The objects are held to all that a push of them would be held
to, STEP, COUNT and NBITS included, and an EMPTY image may carry DELIV and ERR, which the first push keeps: R241 names neither
(DESIGN CHOICE, log entry 46). -/
def slotOfImage (ws : List W64) : Option ItrSlot :=
  match ws with
  | h :: d :: rest =>
    let n := bits h 55 52
    let os := objsOf n rest
    let st := bits h 63 62
    if bits h 58 56 != 0 || bits h 47 0 != 0 || decide (8 < n) || !os.all ItrObj.ok then none
    else match rootsOf os with
      | none => none
      | some rs =>
        if rs.length != bits h 51 48 then none
        else if (match st with | 1 => rs.length == 1 | 2 => rs.length != 1 | _ => n != 0) then none
        else some { state := st, w64 := h.getLsbD 61, bnd := h.getLsbD 60, err := h.getLsbD 59
                    nroot := rs.length, deliv := d, objs := os }
  | _ => none

/-! ### Events -/

/-- A lane's destinations become full and its predicate is written. -/
def Lane.takePull (l : Lane) (free pred : Nat) (p : PullLane) (e : Elem) (valid : Bool) : Lane :=
  let x : W64 × Bool × W64 × Bool := match e with
    | .one v a => (v, a, 0, false)
    | .two v a u b => (v, a, u, b)
    | _ => (0, false, 0, false)
  let l := fillEntries free x.1 x.2.1 l p.d1
  let l := fillEntries free x.2.2.1 x.2.2.2 l p.d2
  { l with pbusy := l.pbusy &&& ~~~ (1#8 <<< pred) }.setPred pred valid

def State.fillPull (s : State) (wg pred : Nat) (ps : List PullLane) (es : List Elem) : State :=
  match ps with
  | [] => s
  | p :: ps =>
    let e := es.headD .ended
    (s.modWg wg (·.modLane p.lane fun l => l.takePull s.ck.free pred p e (!es.isEmpty))).fillPull wg pred ps es.tail

/-- The mark of a failed pull in a receiving lane (R239). -/
def Lane.markPull (l : Lane) (pred : Nat) (p : PullLane) (cause : Nat) (tval : W64) : Lane :=
  if l.exited then l
  else { l with marks := { regs := (p.d1 ++ p.d2).foldl (fun m e => m ||| entryBit e) 0, pred := 1#8 <<< pred, cause, tval } :: l.marks }

/-- A slot that holds no stream and awaits no load gives up its physical slot (R232). -/
def ItrSlot.unheld (x : ItrSlot) : ItrSlot :=
  { x with bound := x.bound && (x.state == 1 || x.state == 2 || x.opening) }

/-- A pull at the head of its slot's queue is evaluated, and commits (R237 to R239). Its reads take place at the commit: the
manual allows any time from the push on (DESIGN CHOICE, log entry 88). -/
def State.commitPull (s : State) (w : Wg) (k : Nat) (recv help : List PullLane) (pred : Nat) : State :=
  let x := w.itrSlot k
  let r := if x.state = 2 then pullLanes w.core (s.space w) x.bnd (x.objs.length - 1) recv.length true none s x.objs
    else (s, .ok [] x.objs false)
  match r with
  | (s, .held p) => s.modItr w.id k fun x => { x with held := some p }
  | (s, .ok es os ended) =>
    let s := (s.fillPull w.id pred recv es).fillPull w.id pred help []
    s.modItr w.id k fun x =>
      let x := { x with objs := os, deliv := x.deliv + BitVec.ofNat 64 es.length }
      (if ended then x.finish false else x).advance
  | (s, .fail c t) =>
    let s := (s.fillPull w.id pred recv []).fillPull w.id pred help []
    let s := recv.foldl (fun s p => s.modWg w.id (·.modLane p.lane fun l => l.markPull pred p c t)) s
    s.modItr w.id k fun x => (x.finish true).advance
  | (s, .kill t) =>
    let s := (s.fillPull w.id pred recv []).fillPull w.id pred help []
    let s := s.modItr w.id k fun x => (x.finish true).advance
    recv.foldl (fun s p => s.takeTrap w.id p.lane 13 t false false) s

/-- An image is written, by engine writes. -/
def State.saveSlot (s : State) (w : Wg) (k : Nat) (addr : W64) (op : Nat) : State :=
  match s.enginePuts w.core (s.space w) addr ((w.itrSlot k).image.map fun x => (x, false)) with
  | (s, .wait, a) => s.modItr w.id k fun x => { x with held := some (a.toNat / 65536) }
  | (s, g, a) => (s.completeOp w.id op 0 (g.err a) 2).modItr w.id k ItrSlot.advance

/-- The words of an image, read by the engine: the address of the first access that does not succeed. -/
def State.engineWords (s : State) (core : Nat) (sp : Space) (va : W64) : Nat → State × Except (Got × W64) (List W64 × Bool)
  | 0 => (s, .ok ([], false))
  | n + 1 =>
    match s.engineRead core 1 sp va 8 with
    | (s, .val v p) =>
      (match s.engineWords core sp (va + 8) n with
       | (s, .ok (ws, q)) => (s, .ok (BitVec.ofNat 64 v :: ws, p || q))
       | r => r)
    | (s, g) => (s, .error (g, va))

/-- A slot is replaced from an image. A read that violates leaves it as it was: R241 does not say (DESIGN CHOICE, log
entry 107). -/
def State.loadSlot (s : State) (w : Wg) (k : Nat) (addr : W64) (op : Nat) (tval : W64) : State :=
  match s.engineWords w.core (s.space w) addr 34 with
  | (s, .error (.wait, a)) => s.modItr w.id k fun x => { x with held := some (a.toNat / 65536) }
  | (s, .error (g, a)) => (s.completeOp w.id op 0 (g.err a) 2).modItr w.id k fun x => x.advance.unheld
  | (s, .ok (ws, p)) =>
    match if p then none else slotOfImage ws with
    | none =>
      let e : ErrMark := if p then { cause := 13, tval := addr } else { cause := 3, tval }
      (s.completeOp w.id op 0 (some e) 2).modItr w.id k fun x =>
        (({ queue := x.queue.drop 1 } : ItrSlot)).drainEnough
    | some y =>
      let on := y.state == 1 || y.state == 2
      if on && !(w.itrSlot k).bound && 32 ≤ s.itrHeld w.core then s
      else (s.completeOp w.id op 0 none 2).modItr w.id k fun x => ({ y with queue := x.queue.drop 1, bound := on }).drainEnough

/-- ITERATOR_PULL_COMMIT (R238): the operation at the head of a slot's queue acts. -/
def execIteratorPullCommit (wg slot : Nat) (s : State) : Out :=
  match s.wg? wg with
  | none => .next s
  | some w =>
    if w.place == .saved then .next s
    else
      let s := if w.ended then s else s.rebindItr w slot
      match s.wg? wg with
      | none => .next s
      | some w =>
        let x := w.itrSlot slot
        if x.unbound && !w.ended then .next s
        else (match x.queue with
          | [] => .next s
          | .pull recv help pred _ _ :: _ => .next (s.commitPull w slot recv help pred)
          | .enough :: _ => .next (s.modItr wg slot ItrSlot.drainEnough)
          | .save a op :: _ => .next (s.blame wg (s.saveSlot w slot a op))
          | .load a op tv _ :: _ => .next (s.loadSlot w slot a op tv))

end Sys2Proof.Machine
end

