-- ==== Sys2Proof/Machine/Special.lean ====
section
/-! DEFINITION. The special functions (14 R309, Table 14-3): the exact cases of the table; elsewhere the device's fixed
choice (`Config.specialChoice`) among the FP32 values inside the bound, found from an enclosure of the exact result. -/
namespace Sys2Proof.Machine

/-! ### The values inside a bound -/

/-- FP32 values in ascending order as whole numbers: encodings from 0 for +0, −0 at −1. -/
def ordEnc (o : Int) : W32 :=
  if 0 ≤ o then BitVec.ofNat 32 o.toNat else BitVec.ofNat 32 (2 ^ 31 + (-o - 1).toNat)

/-- The greatest FP32 value not above `x × 2^c`, and the least not below it; −0 below +0, infinities past the largest
finite value. -/
def ordDown (x : Int) (c : Int) : Int :=
  if 0 ≤ x then min (fp32.roundMag .rz false x.natAbs c : Nat) 0x7F800000
  else -1 - (min (fp32.roundMag .rd true x.natAbs c) 0x7F800000 : Nat)
def ordUp (x : Int) (c : Int) : Int :=
  if 0 < x then min (fp32.roundMag .ru false x.natAbs c : Nat) 0x7F800000
  else -1 - (min (fp32.roundMag .rz true x.natAbs c) 0x7F800000 : Nat)

/-- An exact result lies in [`lo`, `hi`] × 2^`e`. -/
structure Enclosure where
  lo : Int
  hi : Int
  e  : Int

/-- log2 of an ulp at the exact result, in FP32 (R309). -/
def Enclosure.ulp (x : Enclosure) : Int :=
  max ((bitLen (if x.lo < 0 then x.hi.natAbs else x.lo.natAbs) : Int) + x.e - 24) (-149)

/-- The choice of function `fn` for the input bits `a` among the FP32 values within `n` units of 2^`u` of the result and
between the orders `least` and `most`. -/
def Enclosure.pick (x : Enclosure) (fn : Nat) (a : W32) (n : Nat) (u : Int) (least most : Int) : W32 :=
  let c := min x.e u
  let d : Int := (n : Int) * ((1 <<< (u - c).toNat : Nat) : Int)
  let k : Int := ((1 <<< (x.e - c).toNat : Nat) : Int)
  let lo := max least (ordUp (x.lo * k - d) c)
  let hi := min most (ordDown (x.hi * k + d) c)
  ordEnc (lo + ((Config.specialChoice fn a % (hi - lo + 1).toNat : Nat) : Int))

/-! ### Enclosures in units of 2^−128 -/

def one128 : Nat := 2 ^ 128

/-- ⌊ln 2 × 2^128⌋. -/
def ln2Fix : Nat := 235865763225513294137944142764154484399

/-- Sum of the first terms of e^x from a term on, rounded down at each: `x` and the terms in units of 2^−128. -/
def expTerms (x : Nat) : Nat → Nat → Nat → Nat
  | 0, _, _ => 0
  | n + 1, k, t => t + expTerms x n (k + 1) (t * x / one128 / k)

/-- e^x for 0 ≤ x < 1: a lower end; the upper end is 64 units above it. -/
def expFix (x : Nat) : Nat := expTerms x 40 1 one128

/-- 2^(f × 2^−128) for f in [`lo`, `hi`] below 2^128, in units of 2^−128. -/
def exp2Fix (lo hi : Nat) : Nat × Nat :=
  (expFix (lo * ln2Fix / one128), expFix (hi * (ln2Fix + 1) / one128 + 1) + 64)

/-- Sum of z^(2k+1) ÷ (2k+1), rounded down at each term. -/
def atanhTerms (z2 : Nat) : Nat → Nat → Nat → Nat
  | 0, _, _ => 0
  | n + 1, k, t => t / k + atanhTerms z2 n (k + 2) (t * z2 / one128)

/-- ln m for m = `x` × 2^−23 in [1, 2), a lower end; the upper end is 256 units above it. -/
def lnFix (x : Nat) : Nat :=
  let z := (x - 2 ^ 23) * one128 / (x + 2 ^ 23)
  2 * atanhTerms (z * z / one128) 48 1 z

/-- ⌊√n⌋ by bits from `2^k` down. -/
def isqrtFrom : Nat → Nat → Nat → Nat
  | 0, _, r => r
  | k + 1, n, r => let t := r + 2 ^ k; isqrtFrom k n (if t * t ≤ n then t else r)

/-! ### The functions -/

/-- The mantissa and exponent of a finite nonzero value with the mantissa in [2^23, 2^24). -/
def normal (m : Nat) (e : Int) : Nat × Int :=
  let k := 24 - bitLen m
  (m <<< k, e - (k : Nat))

def signBits (s : Bool) (x : W32) : W32 := if s then x ||| 0x80000000 else x

def inf32 : W32 := 0x7F800000

/-- FRCP: 1 ÷ ±2^−128 overflows (R309). -/
def fRcp (a : W32) : W32 :=
  match f32 a with
  | .nan => nan32
  | .inf s => signBits s 0
  | .fin s m e =>
    if m = 0 then signBits s inf32
    else
      let (n, g) := normal m e
      if g + 23 < -128 || (n = 2 ^ 23 && g + 23 = -128) then signBits s inf32
      else if n = 2 ^ 23 && decide (-126 ≤ g + 23) && decide (g + 23 ≤ 126) then ofFl (.fin s 1 (-(g + 23)))
      else
        let q : Nat := 2 ^ 160 / n
        let x : Enclosure := { lo := q, hi := q + 1, e := -160 - g }
        signBits s (x.pick 0 a 1 x.ulp 0 0x7F800000)

/-- FRSQ. -/
def fRsq (a : W32) : W32 :=
  match f32 a with
  | .nan => nan32
  | .inf s => if s then nan32 else 0
  | .fin s m e =>
    if m = 0 then signBits s inf32
    else if s then nan32
    else
      let (n, g) := normal m e
      if n = 2 ^ 23 && (g + 23) % 2 = 0 then ofFl (.fin false 1 (-((g + 23) / 2)))
      else
        let (n, g) := if g % 2 = 0 then (n, g) else (2 * n, g - 1)
        let q : Nat := isqrtFrom 110 (2 ^ 200 / n) 0
        let x : Enclosure := { lo := q, hi := q + 1, e := -100 - g / 2 }
        x.pick 1 a 1 x.ulp 0 0x7F800000

/-- The floor of a finite value that is a multiple of 2^−128, and the fraction above it in units of 2^−128. -/
def splitFloor (s : Bool) (m : Nat) (e : Int) : Int × Nat :=
  let u := scaled (-128) s m e
  (u / (one128 : Int), (u - u / (one128 : Int) * one128).toNat)

/-- 2^a for 0 < |a| < 2^−104, which lies next to 1: 2 ulp reach the same FP32 values from each of these results. -/
def besideOne (s : Bool) : Enclosure :=
  let n : Int := if s then 2 ^ 300 - 1 else 2 ^ 300 + 1
  { lo := n, hi := n, e := -300 }

/-- FEXP2. -/
def fExp2 (a : W32) : W32 :=
  match f32 a with
  | .nan => nan32
  | .inf s => if s then 0 else inf32
  | .fin s m e =>
    if m = 0 then 0x3F800000
    else if !(Fl.fin s m e).lt (.fin false 1 7) then inf32
    else if (Fl.fin s m e).lt (.fin true 150 0) then 0
    else if e < -128 then (besideOne s).pick 2 a 2 (besideOne s).ulp 0 0x7F800000
    else
      let (i, f) := splitFloor s m e
      if f = 0 && decide (-149 ≤ i) then ofFl (.fin false 1 i)
      else
        let r := exp2Fix f f
        let x : Enclosure := { lo := r.1, hi := r.2, e := -128 + i }
        x.pick 2 a 2 x.ulp 0 0x7F800000

/-- FLOG2. -/
def fLog2 (a : W32) : W32 :=
  match f32 a with
  | .nan => nan32
  | .inf s => if s then nan32 else inf32
  | .fin s m e =>
    if m = 0 then 0xFF800000
    else if s then nan32
    else
      let (n, g) := normal m e
      if n = 2 ^ 23 then ofFl (Fl.ofInt (g + 23))
      else
        let l := lnFix n
        let lo : Int := (g + 23) * (one128 : Int) + ((l * one128 / (ln2Fix + 1) : Nat) : Int)
        let hi : Int := (g + 23) * (one128 : Int) + (((l + 256) * one128 / ln2Fix + 1 : Nat) : Int)
        let x : Enclosure := { lo, hi, e := -128 }
        if g + 23 = 0 || g + 23 = -1 then x.pick 3 a 1 (-22) (-1 - 0x7F800000) 0x7F800000
        else x.pick 3 a 2 x.ulp (-1 - 0x7F800000) 0x7F800000

/-- FTANH: for 2^−12 < |a| < 10, 1 − 2 ÷ (e^2|a| + 1). -/
def fTanh (a : W32) : W32 :=
  match f32 a with
  | .nan => nan32
  | .inf s => signBits s 0x3F800000
  | .fin s m e =>
    if !(Fl.fin false 1 (-12)).lt (.fin false m e) then a
    else if !(Fl.fin false m e).lt (.fin false 10 0) then signBits s 0x3F800000
    else
      let y := (scaled (-128) false m (e + 1)).toNat
      let t0 := y * one128 / (ln2Fix + 1)
      let t1 := y * one128 / ln2Fix + 1
      let r := exp2Fix (t0 % one128) (t1 % one128)
      let lo := r.1 * 2 ^ (t0 / one128)
      let hi := if t1 / one128 = t0 / one128 then r.2 * 2 ^ (t1 / one128) else (one128 + 64) * 2 ^ (t1 / one128)
      let den := fun (q : Nat) => q + one128
      let x : Enclosure := { lo := ((one128 - 2 * one128 * one128 / den lo - 1 : Nat) : Int), hi := ((one128 - 2 * one128 * one128 / den hi : Nat) : Int), e := -128 }
      signBits s (x.pick 4 a 2 x.ulp 0 0x3F800000)

end Sys2Proof.Machine
end

