-- ==== Sys2Proof/Machine/Fp.lean ====
section
/-! DEFINITION. Floating arithmetic, special functions, conversions and packed dot products: opcodes 0x40 to 0x5D
(spec/14 R301 to R316). -/
namespace Sys2Proof.Machine

/-! ### Arithmetic (Table 14-1) -/

def fop1 (fn : W32 → W32) (v : Vals) : W64 := zx (fn (lo32 v.a))
def fop2 (fn : W32 → W32 → W32) (v : Vals) : W64 := zx (fn (lo32 v.a) (lo32 v.b))
def fop3 (fn : W32 → W32 → W32 → W32) (v : Vals) : W64 := zx (fn (lo32 v.a) (lo32 v.b) (lo32 v.c))

def faddSpec (f : Fields) : LaneSpec := aluSpec (sigBin f (varTF f.var)) (fop2 fAdd)
/-- FADD (R304). -/
def execFadd (f : Fields) (s : State) : Out := laneExec (faddSpec f) f s

def fsubSpec (f : Fields) : LaneSpec := aluSpec (sigBin f (varTF f.var)) (fop2 fSub)
/-- FSUB (R304). -/
def execFsub (f : Fields) (s : State) : Out := laneExec (fsubSpec f) f s

def fmulSpec (f : Fields) : LaneSpec := aluSpec (sigBin f (varTF f.var)) (fop2 fMul)
/-- FMUL (R304). -/
def execFmul (f : Fields) (s : State) : Out := laneExec (fmulSpec f) f s

def ffmaSpec (f : Fields) : LaneSpec := aluSpec (sigTri f (varTF f.var)) (fop3 fFma)
/-- FFMA (R304): one rounding. -/
def execFfma (f : Fields) (s : State) : Out := laneExec (ffmaSpec f) f s

def fminSpec (f : Fields) : LaneSpec := aluSpec (sigBin f (varTF f.var)) (fop2 fMin)
/-- FMIN (R304). -/
def execFmin (f : Fields) (s : State) : Out := laneExec (fminSpec f) f s

def fmaxSpec (f : Fields) : LaneSpec := aluSpec (sigBin f (varTF f.var)) (fop2 fMax)
/-- FMAX (R304). -/
def execFmax (f : Fields) (s : State) : Out := laneExec (fmaxSpec f) f s

def fabsSpec (f : Fields) : LaneSpec := aluSpec (sigUn f (varTF f.var)) (fop1 fAbs)
/-- FABS (R304). -/
def execFabs (f : Fields) (s : State) : Out := laneExec (fabsSpec f) f s

def fnegSpec (f : Fields) : LaneSpec := aluSpec (sigUn f (varTF f.var)) (fop1 fNeg)
/-- FNEG (R304). -/
def execFneg (f : Fields) (s : State) : Out := laneExec (fnegSpec f) f s

def fcmpSpec (f : Fields) : LaneSpec :=
  predSpec { var := decide (f.var.toNat < 8), am := true, dst := .pred, a := .src false, b := .src false }
    fun v => fcmpHolds f.var.toNat (lo32 v.a) (lo32 v.b)
/-- FCMP (R305). -/
def execFcmp (f : Fields) (s : State) : Out := laneExec (fcmpSpec f) f s

def fclassSpec (f : Fields) : LaneSpec := aluSpec (sigUn f (varTF f.var)) (fop1 fclassOf)
/-- FCLASS (R306). -/
def execFclass (f : Fields) (s : State) : Out := laneExec (fclassSpec f) f s

/-- d and a of 32 bits with an A modifier, whatever VAR says. -/
def sigUn32 (var : Bool) : Sig := { var, am := true, dst := .dst false, a := .src false }

def froundSpec (f : Fields) : LaneSpec :=
  aluSpec (sigUn32 (decide (f.var.toNat < 4))) (fop1 (fRound (Mode.of f.var.toNat)))
/-- FROUND (R307). -/
def execFround (f : Fields) (s : State) : Out := laneExec (froundSpec f) f s

def fscaleSpec (f : Fields) : LaneSpec := aluSpec (sigBin f (varTF f.var)) (fop2 fScale)
/-- FSCALE (R308). -/
def execFscale (f : Fields) (s : State) : Out := laneExec (fscaleSpec f) f s

/-! ### Special functions (R309) -/

def sigSfu (f : Fields) : Sig := { sigUn f (varTF f.var) with unit := 1 }

def frcpSpec (f : Fields) : LaneSpec := aluSpec (sigSfu f) (fop1 fRcp)
/-- FRCP (R309). -/
def execFrcp (f : Fields) (s : State) : Out := laneExec (frcpSpec f) f s

def frsqSpec (f : Fields) : LaneSpec := aluSpec (sigSfu f) (fop1 fRsq)
/-- FRSQ (R309). -/
def execFrsq (f : Fields) (s : State) : Out := laneExec (frsqSpec f) f s

def fexp2Spec (f : Fields) : LaneSpec := aluSpec (sigSfu f) (fop1 fExp2)
/-- FEXP2 (R309). -/
def execFexp2 (f : Fields) (s : State) : Out := laneExec (fexp2Spec f) f s

def flog2Spec (f : Fields) : LaneSpec := aluSpec (sigSfu f) (fop1 fLog2)
/-- FLOG2 (R309). -/
def execFlog2 (f : Fields) (s : State) : Out := laneExec (flog2Spec f) f s

def ftanhSpec (f : Fields) : LaneSpec := aluSpec (sigSfu f) (fop1 fTanh)
/-- FTANH (R309). -/
def execFtanh (f : Fields) (s : State) : Out := laneExec (ftanhSpec f) f s

/-! ### Conversions (Table 14-4) -/

def qDfmt (q : BitVec 12) : Nat := bits q 11 8
def qSfmt (q : BitVec 12) : Nat := bits q 7 4
def qMode (q : BitVec 12) : Mode := Mode.of (bits q 3 2)
def qSat (q : BitVec 12) : Bool := q.getLsbD 1

/-- The formats that Overcast service accepts (R471). -/
def overcastFmt (c : Nat) : Bool := c == 0 || c == 4 || c == 5 || c == 6

/-- Check 13 of a conversion (R263): the format codes it accepts, and whether MODE and SAT are its fields. -/
def qcOk (overcast : Bool) (ds ss : List Nat) (mode sat : Bool) (q : BitVec 12) : Bool :=
  ds.contains (qDfmt q) && ss.contains (qSfmt q) && (mode || bits q 3 2 == 0) && (sat || !q.getLsbD 1) && !q.getLsbD 0
    && (!overcast || (overcastFmt (qDfmt q) && overcastFmt (qSfmt q)))

/-- Service is Overcast (R471). -/
def State.overcast (s : State) : Bool := s.hub.phase == .overcast

/-- The bits of a value of a floating format in a 32-bit register (R303). -/
def fmtBits (code : Nat) (x : W32) : Nat := x.toNat % 2 ^ ((fmtOf code).width + 1)

/-- CVTF of a register. -/
def cvtfOf (d s : Nat) (mode : Mode) (sat : Bool) (x : W32) : W32 :=
  let v := (fmtOf s).decode (fmtBits s x)
  BitVec.ofNat 32 (if d = s && v != .nan then fmtBits s x else (fmtOf d).convert mode sat v)

def cvtfSpec (f : Fields) (oc : Bool) : LaneSpec :=
  aluSpec { var := f.var == 0, q := qcOk oc [0, 6, 7] [0, 6, 7] true true f.q, dst := .dst false, a := .src false, unit := 1 }
    (fop1 (cvtfOf (qDfmt f.q) (qSfmt f.q) (qMode f.q) (qSat f.q)))
/-- CVTF (R310). -/
def execCvtf (f : Fields) (s : State) : Out := laneExec (cvtfSpec f s.overcast) f s

/-- Limits of i32 and n32. -/
def intRange (signed : Bool) : Int × Int := if signed then (-2 ^ 31, 2 ^ 31 - 1) else (0, 2 ^ 32 - 1)

def cvtfiOf (s : Nat) (signed : Bool) (mode : Mode) (x : W32) : W32 :=
  BitVec.ofInt 32 (((fmtOf s).decode (fmtBits s x)).toInt mode (intRange signed).1 (intRange signed).2)

def cvtfiSpec (f : Fields) (oc : Bool) : LaneSpec :=
  aluSpec { var := f.var == 2 || f.var == 6, q := qcOk oc [0] [0, 6, 7] true true f.q, dst := .dst false, a := .src false, unit := 1 }
    (fop1 (cvtfiOf (qSfmt f.q) (f.var == 2) (qMode f.q)))
/-- CVTFI (R311, R222). -/
def execCvtfi (f : Fields) (s : State) : Out := laneExec (cvtfiSpec f s.overcast) f s

/-- A register, or a pair, as the integer type of VAR. -/
def intOf (var : BitVec 4) (x : W64) : Int :=
  if isWide var then (if isSigned var then x.toInt else x.toNat)
  else if isSigned var then (lo32 x).toInt else (lo32 x).toNat

def cvtifSpec (f : Fields) (oc : Bool) : LaneSpec :=
  aluSpec { var := varTI f.var, q := qcOk oc [0, 6, 7] [0] true false f.q, dst := .dst false, a := .src (isWide f.var), unit := 1 }
    fun v => BitVec.ofNat 64 ((fmtOf (qDfmt f.q)).convert (qMode f.q) false (Fl.ofInt (intOf f.var v.a)))
/-- CVTIF (R312). -/
def execCvtif (f : Fields) (s : State) : Out := laneExec (cvtifSpec f s.overcast) f s

/-- An element of format code `c`, as its bits (R313). -/
def packElem (c : Nat) (mode : Mode) (sat : Bool) (x : Fl) : Nat :=
  match c with
  | 4 => (BitVec.ofInt 8 (x.toInt mode (-128) 127)).toNat
  | 5 => (BitVec.ofInt 4 (x.toInt mode (-8) 7)).toNat
  | c => (fmtOf c).convert mode sat x

/-- The value of an element (R314, R315). -/
def elemVal (c : Nat) (x : Nat) : Fl :=
  match c with
  | 4 => Fl.ofInt (BitVec.ofNat 8 x).toInt
  | 5 => Fl.ofInt (BitVec.ofNat 4 x).toInt
  | c => (fmtOf c).decode x

/-- Element `i` of width `w` of a register. -/
def elemAt (w i : Nat) (x : W32) : Nat := x.toNat / 2 ^ (w * i) % 2 ^ w

/-- The registers of a range. -/
def rangeOf (o : Operand) (n : Nat) : List Operand :=
  match o with
  | .v k => (List.range n).map fun i => .v (Fin.ofNat 32 (k.val + i))
  | _ => []

/-- PACK8 and PACK4: `n` registers from A, times B, to `n` elements of `w` bits. -/
def packBody (n w : Nat) (cx : Cx) (i : Nat) (l : Lane) (f : Fields) (v : Vals) : LOut :=
  let rs := rangeOf f.a n
  let b := f32 (lo32 v.b)
  let es := rs.map fun o => packElem (qDfmt f.q) (qMode f.q) (qSat f.q) ((f32 (lo32 (srcVal cx i l o false 0))).mul b)
  let p := v.pb || rs.any fun o => srcPoison cx i l o false
  write cx l f.dst false (BitVec.ofNat 64 (es.foldr (fun e x => e + 2 ^ w * x) 0)) p v.tag

def packSpec (n w : Nat) (ds : List Nat) (f : Fields) (oc : Bool) : LaneSpec where
  sig := { var := f.var == 0, q := qcOk oc ds [0] true true f.q, dst := .dst false, a := .vrange n, b := .src false, unit := 1 }
  more := fun f => (rangeOf f.a n).map fun o => (o, false, f.ta)
  body := packBody n w

def pack8Spec (f : Fields) (oc : Bool) : LaneSpec := packSpec 4 8 [1, 2, 4] f oc
/-- PACK8 (R313). -/
def execPack8 (f : Fields) (s : State) : Out := laneExec (pack8Spec f s.overcast) f s

def pack4Spec (f : Fields) (oc : Bool) : LaneSpec := packSpec 8 4 [3, 5] f oc
/-- PACK4 (R313). -/
def execPack4 (f : Fields) (s : State) : Out := laneExec (pack4Spec f s.overcast) f s

/-- Consecutive registers written from a first one. -/
def putRange (l : Lane) (free n : Nat) (p : Bool) : List W32 → Lane
  | [] => l
  | x :: xs => putRange (l.put free (l.entry n) { val := x, full := true, poison := p }) free (n + 1) p xs

def unpackBody (n w : Nat) (cx : Cx) (_ : Nat) (l : Lane) (f : Fields) (v : Vals) : LOut :=
  let b := f32 (lo32 v.b)
  let xs := (List.range n).map fun i => ofFl ((elemVal (qSfmt f.q) (elemAt w i (lo32 v.a))).mul b)
  match f.dst with
  | .v k => .done (putRange l cx.free k.val v.poison xs) []
  | _ => .done l []

def unpackSpec (n w : Nat) (ss : List Nat) (f : Fields) (oc : Bool) : LaneSpec where
  sig := { var := f.var == 0, q := qcOk oc [0] ss false false f.q, dst := .vrange n, a := .src false, b := .src false, unit := 1 }
  body := unpackBody n w

def unpk8Spec (f : Fields) (oc : Bool) : LaneSpec := unpackSpec 4 8 [1, 2, 4] f oc
/-- UNPK8 (R314). -/
def execUnpk8 (f : Fields) (s : State) : Out := laneExec (unpk8Spec f s.overcast) f s

def unpk4Spec (f : Fields) (oc : Bool) : LaneSpec := unpackSpec 8 4 [3, 5] f oc
/-- UNPK4 (R314). -/
def execUnpk4 (f : Fields) (s : State) : Out := laneExec (unpk4Spec f s.overcast) f s

/-! ### Packed dot products (Table 14-5) -/

/-- d, a, b, c of 32 bits with an A modifier. -/
def sigTri32 (var : Bool) : Sig :=
  { var, am := true, dst := .dst false, a := .src false, b := .src false, c := .src false }

/-- The exact sum of products and the accumulator, rounded once (R223). -/
def fdot (n w fa fb : Nat) (a b c : W32) : W32 :=
  ofFl (Fl.sum ((List.range n).map (fun i => (elemVal fa (elemAt w i a)).mul (elemVal fb (elemAt w i b))) ++ [f32 c]))

/-- The exact integer sum (R223, R315). -/
def idotSum (n w c0 : Nat) (a b c : W32) : Int :=
  (List.range n).foldl (fun (acc : Int) i =>
    match c0 with
    | 4 => acc + (BitVec.ofNat 8 (elemAt w i a)).toInt * (BitVec.ofNat 8 (elemAt w i b)).toInt
    | _ => acc + (BitVec.ofNat 4 (elemAt w i a)).toInt * (BitVec.ofNat 4 (elemAt w i b)).toInt) c.toInt

def idot (sat : Bool) (n w c0 : Nat) (a b c : W32) : W32 :=
  let x := idotSum n w c0 a b c
  BitVec.ofInt 32 (if sat then max (-2 ^ 31) (min (2 ^ 31 - 1) x) else x)

def dot4Spec (f : Fields) : LaneSpec :=
  aluSpec (sigTri32 (decide (f.var.toNat < 4)))
    (fop3 (fdot 4 8 (if f.var.getLsbD 0 then 2 else 1) (if f.var.getLsbD 1 then 2 else 1)))
/-- DOT4 (R315). -/
def execDot4 (f : Fields) (s : State) : Out := laneExec (dot4Spec f) f s

def dot8Spec (f : Fields) : LaneSpec := aluSpec (sigTri32 (f.var == 0)) (fop3 (fdot 8 4 3 3))
/-- DOT8 (R315). -/
def execDot8 (f : Fields) (s : State) : Out := laneExec (dot8Spec f) f s

def idot4Spec (f : Fields) : LaneSpec :=
  aluSpec (sigTri32 (decide (f.var.toNat < 2))) (fop3 (idot (f.var.getLsbD 0) 4 8 4))
/-- IDOT4 (R315). -/
def execIdot4 (f : Fields) (s : State) : Out := laneExec (idot4Spec f) f s

def idot8Spec (f : Fields) : LaneSpec :=
  aluSpec (sigTri32 (decide (f.var.toNat < 2))) (fop3 (idot (f.var.getLsbD 0) 8 4 5))
/-- IDOT8 (R315). -/
def execIdot8 (f : Fields) (s : State) : Out := laneExec (idot8Spec f) f s

/-- One half of PFMA (R316). -/
def pfmaHalf (g : FFmt) (i : Nat) (a b c : W32) : Nat :=
  g.pack (((g.decode (elemAt 16 i a)).mul (g.decode (elemAt 16 i b))).add (g.decode (elemAt 16 i c)))

def pfmaOf (g : FFmt) (a b c : W32) : W32 :=
  BitVec.ofNat 32 (pfmaHalf g 0 a b c + 2 ^ 16 * pfmaHalf g 1 a b c)

def pfmaSpec (f : Fields) : LaneSpec :=
  aluSpec (sigTri32 (f.var == 9 || f.var == 10)) (fop3 (pfmaOf (if f.var == 9 then fp16 else bf16)))
/-- PFMA (R316). -/
def execPfma (f : Fields) (s : State) : Out := laneExec (pfmaSpec f) f s

end Sys2Proof.Machine
end

