-- ==== Sys2Proof/Machine/Matrix.lean ====
section
/-! DEFINITION. The matrix arrays: opcodes 0xC0 to 0xC9 and the steps they queue (spec/16 R356 to R373, spec/10 R225 to
R230, spec/09 R210, R211, spec/08 R177 to R180). -/
namespace Sys2Proof.Machine

/-! ### Records and elements (R217, R218, R359, R360) -/

def recScale (r : W64) : Nat := bits r 55 48

/-- A record the matrix path accepts (R228, R360, R471). -/
def recordOk (overcast : Bool) (r : W64) : Bool :=
  decide (1 ≤ recFmt r) && decide (recFmt r ≤ 7) && bits r 47 40 == 6 && (!overcast || overcastFmt (recFmt r))

def isIntFmt (c : Nat) : Bool := c == 4 || c == 5

/-- Both formats floating, or both integer (R360). -/
def pairOk (w a : Nat) : Bool := isIntFmt w == isIntFmt a

/-- Bytes of a row of 64 elements. -/
def rowBytes (fmt : Nat) : Nat := 8 * elemBits fmt

/-- Tile indices per 64-row block. -/
def blockTiles (fmt : Nat) : Nat := if elemBits fmt = 16 then 2 else 1

/-- The elements of `n` rows given as sectors; zero elements without poison are left out. -/
def rowElems (fmt n : Nat) (secs : List (List Byte × Bool)) : List MxElem :=
  let rb := rowBytes fmt
  let b := elemBits fmt
  (List.range n).flatMap fun r =>
    let mine := (secs.drop (r * rb / 32)).take (rb / 32)
    (numberFrom 0 mine).flatMap fun x =>
      let v := natLE x.2.1
      (List.range (256 / b)).filterMap fun h =>
        let e : BitVec 16 := BitVec.ofNat 16 (v / 2 ^ (b * h) % 2 ^ b)
        if e = 0 ∧ !x.2.2 then none else some { row := r, k := x.1 * (256 / b) + h, bits := e, poison := x.2.2 }
where
  numberFrom {α : Type} : Nat → List α → List (Nat × α)
    | _, [] => []
    | k, x :: l => (k, x) :: numberFrom (k + 1) l

/-- The weights in the cells: `row` is k and `k` is the column j (R359). -/
def cellWeights (west : Bool) (es : List MxElem) : List MxElem :=
  if west then es.map fun e => { e with row := e.k, k := e.row } else es

/-! ### Slots (R226 to R229) -/

def MxSlot.acc? (t : MxSlot) (i j : Nat) : Option MxAcc := t.acc.find? fun a => a.row == i && a.col == j
def MxSlot.at (t : MxSlot) (i j : Nat) : MxAcc := (t.acc? i j).getD { row := i, col := j, fix := 0, tag := 0, poison := false }
def MxSlot.put (t : MxSlot) (a : MxAcc) : MxSlot :=
  { t with acc := a :: t.acc.filter fun b => !(b.row == a.row && b.col == a.col) }

/-- One addition into memory. -/
structure Promo where
  va     : W64
  val    : W32
  poison : Bool
  deriving DecidableEq, Repr

/-- The FP32 value of an accumulator (R229). -/
def MxSlot.value (t : MxSlot) (a : MxAcc) : W32 :=
  let ws := t.latch.getD (0, 127, 0, 127)
  if ws.2.1 = 255 || ws.2.2.2 = 255 then nan32
  else match a.tag with
    | 0 => ofFl (.fin (decide (a.fix.toInt < 0)) a.fix.toInt.natAbs (t.ebase.toInt + ws.2.1 + ws.2.2.2 - 254))
    | 1 => 0x7F800000
    | 2 => 0xFF800000
    | _ => nan32

/-- The additions that promote a row. -/
def MxSlot.promoteRow (t : MxSlot) (i : Nat) : List Promo :=
  (List.range 64).map fun j =>
    let a := t.at i j
    { va := t.base + BitVec.ofNat 64 (i * t.stride.toNat + 4 * j), val := t.value a, poison := a.poison }

/-- A row is promoted and reset (R227). -/
def MxSlot.spillRow (t : MxSlot) (i : Nat) : MxSlot × List Promo :=
  ({ t with acc := t.acc.filter (·.row != i), spills := min 255 (t.spills + 1) }, t.promoteRow i)

/-- The exact chunk sum of one element, with poison (R225). -/
def chunkSum (fa fw : Nat) (ra cw : List MxElem) : Fl × Bool :=
  (Fl.sum ((List.range 64).map fun k =>
    let a := (ra.find? (·.k == k)).map (·.bits) |>.getD 0
    let w := (cw.find? (·.row == k)).map (·.bits) |>.getD 0
    (elemVal fa a.toNat).mul (elemVal fw w.toNat)), ra.any (·.poison) || cw.any (·.poison))

/-- The tag after a special chunk (R225). -/
def combineTag (tag sp : Nat) : Nat := if tag = 0 || tag = sp then sp else 3

/-- What a chunk gives one accumulator: a special (0 none) and the integer c (R227). -/
def chunkTerm (ebase : Int) (s : Fl) : Nat × Int :=
  match s with
  | .nan => (3, 0)
  | .inf s => (if s then 2 else 1, 0)
  | .fin s m e => (0, Fl.toWhole .rne s m (e - ebase))

def fitsFix (x : Int) : Bool := decide (-2 ^ 31 ≤ x) && decide (x ≤ 2 ^ 31 - 1)

/-- A chunk updates row `i` (R227). -/
def MxSlot.applyRow (t : MxSlot) (fa fw i : Nat) (ra ws : List MxElem) : MxSlot × List Promo :=
  let terms := (List.range 64).map fun j =>
    let s := chunkSum fa fw ra (ws.filter (·.k == j))
    (j, chunkTerm t.ebase.toInt s.1, s.2)
  let high := terms.any fun x => (t.at i x.1).tag == 0 && x.2.1.1 == 0 && !fitsFix ((t.at i x.1).fix.toInt + x.2.1.2)
  let r := if high then t.spillRow i else (t, [])
  (terms.foldl (fun t x =>
    let a := t.at i x.1
    let a := { a with poison := a.poison || x.2.2 }
    if x.2.1.1 ≠ 0 then t.put { a with tag := combineTag a.tag x.2.1.1 }
    else if a.tag ≠ 0 then (if x.2.2 then t.put a else t)
    else
      let n := a.fix.toInt + x.2.1.2
      let t := if fitsFix n then t else { t with ovf := true }
      if x.2.1.2 = 0 && !x.2.2 then t
      else t.put { a with fix := BitVec.ofInt 32 (max (-2 ^ 31) (min (2 ^ 31 - 1) n)) }) r.1, r.2)

/-- An operation on a slot (R364): the pair is latched, rows that must spill do, every row is applied. -/
def MxSlot.apply (t : MxSlot) (wrec : Nat × Nat) (arec : Nat × Nat) (org nb : Nat) (as' ws : List MxElem) : MxSlot × List Promo × Nat :=
  let p := (wrec.1, wrec.2, arec.1, arec.2)
  let r := match t.latch with
    | none => (t, [])
    | some q => if q = p then (t, []) else
        (List.range 64).foldl (fun (x : MxSlot × List Promo) i => let y := x.1.spillRow i; (y.1, x.2 ++ y.2)) (t, [])
  let t1 := { r.1 with latch := some p }
  let r2 := (List.range (16 * nb)).foldl (fun (x : MxSlot × List Promo) i =>
    let y := x.1.applyRow arec.1 wrec.1 (org + i) (as'.filter (·.row == i)) ws
    (y.1, x.2 ++ y.2)) (t1, r.2)
  (r2.1, r2.2, r2.2.length / 64)

/-- The completion value of R364. -/
def mxValue (spilled : Nat) (ovf : Bool) : W32 := BitVec.ofNat 32 (min spilled 255 + if ovf then 2 ^ 31 else 0)

/-! ### REDs of a promotion (R368, R146) -/

/-- An addition of a slot's scope is made by the memory link controller of its stick: `.sys`, on module memory (Table 15-3,
R73). -/
def State.byController (s : State) (scope loc : Nat) : Bool :=
  scope == 2 && !isOutside loc && !s.unreachable loc && (s.ms.regPage loc).isNone

/-- The first addition that a page fault or a migration holds, or an overflow slot that is awaited (R46). -/
def State.promoHeld (s : State) (sp : Space) (scope : Nat) (ps : List Promo) : Option W64 :=
  (ps.find? fun p => match walkOutcome s.ms sp p.va .both with
    | .fault => true
    | .ok loc => s.ms.migrating loc || (s.byController scope loc && (s.atController loc id).isNone)
    | _ => false).map (·.va)

/-- One addition at its place: a register page takes none (R194, R424). -/
def State.promoAt (s : State) (core scope : Nat) (p : Promo) (loc : Nat) : State × Got :=
  match s.ms.regPage loc with
  | some (g, off) => (s.regTouch g off false, .val 0 false)
  | none =>
    if isOutside loc && p.poison then (s, .poison p.va.toNat)
    else
      let add := fun (s : State) => (s.homeUpdate core loc 4 (.red 0 8) (zx p.val) 0 p.poison).1
      ((if s.byController scope loc then s.atController loc add else none).getD (add s), .val 0 false)

/-- The additions are made, in order, at the slot's scope; the error status they leave. -/
def State.promote (s : State) (core : Nat) (sp : Space) (scope : Nat) : List Promo → State × Option ErrMark
  | [] => (s, none)
  | p :: ps =>
    let r := s.agent core sp p.va .both fun s loc => s.promoAt core scope p loc
    let q := r.1.promote core sp scope ps
    (q.1, (r.2.err p.va).or q.2)

/-! ### Reaching matrix state -/

def Wg.quarter (w : Wg) (q : Nat) : MxQuarter := w.mx.getD q {}
def MxQuarter.slot? (q : MxQuarter) (k : Nat) : Option MxSlot := q.slots.getD k none
def State.modMx (s : State) (wg q : Nat) (f : MxQuarter → MxQuarter) : State := s.modWg wg fun w => { w with mx := upd w.mx q f }

/-- The slot is bound as the issue order leaves it. -/
def MxQuarter.boundAt (q : MxQuarter) (k : Nat) : Bool :=
  (q.cell.toList ++ q.steps).foldl (fun b x =>
    match x.step with
    | .zero _ j _ _ base _ => if j = k then base.isSome else b
    | _ => b) (q.slot? k).isSome

/-- A saved slot that waits for a physical one (R373). -/
def MxQuarter.unloaded (q : MxQuarter) (k : Nat) : Bool := (q.slot? k).any (·.phys == 4)

/-- Physical slots of an array that are free. -/
def State.freePhys (s : State) (core q : Nat) : List Nat :=
  let used := s.ex.wgs.flatMap fun w => if w.core = core && w.place != .saved then (w.quarter q).slots.filterMap fun t => t.map (·.phys) else []
  (List.range 4).filter fun p => !used.contains p

/-- Slots that wait are loaded as physical slots free, highest class first (R210, R373). -/
def State.bindSlots (s : State) (core q : Nat) : State :=
  (List.range 4).foldl (fun s c =>
    (s.ex.wgs.filter fun w => w.onCore core && w.cls == 3 - c).foldl (fun s w =>
      (List.range 4).foldl (fun s k =>
        match s.wg? w.id, (s.freePhys core q).head? with
        | some w, some p => if (w.quarter q).unloaded k then
            s.modMx w.id q fun m =>
              let m : MxQuarter := { m with slots := upd m.slots k (fun t => t.map fun t => { t with phys := p }) }
              { m with since := if (List.range 4).any m.unloaded then m.since else none }
          else s
        | _, _ => s) s) s) s

/-- The need for a physical slot begins to wait (R210). -/
def State.slotWaits (s : State) (wg q : Nat) : State :=
  s.modMx wg q fun m => { m with since := some (m.since.getD s.ck.now) }

/-- Work is queued, in the order of the device (R358). -/
def State.mxQueue (s : State) (wg q : Nat) (tval : W64) (x : MxStep) : State :=
  (s.modMx wg q fun m => { m with steps := m.steps ++ [{ seq := s.ck.nextId, tval, step := x }] }).freshId

/-! ### Instructions -/

def badMx (cx : Cx) : Dec := .trap 3 (slotVal cx.g 4)

/-- Tiles that an instruction names: each below `.tiles` and claimed (R361, R366). -/
def tilesNamed (s : State) (w : Wg) (idxs : List Nat) : Bool :=
  idxs.all fun i => decide (i < (s.nodeOf w).launch.tiles) && (w.tiles.any fun t => t.idx == i && !t.freeing)

/-- What a tile that the lane names makes it start; `none`: it is READY and its turn (R54, R346). -/
def tileStarts (s : State) (w : Wg) (i : Nat) (l : Lane) (k : Nat) : Option (List Fx) :=
  match w.tiles.find? fun t => t.idx == k && !t.freeing with
  | none => some []
  | some t => match s.tileTarget w i l w t t.vpage .read with
    | .wait fx => some fx
    | _ => none

/-- The lane's turn at the tiles it names: while it waits for one it keeps its place at each (R54, R346). -/
def tilesReady (s : State) (w : Wg) (i : Nat) (l : Lane) (idxs : List Nat) : Dec :=
  if idxs.all fun k => (tileStarts s w i l k).isNone then .ok
  else .wait (idxs.flatMap fun k => (tileStarts s w i l k).getD [.act fun s => s.tileWaiter w.id k w.id i])

/-- Every lane of the gang has named the tiles. -/
def State.gangNamed (s : State) (cx : Cx) (idxs : List Nat) : State :=
  idxs.foldl (fun s k => cx.g.lanes.foldl (fun s i => s.tileNamed cx.w.id k (barKey cx.w.id i)) s) s

def tilesFrom (first n : Nat) : List Nat := (List.range n).map (first + ·)

def mxldwOp (s : State) (f : Fields) : Once where
  sig := { var := decide (f.var.toNat < 2), q := bits f.q 11 1 == 0, dst := .handle, a := if f.q.getLsbD 0 then .u else .pr, b := .pr, unit := 4 }
  dec := fun cx i l _ v =>
    let idxs := tilesFrom (lo32 v.a).toNat (blockTiles (recFmt v.b))
    if !recordOk s.overcast v.b || (f.q.getLsbD 0 && !tilesNamed s cx.w idxs) then badMx cx
    else if !f.q.getLsbD 0 && v.a.toNat % 128 ≠ 0 then .trap 9 v.a
    else if issueHolds s cx i then .hold []
    else if f.q.getLsbD 0 then tilesReady s cx.w i l idxs
    else .ok
  own := fun _ _ l f _ => newHandle s.ck.nextId l f
  act := fun cx i _ _ v s =>
    let q := quarterOf i
    let d : WDesc := { tile := f.q.getLsbD 0, addr := if f.q.getLsbD 0 then zx (lo32 v.a) else v.a, west := f.var == 1, srec := v.b }
    let s := if d.tile then s.gangNamed cx (tilesFrom (lo32 v.a).toNat (blockTiles (recFmt v.b))) else s
    (s.modMx cx.w.id q fun m => { m with wdesc := some d }).mxQueue cx.w.id q (slotVal cx.g 4) (.ldw s.ck.nextId d)
/-- MXLDW (R361). -/
def execMxldw (f : Fields) (s : State) : Out := onceExec (mxldwOp s f) f s

def mulCv (f : Fields) : Nat := bits f.q 11 9
def mulSlot (f : Fields) : Nat := bits f.q 8 7
def mulRowq (f : Fields) : Nat := bits f.q 6 5
def mulNb (f : Fields) : Nat := bits f.q 4 3 + 1

/-- The register that A names. -/
def aReg (f : Fields) : Nat := match f.a with | .v n => n.val | _ => 0

/-- Registers of an A block of `nb` blocks. -/
def blockRegs (fmt nb : Nat) : Nat := nb * (elemBits fmt / 2)

/-- R179: why a lane may not sign. -/
def mustNotSign (cv : CvReg) (i pc : Nat) : Bool :=
  let base := bits cv.word2 9 0
  !cv.word2.getLsbD 63 || i < base || base + 64 ≤ i || !cv.decl.getLsbD (i - base) || cv.signed.getLsbD (i - base)
    || (cv.signed != 0 && bits cv.word2 41 10 != pc)

/-- A lane signs (R179, R363): the first signature records the presentation; the last queues the operation. -/
def State.signCv (s : State) (wg i cv pc : Nat) (p : CvPend) : State :=
  (s.modWg wg fun w =>
    let r := w.cv.getD cv {}
    let base := bits r.word2 9 0
    let r := { r with signed := r.signed ||| entryBit (i - base)
                      word2 := if r.signed = 0 then setBits r.word2 10 32 pc else r.word2
                      pend := some { (r.pend.getD p) with signers := i :: (r.pend.getD p).signers } }
    let w := { w with cv := w.cv.set cv r }
    if r.signed = r.decl then w.issueCv s.ck.free s.ck.nextId cv else w).freshId

/-- The lane's operand entries of the operation: their content is undefined until its handle is read (R364). -/
def Lane.holdRegs (l : Lane) (op areg n : Nat) : Lane :=
  let regs := (List.range n).foldl (fun (m : BitVec 64) k => m ||| entryBit (l.entry (areg + k))) 0
  { l with mxHeld := { op, regs, depth := l.d, fenced := l.unfenced &&& regs == 0 } :: l.mxHeld }

/-- The weight descriptor that B is paired with: that of the MXLDW issued last, or else the one in force (R363, R366). -/
def MxQuarter.descNow (q : MxQuarter) : Option WDesc := q.wdesc.or q.inForce

/-- The limits of a signature that fail (R363): width, slot, descriptor, rows; and, once B is there, its record, and the block
that the slot's latch holds (R365). -/
def mulBad (s : State) (cx : Cx) (i : Nat) (l : Lane) (f : Fields) : Bool :=
  let mq := cx.w.quarter (quarterOf i)
  let b := srcVal cx i l f.b true 0
  cx.w.width != 64 || !mq.boundAt (mulSlot f) || mq.descNow.isNone || decide (4 < mulRowq f + mulNb f) ||
    (!srcEmpty cx i l f.b true 0 && (!recordOk s.overcast b || !pairOk ((mq.descNow.map fun d => recFmt d.srec).getD 0) (recFmt b)
      || (mq.holdAt (mulSlot f)).any fun h => h != (aReg f, mulNb f, recFmt b)))

def mxmulSpec (s : State) (f : Fields) : LaneSpec where
  sig := { var := f.var == 0, q := bits f.q 2 0 == 0, hold := true, dst := .handle, a := .vrange 1, b := .pr, unit := 4 }
  bad := mulBad s
  body := fun cx i l f v =>
    let mq := cx.w.quarter (quarterOf i)
    let cv := cx.w.cv.getD (mulCv f) {}
    let fmt := recFmt v.b
    let held := mq.holdAt (mulSlot f)
    let pc := bits cx.g.pc 33 2
    if l.helper then .done l []
    else if 32 < aReg f + blockRegs fmt (mulNb f) then .trap l 3 (slotVal cx.g 1) false
    else if mustNotSign cv i pc then .trap l 7 cv.decl false
    else if v.poison then .trap l 13 v.tag false
    else if (match cv.pend with
        | some p => !(p.slot == mulSlot f && p.rowq == mulRowq f && p.nb == mulNb f && p.areg == aReg f)
        | none => false) then .trap l 3 (slotVal cx.g 4) false
    else if mq.unloaded (mulSlot f) then .wait l [.act fun s => s.slotWaits cx.w.id (quarterOf i)]
    else match (if held.isSome then none else l.pulled ((List.range (blockRegs fmt (mulNb f))).map fun k => l.entry (aReg f + k))) with
    | some (l', m) => .trap l' m.cause m.tval false
    | none =>
      let op := (cv.pend.map (·.op)).getD s.ck.nextId
      let l := newHandle op l f
      let l := if held.isSome then l else l.holdRegs op (aReg f) (blockRegs fmt (mulNb f))
      .done l [.act fun s => s.signCv cx.w.id i (mulCv f) pc
        { brec := v.b, slot := mulSlot f, rowq := mulRowq f, nb := mulNb f, areg := aReg f, hold := f.h, op, tval := slotVal cx.g 4, signers := [] }]
/-- MXMUL (R362, R363, R179). -/
def execMxmul (f : Fields) (s : State) : Out := laneExec (mxmulSpec s f) f s

def multNch (f : Fields) : Nat := bits f.q 11 8 + 1
def multSlot (f : Fields) : Nat := bits f.q 7 6
def multRowq (f : Fields) : Nat := bits f.q 5 4
def multNb (f : Fields) : Nat := bits f.q 3 2 + 1

/-- First weight and activation tile of A. -/
def multTiles (v : Vals) : Nat × Nat := ((lo32 v.a).toNat % 256, (lo32 v.a).toNat / 256 % 256)

/-- Tiles of chunk `c`. -/
def chunkTiles (wt atl c : Nat) (wrec arec : W64) : List Nat :=
  let tw := blockTiles (recFmt wrec)
  let ta := blockTiles (recFmt arec)
  tilesFrom (wt + c * tw) tw ++ tilesFrom (atl + c * ta) ta

def mxmultOp (s : State) (f : Fields) : Once where
  sig := { var := f.var == 0, q := !f.q.getLsbD 0, dst := .handle, a := .u, b := .pr, c := .pr, unit := 4 }
  dec := fun cx i l _ v =>
    let mq := cx.w.quarter (quarterOf i)
    let t := multTiles v
    let all := (List.range (multNch f)).flatMap fun c => chunkTiles t.1 t.2 c v.b v.c
    if !mq.boundAt (multSlot f) || decide (4 < multRowq f + multNb f) || !recordOk s.overcast v.b || !recordOk s.overcast v.c
        || !pairOk (recFmt v.b) (recFmt v.c) || !tilesNamed s cx.w all then badMx cx
    else if issueHolds s cx i then .hold []
    else if mq.unloaded (multSlot f) then .wait [.act fun s => s.slotWaits cx.w.id (quarterOf i)]
    else tilesReady s cx.w i l (chunkTiles t.1 t.2 0 v.b v.c)
  own := fun _ _ l f _ => newHandle s.ck.nextId l f
  act := fun cx i _ _ v s =>
    let t := multTiles v
    let op := s.ck.nextId
    (s.gangNamed cx (chunkTiles t.1 t.2 0 v.b v.c)).mxQueue cx.w.id (quarterOf i) (slotVal cx.g 4)
      (.mult op (multSlot f) (multRowq f) (multNb f) 0 (multNch f) (f.q.getLsbD 1) t.1 t.2 v.b v.c 0 none)
/-- MXMULT (R366). -/
def execMxmult (f : Fields) (s : State) : Out := onceExec (mxmultOp s f) f s

/-- The slot operand of B (R367 to R370). -/
def slotOf (v : Vals) : Nat := (lo32 v.b).toNat

/-- A bound slot named by B. -/
def slotNamed (w : Wg) (i k : Nat) : Bool := decide (k < 4) && (w.quarter (quarterOf i)).boundAt k

def mxpromOp (s : State) (f : Fields) : Once where
  sig := { var := f.var == 0, dst := .handle, b := .u, unit := 4 }
  dec := fun cx i _ _ v =>
    if bits f.q 5 0 < bits f.q 11 6 || !slotNamed cx.w i (slotOf v) then badMx cx
    else if issueHolds s cx i then .hold []
    else if (cx.w.quarter (quarterOf i)).unloaded (slotOf v) then .wait [.act fun s => s.slotWaits cx.w.id (quarterOf i)]
    else .ok
  own := fun _ _ l f _ => newHandle s.ck.nextId l f
  act := fun cx i _ _ v s => s.mxQueue cx.w.id (quarterOf i) (slotVal cx.g 4) (.prom s.ck.nextId (slotOf v) (bits f.q 11 6) (bits f.q 5 0))
/-- MXPROM (R368). -/
def execMxprom (f : Fields) (s : State) : Out := onceExec (mxpromOp s f) f s

def zeroSlot (f : Fields) : Nat := bits f.q 3 2

/-- A fresh bound slot. -/
def MxSlot.fresh (phys scope : Nat) (ebase : BitVec 8) (base : W64) (stride : W32) : MxSlot :=
  { phys, scope, ebase, base, stride }

def mxzeroOp (s : State) (f : Fields) : Once where
  sig := { var := f.var == 0, q := bits f.q 1 0 != 3, dst := .handle, a := .pr, b := .u, unit := 4 }
  dec := fun cx i _ _ v =>
    let q := quarterOf i
    if f.a = .zero then (if (cx.w.quarter q).unloaded (zeroSlot f) then .wait [.act fun s => s.slotWaits cx.w.id q] else .ok)
    else if v.b.toNat % 4 ≠ 0 then badMx cx
    else if v.a.toNat % 4 ≠ 0 then .trap 9 v.a
    else if (cx.w.quarter q).unloaded (zeroSlot f) then .wait [.act fun s => s.slotWaits cx.w.id q]
    else if !(cx.w.quarter q).boundAt (zeroSlot f) && ((cx.w.quarter q).slot? (zeroSlot f)).isNone && (s.freePhys cx.w.core q).isEmpty then
      .wait [.act fun s => s.slotWaits cx.w.id q]
    else .ok
  own := fun _ _ l f _ => newHandle s.ck.nextId l f
  act := fun cx i _ _ v s =>
    let q := quarterOf i
    let k := zeroSlot f
    let base := if f.a = .zero then none else some v.a
    let s := match base, (s.freePhys cx.w.core q).head? with
      | some b, some p =>
        let t := MxSlot.fresh p (bits f.q 1 0) (BitVec.ofNat 8 (bits f.q 11 4)) b (lo32 v.b)
        s.modMx cx.w.id q fun m => { m with since := none, slots := upd m.slots k (fun u => u.or (some t)) }
      | _, _ => s
    s.mxQueue cx.w.id q (slotVal cx.g 4) (.zero s.ck.nextId k (bits f.q 1 0) (BitVec.ofNat 8 (bits f.q 11 4)) base (lo32 v.b))
/-- MXZERO (R367). -/
def execMxzero (f : Fields) (s : State) : Out := onceExec (mxzeroOp s f) f s

def mxrdSpec (f : Fields) : LaneSpec where
  sig := { var := f.var == 0, q := bits f.q 11 1 == 0, dst := .dst false, a := .src false, b := .u, c := .src false, unit := 4 }
  bad := fun cx i l f => (limitOf cx i l f.b).any fun k => !slotNamed cx.w i k
  body := fun cx i l f v =>
    let q := quarterOf i
    if l.helper then write cx l f.dst false 0 false 0
    else if v.poison then .trap l 13 v.tag false
    else if (cx.w.quarter q).unloaded (slotOf v) then .stay l
    else
      let d := destOf cx.w i l f.dst false
      let m := markDest l d
      .done m.1 (m.2 ++ [.act fun s => s.mxQueue cx.w.id q 0
        (.rd s.ck.nextId (slotOf v) i d ((lo32 v.a).toNat % 64) ((lo32 v.c).toNat % 64) (f.q.getLsbD 0))])
/-- MXRD (R369). -/
def execMxrd (f : Fields) (s : State) : Out := laneExec (mxrdSpec f) f s

/-- Table 16-5. -/
def MxSlot.status (t : MxSlot) : W64 :=
  let p := t.latch.getD (0, 0, 0, 0)
  BitVec.ofNat 64 (2 ^ 63 + (if t.ovf then 2 ^ 62 else 0) + (if t.latch.isSome then 2 ^ 61 else 0) + (if t.hold.isSome then 2 ^ 60 else 0)
    + (if t.acc.any (·.poison) then 2 ^ 59 else 0) + t.scope % 4 * 2 ^ 57 + t.phys % 4 * 2 ^ 55 + t.ebase.toNat * 2 ^ 47
    + p.1 % 16 * 2 ^ 43 + p.2.1 % 256 * 2 ^ 35 + p.2.2.1 % 16 * 2 ^ 31 + p.2.2.2 % 256 * 2 ^ 23 + t.spills % 256 * 2 ^ 15
    + t.reloads % 256 * 2 ^ 7)

def mxstatSpec (f : Fields) : LaneSpec where
  sig := { var := f.var == 0, q := f.q == 0, dst := .dst true, b := .u, unit := 4 }
  body := fun cx i l f v =>
    let q := cx.w.quarter (quarterOf i)
    if v.poison then .trap l 13 v.tag false
    else if q.unloaded (slotOf v) then .stay l
    else write cx l f.dst true (((q.slot? (slotOf v)).map MxSlot.status).getD 0) false 0
/-- MXSTAT (R370). -/
def execMxstat (f : Fields) (s : State) : Out := laneExec (mxstatSpec f) f s

def mxfenceSpec (f : Fields) : LaneSpec where
  sig := { var := f.var == 0, q := f.q == 0, unit := 4 }
  body := fun _ _ l _ _ => if l.v.all (·.full) then .done { l with unfenced := 0 } [] else .stay l
/-- MXFENCE (R371). -/
def execMxfence (f : Fields) (s : State) : Out := laneExec (mxfenceSpec f) f s

/-- Lanes of a declaration that are neither helpers nor ended (R178). -/
def declared (w : Wg) (base : Nat) (m : W64) : W64 :=
  (List.range 64).foldl (fun (x : W64) j => if m.getLsbD j && (w.lane (base + j)).live then x ||| entryBit j else x) 0

/-- CVSET. Where a gang spans several groups, the executing group is that of the acting, lowest lane: the manual does not say
which it is (DESIGN CHOICE, log entry 104). -/
def cvsetOp (f : Fields) : Once where
  sig := { var := decide (f.var.toNat < 8), q := f.q == 0, c := .mask, unit := 4 }
  dec := fun cx i _ _ v =>
    let k := cx.w.grpOf i
    let base := cx.w.grpFirst k
    let r := cx.w.cv.getD f.var.toNat {}
    if maskTooWide (cx.w.grpCount k) v.c || (r.signed != 0 && !(bits r.word2 9 0 == base && r.decl == declared cx.w base v.c)) then badMx cx
    else .ok
  act := fun cx i _ _ v s => s.modWg cx.w.id fun w =>
    let base := cx.w.grpFirst (cx.w.grpOf i)
    let d := declared cx.w base v.c
    let r := w.cv.getD f.var.toNat {}
    if r.signed ≠ 0 then w
    else { w with cv := w.cv.set f.var.toNat (if d = 0 then {} else { decl := d, signed := 0, word2 := BitVec.ofNat 64 (2 ^ 63 + base) }) }
/-- CVSET (R178, R372). -/
def execCvset (f : Fields) (s : State) : Out := onceExec (cvsetOp f) f s

/-- A word of Table 8-6. -/
def CvReg.word (r : CvReg) (n : Nat) : W64 := match n with | 0 => r.decl | 1 => r.signed | _ => r.word2

def cvqrySpec (f : Fields) : LaneSpec where
  sig := { var := decide (f.var.toNat < 8), q := f.q == 0, dst := .dst true, b := .u, unit := 4 }
  bad := fun cx i l f => (limitOf cx i l f.b).any (2 < ·)
  body := fun cx _ l f v =>
    if v.poison then .trap l 13 v.tag false
    else write cx l f.dst true ((cx.w.cv.getD f.var.toNat {}).word (lo32 v.b).toNat) false 0
/-- CVQRY (R372). -/
def execCvqry (f : Fields) (s : State) : Out := laneExec (cvqrySpec f) f s

/-! ### Steps at the array (R210, R211, R358) -/

/-- A step that occupies the cells. -/
def MxStep.cells : MxStep → Bool
  | .ldw .. => true
  | .mul .. => true
  | .mult .. => true
  | _ => false

/-- No earlier work of the list names the slot of `x`. -/
def clearBefore (x : MxQueued) : List MxQueued → Bool
  | [] => true
  | y :: l => y.seq == x.seq || ((y.step.slot != x.step.slot || x.step.slot.isNone) && clearBefore x l)

/-- The tiles of an MXMULT's next chunk: `none` when one is gone, else whether all are READY. -/
def chunkReady (w : Wg) (idxs : List Nat) : Option Bool :=
  let ts := idxs.map fun i => w.tiles.find? fun t => t.idx == i && !t.freeing
  if ts.any (·.isNone) then none else some (ts.all fun t => t.any fun t => t.state == .ready)

/-- The step of a workgroup that the array may take next. -/
def nextStep (w : Wg) (q : Nat) : Option MxQueued :=
  let m := w.quarter q
  match m.steps.find? (·.step.cells) with
  | none => none
  | some x =>
    if !clearBefore x m.steps || (x.step.slot.any fun k => m.unloaded k) then none
    else match x.step with
      | .mult _ _ _ _ c _ _ wt atl wrec arec _ _ => if chunkReady w (chunkTiles wt atl c wrec arec) == some false then none else some x
      | _ => some x

/-- Workgroups whose matrix work is on an array. -/
def State.onArray (s : State) (core : Nat) : List Wg := s.ex.wgs.filter fun w => w.core == core && w.place != .saved

/-- The array's next step: highest class first, then issue order. -/
def State.arrayNext (s : State) (core q : Nat) : Option (Wg × MxQueued) :=
  (s.onArray core).foldl (fun best w =>
    match nextStep w q, best with
    | none, b => b
    | some x, none => some (w, x)
    | some x, some (u, y) => if u.cls < w.cls || (u.cls == w.cls && decide (x.seq < y.seq)) then some (w, x) else some (u, y)) none

def State.arrayBusy (s : State) (core q : Nat) : Bool := (s.onArray core).any fun w => (w.quarter q).cell.isSome

def MxStep.isMult : MxStep → Bool
  | .mult .. => true
  | _ => false

/-- The array takes its next step, of the kind asked for; that of a quarantined core takes none (R414). -/
def State.arrayTake (s : State) (core q : Nat) (mult : Bool) : State :=
  let s := s.bindSlots core q
  if s.arrayBusy core q || (s.core core).quarantined then s
  else match s.arrayNext core q with
    | none => s
    | some (w, x) =>
      if x.step.isMult != mult then s
      else s.modMx w.id q fun m => { m with steps := m.steps.filter (·.seq != x.seq), cell := some x }

/-- ARRAY_STEP (R210). -/
def execArrayStep (core quarter : Nat) (s : State) : Out := .next (s.arrayTake core quarter false)

/-- MXMULT_CHUNK (R211, R366): a chunk starts once its tiles are READY. -/
def execMxmultChunk (core quarter : Nat) (s : State) : Out := .next (s.arrayTake core quarter true)

/-- Sectors of a block in tiles. -/
def tileSectors (w : Wg) (first n : Nat) : List (List Byte × Bool) :=
  (List.range n).map fun k =>
    match w.tiles.find? fun t => t.idx == first + k / 128 && !t.freeing with
    | some t => (t.bytes (k % 128 * 32) 32, t.poison.getLsbD (k % 128))
    | none => (List.replicate 32 0, false)

/-- The weights of a descriptor are read from its source. -/
def State.readWeights (s : State) (w : Wg) (d : WDesc) : State × Except (Got × W64) (List MxElem) :=
  let n := 2 * rowBytes (recFmt d.srec)
  if d.tile then
    match chunkReady w (tilesFrom d.addr.toNat (blockTiles (recFmt d.srec))) with
    | some true => (s, .ok (cellWeights d.west (rowElems (recFmt d.srec) 64 (tileSectors w d.addr.toNat n))))
    | some false => (s, .error (.wait, 0))
    | none => (s, .error (.viol, 0))
  else match s.engineSectors w.core 2 (s.space w) d.addr n with
    | (s, .ok l) => (s, .ok (cellWeights d.west (rowElems (recFmt d.srec) 64 l)))
    | (s, .error g) => (s, .error g)

def State.setWeights (s : State) (core q : Nat) (x : Option (Nat × WDesc × List MxElem)) : State :=
  s.modCore core fun c => { c with weights := c.weights.set q x }

/-- The cells hold the workgroup's weights, after a reload if they did not (R358): the state, the weights, and whether
they were reloaded. -/
def State.ownWeights (s : State) (w : Wg) (q : Nat) (d : WDesc) (force : Bool) :
    State × Except (Got × W64) (List MxElem × Bool) :=
  match (s.core w.core).weights.getD q none with
  | some (id, _, es) =>
    if id = w.id && !force then (s, .ok (es, false))
    else (match s.readWeights w d with
      | (s, .ok es) => (s.setWeights w.core q (some (w.id, d, es)), .ok (es, true))
      | (s, .error g) => (s, .error g))
  | none =>
    match s.readWeights w d with
    | (s, .ok es) => (s.setWeights w.core q (some (w.id, d, es)), .ok (es, true))
    | (s, .error g) => (s, .error g)

/-- The cells' step is over: its slots are given up when nothing of an ended workgroup is left. -/
def State.cellDone (s : State) (wg q : Nat) : State :=
  s.modWg wg fun w => { w with mx := upd w.mx q fun m =>
    let m : MxQuarter := { m with cell := none }
    if w.ended then m.giveUp else m }

/-- An operation on a slot is made: its spills first, held while one of them is. -/
def State.applyOp (s : State) (w : Wg) (q k : Nat) (t : MxSlot) (d : WDesc) (arec : W64) (org nb : Nat) (as' ws : List MxElem)
    (reload : Bool) (after : MxSlot → MxSlot) : Option (State × Nat × Bool × Option ErrMark) :=
  let r := t.apply (recFmt d.srec, recScale d.srec) (recFmt arec, recScale arec) org nb as' ws
  match s.promoHeld (s.space w) t.scope r.2.1 with
  | some _ => none
  | none =>
    let p := s.promote w.core (s.space w) t.scope r.2.1
    let t := { after r.1 with reloads := min 255 (t.reloads + if reload then 1 else 0) }
    some ((p.1.modMx w.id q fun m => { m with slots := m.slots.set k (some t) }), r.2.2, r.1.ovf, p.2)

/-- The first addition of an operation that is held, noted for fault service. -/
def State.noteHeld (s : State) (w : Wg) (t : MxSlot) (d : WDesc) (arec : W64) (org nb : Nat) (as' ws : List MxElem) : State :=
  match s.promoHeld (s.space w) t.scope (t.apply (recFmt d.srec, recScale d.srec) (recFmt arec, recScale arec) org nb as' ws).2.1 with
  | some va => (match walkOutcome s.ms (s.space w) va .both with
      | .fault => s.modMs (·.faultNote (s.space w).asid va)
      | _ => s)
  | none => s

/-- A step ends with error status (R34, R381). -/
def State.stepError (s : State) (wg q op : Nat) (e : ErrMark) (scope : Nat) : State :=
  (s.completeOp wg op 0 (some e) scope).cellDone wg q

def operandErr (tval : W64) : ErrMark := { cause := 3, tval }

/-- The error of an unreadable weight source, with the address that did not succeed (R34): a tile that is gone is an operand
trap (R366). -/
def weightErr (d : WDesc) (tval : W64) (g : Got × W64) : ErrMark :=
  if d.tile then operandErr tval else (g.1.err g.2).getD (operandErr tval)

def finishLdw (s : State) (w : Wg) (q : Nat) (x : MxQueued) (op : Nat) (d : WDesc) : State :=
  let s := s.modMx w.id q fun m => { m with inForce := some d }
  match s.ownWeights w q d true with
  | (s, .ok _) => (s.completeOp w.id op 0 none 0).cellDone w.id q
  | (s, .error (.wait, _)) => s
  | (s, .error g) => (s.setWeights w.core q none).stepError w.id q op (weightErr d x.tval g) 0

/-- The A block of a collected operation: the slot's latch, or what the collector captured, or the new values of registers
written since (R364). -/
def State.blockOf (s : State) (w : Wg) (t : MxSlot) (op areg nb fmt : Nat) (latched : Bool) (elems : List MxElem) : List MxElem :=
  if latched then (t.hold.map (·.elems)).getD [] else recapture w s.ck.free op areg nb fmt elems

/-- A reload whose step is held counts now: the step finds the weights loaded (R358, R370). -/
def State.reloaded (s : State) (wg q k : Nat) (reload : Bool) : State :=
  if reload then s.modMx wg q fun m => { m with slots := upd m.slots k (fun t => t.map fun t => { t with reloads := min 255 (t.reloads + 1) }) } else s

/-- The latch after an operation (R365). -/
def holdAfter (hold : Bool) (areg nb fmt : Nat) (es : List MxElem) (t : MxSlot) : MxSlot :=
  { t with hold := if hold then some { areg, nb, afmt := fmt, elems := es } else none }

def finishMul (s : State) (w : Wg) (q : Nat) (x : MxQueued) (op k rowq nb areg : Nat) (hold : Bool) (brec : W64) (latched : Bool)
    (elems : List MxElem) : State :=
  match (w.quarter q).slot? k, (w.quarter q).inForce with
  | some t, some d =>
    (match s.ownWeights w q d false with
     | (s, .ok (ws, reload)) =>
       let es := s.blockOf w t op areg nb (recFmt brec) latched elems
       (match s.applyOp w q k t d brec (16 * rowq) nb es ws reload (holdAfter hold areg nb (recFmt brec) es) with
        | some (s, n, ovf, e) => (s.tickFree.completeOp w.id op (mxValue n ovf) e (t.scope + 3)).cellDone w.id q
        | none => (s.reloaded w.id q k reload).noteHeld w t d brec (16 * rowq) nb es ws)
     | (s, .error (.wait, _)) => s
     | (s, .error g) => s.stepError w.id q op (weightErr d x.tval g) (t.scope + 3))
  | _, _ => s.stepError w.id q op (operandErr x.tval) 0

def finishMult (s : State) (w : Wg) (q : Nat) (x : MxQueued) (op k rowq nb c count : Nat) (west : Bool) (wt atl : Nat) (wrec arec : W64)
    (spills : Nat) (err : Option ErrMark) : State :=
  match (w.quarter q).slot? k, chunkReady w (chunkTiles wt atl c wrec arec) with
  | some t, some true =>
    let d : WDesc := { tile := true, addr := BitVec.ofNat 64 (wt + c * blockTiles (recFmt wrec)), west, srec := wrec }
    (match s.ownWeights w q d true with
     | (s, .ok (ws, _)) =>
       let es := rowElems (recFmt arec) (16 * nb) (tileSectors w (atl + c * blockTiles (recFmt arec)) (16 * nb * rowBytes (recFmt arec) / 32))
       (match s.applyOp w q k t d arec (16 * rowq) nb es ws false id with
        | some (s, n, ovf, e) =>
          let s := s.modMx w.id q fun m => { m with inForce := some d }
          if c + 1 < count then
              let y : MxQueued := { x with step := .mult op k rowq nb (c + 1) count west wt atl wrec arec (spills + n) (err.or e) }
            (s.cellDone w.id q).modMx w.id q fun m => { m with steps := y :: m.steps }
          else (s.completeOp w.id op (mxValue (spills + n) ovf) (err.or e) (t.scope + 3)).cellDone w.id q
        | none => s.noteHeld w t d arec (16 * rowq) nb es ws)
     | (s, .error (.wait, _)) => s
     | (s, .error g) => s.stepError w.id q op (weightErr d x.tval g) (t.scope + 3))
  | some t, none => s.stepError w.id q op (operandErr x.tval) (t.scope + 3)
  | some _, some false => s
  | none, _ => s.stepError w.id q op (operandErr x.tval) 0

/-- A matrix step is checked as a whole (R456): a mismatch repeats it, before it has changed anything; a second one leaves it
pending, first of its workgroup's steps, and the core is quarantined (R414). -/
def State.stepCheck (s : State) (core q : Nat) (w : Wg) (x : MxQueued) (k : State → State) : State :=
  let n := (s.core core).mismatch.getD 4 0
  if n = 0 then k s
  else
    let s := s.modCore core fun c => { c with mismatch := c.mismatch.set 4 0, retries := c.retries + 1 }
    if n = 1 then k s
    else ((s.modMx w.id q fun m => { m with cell := none, steps := x :: m.steps }).note (.residue core 4 false)).quarantine core

/-- ARRAY_STEP_COMPLETE (R364): the step at the cells finishes, its spills perform and its handles fill. -/
def execArrayStepComplete (core quarter : Nat) (s : State) : Out :=
  match (s.onArray core).find? fun w => (w.quarter quarter).cell.isSome with
  | none => .next s
  | some w =>
    match (w.quarter quarter).cell with
    | none => .next s
    | some x =>
      .next (s.blame w.id <| s.stepCheck core quarter w x fun s => match x.step with
        | .ldw op d => finishLdw s w quarter x op d
        | .mul op k rowq nb areg hold brec latched es => finishMul s w quarter x op k rowq nb areg hold brec latched es
        | .mult op k rowq nb c count west wt atl wrec arec sp e => finishMult s w quarter x op k rowq nb c count west wt atl wrec arec sp e
        | _ => s.cellDone w.id quarter)

/-- ARRAY_SLOT_PREEMPTION (R210): a need for a slot that has waited 10 µs pre-empts the lowest-class holder below it; a slot
that is free meanwhile serves it. -/
def execArraySlotPreemption (core quarter : Nat) (s : State) : Out :=
  let s := s.bindSlots core quarter
  if !(s.freePhys core quarter).isEmpty then .next s else
  let waits := (s.onArray core).filter fun w => (w.quarter quarter).since.any fun t => decide (t + 10000 ≤ s.ck.now)
  let top := waits.foldl (fun c w => max c w.cls) 0
  let holders := (s.onArray core).filter fun w => !w.ended && decide (w.cls < top) && (w.quarter quarter).slots.any (fun t => t.any (·.phys != 4))
  match holders.foldl (fun (b : Option Wg) w => match b with
    | none => some w
    | some u => if w.cls < u.cls then some w else some u) none with
  | none => .next s
  | some w => .next (s.modWg w.id (·.ask .cls))

/-! ### Slot operations (R358, R367 to R369) -/

/-- The operation of a slot operation. -/
def MxStep.op : MxStep → Nat
  | .ldw op _ => op
  | .mul op .. => op
  | .mult op .. => op
  | .zero op .. => op
  | .prom op .. => op
  | .rd op .. => op

def State.dropStep (s : State) (wg q seq : Nat) : State :=
  s.modWg wg fun w => { w with mx := upd w.mx q fun m =>
    let m : MxQuarter := { m with steps := m.steps.filter (·.seq != seq) }
    if w.ended then m.giveUp else m }

/-- A slot operation whose turn has come is applied. -/
def State.slotOp (s : State) (w : Wg) (q : Nat) (x : MxQueued) : State :=
  let m := w.quarter q
  if !clearBefore x m.steps || (m.cell.any fun y => y.step.slot == x.step.slot) || (x.step.slot.any fun k => m.unloaded k) then s
  else match x.step with
    | .zero op k scope ebase base stride =>
      (match base, (m.slot? k).map (·.phys) |>.or (s.freePhys w.core q).head? with
       | none, _ =>
         ((s.modMx w.id q fun m => { m with slots := m.slots.set k none }).completeOp w.id op 0 none 0).dropStep w.id q x.seq
       | some b, some p =>
         ((s.modMx w.id q fun m => { m with slots := m.slots.set k (some (MxSlot.fresh p scope ebase b stride)), since := none }).completeOp
           w.id op 0 none 0).dropStep w.id q x.seq
       | some _, none => s.slotWaits w.id q)
    | .prom op k first last =>
      (match m.slot? k with
       | none => (s.completeOp w.id op 0 (some (operandErr x.tval)) 0).dropStep w.id q x.seq
       | some t =>
         let ps := (List.range (last + 1 - first)).flatMap fun i => t.promoteRow (first + i)
         match s.promoHeld (s.space w) t.scope ps with
         | some va => (match walkOutcome s.ms (s.space w) va .both with
             | .fault => s.modMs (·.faultNote (s.space w).asid va)
             | _ => s)
         | none =>
           let r := s.promote w.core (s.space w) t.scope ps
           (r.1.completeOp w.id op (BitVec.ofNat 32 (last - first + if t.ovf then 2 ^ 31 else 0)) r.2 (t.scope + 3)).dropStep w.id q x.seq)
    | .rd _ k lane dst row col fp =>
      let a := ((m.slot? k).map fun t => (t, t.at row col))
      let v : W32 := match a with
        | some (t, a) => if fp then t.value a else a.fix
        | none => 0
      ((s.fillDest w.id lane dst (zx v) (a.any fun x => x.2.poison))).dropStep w.id q x.seq
    | _ => s

/-- The queued slot operation of an operation number, if any, is applied. -/
def State.slotOpOf (s : State) (op : Nat) : State :=
  match s.ex.wgs.findSome? (fun w => (List.range 4).findSome? fun q =>
    ((w.quarter q).steps.find? fun x => x.step.op == op && !x.step.cells).map fun x => (w, q, x)) with
  | some (w, q, x) => s.blame w.id (s.slotOp w q x)
  | none => s

end Sys2Proof.Machine
end

