-- ==== Sys2Proof/Machine/Async.lean ====
section
/-! DEFINITION. Copies, handle reads and cancellation: opcodes 0xE2, 0xE3, 0xE6 to 0xE8, and the completion of an engine's
operation (spec/17 R388 to R390, R393 to R395; spec/06 R142 to R144). -/
namespace Sys2Proof.Machine

/-! ### Copies: issue -/

/-- Scope in bits 11:9 (2 to 5), the rest zero. -/
def copyScope (q : BitVec 12) : Nat := bits q 11 9
def copyQ (q : BitVec 12) : Bool := q &&& 0x1FF == 0 && decide (2 ≤ copyScope q) && decide (copyScope q ≤ 5)

/-- The operation starts, or is complete at once when it has no byte. -/
def State.startCopy (s : State) (w : Wg) (dst src : W64) (len rows : Nat) (ds ss : W64) (scope : Nat) : State :=
  let op := s.ck.nextId
  let s := s.startOp op w (.cpy dst src len rows ds ss scope 0)
  if len * rows = 0 then s.completeOp w.id op 0 none scope else s

def cpyOp (s : State) (f : Fields) : Once where
  sig := { var := f.var == 0, q := copyQ f.q, dst := .handle, a := .pr, b := .pr, c := .u, unit := 4 }
  dec := fun cx i _ _ v =>
    if 2 ^ 31 ≤ (lo32 v.c).toNat then .trap 3 (slotVal cx.g 4)
    else if issueHolds s cx i then .hold []
    else .ok
  own := fun _ _ l f _ => newHandle s.ck.nextId l f
  act := fun cx _ _ f v s => s.startCopy cx.w v.a v.b (lo32 v.c).toNat 1 0 0 (copyScope f.q)
/-- CPY (R388). -/
def execCpy (f : Fields) (s : State) : Out := onceExec (cpyOp s f) f s

/-- The scalars of C: row length, rows, strides (R389). -/
def quadWord (cx : Cx) (i : Nat) (f : Fields) (k : Nat) : W32 :=
  match f.c with
  | .s n => (cx.scalar i (n.val + k)).val
  | _ => 0

def quadSrcs (f : Fields) : List (Operand × Bool × Bool) :=
  match f.c with
  | .s n => [(.s n, true, f.tc), (.s (Fin.ofNat 192 (n.val + 2)), true, f.tc)]
  | _ => []

/-- A poisoned scalar of the quad. -/
def quadPoison (cx : Cx) (i : Nat) (f : Fields) : Bool :=
  match f.c with
  | .s n => (List.range 4).any fun k => (cx.scalar i (n.val + k)).poison
  | _ => false

def cpy2dOp (s : State) (f : Fields) : Once where
  sig := { var := f.var == 0, q := copyQ f.q, dst := .handle, a := .pr, b := .pr, c := .quad, unit := 4 }
  more := quadSrcs
  dec := fun cx i _ f _ =>
    if 2 ^ 31 ≤ (quadWord cx i f 0).toNat * (quadWord cx i f 1).toNat then .trap 3 (slotVal cx.g 4)
    else if issueHolds s cx i then .hold []
    else if quadPoison cx i f then .trap 13 (f.c.toByte.zeroExtend 64)
    else .ok
  own := fun _ _ l f _ => newHandle s.ck.nextId l f
  act := fun cx i _ f v s => s.startCopy cx.w v.a v.b (quadWord cx i f 0).toNat (quadWord cx i f 1).toNat
    (sx (quadWord cx i f 2)) (sx (quadWord cx i f 3)) (copyScope f.q)
/-- CPY2D (R389). -/
def execCpy2d (f : Fields) (s : State) : Out := onceExec (cpy2dOp s f) f s

/-! ### Copies: progress -/

/-- The 64 KiB pieces of a range of addresses, as base and length. -/
def piecesOf (a : W64) (n : Nat) : List (W64 × Nat) :=
  let off := a.toNat % 65536
  (List.range ((off + n + 65535) / 65536)).map fun k =>
    let lo := max off (k * 65536)
    (a + BitVec.ofNat 64 (lo - off), min (off + n) ((k + 1) * 65536) - lo)

/-- The rows of one side of a copy, in pieces. -/
def copyPieces (base : W64) (len rows : Nat) (stride : W64) : List (W64 × Nat) :=
  (List.range rows).flatMap fun r => piecesOf (base + BitVec.ofNat 64 r * stride) len

/-- How many pieces of a side, reached by its kind of access, hold the byte at a location. -/
def piecesAt (ms : MemSys) (sp : Space) (k : Access) (ps : List (W64 × Nat)) (loc : Nat) : Nat :=
  (ps.filter fun p => match walkOutcome ms sp p.1 k with
    | .ok l => decide (l ≤ loc) && decide (loc < l + p.2)
    | _ => false).length

/-- The lowest address of a copy that violates (R34, R388). -/
def copyOffence (ms : MemSys) (sp : Space) (src dst : List (W64 × Nat)) : Option W64 :=
  let bad := (src.filter fun p => walkOutcome ms sp p.1 .read == .viol) ++ (dst.filter fun p => walkOutcome ms sp p.1 .write == .viol)
  (bad.map (·.1)).foldl (fun m a => match m with
    | none => some a
    | some x => some (if a.toNat < x.toNat then a else x)) none

/-- A byte whose value the copy leaves undefined (R390): also a source byte, or written by two rows. -/
def copyUndefined (ms : MemSys) (sp : Space) (src dst : List (W64 × Nat)) (loc : Nat) : Bool :=
  0 < piecesAt ms sp .read src loc || 1 < piecesAt ms sp .write dst loc

/-- Source bytes within one sector, in one access. -/
def State.copyPart (s : State) (core : Nat) (sp : Space) (a : W64) (n : Nat) : State × Except (Got × W64) (List (Nat × Bool)) :=
  match s.engineRead core 0 sp a n with
  | (s, .val v p) => (s, .ok ((bytesLE n v).map fun b => (b.toNat, p)))
  | (s, g) => (s, .error (g, a))

/-- Up to 32 source bytes, sector by sector. -/
def State.copyBytes (s : State) (core : Nat) (sp : Space) (a : W64) (n : Nat) : State × Except (Got × W64) (List (Nat × Bool)) :=
  let k := 32 - a.toNat % 32
  if n ≤ k then s.copyPart core sp a n
  else match s.copyPart core sp a k with
    | (s, .ok x) =>
      (match s.copyPart core sp (a + BitVec.ofNat 64 k) (n - k) with
       | (s, .ok y) => (s, .ok (x ++ y))
       | r => r)
    | r => r

/-- A value of little-endian bytes. -/
def natOfBytes : List (Nat × Bool) → Nat
  | [] => 0
  | b :: l => b.1 + 256 * natOfBytes l

/-- Defined bytes of one destination sector, written one by one. -/
def State.copyPut (s : State) (core loc : Nat) (undef : Nat → Bool) : Nat → List (Nat × Bool) → State
  | _, [] => s
  | i, b :: l =>
    let s := if undef (loc + i) then s else ((s.evictSector core (sectorOf loc)).homeStore (loc + i) 1 b.1 b.2)
    s.copyPut core loc undef (i + 1) l

/-- The undefined bytes among the first `n` of a copy get free values. -/
def State.copyFree (s : State) (core : Nat) (sp : Space) (dst src : W64) (len rows : Nat) (ds ss : W64) (n : Nat) : State :=
  let sp1 := copyPieces src len rows ss
  let dp := copyPieces dst len rows ds
  (List.range n).foldl (fun s k =>
    match walkOutcome s.ms sp (dst + BitVec.ofNat 64 (k / len) * ds + BitVec.ofNat 64 (k % len)) .write with
    | .ok loc =>
      if copyUndefined s.ms sp sp1 dp loc then
        ((s.evictSector core (sectorOf loc)).homeStore loc 1 ((freeWord s.ck.free 0).toNat % 256) false).tickFree
      else s
    | _ => s) s

/-- Host memory has what was written at `.sys` (R142, R150). -/
def State.performAt (s : State) (scope : Nat) : State := if scope = 5 then s.modMs (·.cleanHosts) else s

/-- A copy ends: the bytes it leaves undefined, then its handle. -/
def State.endCopy (s : State) (o : EngineOp) (dst src : W64) (len rows : Nat) (ds ss : W64) (scope done : Nat) (v : W32)
    (err : Option ErrMark) : State :=
  let sp := State.mergeBatch.spaceOf s o
  ((s.copyFree o.core sp dst src len rows ds ss done).performAt scope).completeOp o.wg o.id v err scope

/-- A copy advances by the bytes of one destination sector, in ascending row and byte order (R388). -/
def State.copyStep (s : State) (o : EngineOp) (dst src : W64) (len rows : Nat) (ds ss : W64) (scope done : Nat) : State :=
  let sp := State.mergeBatch.spaceOf s o
  let r := done / len
  let d := dst + BitVec.ofNat 64 r * ds + BitVec.ofNat 64 (done % len)
  let a := src + BitVec.ofNat 64 r * ss + BitVec.ofNat 64 (done % len)
  let n := min (len - done % len) (32 - d.toNat % 32)
  let srcs := copyPieces src len rows ss
  let dsts := copyPieces dst len rows ds
  let stop := fun (s : State) (g : Got) (x : W64) =>
    match g with
    | .wait => s
    | .poison e => s.endCopy o dst src len rows ds ss scope done (BitVec.ofNat 32 done) (some { cause := 13, tval := BitVec.ofNat 64 e })
    | _ => s.endCopy o dst src len rows ds ss scope done (BitVec.ofNat 32 done)
             (some { cause := 8, tval := (copyOffence s.ms sp srcs dsts).getD x })
  match s.copyBytes o.core sp a n with
  | (s, .error g) => stop s g.1 g.2
  | (s, .ok bs) =>
    match s.agent (engineUnit o.core) sp d .write (fun s loc => (s, .val loc false)) with
    | (s, .val loc _) =>
      let undef := copyUndefined s.ms sp srcs dsts
      let s :=
        if (List.range n).any fun i => undef (loc + i) then s.copyPut o.core loc undef 0 bs
        else (s.evictSector o.core (sectorOf loc)).homeStore loc n (natOfBytes bs) (bs.any (·.2))
      if done + n = len * rows then
        s.endCopy o dst src len rows ds ss scope (done + n) (BitVec.ofNat 32 (done + n)) none
      else s.setKind o.id (.cpy dst src len rows ds ss scope (done + n))
    | (s, g) => stop s g d

/-! ### A KDRAIN's records -/

/-- The records are written from an address on; what is held is written again. -/
def State.drainRecords (s : State) (o : EngineOp) (addr : W64) (recs : List Rec) (scope : Nat) : State :=
  match s.enginePuts o.core (State.mergeBatch.spaceOf s o) addr (recs.flatMap fun r => [(r.1, r.2.2), (r.2.1, r.2.2)]) with
  | (s, .wait, _) => s
  | (s, g, a) => (s.performAt scope).completeOp o.wg o.id (BitVec.ofNat 32 recs.length) (g.err a) scope

/-! ### Reading a handle (R393 to R395) -/

def sigHandleRead (f : Fields) (d : DRole) (ta : Bool) : Sig :=
  { var := f.var == 0, q := f.q == 0, dst := d, a := .handle, ta := ta, unit := 4 }

def handleVal (l : Lane) (o : Operand) : W64 :=
  match o with
  | .h n => zx (l.handle n.val).val
  | _ => 0

def fwaitSpec (f : Fields) : LaneSpec where
  sig := sigHandleRead f (.vz false) true
  more := fun f => [(f.a, false, f.ta)]
  body := fun cx _ l f _ => write cx l f.dst false (handleVal l f.a) false 0
/-- FWAIT (R393). -/
def execFwait (f : Fields) (s : State) : Out := laneExec (fwaitSpec f) f s

/-- A full handle is read: its error trap, or its acquire and what follows. -/
def readHandle (l : Lane) (o : Operand) (k : Lane → LOut) : LOut :=
  match srcMark l o false with
  | some (m, eng) => .trap (srcUnmark l o false) m.cause m.tval eng
  | none => (k (srcDone l o false)).addFx (readAcq [{ i := 0, l, o, wide := false, trap := false, nth := 0 }] 0)

/-- The handle is empty. -/
def handleEmpty (l : Lane) (o : Operand) : Bool :=
  match o with
  | .h n => !(l.handle n.val).full
  | _ => false

def ftestSpec (f : Fields) : LaneSpec where
  sig := sigHandleRead f .pred false
  body := fun cx _ l f _ =>
    if handleEmpty l f.a then write cx l f.dst false 0 false 0
    else readHandle l f.a fun l => write cx l f.dst false 1 false 0
/-- FTEST (R394). -/
def execFtest (f : Fields) (s : State) : Out := laneExec (ftestSpec f) f s

/-- Groups of a link that point toward an end and carry. -/
def Link.toward (k : Link) (up : Bool) : Nat :=
  (k.groups.filter fun g => g.up == up && g.turning.isNone && !g.retired && !g.recal).length

/-- The value of Table 5-2. -/
def veerValue (cn cl : Bool) (got : Nat) : W32 :=
  BitVec.ofNat 32 ((if cn then 2 ^ 31 else 0) + (if cl then 2 ^ 30 else 0) + got % 32)

def State.modLink (s : State) (k : Nat) (f : Link → Link) : State := { s with net := { s.net with links := upd s.net.links k f } }
def State.link (s : State) (k : Nat) : Link := s.net.links.getD k { groups := [] }

/-- A queued VEER is removed (R111). -/
def State.cancelVeer (s : State) (wg op link : Nat) : State :=
  match (s.link link).reqs.find? (·.op == op) with
  | some r => (s.modLink link fun k => { k with reqs := k.reqs.filter (·.op != op) }).completeOp wg op
      (veerValue true false ((s.link link).toward r.up)) none 0
  | none => s

/-- FCANCEL's request to the engine (R395): a copy stops, a queued VEER is removed, a KMERGE stops before its next batch;
nothing else is cancelled. -/
def State.cancelOp (s : State) (op : Nat) : State :=
  match s.ex.ops.find? (·.id == op) with
  | none => s
  | some o =>
    match o.kind with
    | .cpy dst src len rows ds ss scope done =>
      s.endCopy o dst src len rows ds ss scope done (BitVec.ofNat 32 (2 ^ 31 + done)) none
    | .veer link => s.cancelVeer o.wg op link
    | .kmerge t ring addr _ done start owed =>
      let s := s.ringGone o.wg t
      if owed || s.ex.ringWrites.any (·.merge == op) then s.setKind op (.kmerge t ring addr (some done) done start owed)
      else s.completeOp o.wg op (BitVec.ofNat 32 done) none 4
    | _ => s

def fcancelSpec (f : Fields) : LaneSpec where
  sig := sigHandleRead f (.vz false) false
  body := fun cx _ l f _ =>
    if handleEmpty l f.a then
      match f.a with
      | .h n => if l.helper then .stay l else .wait l [.act fun s => s.cancelOp (l.handle n.val).op]
      | _ => .stay l
    else readHandle l f.a fun l => write cx l f.dst false (handleVal l f.a) false 0
/-- FCANCEL (R395). -/
def execFcancel (f : Fields) (s : State) : Out := laneExec (fcancelSpec f) f s

/-! ### ENGINE_OPERATION_COMPLETE -/

/-- The head of a slot's queue, when it is a save or a load of this operation. -/
def State.itrOp (s : State) (wg slot op : Nat) : Out :=
  match ((s.wg? wg).bind fun w => (w.itrSlot slot).queue.head?) with
  | some (.save _ o) => if o = op then execIteratorPullCommit wg slot s else .next s
  | some (.load _ o _ _) => if o = op then execIteratorPullCommit wg slot s else .next s
  | _ => .next s

/-- ENGINE_OPERATION_COMPLETE (R142): an operation takes its next step, and its handle becomes full with the last one. A
copy advances sector by sector; ring writes, merges, turns, tiles and checkpoints have events of their own. -/
def execEngineOperationComplete (op : Nat) (s : State) : Out :=
  match s.ex.ops.find? (·.id == op) with
  | none => .next (s.slotOpOf op)
  | some o =>
    match o.kind with
    | .cpy dst src len rows ds ss scope done =>
      .next (s.blame o.wg (s.copyStep o dst src len rows ds ss scope done))
    | .kdrain addr recs scope => .next (s.blame o.wg (s.drainRecords o addr recs scope))
    | .itr slot => s.itrOp o.wg slot op
    | _ => .next s

end Sys2Proof.Machine
end

