-- ==== Sys2Proof/Machine/Tiles.lean ====
section
/-! DEFINITION. Stash tiles: opcodes 0x96 to 0x9A (spec/15 R346 to R351, spec/03 R52 to R57), and their events. -/
namespace Sys2Proof.Machine

/-! ### Instructions -/

/-- A claimed tile of the workgroup. -/
def Wg.tile? (w : Wg) (idx : Nat) : Option Tile := w.tiles.find? fun t => t.idx == idx && !t.freeing

/-- The tile index of B (R346). -/
def tileIdx (v : Vals) : Nat := (lo32 v.b).toNat

/-- An index below the kernel's `.tiles` (R346). -/
def tileInRange (s : State) (cx : Cx) (v : Vals) : Bool := decide (tileIdx v < (s.nodeOf cx.w).launch.tiles)

def badOperand (cx : Cx) : Dec := .trap 3 (slotVal cx.g 4)

/-- Another claimed or freed tile of the core mirrors the block, by this address or another of it, or the index is still being
released (R347, R351). -/
def State.blockHeld (s : State) (w : Wg) (idx : Nat) (a : W64) : Bool :=
  (s.tileAt w a).isSome || ((s.ms.locOf (s.space w) a).any fun loc => (s.tileOn w.core loc).isSome)
    || w.tiles.any fun t => t.idx == idx && t.freeing

/-- A lane has marked that its unissued TCLAIM of an index waits; no tile has such a number. -/
def Lane.claims (l : Lane) (wg idx : Nat) : Bool := l.atTile.contains (wg, 256 + idx)

/-- A TCLAIM that begins to wait is counted, once for its gang (R347). -/
def State.claimWaits (s : State) (g : Gang) (core i idx : Nat) : State :=
  let known := (s.wg? g.wg).any fun w => g.lanes.any fun j => (w.lane j).claims g.wg idx
  (if known then s else s.modCore core fun c => { c with claimWaits := c.claimWaits + 1 }).modWg g.wg
    (·.modLane i fun l => if l.claims g.wg idx then l else { l with atTile := (g.wg, 256 + idx) :: l.atTile })

/-- The L1 copies of a frame in a core are cleaned and dropped (Table 3-2, R56). -/
def State.dropFrame (s : State) (core loc : Nat) : State :=
  (s.ms.l1.filter fun x => x.core == core && decide (loc ≤ x.loc) && decide (x.loc < loc + 4096)).foldl
    (fun s x => s.evictSector x.core x.loc) s

/-- Those of a block, if it has a frame. -/
def State.dropBlock (s : State) (w : Wg) (a : W64) : State := ((s.ms.locOf (s.space w) a).map (s.dropFrame w.core)).getD s

def tclaimOp (s : State) (f : Fields) : Once where
  sig := { var := f.var == 0, q := f.q == 0, a := .pr, b := .u, unit := 3 }
  dec := fun cx i _ _ v =>
    if !tileInRange s cx v || (cx.w.tile? (tileIdx v)).isSome then badOperand cx
    else if v.a.toNat % 4096 ≠ 0 then .trap 9 v.a
    else if bits v.a 63 52 != 0 then .trap 8 v.a
    else if s.blockHeld cx.w (tileIdx v) v.a then
      .wait [.act fun s => s.claimWaits cx.g cx.w.core i (tileIdx v)]
    else .ok
  act := fun cx _ _ _ v s => (s.dropBlock cx.w v.a).modWg cx.w.id fun w =>
    { w with tiles := w.tiles ++ [{ idx := tileIdx v, vpage := v.a }] }
/-- TCLAIM (R347). -/
def execTclaim (f : Fields) (s : State) : Out := onceExec (tclaimOp s f) f s

/-- A tile instruction takes its place in the tile's order, and acts when its turn comes (R346). -/
def State.tileEnqueue (s : State) (wg idx kind op : Nat) (tval : W64) : State :=
  (s.modTile wg idx fun t => { t with queue := t.queue ++ [{ kind, op, ahead := t.waiters, tval }] }).tileTurn wg idx 64

/-- TFILL, TDRAIN and TFREE need a claimed index at their issue. -/
def claimedDec (s : State) (cx : Cx) (v : Vals) : Dec :=
  if !tileInRange s cx v || (cx.w.tile? (tileIdx v)).isNone then badOperand cx else .ok

def tfillOp (s : State) (f : Fields) : Once where
  sig := { var := f.var == 0, q := f.q == 0, dst := .handle, b := .u, unit := 3 }
  dec := fun cx i _ _ v =>
    match claimedDec s cx v with
    | .ok => if issueHolds s cx i then .wait [] else .ok
    | d => d
  own := fun _ _ l f _ => newHandle s.ck.nextId l f
  act := fun cx _ _ _ v s => (s.startOp s.ck.nextId cx.w (.tfill (tileIdx v))).tileEnqueue cx.w.id (tileIdx v) 0 s.ck.nextId (slotVal cx.g 4)
/-- TFILL (R348). -/
def execTfill (f : Fields) (s : State) : Out := onceExec (tfillOp s f) f s

def tdrainOp (s : State) (f : Fields) : Once where
  sig := { var := f.var == 0, q := f.q == 0, dst := .handle, b := .u, unit := 3 }
  dec := fun cx i _ _ v =>
    match claimedDec s cx v with
    | .ok => if issueHolds s cx i then .wait [] else .ok
    | d => d
  own := fun _ _ l f _ => newHandle s.ck.nextId l f
  act := fun cx _ _ _ v s => (s.startOp s.ck.nextId cx.w (.tdrain (tileIdx v))).tileEnqueue cx.w.id (tileIdx v) 1 s.ck.nextId (slotVal cx.g 4)
/-- TDRAIN (R349). -/
def execTdrain (f : Fields) (s : State) : Out := onceExec (tdrainOp s f) f s

def tfreeOp (s : State) (f : Fields) : Once where
  sig := { var := f.var == 0, q := f.q == 0, b := .u, unit := 3 }
  dec := fun cx _ _ _ v => claimedDec s cx v
  act := fun cx _ _ _ v s => s.tileEnqueue cx.w.id (tileIdx v) 2 0 0
/-- TFREE (R351). -/
def execTfree (f : Fields) (s : State) : Out := onceExec (tfreeOp s f) f s

/-- A tile-table entry (Table 3-1). -/
def tileEntry (t : Tile) : W64 :=
  BitVec.ofNat 64 ((match t.state with | .empty => 0 | .filling => 1 | .ready => 2 | .draining => 3) * 2 ^ 62
    + (if t.dirty.isEmpty then 0 else 2 ^ 61) + (if t.owned = 0 then 0 else 2 ^ 60) + (if t.poison = 0 then 0 else 2 ^ 59)
    + bits t.vpage 51 12 * 4096 + t.dirtySectors.length)

def tstatSpec (s : State) (f : Fields) : LaneSpec where
  sig := { var := f.var == 0, q := f.q == 0, dst := .dst true, b := .src false, unit := 3 }
  bad := fun cx i l f => (limitOf cx i l f.b).any (decide <| (s.nodeOf cx.w).launch.tiles ≤ ·)
  body := fun cx _ l f v =>
    if v.poison then .trap l 13 v.tag false
    else write cx l f.dst true (((cx.w.tile? (tileIdx v)).map tileEntry).getD 0) false 0
/-- TSTAT (R350). -/
def execTstat (f : Fields) (s : State) : Out := laneExec (tstatSpec s f) f s

/-! ### Events -/

/-- The contents of a block at its home, as a tile holds them. -/
def MemSys.blockBytes (ms : MemSys) (loc : Nat) : Memory :=
  (List.range 128).flatMap fun k =>
    ((List.range 32).zip (ms.homeBytes (loc + 32 * k))).filterMap fun x =>
      let a := 32 * k + x.1
      if x.2 = unlistedByte a then none else some (a, x.2)

def MemSys.blockPoison (ms : MemSys) (loc : Nat) : BitVec 128 :=
  (List.range 128).foldl (fun (m : BitVec 128) k => if ms.poisoned (loc + 32 * k) then m ||| 1#128 <<< k else m) 0

/-- An engine of a core reads every sector of a block (R69, R63, R38). -/
def State.recallBlock (s : State) (core loc : Nat) : State :=
  let s := (List.range 128).foldl (fun s k => s.openHome (loc + 32 * k)) s
  s.modMs (·.heatAdd loc (core / 16) 128)

/-- The fill of a tile from its frame: the core's L1 gives up what it holds of it (R56). A register page gives free bytes, and
counts a read for each sector (R194, R424, log entry 85). -/
def State.readBlock (s : State) (core loc : Nat) : State × Memory × BitVec 128 :=
  match s.ms.regPage loc with
  | some (g, off) =>
    ((List.range 128).foldl (fun s k => s.regTouch g (off + 32 * k) false) s, Memory.writeBytes [] 0 (s.regBytes 4096), 0)
  | none =>
    let s := (s.dropFrame core loc).recallBlock core loc
    (s, s.ms.blockBytes loc, s.ms.blockPoison loc)

/-- Lanes that wait at their instruction for a tile. -/
def State.waitersOf (s : State) (wg idx : Nat) (t : Tile) : List Nat := t.waiters.filter (s.stillWaits wg idx)

/-- A first-touch fill violates: the lanes that name the tile trap, each at its instruction (R55). -/
def State.touchTraps (s : State) (wg idx : Nat) (t : Tile) (cause : Nat) (tval : W64) : State :=
  ((s.waitersOf wg idx t).foldl (fun s k => s.takeTrap (k / 1024) (k % 1024) cause tval false false) s).modTile wg idx fun t =>
    { t with waiters := [] }

/-- TILE_FILL_COMPLETE (R53, R55): every sector has arrived, or the fill violates, or a page fault holds it. -/
def execTileFillComplete (wg idx : Nat) (s : State) : Out :=
  match (s.wg? wg).bind fun w => (w.tile? idx).map fun t => (w, t) with
  | none => .next s
  | some (w, t) =>
    if t.state != .filling then .next (s.tileTurn wg idx 64)
    else
      let r := s.xlateBy (engineUnit w.core) (s.space w) t.vpage .read
      let s := r.2
      match r.1 with
      | .ok loc =>
        let b := s.readBlock w.core loc
        let s := b.1.modTile wg idx fun t => { t with
          state := .ready, held := false, data := b.2.1, poison := b.2.2
          dirty := [], owned := 0, wchecked := false, fillOp := 0, refill := false }
        .next ((if t.fillOp = 0 then s else s.completeOp wg t.fillOp 0 none 2).tileTurn wg idx 64)
      | .fault => .next ((s.modMs (·.faultNote (s.space w).asid t.vpage)).modTile wg idx fun t => { t with held := true })
      | o =>
        let e : ErrMark := match o with
          | .poison a => { cause := 13, tval := BitVec.ofNat 64 a }
          | _ => { cause := 8, tval := t.vpage }
        let s := s.modTile wg idx fun t => { t with state := .empty, held := false, fillOp := 0, refill := false }
        .next ((if t.fillOp = 0 then s.touchTraps wg idx t e.cause e.tval else s.completeOp wg t.fillOp 0 (some e) 2).tileTurn wg idx 64)

/-- What a drain that could not be written leaves in its handle (R34). -/
def State.drainErr (s : State) (w : Wg) (t : Tile) : ErrMark :=
  match walkOutcome s.ms (s.space w) t.vpage .write with
  | .poison a => { cause := 13, tval := BitVec.ofNat 64 a }
  | _ => { cause := 8, tval := t.vpage }

/-- TILE_DRAIN_COMPLETE (R53, R349): the write-backs are acknowledged; a fill that asked for the drain follows. A recalled
line's write-back is acknowledged too, and the tile is READY again. A write-back that violates ends the TDRAIN, or the TFILL
that asked for it, with error status (R34, R55); the tile keeps its bytes. -/
def execTileDrainComplete (wg idx : Nat) (s : State) : Out :=
  match (s.wg? wg).bind fun w => (w.tile? idx).map fun t => (w, t) with
  | none => .next s
  | some (w, t) =>
    if t.state != .draining then .next (s.tileTurn wg idx 64)
    else if t.recalled && t.drainOp = 0 && !t.refill then
      .next ((s.modTile wg idx fun t => { t with state := .ready, recalled := false }).tileTurn wg idx 64)
    else if s.drainHeld w t then .next (if s.drainFaults w t then s.modMs (·.faultNote (s.space w).asid t.vpage) else s)
    else
      let n := t.dirtySectors.length
      let e := s.drainErr w t
      let r := s.drainTile w t
      let ends := fun (s : State) (op v : Nat) (e : Option ErrMark) => if op = 0 then s else s.completeOp wg op (BitVec.ofNat 32 v) e 4
      if r.2 then
        let s := r.1.modTile wg idx fun t =>
          { t.cleaned with state := if t.refill then .filling else .ready, drainOp := 0, recalled := false }
        .next ((ends s t.drainOp n none).tileTurn wg idx 64)
      else
        let s := r.1.modTile wg idx fun t => { t with state := .ready, drainOp := 0, fillOp := 0, refill := false, recalled := false }
        .next ((ends (ends s t.drainOp 0 (some e)) t.fillOp 0 (some e)).tileTurn wg idx 64)

/-- TILE_RELEASE (R351): a freed tile's write-backs are acknowledged and its entry is released. -/
def execTileRelease (wg idx : Nat) (s : State) : Out :=
  match s.wg? wg with
  | none => .next s
  | some w =>
    match w.tiles.find? fun t => t.idx == idx && t.freeing with
    | none => .next s
    | some t =>
      if s.drainHeld w t then .next (if s.drainFaults w t then s.modMs (·.faultNote (s.space w).asid t.vpage) else s)
      else .next ((s.drainTile w t).1.modWg wg fun w => { w with tiles := w.tiles.filter fun t => !(t.idx == idx && t.freeing) })

end Sys2Proof.Machine
end

