-- ==== Sys2Proof/Machine/Image.lean ====
section
/-! DEFINITION. The image of a saved workgroup: header, directory and sections (spec/18 R418, Tables 18-9, 18-10). -/
namespace Sys2Proof.Machine

def le (n x : Nat) : List Byte := bytesLE n x

/-- A bitmap of `n` bytes, bit i for the i-th Bool. -/
def bitmap (n : Nat) (bs : List Bool) : List Byte :=
  bytesLE n (bs.foldr (fun b k => 2 * k + (if b then 1 else 0)) 0)

def b01 (b : Bool) (n : Nat) : Nat := if b then 2 ^ n else 0

/-- A lane that stands at an unissued instruction inside a clause. -/
def Lane.unissued (l : Lane) : Bool := !l.exited && !l.helper && (l.pc != l.clause || l.rep != 0 || l.since.isSome)

/-- Handle status: full, error mark, operation pending. -/
def HReg.status (x : HReg) : Nat := b01 x.full 0 + b01 x.err.isSome 1 + b01 (!x.full && x.op != 0) 2

/-- A lane's 384 bytes (Table 18-10). -/
def Lane.image (l : Lane) : List Byte :=
  l.v.flatMap (fun r => le 4 r.val.toNat) ++ bitmap 8 (l.v.map (·.full)) ++ bitmap 8 (l.v.map (·.poison))
    ++ le 8 l.pc.toNat ++ le 4 l.d ++ le 4 l.lo ++ l.h.flatMap (fun x => le 4 x.val.toNat) ++ l.h.flatMap (fun x => le 1 x.status)
    ++ le 8 ((l.p.toNat % 128) + b01 l.exited 8 + b01 l.helper 9 + l.nopre % 16 * 2 ^ 10 + b01 l.unissued 14)
    ++ [l.tcause, l.tval, l.tpc, l.tstatus, l.tbase, l.tsave].flatMap fun w => le 8 w.toNat

/-- A group's 832 bytes. -/
def Group.image (g : Group) : List Byte :=
  g.s.flatMap (fun r => le 4 r.val.toNat) ++ bitmap 24 (g.s.map (·.full)) ++ bitmap 24 (g.s.map (·.poison)) ++ List.replicate 16 0

def CvReg.image (r : CvReg) : List Byte := le 8 r.decl.toNat ++ le 8 r.signed.toNat ++ le 8 r.word2.toNat

/-- A barrier's 264 bytes: the bitmaps hold this workgroup's lanes. -/
def Barrier.image (b : Barrier) (wg idx : Nat) (tree : Bool) : List Byte :=
  le 2 b.reload ++ le 2 (if tree then 0 else b.remaining) ++ le 2 idx ++ le 2 0
    ++ bitmap 128 ((List.range 1024).map fun i => b.reg.contains (barKey wg i))
    ++ bitmap 128 ((List.range 1024).map fun i => b.outstanding.contains (barKey wg i))

/-- Bindings and queues; an unbound send register is all ones (log entry 21). -/
def Wg.queueImage (w : Wg) : List Byte :=
  (w.qtx.flatMap fun x => match x with
    | some (core, q) => le 4 core ++ le 4 q
    | none => le 4 (2 ^ 32 - 1) ++ le 4 (2 ^ 32 - 1))
    ++ w.qrx.flatMap fun q => le 4 q.length ++ ((List.range 32).flatMap fun i => le 4 ((q.getD i 0).toNat))

/-- A table: its entries in the order in which the table came by them (DESIGN CHOICE, log entry 103: the manual drains the
table into the area and gives the section no order). -/
def DTable.image (t : DTable) : List Byte :=
  le 8 t.cfg.toNat ++ le 8 t.ring.toNat ++ le 8 t.entries.length ++ ((List.range 8).flatMap fun n => le 8 (t.counter n).toNat)
    ++ le 8 0 ++ t.entries.flatMap fun e =>
      le 8 e.key.toNat ++ le 8 e.val.toNat ++ le 2 e.set ++ le 1 e.way ++ le 1 0 ++ le 2 e.stateWord.toNat ++ le 2 0

def Tile.image (t : Tile) : List Byte :=
  let ready := t.state == .ready
  le 2 t.idx ++ le 2 (if ready then 2 else 0) ++ le 4 0 ++ le 8 (bits t.vpage 51 12 * 4096) ++ (if ready then t.bytes 0 4096 else [])

/-- A pending pull's 144 bytes, with DST and D2 as the instruction encodes them. -/
def pullImage (slot order : Nat) (recv : List PullLane) (pred : Nat) (dst d2 : BitVec 8) : List Byte :=
  le 1 slot ++ le 1 order ++ [dst, d2] ++ le 1 pred ++ le 1 recv.length ++ le 2 0
    ++ ((List.range 64).flatMap fun i => le 2 ((recv[i]?.map fun p => p.lane).getD 0)) ++ le 8 0

/-- Pending pulls of a slot, in its arrival order. -/
def ItrSlot.pulls (x : ItrSlot) (slot : Nat) : Nat → List ItrOp → List Byte
  | _, [] => []
  | k, .pull recv _ pred dst d2 :: l => pullImage slot k recv pred dst d2 ++ x.pulls slot (k + 1) l
  | k, _ :: l => x.pulls slot k l

def Wg.itrImage (w : Wg) : List Byte :=
  w.itr.flatMap (fun x => x.image.flatMap fun v => le 8 v.toNat)
    ++ (List.range 8).flatMap fun k => (w.itrSlot k).pulls k 0 (w.itrSlot k).queue

/-- Pack 4-bit codes two to a byte. -/
def nibbles : List Nat → List Byte
  | a :: b :: l => BitVec.ofNat 8 (a % 16 + b % 16 * 16) :: nibbles l
  | [a] => [BitVec.ofNat 8 (a % 16)]
  | [] => []

/-- The elements of a captured block. -/
def elemsImage (es : List MxElem) : List Byte :=
  le 4 es.length ++ es.flatMap fun e => le 1 e.row ++ le 1 e.k ++ le 2 e.bits.toNat ++ le 1 (b01 e.poison 0)

/-- Status, base and stride, 16 KiB of FIX, tags, poison bits and the A latch of a bound slot. -/
def MxSlot.image (t : MxSlot) : List Byte :=
  let cells := (List.range 64).flatMap fun i => (List.range 64).map fun j => t.at i j
  le 8 t.status.toNat ++ le 8 t.base.toNat ++ le 8 t.stride.toNat ++ cells.flatMap (fun a => le 4 a.fix.toNat)
    ++ nibbles (cells.map (·.tag)) ++ bitmap 512 (cells.map (·.poison))
    ++ (match t.hold with
      | some h => le 2 h.areg ++ le 2 h.nb ++ le 4 h.afmt ++ elemsImage h.elems
      | none => le 8 0)

/-- A weight descriptor. -/
def WDesc.image (d : WDesc) : List Byte := le 8 (2 ^ 63 + b01 d.tile 62 + b01 d.west 61) ++ le 8 d.addr.toNat ++ le 8 d.srec.toNat

/-- A descriptor, or its place. -/
def wdescImage (d : Option WDesc) : List Byte := (d.map WDesc.image).getD (List.replicate 24 0)

/-- Where a pending result goes. -/
def Dest.image : Dest → List Byte
  | .none => le 4 0
  | .v es => le 1 1 ++ le 1 es.length ++ le 2 (es.headD 0)
  | .s grp n wide => le 1 (2 + b01 wide 7) ++ le 1 n ++ le 2 grp
  | .p n => le 1 3 ++ le 1 n ++ le 2 0
  | .q idx rq => le 1 4 ++ le 1 rq ++ le 2 idx

/-- What is to be known of a pending step to go on with it: of an MXMULT also the chunk at which it resumes, and the count
(R211). -/
def MxStep.image : MxStep → List Byte
  | .ldw op d => le 8 0 ++ le 8 op ++ d.image
  | .mul op slot rowq nb areg hold brec latched es =>
    le 8 1 ++ le 8 op ++ [slot, rowq, nb, areg].flatMap (le 1) ++ le 4 (b01 hold 0 + b01 latched 1) ++ le 8 brec.toNat ++ elemsImage es
  | .mult op slot rowq nb next count west wt atl wrec arec spills err =>
    le 8 2 ++ le 8 op ++ [slot, rowq, nb, 0].flatMap (le 1) ++ le 4 next ++ le 4 count ++ le 4 (b01 west 0 + b01 err.isSome 1)
      ++ le 4 wt ++ le 4 atl ++ le 8 wrec.toNat ++ le 8 arec.toNat ++ le 8 spills
      ++ ((err.map fun e => le 8 e.cause ++ le 8 e.tval.toNat).getD [])
  | .zero op slot scope ebase base stride =>
    le 8 3 ++ le 8 op ++ le 1 slot ++ le 1 scope ++ [ebase] ++ le 1 (b01 base.isSome 0) ++ le 4 stride.toNat ++ le 8 (base.getD 0).toNat
  | .prom op slot first last => le 8 4 ++ le 8 op ++ [slot, first, last, 0].flatMap (le 1) ++ le 4 0
  | .rd op slot lane dst row col fp => le 8 5 ++ le 8 op ++ le 2 slot ++ le 2 lane ++ dst.image ++ le 2 row ++ le 2 col ++ le 4 (b01 fp 0)

/-- The weight descriptors, issued and in force; the bound slots; and the pending steps in issue order with their handles (log
entry 21). -/
def MxQuarter.image (q : MxQuarter) : List Byte :=
  wdescImage q.wdesc ++ wdescImage q.inForce
    ++ q.slots.flatMap (fun t => match t with | some t => t.image | none => le 8 0)
    ++ q.steps.flatMap fun x => le 8 x.seq ++ le 8 x.tval.toNat ++ x.step.image

/-- Unissued instructions and handles that wait for an operation: lane, handle (0xFF: none), pc. -/
def Wg.pendingImage (w : Wg) : List Byte :=
  (List.range w.lanes.length).flatMap fun i =>
    let l := w.lane i
    (if l.unissued then le 2 i ++ le 1 255 ++ le 5 0 ++ le 8 l.pc.toNat else [])
      ++ (List.range 8).flatMap fun n =>
        if !(l.handle n).full then le 2 i ++ le 1 n ++ le 5 0 ++ le 8 l.pc.toNat else []

/-- Sections behind their directory, from byte 144 on. -/
def sectionDir : Nat → List (List Byte) → List Byte
  | _, [] => []
  | off, x :: xs => le 4 off ++ le 4 x.length ++ sectionDir (off + x.length) xs

def shapeCode (width : Nat) : Nat := if width = 8 then 0 else if width = 16 then 1 else if width = 32 then 2 else 3

/-- The ten sections of Table 18-9. -/
def State.saveSections (s : State) (w : Wg) : List (List Byte) :=
  let trees := ((s.node? w.node).map (·.trees)).getD []
  [w.lanes.flatMap Lane.image, w.groups.flatMap Group.image, w.cv.flatMap CvReg.image,
   ((List.range 16).flatMap fun i => (w.bars.getD i {}).image w.id i false)
     ++ (trees.flatMap fun i => (s.net.trees.getD i {}).image w.id i true),
   w.queueImage,
   w.drift.flatMap (fun t => match t with | some t => t.image | none => []),
   w.tiles.flatMap Tile.image, w.itrImage, w.mx.flatMap MxQuarter.image, w.pendingImage]

/-- The save area: header, directory, sections; DONE is set (R418). -/
def State.saveImage (s : State) (w : Wg) : List Byte :=
  let p := s.launch w
  let secs := s.saveSections w
  le 8 (2 ^ 56 + (w.n - 1) % 1024 * 2 ^ 46 + shapeCode w.width * 2 ^ 44)
    ++ le 8 (p.tag.toNat * 2 ^ 48 + w.cls % 4 * 2 ^ 24 + w.index % 2 ^ 24) ++ le 8 1 ++ List.replicate 40 0
    ++ sectionDir 144 secs ++ secs.flatten

/-- DONE of a save area. -/
def areaDone (a : List Byte) : Bool := (a.getD 16 0).getLsbD 0

/-! ### The save area in memory (R418) -/

/-- The words of some bytes, the last filled up with zeros. -/
def wordsOf : Nat → List Byte → List W64
  | 0, _ => []
  | n + 1, bs => BitVec.ofNat 64 (natLE (bs.take 8)) :: wordsOf n (bs.drop 8)

/-- An image is written where the module OS has allotted its area, DONE last and with a release at `.sys`. An area not allotted
is the module OS's own, beside device memory (log entry 22). -/
def State.putArea (s : State) (w : Wg) (img : List Byte) : State × Got :=
  match w.areaAt with
  | none => (s, .val 0 false)
  | some (asid, a) =>
    match s.hub.space asid with
    | none => (s, .viol)
    | some sp =>
      let body := (wordsOf ((img.length + 7) / 8) img).map fun x => (x, false)
      match s.agentPuts hubUnit sp a (body.set 2 (0, false)) with
      | (s, .val ..) =>
        let r := s.agentWrite hubUnit sp (a + 16) 8 1 false
        (r.1.modMs (·.cleanHosts), r.2)
      | r => r

/-- The image of a saved workgroup as it is now, in its area: an increment that ends after the save fills its handle there
(Table 18-8). -/
def State.fillArea (s : State) (wg : Nat) : State × Got :=
  match s.wg? wg with
  | none => (s, .val 0 false)
  | some w =>
    if w.place != .saved then (s, .val 0 false)
    else
      let img := s.saveImage w
      (s.modWg wg fun x => { x with area := img }).putArea w img

/-- What a restore finds in its area: DONE, or an error. -/
def State.readArea (s : State) (w : Wg) : State × Got :=
  match w.areaAt with
  | none => (s, .val (if areaDone w.area then 1 else 0) false)
  | some (asid, a) =>
    match s.hub.space asid with
    | none => (s, .viol)
    | some sp =>
      match s.agentWords hubUnit sp a ((w.area.length + 7) / 8) with
      | (s, .ok (ws, p)) => (s, .val ((ws.getD 2 0).toNat % 2) p)
      | (s, .error g) => (s, g)

end Sys2Proof.Machine
end

