-- ==== Sys2Proof/Machine/Links.lean ====
section
/-! DEFINITION. Vervo links: VEER and VEERQ (opcodes 0xE4, 0xE5), serving requests, turns, recalibration and failure
(spec/05 R103 to R115, spec/17 R391, R392). An event that is not enabled leaves the state. -/
namespace Sys2Proof.Machine

/-! ### Groups of a link -/

def Link.size (k : Link) : Nat := k.groups.length
def Link.retired (k : Link) : Nat := (k.groups.filter (·.retired)).length
def Link.recaling (k : Link) : Nat := (k.groups.filter fun g => g.recal && !g.retired).length
def Link.turningCount (k : Link) : Nat := (k.groups.filter fun g => g.turning.isSome && !g.retired && !g.recal).length

/-- Groups neither retired nor in recalibration. -/
def Link.avail (k : Link) : Nat := k.size - k.retired - k.recaling

/-- Groups that point toward an end, or turn toward it. -/
def Link.committed (k : Link) (up : Bool) : Nat := (k.groups.filter fun g => g.up == up && !g.retired && !g.recal).length

/-- A working group pointing toward an end. -/
def LaneGroup.points (g : LaneGroup) (up : Bool) : Bool := g.up == up && g.turning.isNone && !g.retired && !g.recal

/-- The rest of a group has passed (R106): 1 µs since the end of its last turn. -/
def LaneGroup.rested (g : LaneGroup) (now : Nat) : Bool := !g.turned || decide (g.lastTurn + 1000 ≤ now)

/-- When its rest began, for the order of picking: a group that never turned has rested longest. -/
def LaneGroup.restKey (g : LaneGroup) : Nat := if g.turned then g.lastTurn + 1 else 0

/-- Insertion by rest, longest first, lower number first among equals. -/
def insertRest (k : Link) (i : Nat) : List Nat → List Nat
  | [] => [i]
  | j :: l =>
    let a := ((k.groups[i]?).map LaneGroup.restKey).getD 0
    let b := ((k.groups[j]?).map LaneGroup.restKey).getD 0
    if a < b || (a == b && decide (i < j)) then i :: j :: l else j :: insertRest k i l

/-- Groups pointing toward an end, longest rested first. -/
def Link.byRest (k : Link) (up : Bool) : List Nat :=
  ((List.range k.size).filter fun i => ((k.groups[i]?).map fun g => g.points up).getD false).foldr (insertRest k) []

/-- The target a request in service aims at now: reduced so that two groups stay each way (R104, R109). -/
def Link.aim (k : Link) (v : VeerServe) : Nat := min v.target (k.avail - 2)

/-- The groups that a request in service has still to turn (R106). -/
def Link.picks (k : Link) : List Nat :=
  match k.serving with
  | none => []
  | some v =>
    let t := k.committed v.req.up
    let aim := k.aim v
    if t < aim then (k.byRest (!v.req.up)).take (aim - t)
    else (k.byRest v.req.up).take (t - aim)

def Link.modGroup (k : Link) (i : Nat) (f : LaneGroup → LaneGroup) : Link := { k with groups := upd k.groups i f }
def Link.group? (k : Link) (i : Nat) : Option LaneGroup := k.groups[i]?

/-- A turn begins: the group stops carrying, drains, and is dead for 18 ns (R106). -/
def LaneGroup.turn (g : LaneGroup) (now : Nat) : LaneGroup := { g with up := !g.up, turning := some (now + 18) }

/-! ### Serving (R109 to R111) -/

/-- The clamp of R109 on a link of G groups. -/
def veerClamp (g vsh greq : Nat) : Nat :=
  let c := min (max vsh (g / 2)) (g - 2)
  max (g - c) (min greq c)

/-- The service ends once no group has still to turn: the handle, then the hold. -/
def State.finishServe (s : State) (link : Nat) : State :=
  let k := s.link link
  match k.serving with
  | none => s
  | some v =>
    if !k.picks.isEmpty || k.turningCount != 0 then s
    else
      let got := k.toward v.req.up
      let live := (s.wg? v.req.wg).any fun w => match w.place with | .core _ => true | _ => false
      let s := s.modLink link fun k => { k with
        serving := none
        hold := if v.req.hold = 0 || !live then none else some (v.req.wg, v.req.cls, s.ck.now + v.req.hold) }
      s.completeOp v.req.wg v.req.op (veerValue false (v.cl || got != v.req.greq) got) none 0

/-- A request may be served: no hold, the holder's own, or a higher class. -/
def Link.mayServe (k : Link) (r : VeerReq) : Bool :=
  match k.hold with
  | none => true
  | some (wg, cls, _) => wg == r.wg || decide (cls < r.cls)

/-- VEER_REQUEST_SERVE (R110). -/
def execVeerRequestServe (link : Nat) (s : State) : Out :=
  let k := s.link link
  match k.reqs with
  | [] => .next s
  | r :: rest =>
    if k.serving.isSome || decide (k.size - k.retired < 4) || !k.mayServe r then .next s
    else
      let t := min (veerClamp k.size r.vsh r.greq) (k.avail - 2)
      let s := s.modLink link fun k => { k with reqs := rest, hold := none, serving := some { req := r, target := t, cl := t != r.greq } }
      .next (s.finishServe link)

/-- A request enters its link's queue: by class, then by arrival (R108). -/
def insertReq (r : VeerReq) : List VeerReq → List VeerReq
  | [] => [r]
  | x :: l => if x.cls < r.cls then r :: x :: l else x :: insertReq r l

def veerLink (f : Fields) : Nat := bits f.q 11 8
def veerEnd (f : Fields) : Bool := f.q.getLsbD 7

/-- The request of a VEER. VSH is the partition's field as it stands at the issue: the manual does not say whether a later
value counts for a request that still waits (DESIGN CHOICE, log entry 91). The hold selects no location and no resource: its
poison kills nobody (R461). -/
def veerOp (s : State) (f : Fields) : Once where
  sig := { var := f.var == 0, q := f.q &&& 3 == 0, dst := .handle, b := .u, limit := decide (veerLink f < 10), unit := 4 }
  dec := fun cx i _ f _ =>
    let k := s.link (veerLink f)
    if (!k.out && 16 ≤ k.reqs.length) || issueHolds s cx i then .hold [] else .ok
  bad := fun _ _ => false
  own := fun _ _ l f _ => newHandle s.ck.nextId l f
  act := fun cx _ _ f v s =>
    let op := s.ck.nextId
    let s := s.startOp op cx.w (.veer (veerLink f))
    if (s.link (veerLink f)).out then s.completeOp cx.w.id op (veerValue false true 0) none 0
    else
      let r : VeerReq := { wg := cx.w.id, cls := cx.w.cls, up := veerEnd f, greq := bits f.q 6 2, hold := min (lo32 v.b).toNat 100 * 1000
                           op, vsh := min (s.ms.parts.getD (s.space cx.w).part.toNat {}).vsh.toNat 24 }
      s.modLink (veerLink f) fun k => { k with reqs := insertReq r k.reqs }
/-- VEER (R391). -/
def execVeer (f : Fields) (s : State) : Out := onceExec (veerOp s f) f s

/-- The report of Table 5-3 for an end. -/
def veerReport (k : Link) (up : Bool) (now : Nat) : W64 :=
  let hold := match k.hold with
    | some (_, cls, t) => (t - now) / 1000 % 256 * 2 ^ 48 + cls % 4 * 2 ^ 46 + 2 ^ 45
    | none => 0
  BitVec.ofNat 64 (hold + k.reqs.length % 32 * 2 ^ 40 + k.toward up * 2 ^ 30 + k.toward (!up) * 2 ^ 25
    + k.turningCount * 2 ^ 20 + k.recaling * 2 ^ 15 + k.retired * 2 ^ 10)

def veerqSpec (s : State) (f : Fields) : LaneSpec where
  sig := { var := f.var == 0, q := f.q &&& 0x07F == 0, dst := .vreg true, limit := decide (veerLink f < 10), unit := 4 }
  body := fun cx _ l f _ => write cx l f.dst true (veerReport (s.link (veerLink f)) (veerEnd f) s.ck.now) false 0
/-- VEERQ (R112, R392). -/
def execVeerq (f : Fields) (s : State) : Out := laneExec (veerqSpec s f) f s

/-! ### Turns (R106, R107) -/

/-- A direction with fewer than two groups takes one of the other direction, the one that has rested longest, without
waiting for its rest, as soon as two stay there (R104, R113). -/
def Link.take (k : Link) (now : Nat) (up : Bool) : Link :=
  match k.byRest (!up) with
  | i :: _ => if 3 ≤ k.toward (!up) then k.modGroup i (·.turn now) else k
  | [] => k

/-- Both directions keep two groups, those that turn toward a direction among them. -/
def Link.refill (k : Link) (now : Nat) : Link :=
  [true, false].foldl (fun (k : Link) up => if k.committed up < 2 then k.take now up else k) k

/-- LANE_GROUP_TURN_START (R106): a group that the request in service needs begins its turn once it has rested; two groups
stay pointing its old way (R104). -/
def execLaneGroupTurnStart (link grp : Nat) (s : State) : Out :=
  let k := s.link link
  match k.group? grp with
  | none => .next s
  | some g =>
    if k.picks.contains grp && g.rested s.ck.now && decide (3 ≤ k.toward g.up) then
      .next (s.modLink link (·.modGroup grp (·.turn s.ck.now)))
    else .next s

/-- LANE_GROUP_TURN_COMPLETE (R106). -/
def execLaneGroupTurnComplete (link grp : Nat) (s : State) : Out :=
  match (s.link link).group? grp with
  | none => .next s
  | some g =>
    match g.turning with
    | some t =>
      if s.ck.now < t then .next s
      else .next ((s.modLink link fun k =>
        (k.modGroup grp fun g => { g with turning := none, lastTurn := s.ck.now, turned := true }).refill s.ck.now).finishServe link)
    | none => .next s

/-- VEER_HOLD_EXPIRY (R110). -/
def execVeerHoldExpiry (link : Nat) (s : State) : Out :=
  match (s.link link).hold with
  | some (_, _, t) => .next (if t ≤ s.ck.now then s.modLink link fun k => { k with hold := none } else s)
  | none => .next s

/-- ADAPTIVE_TURN (R107): without a hold or a request in service, the group of a direction with three or more that has rested
longest turns, once it has rested (R106). -/
def execAdaptiveTurn (link grp : Nat) (s : State) : Out :=
  let k := s.link link
  match k.group? grp with
  | none => .next s
  | some g =>
    if k.hold.isNone && k.serving.isNone && !k.out && (k.byRest g.up).head? == some grp && g.rested s.ck.now
        && decide (3 ≤ k.toward g.up) then
      .next (s.modLink link (·.modGroup grp (·.turn s.ck.now)))
    else .next s

/-! ### Failure and recalibration (R113 to R115) -/

/-- A direction left with fewer than two pointing groups takes one of the other direction at once (R113): a turning group
counts toward neither. -/
def Link.replace (k : Link) (now : Nat) (up : Bool) : Link := if k.toward up < 2 then k.take now up else k

/-- LANE_GROUP_RETIRE (R113). Where the other direction has none to spare, a later turn's end makes up for it. -/
def execLaneGroupRetire (link grp : Nat) (s : State) : Out :=
  match (s.link link).group? grp with
  | none => .next s
  | some g =>
    if g.retired then .next s
    else
      let s := s.modLink link fun k =>
        ((k.modGroup grp fun g => { g with retired := true, turning := none, recal := false }).replace s.ck.now g.up)
      .next ((s.note (.groupRetired link grp)).finishServe link)

/-- RECALIBRATION_START (R114): at most one group of a link, from a direction that holds at least three. -/
def execRecalibrationStart (link grp : Nat) (s : State) : Out :=
  let k := s.link link
  match k.group? grp with
  | none => .next s
  | some g =>
    if k.recaling == 0 && g.points g.up && decide (3 ≤ k.toward g.up) then
      .next (s.modLink link fun k => { k.modGroup grp (fun g => { g with recal := true }) with recalStart := s.ck.now })
    else .next s

/-- RECALIBRATION_END (R114): the group points as before, or as a served request needs. A request that has been served and is
under its hold redirects no group: only one in service does (DESIGN CHOICE, log entry 92). -/
def execRecalibrationEnd (link : Nat) (s : State) : Out :=
  let k := s.link link
  match (List.range k.size).find? fun i => ((k.groups[i]?).map fun g => g.recal && !g.retired).getD false with
  | none => .next s
  | some i =>
    let s := s.modLink link (·.modGroup i fun g => { g with recal := false })
    let k := s.link link
    let s := match k.serving with
      | some v =>
        let t := k.committed v.req.up
        if t < k.aim v then s.modLink link (·.modGroup i fun g => { g with up := v.req.up })
        else if k.aim v < t then s.modLink link (·.modGroup i fun g => { g with up := !v.req.up })
        else s
      | none => s
    .next ((s.modLink link (·.refill s.ck.now)).finishServe link)

/-- LINK_OUT_OF_SERVICE (R115): fewer than four working groups; every request is served as though G were 0. The active hold
ends, and the requests answered here start none (DESIGN CHOICE, log entry 93). -/
def execLinkOutOfService (link : Nat) (s : State) : Out :=
  let k := s.link link
  if k.out || 10 ≤ link || 4 ≤ k.size - k.retired then .next s
  else
    let rs := k.reqs ++ (k.serving.map (·.req)).toList
    let s := s.modLink link fun k => { k with out := true, reqs := [], serving := none, hold := none }
    .next (rs.foldl (fun s r => s.completeOp r.wg r.op (veerValue false true 0) none 0) (s.note (.linkOut link)))

/-- LINK_RESTORE (R473): the module OS retrains retired groups one at a time; the group returns under R114 — toward a direction
that has fewer than two (R104) — and with four the link is in service. -/
def execLinkRestore (link grp : Nat) (s : State) : Out :=
  match (s.link link).group? grp with
  | none => .next s
  | some g =>
    if !g.retired then .next s
    else
      let k := s.link link
      let up := if k.committed (!g.up) < 2 && 2 ≤ k.committed g.up then !g.up else g.up
      let s := s.modLink link fun k =>
        (k.modGroup grp fun g => { g with up, retired := false, turning := none, recal := false }).refill s.ck.now
      .next ((s.modLink link fun k => { k with out := k.out && decide (k.size - k.retired < 4) }).finishServe link)

end Sys2Proof.Machine
end

