-- ==== Sys2Proof/Machine/MemIns.lean ====
section
/-! DEFINITION. Loads, stores, window spills, prefetches, atomics, fences and cache maintenance: WSPILL, WFILL and
opcodes 0x80 to 0x8D (spec/13 R299, spec/15 R323 to R337), and the events that perform what they leave pending. -/
namespace Sys2Proof.Machine

/-! ### A load and a store, once their place is known -/

/-- The lane's earlier accesses hold a new one. -/
def memHolds (s : State) (cx : Cx) (i : Nat) (va : W64) : Bool :=
  s.ms.acqPending cx.w.id i || s.sameSector cx.w i va

/-- The pending form of a lane access. -/
def accOf (s : State) (cx : Cx) (i : Nat) (k : AccKind) (va : W64) (n : Nat) (loc : Option Nat) : Acc :=
  { id := 0, batch := s.ck.nextId, wg := cx.w.id, lane := i, core := cx.w.core, asid := (s.space cx.w).asid
    kind := k, va, width := n, loc }

/-- A load at its place (R327, R61, R35): bytes in the L1 are received at once, unless its request must leave its port after
others (R59); `readers` are the other lanes that it is a read by (R329). -/
def loadOut (s : State) (cx : Cx) (i : Nat) (l : Lane) (d : Dest) (va : W64) (n : Nat) (signed : Bool) (acq : Bool)
    (scope : Nat) (t : Target) (readers : List Nat := []) : LOut :=
  let w := cx.w
  match t with
  | .wait fx => .wait l fx
  | .trap c tv => .trap l c tv false
  | .tile u idx off =>
    .done l [.act (fun s =>
      let r := s.tileUpdate u idx off n (.load signed) 0 0 false
      (r.1.fillDest w.id i d (loadVal signed (bytesLE n r.2.1)) r.2.2).tileNamed u idx (barKey w.id i)), .acquire (if acq then scope else 0)]
  | .mem loc =>
    if (acq && decide (3 ≤ scope)) || !s.ms.l1Has w.core loc n || (s.ms.regPage loc).isSome || s.ms.portShort w.core i then
      let m := markDest l d
      .done m.1 (m.2 ++ [.act fun s' => (s'.used w va .read).addAcc
        { accOf s cx i (.load signed) va n (some loc) with acq, scope, dst := d, readers }])
    else
      .done l [.act fun s' =>
        let r := (s'.used w va .read).lookMem (s.space w).asid va w.core loc n
        r.1.fillDest w.id i d (loadVal signed r.2.1) r.2.2]
  | .held fault =>
    let m := markDest l d
    .done m.1 (m.2 ++ [.act fun s' =>
      (if fault then s'.modMs (·.faultNote (s.space w).asid va) else s').addAcc
        { accOf s cx i (.load signed) va n none with acq, scope, dst := d, readers }])

/-- A load of a lane in memory: aligned, not held by its own earlier accesses, its own pending store's bytes, or its
place's. -/
def loadLane (s : State) (cx : Cx) (i : Nat) (l : Lane) (d : Dest) (va : W64) (n : Nat) (signed acq : Bool) (scope : Nat) :
    LOut :=
  match (if acq then none else s.forward cx.w i va n) with
  | some (bs, p) =>
    if s.ms.acqPending cx.w.id i then .stay l
    else .done l [.act fun s => s.fillDest cx.w.id i d (loadVal signed bs) p]
  | none =>
    if memHolds s cx i va then .stay l
    else loadOut s cx i l d va n signed acq scope (s.target cx.w i l va va .read)

/-- Held stores and REDs of a core fill its store queue of 256 entries: a thread's next store stalls (R35). -/
def MemSys.queueFull (ms : MemSys) (core : Nat) : Bool :=
  decide (256 ≤ (ms.acc.filter fun a => a.core == core && a.loc.isNone && (match a.kind with | .store | .red .. => true | _ => false)).length)

/-- A store or RED that is not held up stalls while the store queue is full (R35). -/
def queued (s : State) (cx : Cx) (l : Lane) (o : LOut) : LOut :=
  match o with
  | .done .. => if s.ms.queueFull cx.w.core then .stay l else o
  | o => o

/-- A store at its place (R327, R326, R35). A store to another module, to a register page, or of a release at `.die` and
wider is performed where it is applied, while the thread goes on (R61, R134). -/
def storeOut (s : State) (cx : Cx) (i : Nat) (l : Lane) (va : W64) (n : Nat) (data : W64) (p : Bool) (tag : W64) (rel : Bool)
    (scope : Nat) (t : Target) : LOut :=
  let w := cx.w
  let a := { accOf s cx i .store va n none with data, poison := p, scope, rel }
  match t with
  | .wait fx => .wait l fx
  | .trap c tv => .trap l c tv false
  | .tile u idx off =>
    .done l [.act (fun s => ((if rel then s.release w.core scope else s).tileStore u idx off (bytesLE n data.toNat) p).tileNamed u idx (barKey w.id i)),
      .stored (some (u, idx)) off n p]
  | .mem loc =>
    if isOutside loc && p then .trap l 13 tag false
    else if locTgt loc = 2 || (s.ms.regPage loc).isSome || (rel && decide (3 ≤ scope)) then
      .done l [.act fun s => ((if rel then s.release w.core scope else s).used w va .write).addAcc { a with loc := some loc }]
    else
      .done l [.act (fun s => ((if rel then s.release w.core scope else s).used w va .write).storeMem w.core loc n data p rel scope),
        .stored none loc n p]
  | .held fault =>
    .done l [.act fun s' =>
      let s' := if rel then s'.release w.core scope else s'
      (if fault then s'.modMs (·.faultNote (s.space w).asid va) else s').addAcc a]

/-- A store of a lane in memory. -/
def storeLane (s : State) (cx : Cx) (i : Nat) (l : Lane) (va : W64) (n : Nat) (data : W64) (p : Bool) (tag : W64)
    (rel : Bool) (scope : Nat) : LOut :=
  if memHolds s cx i va || (rel && s.ms.releaseWaits cx.w.id i scope) then .stay l
  else queued s cx l (storeOut s cx i l va n data p tag rel scope (s.target cx.w i l va va .write))

/-! ### A whole sector written by one instruction (R460) -/

/-- The bytes of a sector that the clean stores of an instruction wrote, unless a poisoned one wrote there too. -/
def sectorCover (tile : Option (Nat × Nat)) (sec : Nat) (fxs : List Fx) : BitVec 32 :=
  if fxs.any (fun x => match x with
    | .stored t loc _ p => p && t == tile && sectorOf loc == sec
    | _ => false) then 0
  else fxs.foldl (fun m x => match x with
    | .stored t loc n false => if t == tile && sectorOf loc == sec then m ||| byteMask (loc - sec) n else m
    | _ => m) 0

/-- Sectors covered whole lose their poison. -/
def clearCovered (core : Nat) (fxs : List Fx) (s : State) : State :=
  fxs.foldl (fun s x => match x with
    | .stored t loc _ _ =>
      if sectorCover t (sectorOf loc) fxs = fullMask then
        match t with
        | some (u, idx) => s.modTile u idx fun y => { y with poison := y.poison &&& ~~~ (1#128 <<< (loc / 32)) }
        | none => s.modMs fun ms => let ms := ms.l1Clear core (sectorOf loc)
                                    if (ms.l1Find core (sectorOf loc)).isSome then ms else ms.setPoison (sectorOf loc) false
      else s
    | _ => s) s

/-! ### LD, ST, LDS, STS, LDU, LDL, STL (Table 15-1) -/

/-- Base, index and offset roles. -/
def sigMem (f : Fields) (q : Bool) (d : DRole) : Sig :=
  { var := varTM f.var, q, dst := d, a := .base (qmWb f.q), b := .src false, c := .off, unit := 3 }

/-- A helper's load destination becomes full with 0 (R168). -/
def helperZero (cx : Cx) (l : Lane) (f : Fields) (wide : Bool) : LOut := write cx l f.dst wide 0 false 0

/-- An access that its address lets go on: no poison (R326), and aligned to its width (R324). -/
def addressed (l : Lane) (v : Vals) (va : W64) (n : Nat) (k : LOut) : LOut :=
  if v.poison then .trap l 13 v.tag false
  else if va.toNat % n ≠ 0 then .trap l 9 va false
  else k

def ldSpec (s : State) (f : Fields) : LaneSpec where
  sig := sigMem f (qmOk [0, 1] 5 false 0 true true f.q) (.vz (isWide f.var))
  body := fun cx i l f v =>
    let va := memAddr f v
    if l.helper then helperZero cx l f (isWide f.var)
    else addressed l v va (typeWidth f.var)
      (loadLane s cx i l (destOf cx.w i l f.dst (isWide f.var)) va (typeWidth f.var) (isSigned f.var) (qmAcq f.q) (qmScope f.q))
/-- LD (R327). -/
def execLd (f : Fields) (s : State) : Out := laneExec (ldSpec s f) f s

/-- The data register of a store: empty, it makes the lane wait (R323). -/
def dataSource (f : Fields) : List (Operand × Bool × Bool) := [(f.dst, isWide f.var, false)]
def dataVal (cx : Cx) (i : Nat) (l : Lane) (f : Fields) : W64 := srcVal cx i l f.dst (isWide f.var) 0
def dataPoison (cx : Cx) (i : Nat) (l : Lane) (f : Fields) : Bool := srcPoison cx i l f.dst (isWide f.var)

def stSpec (s : State) (f : Fields) : LaneSpec where
  sig := sigMem f (qmOk [0, 2] 5 false 0 true true f.q) (.data (isWide f.var))
  more := dataSource
  body := fun cx i l f v =>
    let va := memAddr f v
    if l.helper then .done l []
    else addressed l v va (typeWidth f.var)
      (storeLane s cx i l va (typeWidth f.var) (dataVal cx i l f) (dataPoison cx i l f) (f.dst.toByte.zeroExtend 64)
        (qmRel f.q) (qmScope f.q))
/-- ST (R327). -/
def execSt (f : Fields) (s : State) : Out := laneExecWith (stSpec s f) f clearCovered s

/-- Reading a form's fields, without an effect. -/
def readOnly (sig : Sig) (more : Fields → List (Operand × Bool × Bool)) : LaneSpec where
  sig := sig
  more := more
  body := fun _ _ l _ _ => .done l []

/-- A lane of the gang names a tile that it must wait for (R328). -/
def tilesWait (s : State) (cx : Cx) (sp : LaneSpec) (f : Fields) (k : Access) (addr : Vals → W64) : Bool :=
  cx.g.lanes.any fun j =>
    let l := cx.w.lane j
    let v := valsOf cx sp f j l
    l.live && l.guard f && (arrivalStop cx sp f j l).isNone && addr v % BitVec.ofNat 64 (typeWidth f.var) == 0 &&
      match s.stashTarget cx.w j l (addr v) k with
      | .wait _ => true
      | _ => false

/-- A stash access of a lane: behind its own accesses to the same bytes (R130), and with the gang's other lanes once every
tile that they name is READY (R328). -/
def stashLane (s : State) (cx : Cx) (i : Nat) (l : Lane) (va : W64) (k : Access) (waits : Bool) (out : Target → LOut) : LOut :=
  if memHolds s cx i (cx.w.stashVa va) then .stay l
  else match s.stashTarget cx.w i l va k with
    | .tile u idx off => if waits then .wait l [.act fun s => s.tileWaiter u idx cx.w.id i] else out (.tile u idx off)
    | t => out t

def sigLds (f : Fields) : Sig := sigMem f (qmOk [0] 0 false 0 true true f.q) (.vz (isWide f.var))

def ldsSpec (s : State) (f : Fields) : LaneSpec where
  sig := sigLds f
  body := fun cx i l f v =>
    let va := memAddr f v
    if l.helper then helperZero cx l f (isWide f.var)
    else addressed l v va (typeWidth f.var)
      (stashLane s cx i l va .read (tilesWait s cx (readOnly (sigLds f) fun _ => []) f .read (memAddr f))
        (loadOut s cx i l (destOf cx.w i l f.dst (isWide f.var)) va (typeWidth f.var) (isSigned f.var) false 0))
/-- LDS (R328). -/
def execLds (f : Fields) (s : State) : Out := laneExec (ldsSpec s f) f s

def sigSts (f : Fields) : Sig := sigMem f (qmOk [0] 0 false 0 true true f.q) (.data (isWide f.var))

def stsSpec (s : State) (f : Fields) : LaneSpec where
  sig := sigSts f
  more := dataSource
  body := fun cx i l f v =>
    let va := memAddr f v
    if l.helper then .done l []
    else addressed l v va (typeWidth f.var)
      (stashLane s cx i l va .write (tilesWait s cx (readOnly (sigSts f) dataSource) f .write (memAddr f))
        fun t => queued s cx l (storeOut s cx i l va (typeWidth f.var) (dataVal cx i l f) (dataPoison cx i l f)
          (f.dst.toByte.zeroExtend 64) false 0 t))
/-- STS (R328). -/
def execSts (f : Fields) (s : State) : Out := laneExecWith (stsSpec s f) f clearCovered s

/-- What an LDU comes to in one lane that reads. The one value serves the whole group, so no lane's unperformed store does:
it waits until that store is performed (R35, log entry 86). -/
def lduLane (s : State) (cx : Cx) (i : Nat) (l : Lane) (f : Fields) (v : Vals) (readers : List Nat := []) : LOut :=
  let va := memAddr f v
  addressed l v va (typeWidth f.var)
    (if memHolds s cx i va then .stay l
     else loadOut s cx i l (destOf cx.w i l f.dst (isWide f.var)) va (typeWidth f.var) (isSigned f.var) (qmAcq f.q) (qmScope f.q)
       (s.target cx.w i l va va .read) readers)

/-- The lanes of the gang that an LDU is a read by (R329): those whose quad issues. -/
def lduReaders (s : State) (cx : Cx) (f : Fields) (v : Vals) : List Nat :=
  cx.g.lanes.filter fun i => (cx.w.lane i).live && (cx.w.lane i).guard f &&
    !(cx.g.lanes.any fun j => j / 4 == i / 4 && (cx.w.lane j).live && (cx.w.lane j).guard f
      && (lduLane s cx j (cx.w.lane j) f v).stays)

/-- The lane of the gang that reads for all: the lowest of them. -/
def lduLead (s : State) (cx : Cx) (f : Fields) (v : Vals) : Option Nat := (lduReaders s cx f v).head?

def lduSpec (s : State) (f : Fields) : LaneSpec where
  sig := sigMem f (qmOk [0, 1] 5 false 0 true true f.q) (.scal (isWide f.var))
  body := fun cx i l f v =>
    if l.helper then .done l []
    else match lduLane s cx i l f v (lduReaders s cx f v) with
      | .done l' fx => if lduLead s cx f v == some i then .done l' fx else .done l []
      | o => o
/-- LDU (R329): one read of the gang, with the effects of every reading lane. -/
def execLdu (f : Fields) (s : State) : Out := laneExec (lduSpec s f) f s


/-- The 4-byte words of a private access of `n` bytes at an offset (R330): offset and width. -/
def privateWords (o : W64) (n : Nat) : List (W64 × Nat) := if n = 8 then [(o, 4), (o + 4, 4)] else [(o, n)]

/-- A private access: the offset must be aligned and inside the private space (R330). -/
def privately (s : State) (cx : Cx) (l : Lane) (v : Vals) (o : W64) (n : Nat) (k : LOut) : LOut :=
  addressed l v o n
    (if (s.nodeOf cx.w).launch.priv.toNat ≤ o.toNat then .trap l 8 o false else k)

def ldlSpec (s : State) (f : Fields) : LaneSpec where
  sig := sigMem f (qmOk [0] 0 false 0 true false f.q) (.vz (isWide f.var))
  body := fun cx i l f v =>
    let o := memAddr f v
    let n := typeWidth f.var
    let pv := privateAddr (s.nodeOf cx.w) cx.w i
    if l.helper then helperZero cx l f (isWide f.var)
    else privately s cx l v o n
      (if n = 8 then
        match f.dst with
        | .v k =>
          LOut.andThen l (loadLane s cx i l (.v [l.entry k.val]) (pv o) 4 false false 0) fun l =>
            loadLane s cx i l (.v [l.entry (k.val + 1)]) (pv (o + 4)) 4 false false 0
        | _ =>
          LOut.andThen l (loadLane s cx i l .none (pv o) 4 false false 0) fun l =>
            loadLane s cx i l .none (pv (o + 4)) 4 false false 0
      else loadLane s cx i l (destOf cx.w i l f.dst false) (pv o) n (isSigned f.var) false 0)
/-- LDL (R330). -/
def execLdl (f : Fields) (s : State) : Out := laneExec (ldlSpec s f) f s

def stlSpec (s : State) (f : Fields) : LaneSpec where
  sig := sigMem f (qmOk [0] 0 false 0 true false f.q) (.data (isWide f.var))
  more := dataSource
  body := fun cx i l f v =>
    let o := memAddr f v
    let n := typeWidth f.var
    let pv := privateAddr (s.nodeOf cx.w) cx.w i
    let x := dataVal cx i l f
    let p := dataPoison cx i l f
    let tag := f.dst.toByte.zeroExtend 64
    if l.helper then .done l []
    else privately s cx l v o n
      (if n = 8 then
        LOut.andThen l (storeLane s cx i l (pv o) 4 (zx (lo32 x)) p tag false 0) fun l =>
          storeLane s cx i l (pv (o + 4)) 4 (zx (hi32 x)) p tag false 0
      else storeLane s cx i l (pv o) n x p tag false 0)
/-- STL (R330). -/
def execStl (f : Fields) (s : State) : Out := laneExecWith (stlSpec s f) f clearCovered s

/-! ### WSPILL and WFILL (R183, R299) -/

/-- The private offset of entry 0 of a frame. -/
def frameOffset (n : Node) (fr : Nat) : W64 := BitVec.ofNat 64 n.launch.priv.toNat - BitVec.ofNat 64 (64 * (fr + 1))

/-- The stack entries of a frame. -/
def frameEntries (fr : Nat) : List Nat := (List.range 16).map (fr % 4 * 16 + ·)

/-- Sixteen accesses of one lane, one after another: all, or none. -/
def chain (l0 : Lane) (ks : List (Lane → LOut)) : LOut :=
  ks.foldl (fun o k => LOut.andThen l0 o k) (.done l0 [])

def wspillSpec (s : State) (f : Fields) : LaneSpec where
  sig := { var := f.var == 0, q := f.q == 0, unit := 3 }
  body := fun cx i l _ _ =>
    let nd := s.nodeOf cx.w
    if l.helper then .done { l with lo := if l.lo < l.d then l.lo + 1 else l.lo } []
    else if ¬ l.lo < l.d then .trap l 3 (slotVal cx.g 4) false
    else if nd.launch.frame.toNat ≤ l.lo then .trap l 8 (frameOffset nd l.lo) false
    else if (frameEntries l.lo).any fun e => !(l.at e).full then .stay l
    else match l.pulled (frameEntries l.lo) with
    | some (l', m) => .trap l' m.cause m.tval false
    | none =>
      match chain l ((List.range 16).map fun j => fun l' =>
        let r := l'.at ((frameEntries l.lo).getD j 0)
        storeLane s cx i l' (privateAddr nd cx.w i (frameOffset nd l.lo + BitVec.ofNat 64 (4 * j))) 4 (zx r.val) r.poison 0 false 0) with
      | .done l' fx =>
        let m := (frameEntries l.lo).foldl (fun m e => m ||| entryBit e) (0 : BitVec 64)
        .done { l' with lo := l'.lo + 1, racq := l'.racq &&& ~~~ m } (.acquire (if l.racq &&& m = 0 then 0 else 4) :: fx)
      | o => o
/-- WSPILL. A KACC's destination in the frame is read (R452). -/
def execWspill (f : Fields) (s : State) : Out := laneExecWith (wspillSpec s f) f clearCovered s

def wfillSpec (s : State) (f : Fields) : LaneSpec where
  sig := { var := f.var == 0, q := f.q == 0, unit := 3 }
  body := fun cx i l _ _ =>
    let nd := s.nodeOf cx.w
    let fr := l.lo - 1
    if l.lo = 0 || decide (3 < l.d + 2 - l.lo) then (if l.helper then .done l [] else .trap l 3 (slotVal cx.g 4) false)
    else if l.helper then
      .done ((frameEntries fr).foldl (fun l e => l.put cx.free e {}) { l with lo := fr }) []
    else if nd.launch.frame.toNat ≤ fr then .trap l 8 (frameOffset nd fr) false
    else if (frameEntries fr).any fun e => !(l.at e).full then .stay l
    else
      match chain l ((List.range 16).map fun j => fun l' =>
        loadLane s cx i l' (.v [(frameEntries fr).getD j 0])
          (privateAddr nd cx.w i (frameOffset nd fr + BitVec.ofNat 64 (4 * j))) 4 false false 0) with
      | .done l' fx => .done { l' with lo := fr } fx
      | o => o
/-- WFILL. -/
def execWfill (f : Fields) (s : State) : Out := laneExec (wfillSpec s f) f s

/-! ### PREF (R331) -/

/-- No miss entry is free for a prefetch by lane `i` (R331): 64 translation misses of the core, or 64 lines of its quarter. -/
def State.noEntry (s : State) (w : Wg) (i : Nat) (va : W64) (loc : Nat) (l2 : Bool) : Bool :=
  let lines := missLines s.ms.acc w.core (quarterOf i)
  ((s.ms.tlbLookup w.core (s.space w).asid va).isNone && decide (64 ≤ (s.ms.misses.filter (·.core == w.core)).length))
    || (!l2 && (s.ms.l1Find w.core (sectorOf loc)).isNone && !lines.contains (lineOf loc) && decide (64 ≤ lines.length))

/-- A line is brought into the L1, or into L2; a claimed tile, a fault, a violation or the want of a miss entry drops it. L2
holds no line of another module (R62). It sets no A and fills no TLB: the manual does not say whether it does (DESIGN CHOICE,
log entry 87). -/
def State.prefetch (s : State) (w : Wg) (i : Nat) (va : W64) (l2 : Bool) : State :=
  if (s.tileAt w va).isSome then s
  else match xlate s.ms w.core (s.space w) va .read true with
    | .ok loc =>
      if (s.tileOn w.core loc).isSome || (s.ms.regPage loc).isSome || s.unreachable loc || (l2 && locTgt loc == 2)
          || s.noEntry w i va loc l2 then s
      else
        let s := s.modMs fun ms => { ms with tag := (s.space w).part }
        (List.range 4).foldl (fun s k =>
          let sec := lineOf loc + 32 * k
          if l2 then s.openHome sec else s.fillSector w.core sec false) s
    | _ => s

def prefSpec (f : Fields) : LaneSpec where
  sig := { sigMem f (qmOk [0] 0 false 0 true true f.q) .blank with var := decide (f.var.toNat < 2) }
  body := fun cx i l f v =>
    if l.helper || v.poison then .done l []
    else .done l [.act fun s => s.prefetch cx.w i (memAddr f v) (f.var == 1)]
/-- PREF. -/
def execPref (f : Fields) (s : State) : Out := laneExec (prefSpec f) f s

/-! ### ATOM, ATOMCAS, RED, ATOMS (Table 15-2) -/

/-- An update at its place (R333, Table 15-3). -/
def updateOut (s : State) (cx : Cx) (i : Nat) (l : Lane) (f : Fields) (d : Dest) (k : AccKind) (va : W64) (n : Nat)
    (data cmp : W64) (p : Bool) (tag : W64) (t : Target) : LOut :=
  let w := cx.w
  let rel := qmRel f.q
  let scope := qmScope f.q
  let a := { accOf s cx i k va n none with data, cmp, poison := p, scope, rel, acq := qmAcq f.q, dst := d }
  let go := fun (s : State) => if rel then s.release w.core scope else s
  match t with
  | .wait fx => .wait l fx
  | .trap c tv => .trap l c tv false
  | .tile u idx off =>
    .done l [.act (fun s =>
      let r := (go s).tileUpdate u idx off n k data cmp p
      (r.1.fillDest w.id i d (loadVal false (bytesLE n r.2.1)) (r.2.2 || p)).tileNamed u idx (barKey w.id i)), .acquire (if qmAcq f.q then scope else 0)]
  | .mem loc =>
    if isOutside loc && p then .trap l 13 tag false
    else
      let m := markDest l d
      .done m.1 (m.2 ++ [.act fun s => ((go s).used w va .both).addAcc { a with loc := some loc }])
  | .held fault =>
    let m := markDest l d
    .done m.1 (m.2 ++ [.act fun s' =>
      (if fault then (go s').modMs (·.faultNote (s.space w).asid va) else go s').addAcc a])

/-- An update of a lane: waits for its own earlier accesses and, for a release, for all of them. -/
def updateLane (s : State) (cx : Cx) (i : Nat) (l : Lane) (f : Fields) (d : Dest) (k : AccKind) (va : W64) (n : Nat)
    (data cmp : W64) (p : Bool) (tag : W64) (t : Target) : LOut :=
  if memHolds s cx i va || (qmRel f.q && s.ms.releaseWaits cx.w.id i (qmScope f.q)) then .stay l
  else updateOut s cx i l f d k va n data cmp p tag t

/-- An update of scope `.thr`, `.grp` or `.wg` is performed in the core's L1, but in another module's memory not. -/
def localScope (f : Fields) : Bool := decide (qmScope f.q ≤ 2)

def atomSpec (s : State) (f : Fields) : LaneSpec where
  sig := { var := varTA f.var, q := qmOk [0, 1, 2, 3] 5 true 2 true true f.q, dst := .dst (isWide f.var)
           a := .base (qmWb f.q), b := .src false, c := .src (isWide f.var), unit := 3 }
  body := fun cx i l f v =>
    let va := atomAddr f v
    let n := typeWidth f.var
    if l.helper then helperZero cx l f (isWide f.var)
    else addressed l { v with pc := false } va n
      (updateLane s cx i l f (destOf cx.w i l f.dst (isWide f.var)) (.atom (qmOp f.q) f.var.toNat (localScope f)) va n v.c 0 v.pc
        (f.c.toByte.zeroExtend 64) (s.target cx.w i l va va .both))
/-- ATOM (R332, R333). -/
def execAtom (f : Fields) (s : State) : Out := laneExec (atomSpec s f) f s

def atomcasSpec (s : State) (f : Fields) : LaneSpec where
  sig := { var := varTI f.var, q := qmOk [0, 1, 2, 3] 5 true 0 false true f.q, dst := .dst (isWide f.var)
           a := .base (qmWb f.q), b := .src (isWide f.var), c := .src (isWide f.var), unit := 3 }
  body := fun cx i l f v =>
    let va := memBase f v
    let n := typeWidth f.var
    if l.helper then helperZero cx l f (isWide f.var)
    else addressed l { v with pb := false, pc := false } va n
      (updateLane s cx i l f (destOf cx.w i l f.dst (isWide f.var)) (.cas (localScope f)) va n v.c v.b (v.pb || v.pc)
        ((if v.pb then f.b else f.c).toByte.zeroExtend 64) (s.target cx.w i l va va .both))
/-- ATOMCAS (R332, R333). -/
def execAtomcas (f : Fields) (s : State) : Out := laneExec (atomcasSpec s f) f s

def redSpec (s : State) (f : Fields) : LaneSpec where
  sig := { sigMem f (qmOk [0, 2] 5 true 2 true true f.q) (.data (isWide f.var)) with var := varTA f.var }
  more := dataSource
  body := fun cx i l f v =>
    let va := memAddr f v
    let n := typeWidth f.var
    if l.helper then .done l []
    else addressed l v va n
      (queued s cx l (updateLane s cx i l f .none (.red (qmOp f.q) f.var.toNat) va n (dataVal cx i l f) 0 (dataPoison cx i l f)
        (f.dst.toByte.zeroExtend 64) (s.target cx.w i l va va .both)))
/-- RED (R332, R333, R335). -/
def execRed (f : Fields) (s : State) : Out := laneExec (redSpec s f) f s

def sigAtoms (f : Fields) : Sig :=
  { var := varTA f.var, q := qmOk [0, 1, 2, 3] 2 true 2 true true f.q, dst := .dst (isWide f.var)
    a := .base (qmWb f.q), b := .src false, c := .src (isWide f.var), unit := 3 }

def atomsSpec (s : State) (f : Fields) : LaneSpec where
  sig := sigAtoms f
  body := fun cx i l f v =>
    let va := atomAddr f v
    let n := typeWidth f.var
    if l.helper then helperZero cx l f (isWide f.var)
    else addressed l { v with pc := false } va n
      (if qmRel f.q && s.ms.releaseWaits cx.w.id i (qmScope f.q) then .stay l
       else stashLane s cx i l va .both (tilesWait s cx (readOnly (sigAtoms f) fun _ => []) f .both (atomAddr f))
         (updateOut s cx i l f (destOf cx.w i l f.dst (isWide f.var)) (.atom (qmOp f.q) f.var.toNat false) va n v.c 0 v.pc
           (f.c.toByte.zeroExtend 64)))
/-- ATOMS (R334). -/
def execAtoms (f : Fields) (s : State) : Out := laneExec (atomsSpec s f) f s

/-! ### FENCE and CMAINT -/

/-- A CMAINT of the lane is in progress (R75, R137). -/
def MemSys.maintPending (ms : MemSys) (wg lane : Nat) : Bool := ms.maint.any fun m => m.wg == wg && m.lane == lane

def fenceSpec (s : State) (f : Fields) : LaneSpec where
  sig := { var := decide (f.var.toNat < 4), q := f.q &&& 0xC7F == 0 && decide (qmScope f.q ≤ 5), unit := 3 }
  body := fun cx i l f _ =>
    let rel := f.var != 0
    let acq := f.var != 1
    let sc := qmScope f.q
    if l.helper then .done l []
    else if s.ms.maintPending cx.w.id i
        || (s.ms.acc.any fun a => a.ofLane cx.w.id i && (a.isLoad || a.dst != .none || (rel && sc != 0)))
        || s.ms.acqPending cx.w.id i then .stay l
    else .done l [.act fun s =>
      let s := if rel then s.release cx.w.core sc else s
      if acq then s.acquire cx.w.core sc else s]
/-- FENCE (R336, R137). -/
def execFence (f : Fields) (s : State) : Out := laneExec (fenceSpec s f) f s

/-- The first address of page `n` of a range from `lo`. -/
def pageFrom (lo : W64) (n : Nat) : W64 := if n = 0 then lo else BitVec.ofNat 64 ((lo.toNat / 65536 + n) * 65536)

/-- What CMAINT's pages come to, in ascending order: the first that violates, misses or reads poison; a page fault does not
stop the thread (R35, R337). -/
def State.maintPages (s : State) (w : Wg) (i : Nat) (l : Lane) (lo : W64) : Nat → Target
  | 0 => .mem 0
  | n + 1 =>
    match s.maintPages w i l lo n with
    | .mem _ =>
      let va := pageFrom lo n
      (match xlate s.ms w.core (s.space w) va .read (l.walked.contains (va.toNat / 65536)) with
       | .viol => .trap 8 va
       | .poison a => .trap 13 (BitVec.ofNat 64 a)
       | .miss => .wait [.act fun s => s.modMs (·.addMiss w.core (s.space w).asid va w.id i)]
       | _ => .mem 0)
    | t => t

/-- The pages of a range are translated as reads: A is set, a page fault goes into service. -/
def State.maintRead (s : State) (w : Wg) (lo : W64) (n : Nat) : State :=
  (List.range n).foldl (fun s k =>
    let r := s.xlateBy w.core (s.space w) (pageFrom lo k) .read
    if r.1 = .fault then r.2.modMs (·.faultNote (s.space w).asid (pageFrom lo k)) else r.2) s

/-- Earlier accesses of the lane to lines of a range, and its earlier CMAINTs over them (R75). -/
def State.maintHolds (s : State) (w : Wg) (i : Nat) (lo hi : Nat) : Bool :=
  (s.ms.acc.any fun a => a.ofLane w.id i &&
    ((decide (lo / 128 ≤ a.va.toNat / 128) && decide (a.va.toNat / 128 ≤ hi / 128))
      || (List.range (hi / 65536 - lo / 65536 + 1)).any fun k =>
          let b := max (lo / 128 * 128) ((lo / 65536 + k) * 65536)
          match a.loc.or (s.ms.locOf (s.space w) a.va), s.ms.locOf (s.space w) (BitVec.ofNat 64 b) with
          | some x, some y => decide (y ≤ x) && decide (x < y + (min (hi / 128 * 128 + 128) ((lo / 65536 + k + 1) * 65536) - b))
          | _, _ => false))
    || s.ms.maint.any fun m => m.wg == w.id && m.lane == i && decide (m.lo.toNat / 128 ≤ hi / 128) && decide (lo / 128 ≤ m.hi.toNat / 128)

def cmaintSpec (s : State) (op : Nat) (f : Fields) : LaneSpec where
  sig := { var := decide (bits f.var 1 0 = op) && decide (bits f.var 3 2 < 3), q := f.q == 0, a := .pr, b := .src false, unit := 3 }
  body := fun cx i l f v =>
    let n := (lo32 v.b).toNat
    let hi := v.a.toNat + n - 1
    let pages := hi / 65536 - v.a.toNat / 65536 + 1
    if l.helper then .done l []
    else if v.poison then .trap l 13 v.tag false
    else if n = 0 then .done l []
    else if s.ms.acqPending cx.w.id i || s.maintHolds cx.w i v.a.toNat hi then .stay l
    else match s.maintPages cx.w i l v.a pages with
      | .wait fx => .wait l fx
      | .trap c t => .trap l c t false
      | _ => .done l [.act fun s' =>
        let s' := s'.maintRead cx.w v.a pages
        { s'.freshId with ms := { s'.ms with maint := s'.ms.maint ++
          [{ id := s'.ck.nextId, batch := s.ck.nextId, wg := cx.w.id, lane := i, core := cx.w.core, asid := (s'.space cx.w).asid, op := op
             level := bits f.var 3 2, lo := v.a, hi := BitVec.ofNat 64 hi }] } }]

def cmaintCleanSpec (s : State) (f : Fields) : LaneSpec := cmaintSpec s 0 f
/-- CMAINT clean (R337, R74). -/
def execCmaintClean (f : Fields) (s : State) : Out := laneExec (cmaintCleanSpec s f) f s

def cmaintInvSpec (s : State) (f : Fields) : LaneSpec := cmaintSpec s 1 f
/-- CMAINT invalidate (R337, R74). -/
def execCmaintInv (f : Fields) (s : State) : Out := laneExec (cmaintInvSpec s f) f s

def cmaintClinvSpec (s : State) (f : Fields) : LaneSpec := cmaintSpec s 2 f
/-- CMAINT clean and invalidate (R337, R74). -/
def execCmaintClinv (f : Fields) (s : State) : Out := laneExec (cmaintClinvSpec s f) f s

end Sys2Proof.Machine
end

