-- ==== Sys2Proof/Machine/Rings.lean ====
section
/-! DEFINITION. Routed layers: ring control blocks, slots and quotas, the metadata ring, the routing co-processor, the
instructions 0x9B to 0x9F and their events (spec/19 R424 to R432, spec/15 R352 to R355). -/
namespace Sys2Proof.Machine

/-! ### Rings -/

def State.ring (s : State) (k : Nat) : Ring := s.rt.rings.getD k {}
def State.modRing (s : State) (k : Nat) (f : Ring → Ring) : State := { s with rt := { s.rt with rings := upd s.rt.rings k f } }

def Ring.freeCount (r : Ring) : Nat := (r.slots.filter fun x => x.state == .free).length
def Ring.slot (r : Ring) (n : Nat) : RingSlot := r.slots.getD n {}
def Ring.setSlot (r : Ring) (n : Nat) (x : RingSlot) : Ring := { r with slots := r.slots.set n x }

/-- Entries queued for a ring (GDEPTH). -/
def State.glqDepth (s : State) (k : Nat) : Nat := ((s.rt.glq.getD (k / 64) []).filter fun e => e.1 == k).length

/-- A word of the control block (Table 19-1). -/
def State.ringWord (s : State) (k n : Nat) : W64 :=
  let r := s.ring k
  match n with
  | 0 => BitVec.ofNat 64 (r.st.toNat * 2 ^ 62 + r.part.toNat * 2 ^ 58 + r.sbase.toNat)
  | 1 => BitVec.ofNat 64 (r.slotsm1.toNat * 2 ^ 48 + r.slines.toNat * 2 ^ 32)
  | 2 => BitVec.ofNat 64 r.mbase.toNat
  | 3 => BitVec.ofNat 64 (r.mcapm1.toNat * 2 ^ 48)
  | 4 => r.mres
  | 5 => r.mdlv
  | 6 => r.ridx
  | 7 => pair (BitVec.ofNat 32 r.freeCount) r.ptail
  | 8 => if r.st = 2 then zx r.glq else 0
  | 9 => BitVec.ofNat 64 (s.glqDepth k)
  | 10 => BitVec.ofNat 64 r.lbase.toNat
  | 11 => BitVec.ofNat 64 (r.em1.toNat * 2 ^ 56 + r.km1.toNat * 2 ^ 54 + (if r.norm then 2 ^ 53 else 0) + r.lstride.toNat)
  | _ => 0

def State.countIgnored (s : State) : State := { s with rt := { s.rt with ignored := s.rt.ignored + 1 } }

/-! ### Quotas (R432) -/

/-- Slots of a tenant that are not FREE, on a die. -/
def State.heldSlots (s : State) (die : Nat) (part : Nat) : Nat :=
  (((s.rt.rings.drop (64 * die)).take 64).filter fun r => r.part.toNat == part).foldl
    (fun n r => n + (r.slots.filter fun x => x.state != .free).length) 0

def State.quota (s : State) (die part : Nat) : Quota :=
  (s.rt.quotas.find? fun q => q.die == die && q.part == part).getD { die, part, q := 0, l := 0 }

/-- The sum of borrowed slots over the tenants, with `more` slots for one of them. -/
def State.borrowed (s : State) (die part more : Nat) : Nat :=
  (List.range 16).foldl (fun n p => n + (s.heldSlots die p + (if p = part then more else 0) - (s.quota die p).q)) 0

/-- A reservation succeeds for the tenant of ring `k`. -/
def State.mayReserve (s : State) (k : Nat) : Bool :=
  let r := s.ring k
  let die := k / 64
  !r.freeOrder.isEmpty && decide (s.heldSlots die r.part.toNat + 1 - (s.quota die r.part.toNat).q ≤ (s.quota die r.part.toNat).l)
    && decide (s.borrowed die r.part.toNat 1 ≤ s.rt.pool.getD die 0)

/-- A reservation (R353): the slot that became FREE first. -/
def State.reserve (s : State) (k : Nat) : State × Option Nat :=
  match (s.ring k).freeOrder with
  | n :: rest =>
    if s.mayReserve k then (s.modRing k fun r => { r.setSlot n { r.slot n with state := .reserved } with freeOrder := rest }, some n)
    else (s, none)
  | [] => (s, none)

/-! ### RBRES to RBMETA (R352 to R355, Table 15-10) -/

def noSlot : W32 := 0xFFFFFFFF

def sigRing (f : Fields) (d : DRole) (b : SRole) : Sig :=
  { var := f.var == 0, q := f.q == 0, dst := d, a := .u, b := b, unit := 3 }

/-- The lane did not execute after all: as it stood, it takes a trap at this instruction. -/
def State.trapAt (s : State) (wg i : Nat) (l : Lane) (cause : Nat) (tval : W64) : State :=
  (s.modWg wg (·.modLane i fun _ => l)).takeTrap wg i cause tval false false

/-- The ring operand, or the slot of it, is outside what is configured (check 19). -/
def badRing (s : State) (slot : Bool) (cx : Cx) (i : Nat) (l : Lane) (f : Fields) : Bool :=
  (limitOf cx i l f.a).any fun ring => decide (256 ≤ ring) || (s.ring ring).st == 0
    || (slot && (limitOf cx i l f.b).any fun n => decide ((s.ring ring).slots.length ≤ n))

/-- A lane at a ring, its operands within their limits: tenancy, then its service in ascending lane order. -/
def atRing (s : State) (cx : Cx) (i : Nat) (l : Lane) (f : Fields) (v : Vals) (wide : Nat) (rel : Bool)
    (serve : Nat → Nat → State → State) : LOut :=
  let ring := (lo32 v.a).toNat
  let n := (lo32 v.b).toNat
  let r := s.ring ring
  if l.helper then
    .done (match f.dst with
      | .v d => (List.range wide).foldl (fun l j => l.put cx.free (l.entry (d.val + j)) { val := noSlot }) l
      | .p d => l.setPred d.val true
      | _ => l) []
  else if v.poison then .trap l 13 v.tag false
  else if r.part != (s.space cx.w).part then .trap l 8 (BitVec.ofNat 64 ring) false
  else if s.ms.acqPending cx.w.id i || (rel && s.ms.releaseWaits cx.w.id i 4) then .stay l
  else .done l [.act (serve ring n)]

def rbresSpec (s : State) (f : Fields) : LaneSpec where
  sig := sigRing f (.dst false) .blank
  bad := badRing s false
  body := fun cx i l f v => atRing s cx i l f v 1 false fun ring _ s =>
    let d := destOf cx.w i l f.dst false
    match s.reserve ring with
    | (s, some n) => (s.fillDest cx.w.id i d (BitVec.ofNat 64 n) false).acquire cx.w.core 4
    | (s, none) => s.fillDest cx.w.id i d (zx noSlot) false
/-- RBRES (R353). -/
def execRbres (f : Fields) (s : State) : Out := laneExec (rbresSpec s f) f s

/-- A RESERVED slot is published, last in the order. -/
def Ring.publish (r : Ring) (n : Nat) : Ring :=
  { r.setSlot n { r.slot n with state := .published } with published := r.published ++ [n], ptail := r.ptail + 1 }

def rbpubSpec (s : State) (f : Fields) : LaneSpec where
  sig := sigRing f .blank (.src false)
  bad := badRing s true
  body := fun cx i l f v => atRing s cx i l f v 0 true fun ring n s =>
    if ((s.ring ring).slot n).state != .reserved then s.trapAt cx.w.id i l 3 (slotVal cx.g 4)
    else (s.release cx.w.core 4).modRing ring (·.publish n)
/-- RBPUB (R354). -/
def execRbpub (f : Fields) (s : State) : Out := laneExec (rbpubSpec s f) f s

def rbtakeSpec (s : State) (f : Fields) : LaneSpec where
  sig := sigRing f (.dst false) .blank
  bad := badRing s false
  body := fun cx i l f v => atRing s cx i l f v 1 false fun ring _ s =>
    let d := destOf cx.w i l f.dst false
    match (s.ring ring).published with
    | n :: rest =>
      let s := s.modRing ring fun r => { r.setSlot n { r.slot n with state := .taken } with published := rest }
      (s.fillDest cx.w.id i d (BitVec.ofNat 64 n) false).acquire cx.w.core 4
    | [] => s.fillDest cx.w.id i d (zx noSlot) false
/-- RBTAKE (R353). -/
def execRbtake (f : Fields) (s : State) : Out := laneExec (rbtakeSpec s f) f s

/-- A TAKEN slot becomes FREE, with a clear latch (R427). -/
def Ring.freeSlot (r : Ring) (n : Nat) : Ring := { r.setSlot n {} with freeOrder := r.freeOrder ++ [n] }

def rbfreeSpec (s : State) (f : Fields) : LaneSpec where
  sig := sigRing f .blank (.src false)
  bad := badRing s true
  body := fun cx i l f v => atRing s cx i l f v 0 true fun ring n s =>
    if ((s.ring ring).slot n).state != .taken then s.trapAt cx.w.id i l 3 (slotVal cx.g 4)
    else (s.release cx.w.core 4).modRing ring (·.freeSlot n)
/-- RBFREE (R354). -/
def execRbfree (f : Fields) (s : State) : Out := laneExec (rbfreeSpec s f) f s

/-- Token, expert and weight reach d, d + 1 and d + 2. -/
def putMeta (free : Nat) (d : Operand) (m : W32 × BitVec 16 × W32) (l : Lane) : Lane :=
  match d with
  | .v n =>
    ((l.put free (l.entry n.val) { val := m.1 }).put free (l.entry (n.val + 1)) { val := m.2.1.zeroExtend 32 }).put free
      (l.entry (n.val + 2)) { val := m.2.2 }
  | _ => l

def rbmetaSpec (s : State) (f : Fields) : LaneSpec where
  sig := sigRing f (.vrun 3) (.src false)
  bad := fun cx i l f => badRing s true cx i l f ||
    match limitOf cx i l f.a, limitOf cx i l f.b with
    | some ring, some n => !l.helper && ((s.ring ring).slot n).state != .published && ((s.ring ring).slot n).state != .taken
    | _, _ => false
  body := fun cx i l f v =>
    let x := ((s.ring (lo32 v.a).toNat).slot (lo32 v.b).toNat)
    match atRing s cx i l f v 3 false fun _ _ s => s.acquire cx.w.core 4 with
    | .done l' fx =>
      if l.helper then .done l' fx
      else match x.latch with
        | none => .stay l
        | some m => .done (putMeta cx.free f.dst m l') fx
    | o => o
/-- RBMETA (R354, R427). -/
def execRbmeta (f : Fields) (s : State) : Out := laneExec (rbmetaSpec s f) f s

/-! ### Accesses to a control block (R424) -/

/-- An allowed store to GLQ pushes a token; a full queue holds it (R429). -/
def State.glqPush (s : State) (k : Nat) (v : W64) : Option State :=
  if (s.ring k).st != 2 || hi32 v != 0 then some s.countIgnored
  else if 1024 ≤ (s.rt.glq.getD (k / 64) []).length then none
  else some ({ s with rt := { s.rt with glq := upd s.rt.glq (k / 64) fun q => q ++ [(k, lo32 v)] } }.modRing k
    fun r => { r with glq := lo32 v })

/-- A lane's access to byte `off` of a die's page: the state after it and the value read, or it stays pending. -/
def State.blockAccess (s : State) (die off : Nat) (a : Acc) : Option (State × Nat) :=
  let k := 64 * die + off / 128
  let n := off % 128 / 8
  let old := (s.ringWord k n).toNat
  let part := old / 2 ^ (8 * (off % 8)) % 2 ^ (8 * a.width)
  if a.width ≠ 8 then some (s.countIgnored, part)
  else match a.kind with
    | .load _ => some (s, old)
    | .store =>
      if n = 8 then (if s.ms.releaseWaits a.wg a.lane 4 && (s.ms.acc.any fun b => b.ofLane a.wg a.lane && decide (b.id < a.id)) then none
        else ((s.release a.core 4).glqPush k a.data).map fun s => (s, old))
      else if n = 6 then some ((s.release a.core (if a.rel then a.scope else 0)).modRing k fun r => { r with ridx := a.data }, old)
      else some (s.countIgnored, old)
    | .atom op ty _ =>
      if a.scope ≠ 4 then some (s.countIgnored, old)
      else if n = 4 && op = 0 then some (s.modRing k fun r => { r with mres := r.mres + a.data }, old)
      else if n = 6 then some (s.modRing k fun r => { r with ridx := BitVec.ofNat 64 (adder op ty old a.data.toNat) }, old)
      else some (s.countIgnored, old)
    | _ => some (s.countIgnored, old)

/-- A lane's access to a register page. A doorbell prompts its command processor next (R194). -/
def State.regAccess (s : State) (g : RegPage) (off : Nat) (a : Acc) : Option (State × Nat) :=
  if g.doorbell then
    if a.kind == .store && a.width == 4 && off % 4 == 0 && decide (off / 4 < 16) then
      some ({ s with ex := { s.ex with agenda := .event (.doorbell g.unit off 4) :: s.ex.agenda } }, 0)
    else some ({ s with cp := { s.cp with ignored := s.cp.ignored + 1 } }.tickFree, (freeWord s.ck.free 7000).toNat)
  else s.blockAccess g.unit off a

/-! ### Events -/

/-- GLQ (R429): a store of a value to word 8 of a ring's block. -/
def execGlq (die ring : Nat) (value : W64) (s : State) : Out := .next ((s.glqPush (64 * die + ring) value).getD s)

/-- MRES (R426): a metadata index is reserved. -/
def execMres (die ring : Nat) (s : State) : Out :=
  .next (s.modRing (64 * die + ring) fun r => { r with mres := r.mres + 1 })

/-- RIDX_WRITE (R428). -/
def execRidxWrite (die ring : Nat) (value : W64) (s : State) : Out :=
  .next (s.modRing (64 * die + ring) fun r => { r with ridx := value })

/-- CONTROL_BLOCK_ACCESS_IGNORED (R424). -/
def execControlBlockAccessIgnored (_die _ring : Nat) (s : State) : Out := .next s.countIgnored

def spaceOr (s : State) (asid : BitVec 16) : Space :=
  (s.hub.space asid).getD { asid, root := 0, t := false, part := 0, rlim := 0, privileged := false }

/-- Where record `i` of a ring lies (R425). -/
def Ring.recordAddr (r : Ring) (i : W64) : W64 :=
  BitVec.ofNat 64 (r.mbase.toNat + i.toNat % (r.mcapm1.toNat + 1) * 16)

/-- A delivered record: latched into its slot, or discarded (R427). -/
def State.latch (s : State) (k : Nat) (w0 w1 : W64) : State :=
  let n := (lo32 w0).toNat
  let x := (s.ring k).slot n
  let s := if decide ((s.ring k).slots.length ≤ n) || x.state == .free || x.latch.isSome then
      { s with rt := { s.rt with discarded := s.rt.discarded + 1 } }
    else s.modRing k (·.setSlot n { x with latch := some (hi32 w0, w1.extractLsb' 0 16, hi32 w1) })
  s.modRing k fun r => { r with mdlv := r.mdlv + 1 }

/-- METADATA_DELIVERY (R426): record MDLV is delivered once its SEQ matches. -/
def execMetadataDelivery (die ring : Nat) (s : State) : Out :=
  let k := 64 * die + ring
  let r := s.ring k
  if r.st = 0 then .next s
  else
    let sp := spaceOr s r.asid
    match s.agentRead hubUnit sp (r.recordAddr r.mdlv + 8) 8 with
    | (s, .val w1 _) =>
      if w1 / 2 ^ 16 % 2 ^ 16 ≠ (r.mdlv.toNat + 1) % 2 ^ 16 then .next s
      else (match s.agentRead hubUnit sp (r.recordAddr r.mdlv) 8 with
        | (s, .val w0 _) => .next (s.latch k (BitVec.ofNat 64 w0) (BitVec.ofNat 64 w1))
        | (s, _) => .next s)
    | (s, _) => .next s

/-! ### The routing co-processor (R429, R430) -/

/-- A quotient rounded by RNE: a / b for b a positive finite value. -/
def fDiv (a b : W32) : W32 :=
  match f32 a, f32 b with
  | .fin s m e, .fin t n g =>
    if n = 0 then nan32
    else
      let q := m * 2 ^ 64 / n
      ofFl (.fin (s != t) (2 * q + (if m * 2 ^ 64 % n = 0 then 0 else 1)) (e - g - 65))
  | _, _ => nan32

/-- The FP32 value nearest to 1.442695. -/
def log2e32 : W32 := 0x3FB8AA3B

/-- Softmax over the logits: NaN for all when one is NaN. -/
def softmax (xs : List W32) : List W32 :=
  let m := xs.foldl fMax (xs.headD 0)
  let es := xs.map fun x => fExp2 (fMul (fSub x m) log2e32)
  let sum := es.foldl fAdd 0
  if xs.any isNan32 then xs.map fun _ => nan32 else es.map fun e => fDiv e sum

/-- `p` ranks before `q`: larger, then of lower expert index. -/
def insertRank (x : Nat × W32) : List (Nat × W32) → List (Nat × W32)
  | [] => [x]
  | y :: l => if (f32 y.2).lt (f32 x.2) then x :: y :: l else y :: insertRank x l

def numbered {α : Type} : Nat → List α → List (Nat × α)
  | _, [] => []
  | k, x :: l => (k, x) :: numbered (k + 1) l

/-- The K choices in rank order with their weights. -/
def topChoices (k : Nat) (norm : Bool) (ps : List W32) : List (BitVec 16 × W32) :=
  if ps.any isNan32 then (List.range k).map fun e => (BitVec.ofNat 16 e, nan32)
  else
    let best := ((numbered 0 ps).foldl (fun l x => insertRank x l) []).take k
    let sum := ((numbered 0 ps).filter fun x => best.any fun y => y.1 == x.1).foldl (fun a x => fAdd a x.2) 0
    best.map fun x => (BitVec.ofNat 16 x.1, if norm then fDiv x.2 sum else x.2)

/-- Words of 4 bytes, ascending. -/
def State.agentHalves (s : State) (unit : Nat) (sp : Space) (va : W64) : Nat → State × Except Got (List W32 × Bool)
  | 0 => (s, .ok ([], false))
  | n + 1 =>
    match s.agentRead unit sp va 4 with
    | (s, .val v p) =>
      (match s.agentHalves unit sp (va + 4) n with
       | (s, .ok (ws, q)) => (s, .ok (BitVec.ofNat 32 v :: ws, p || q))
       | r => r)
    | (s, g) => (s, .error g)

def State.setCop (s : State) (die : Nat) (j : Option CopJob) : State := { s with rt := { s.rt with cop := s.rt.cop.set die j } }

/-- One part of the co-processor's work on its token: a reservation with its metadata index, or the record's write once
there is room. -/
def State.copStep (s : State) (die : Nat) (j : CopJob) : State :=
  let r := s.ring j.ring
  match j.slot, j.left with
  | _, [] => s.setCop die none
  | none, _ =>
    (match s.reserve j.ring with
     | (s, some n) => (s.modRing j.ring fun r => { r with mres := r.mres + 1 }).setCop die (some { j with slot := some (n, r.mres) })
     | (s, none) => s)
  | some (n, i), (e, w) :: left =>
    if (r.mcapm1.toNat + 1) ≤ (i - r.ridx).toNat then s
    else
      let a := r.recordAddr i
      match s.agentPuts hubUnit (spaceOr s r.asid) a
        [(pair (BitVec.ofNat 32 n) j.token, false), (pair (BitVec.ofNat 32 (((i.toNat + 1) % 2 ^ 16) * 2 ^ 16 + e.toNat)) w, false)] with
      | (s, .val ..) => s.setCop die (if left.isEmpty then none else some { j with slot := none, left })
      | (s, _) => s

/-- The work goes on as far as it can. -/
def State.copRun (s : State) (die : Nat) : Nat → State
  | 0 => s
  | n + 1 =>
    match s.rt.cop.getD die none with
    | none => s
    | some j => (s.copStep die j).copRun die n

/-- GATE_LOGIT_POP (R430): the oldest token is popped and its experts are chosen; a poisoned logit discards it. -/
def execGateLogitPop (die : Nat) (s : State) : Out :=
  match s.rt.cop.getD die none, s.rt.glq.getD die [] with
  | none, (k, token) :: rest =>
    let r := s.ring k
    let e := r.em1.toNat + 1
    let s1 := { s with rt := { s.rt with glq := s.rt.glq.set die rest } }
    (match s1.agentHalves hubUnit (spaceOr s r.asid) (BitVec.ofNat 64 (r.lbase.toNat + token.toNat * r.lstride.toNat)) e with
     | (s1, .ok (xs, p)) =>
       if p then .next (s1.note (.poisonToken die token))
       else .next ((s1.setCop die (some { ring := k, token, left := topChoices (r.km1.toNat + 1) r.norm (softmax xs) })).copRun die 8)
     | (s1, _) => .next { s with ms := s1.ms })
  | _, _ => .next s

/-- COPROCESSOR_RESERVE_RETRY (R430): every 200 ns. -/
def execCoprocessorReserveRetry (die : Nat) (s : State) : Out := .next (s.copRun die 8)

/-- RING_CONFIGURATION (R424, Table 19-1): the words the module OS writes; an illegal routed one leaves the ring
unconfigured. -/
def execRingConfiguration (die ring : Nat) (c : RingCfg) (s : State) : Out :=
  let k := 64 * die + ring
  if c.st = 3 || (c.st = 2 && decide (c.em1.toNat < c.km1.toNat)) || (c.st = 2 && c.em1 = 0) then
    .next ((s.modRing k fun _ => {}).note (.ringRefused die ring))
  else
    let n := c.slotsm1.toNat + 1
    .next (s.modRing k fun _ =>
      { st := c.st, part := c.part, sbase := c.sbase, slotsm1 := c.slotsm1, slines := c.slines, mbase := c.mbase
        mcapm1 := c.mcapm1, lbase := c.lbase, em1 := c.em1, km1 := c.km1, norm := c.norm, lstride := c.lstride, asid := c.asid
        slots := if c.st = 0 then [] else List.replicate n {}
        freeOrder := if c.st = 0 then [] else List.range n })

end Sys2Proof.Machine
end

