-- ==== Sys2Proof/Machine/MemEvents.lean ====
section
/-! DEFINITION. The memory system's own events: a load's data, an acknowledgement, an ownership grant, a completed
maintenance, a completed walk, a serviced fault, a replacement (spec/02 R31, R35; spec/03 R53 to R75). An event that is not enabled does
not happen: the state stays. -/
namespace Sys2Proof.Machine

/-! ### Replay and completion of an access -/

/-- The kind of a pending access for Table 2-7. -/
def Acc.access (a : Acc) : Access :=
  match a.kind with
  | .load _ => .read
  | .store => .write
  | _ => .both

def State.dropAcc (s : State) (id : Nat) : State := s.modMs fun ms => { ms with acc := ms.acc.filter (·.id != id) }

/-- Where a pending access is performed now: translated afresh while it has no location (R35). -/
def State.accTarget (s : State) (a : Acc) : Target :=
  match s.wg? a.wg with
  | none => .wait []
  | some w =>
    match a.loc, s.tileAt w a.va with
    | some loc, none => if (s.tileOn a.core loc).isNone then .mem loc else
        s.target w a.lane { walked := [a.va.toNat / 65536] } a.va a.va a.access
    | _, _ => s.target w a.lane { walked := [a.va.toNat / 65536] } a.va a.va a.access

/-- An access whose replay violates traps each thread that it is an access of (R34, R329) where it stands, and its
destination becomes full with a free value (log entry 13). -/
def State.accViolates (s : State) (a : Acc) (cause : Nat) (tval : W64) : State :=
  let s := (s.dropAcc a.id).fillDest a.wg a.lane a.dst (freeWord s.ck.free (8192 + a.lane)) false
  ((insertNat a.lane a.readers).foldl (fun s i => s.takeTrap a.wg i cause tval false false) s).tickFree

/-- A write to an unreachable module is dropped and logged, and its node completes with CODE 5 (R468). A returning
atomic gives poison, as a load does. -/
def State.lostWrite (s : State) (a : Acc) : State :=
  let n := ((s.wg? a.wg).map (·.node)).getD 0
  (((s.dropAcc a.id).fillDest a.wg a.lane a.dst 0 true).note (.droppedWrite n)).modNode n (·.fail 5)

/-- The access returns: its destination is filled, and an acquire acts. -/
def State.accReturns (s : State) (a : Acc) (v : W64) (p : Bool) : State :=
  let s := (s.dropAcc a.id).fillDest a.wg a.lane a.dst v p
  if a.acq then s.acquire a.core a.scope else s

/-- The workgroup of an access has ended: what it writes now is performed at its home, where the node's end must find it
(R203). -/
def State.late (s : State) (a : Acc) : Bool := ((s.wg? a.wg).map Wg.ended).getD true

/-- A store of a pending access in memory. -/
def State.accStore (s : State) (a : Acc) (loc : Nat) : State :=
  if isOutside loc && a.poison then s.accViolates a 13 a.va
  else if locTgt loc = 2 || s.late a then ((s.homeUpdate a.core loc a.width .store a.data 0 a.poison).1).dropAcc a.id
  else (s.storeMem a.core loc a.width a.data a.poison a.rel a.scope).dropAcc a.id

/-- An update of a pending access in memory, at its place (Table 15-3). A poisoned target outside this module's memory kills
the lane (R326). -/
def State.accUpdate (s : State) (a : Acc) (loc : Nat) : State :=
  if isOutside loc && a.poison then s.accViolates a 13 a.va
  else
    let r := if a.isLocal && locTgt loc != 2 then s.localUpdate a.core loc a.width a.kind a.data a.cmp a.poison
      else s.homeUpdate a.core loc a.width a.kind a.data a.cmp a.poison
    if isOutside loc && r.2.2 then r.1.accViolates a 13 a.va
    else r.1.accReturns a (loadVal false (bytesLE a.width r.2.1)) (r.2.2 || a.poison)

/-- A load's type is signed. -/
def Acc.signed (a : Acc) : Bool :=
  match a.kind with
  | .load sg => sg
  | _ => false

/-- An earlier access of its thread to the same location is still pending: it comes first (R129, R130). -/
def State.behind (s : State) (a : Acc) : Bool :=
  match s.wg? a.wg with
  | none => false
  | some w => s.ms.acc.any fun b => decide (b.id < a.id) && b.ofLane a.wg a.lane && s.accNear (s.space w) b a.va

/-- A load of an unreachable module waits for its time-out (R468). -/
def State.awaitFar (s : State) (a : Acc) (loc : Nat) : State :=
  s.modMs fun ms => { ms with acc := ms.acc.map fun b => if b.id == a.id then { b with loc := some loc } else b }

/-- One access is performed at its place: memory or tile, the destination, the acquire. It stays pending while it must
wait; a replay that faults again waits for its page's next service (R35). -/
def State.performAcc (s : State) (a : Acc) : State :=
  if s.behind a then s
  else match s.accTarget a with
  | .wait fx => (fx.map fun x => (a.lane, x)).foldl (fun s x => s.applyFx a.wg a.core x) s
  | .held fault =>
    match s.wg? a.wg with
    | some w => if fault then s.modMs (·.faultNote (s.space w).asid a.va) else s
    | none => s
  | .trap c t =>
    match s.wg? a.wg with
    | some w => (s.noteWalk (s.space w) a.va).accViolates a c t
    | none => s.accViolates a c t
  | .tile u idx off =>
    let r := s.tileUpdate u idx off a.width a.kind a.data a.cmp a.poison
    r.1.accReturns a (loadVal a.signed (bytesLE a.width r.2.1)) (r.2.2 || (a.poison && !a.isLoad))
  | .mem loc =>
    if s.unreachable loc then
      if a.isLoad then s.awaitFar a loc else s.lostWrite a
    else match s.ms.regPage loc with
    | some (g, off) =>
      (match s.regAccess g off a with
       | none => s
       | some (s, v) => s.accReturns a (loadVal a.signed (bytesLE a.width v)) false)
    | none =>
      let s := match s.wg? a.wg with
        | some w => s.used w a.va a.access
        | none => s
      match a.kind with
      | .load sg =>
        let s := if a.acq then s.acquire a.core a.scope else s
        let r := s.lookMem a.asid a.va a.core loc a.width
        (r.1.dropAcc a.id).fillDest a.wg a.lane a.dst (loadVal sg r.2.1) r.2.2
      | .store => s.accStore a loc
      | _ => s.accUpdate a loc

/-- An access as it stands now: one that an earlier one of the same instruction has ended is gone. -/
def State.performLive (s : State) (b : Acc) : State :=
  match s.ms.acc.find? (·.id == b.id) with
  | some b => s.performAcc b
  | none => s

/-- Two accesses of one instruction to one sector, by whatever addresses. -/
def State.sameBatch (s : State) (a b : Acc) : Bool :=
  b.batch == a.batch && b.wg == a.wg &&
    match s.wg? a.wg with
    | some w => s.accNear (s.space w) b a.va
    | none => false

/-- In ascending lane order; of one lane, as issued. -/
def insertLane (a : Acc) : List Acc → List Acc
  | [] => [a]
  | b :: l => if a.lane < b.lane then a :: b :: l else b :: insertLane a l

/-- The location of a RED of `.sys` on module memory, which the memory link controller performs (R73, Table 15-3). -/
def State.controls (s : State) (a : Acc) : Option Nat :=
  match a.kind, s.accTarget a with
  | .red .., .mem loc =>
    if a.scope = 5 && !isOutside loc && !s.unreachable loc && (s.ms.regPage loc).isNone && !s.behind a then some loc else none
  | _, _ => none

/-- The lanes' updates of one instruction to one location are adjacent, in ascending lane order (R332): an access is
performed with those of its instruction to its 32-byte sector. -/
def State.performBatch (s : State) (a : Acc) : State :=
  let go := fun (s : State) => ((s.ms.acc.filter (s.sameBatch a)).foldl (fun l b => insertLane b l) []).foldl State.performLive s
  match s.controls a with
  | some loc => (s.atController loc go).getD s
  | none => go s

/-- Requests leave the memory ports (R58, R59): a load whose bytes are in the L1 receives them. -/
def State.leavePorts (s : State) : State :=
  let t := s.grantEntries
  (s.ms.acc.filter fun a => a.atPort && s.ms.accHits a && t.ms.acc.any fun b => b.id == a.id && !b.atPort).foldl State.performLive t

/-- Clean stores of one instruction that together cover a sector clear its poison (R460). -/
def State.clearBatch (s0 : State) (a : Acc) (s : State) : State :=
  let bs := (s0.ms.acc.filter (s0.sameBatch a)).filter fun b => b.kind == .store && !s.ms.acc.any (·.id == b.id)
  let m := bs.foldl (fun (m : BitVec 32) b => m ||| byteMask (b.va.toNat % 32) b.width) 0
  if m = fullMask && !bs.any (·.poison) then
    match a.loc with
    | some loc => s.modMs fun ms => (ms.l1Clear a.core (sectorOf loc)).setPoison (sectorOf loc) false
    | none => s
  else s

/-- The access an event names, with its kind. -/
def State.acc? (s : State) (id : Nat) : Option Acc := s.ms.acc.find? (·.id == id)

/-- LOAD_DATA_RETURN (R61): a missing sector arrives and the lane's destination becomes full; a load of an unreachable
module waits for its time-out (R468). -/
def execLoadDataReturn (id : Nat) (s : State) : Out :=
  match s.acc? id with
  | none => .next s
  | some a =>
    let far := match a.loc with
      | some loc => s.unreachable loc
      | none => false
    .next (if a.isLoad && !far && !a.atPort then s.performAcc a else s)

/-- WRITE_ACKNOWLEDGEMENT (R129, R250): stores, REDs and home atomics of an instruction are performed where they are
applied. -/
def execWriteAcknowledgement (id : Nat) (s : State) : Out :=
  match s.acc? id with
  | none => .next s
  | some a =>
    let outside := match a.loc with
      | some loc => locTgt loc == 2
      | none => false
    .next (if !a.isLoad && (!a.isLocal || outside) then State.clearBatch s a (s.performBatch a) else s)

/-- OWNERSHIP_GRANT (R57, R69): the L1 owns the line, and the atomics that waited for it perform. -/
def execOwnershipGrant (id : Nat) (s : State) : Out :=
  match s.acc? id with
  | none => .next s
  | some a => .next (if a.isLocal && !a.atPort then s.performBatch a else s)

/-- FABRIC_LOAD_TIMEOUT (R468): a load to an unreachable module returns poison 50 µs after its issue. An access that writes
there is dropped. -/
def execFabricLoadTimeout (id : Nat) (s : State) : Out :=
  match s.acc? id with
  | none => .next s
  | some a =>
    if !(a.loc.any s.unreachable) || decide (s.ck.now < a.since + 50000) then .next s
    else .next (if a.isLoad then (s.dropAcc id).fillDest a.wg a.lane a.dst 0 true else s.lostWrite a)

/-! ### Cache maintenance (R74, R75, Table 3-7) -/

/-- The L1's part on one sector: clean, invalidate (clean non-owned only), or both. -/
def State.maintL1 (s : State) (core op : Nat) (x : L1Sector) : State :=
  match op with
  | 0 => s.writeBack x
  | 1 => if x.dirty = 0 && !x.owned then s.modMs (·.l1Del core x.loc) else s
  | _ => s.evictSector core x.loc

/-- A core owns the line. -/
def State.lineOwned (s : State) (line : Nat) : Bool :=
  (s.ms.l1.any fun x => x.owned && lineOf x.loc == line) || s.ex.wgs.any fun w => w.tiles.any fun t => (s.ownsLine w t line).isSome

/-- The home's part on one line, up to L2 (level 1) or memory (level 2): the host is reached at the memory level, or before a
copy is dropped. R69 recalls ownership before maintenance at these levels, and Table 3-7 has an invalidation leave owned lines
untouched: the model follows the table (DESIGN CHOICE, log entry 99). -/
def State.maintHome (s : State) (op level line : Nat) : State :=
  match op with
  | 0 =>
    let s := s.recallOwned line none
    if locTgt line = 1 && level ≠ 2 then s else s.modMs (·.l2Clean line)
  | 1 => if s.lineOwned line then s else s.modMs (·.l2DropIf line fun _ => true)
  | _ => s.evictL2 line

/-- What a page of a CMAINT's range comes to. -/
inductive MaintPage where
  | range (lo hi : Nat)
  | fault (va : W64)
  | trap (cause : Nat) (tval : W64)
  deriving DecidableEq, Repr

/-- The pages of a CMAINT, translated afresh (R35). -/
def State.maintPagesOf (s : State) (m : Maint) : List MaintPage :=
  match s.hub.space m.asid with
  | none => []
  | some sp =>
    let lo := m.lo.toNat / 128 * 128
    let hi := m.hi.toNat / 128 * 128 + 128
    (List.range ((hi - 1) / 65536 - lo / 65536 + 1)).map fun k =>
      let a := max lo ((lo / 65536 + k) * 65536)
      let b := min hi ((lo / 65536 + k + 1) * 65536)
      match walkOutcome s.ms sp (BitVec.ofNat 64 a) .read with
      | .ok loc => .range loc (loc + (b - a))
      | .fault => .fault (BitVec.ofNat 64 a)
      | .poison e => .trap 13 (BitVec.ofNat 64 e)
      | _ => .trap 8 (pageFrom m.lo k)

/-- The lines of a range of locations that an L1 or a tile owns, or an L2 holds. -/
def State.maintLines (s : State) (lo hi : Nat) : List Nat :=
  let tiles := s.ex.wgs.flatMap fun w => w.tiles.flatMap fun t =>
    if t.owned = 0 then [] else match s.tileLoc w t with
      | some loc => (List.range 32).map fun k => loc + 128 * k
      | none => []
  (((s.ms.l1.filter (·.owned)).map (fun x => lineOf x.loc) ++ tiles ++ s.ms.l2.map (·.line)).filter fun a =>
    decide (lo ≤ a) && decide (a < hi)).eraseDups

/-- The operation on one range of locations. A fabric address acts on this core's L1 only. -/
def State.maintRange (s : State) (m : Maint) (lo hi : Nat) : State :=
  let s := (s.ms.l1.filter fun x => x.core == m.core && decide (lo ≤ x.loc) && decide (x.loc < hi)).foldl
    (fun s x => s.maintL1 m.core m.op x) s
  if m.level = 0 || locTgt lo = 2 then s
  else (s.maintLines lo hi).foldl (fun s line => s.maintHome m.op m.level line) s

/-- A range is clean at the level: no line waits for an overflow slot (R46). -/
def State.maintClean (s : State) (m : Maint) (lo hi : Nat) : Bool :=
  m.op == 1 || m.level == 0 || locTgt lo == 1 || !(s.ms.l2.any fun x => x.dirty != 0 && decide (lo ≤ x.line) && decide (x.line < hi))

def Maint.overlaps (a b : Maint) : Bool :=
  decide (a.lo.toNat / 128 ≤ b.hi.toNat / 128) && decide (b.lo.toNat / 128 ≤ a.hi.toNat / 128)

/-- The operations of one instruction whose ranges overlap are one (R337). -/
def maintUnion (all : List Maint) : Nat → List Maint → List Maint
  | 0, ms => ms
  | n + 1, ms => maintUnion all n (ms ++ all.filter fun b => ms.any (Maint.overlaps b) && !ms.any (·.id == b.id))

/-- A lane's operation violates at its replay: no line of its range is touched, and the lane traps where it stands (log
entry 13). -/
def State.maintTrap (s : State) (m : Maint) (cause : Nat) (tval : W64) : State :=
  let s := match s.hub.space m.asid with
    | some sp => s.noteWalk sp tval
    | none => s
  (s.modMs fun ms => { ms with maint := ms.maint.filter (·.id != m.id) }).takeTrap m.wg m.lane cause tval false false

/-- The pages of an operation are read through: A is set (R29, R74). -/
def State.maintTouch (s : State) (m : Maint) : State :=
  match s.hub.space m.asid with
  | none => s
  | some sp => (List.range (m.hi.toNat / 65536 - m.lo.toNat / 65536 + 1)).foldl (fun s k => (s.xlateBy m.core sp (pageFrom m.lo k) .read).2) s

/-- One lane's operation takes effect on every line of its range. -/
def State.maintAct (s : State) (m : Maint) (pages : List MaintPage) : State :=
  pages.foldl (fun s p => match p with
    | .range lo hi => s.maintRange m lo hi
    | _ => s) s

/-- CACHE_MAINTENANCE_COMPLETE (R75): the operation takes effect on every line, once each page translates; a page fault holds
it, and a violation traps its lane (R35, R337). -/
def execCacheMaintenanceComplete (id : Nat) (s : State) : Out :=
  match s.ms.maint.find? (·.id == id) with
  | none => .next s
  | some m =>
    let all := s.ms.maint.filter fun x => x.batch == m.batch && x.wg == m.wg
    let us := (maintUnion all all.length [m]).map fun x => (x, s.maintPagesOf x)
    let bad := us.filterMap fun x => x.2.findSome? fun p => match p with
      | .trap c t => some (x.1, c, t)
      | _ => none
    let held := us.flatMap fun x => x.2.filterMap fun p => match p with
      | .fault va => some va
      | _ => none
    if !bad.isEmpty then .next (bad.foldl (fun s b => s.maintTrap b.1 b.2.1 b.2.2) s)
    else if !held.isEmpty then .next (s.modMs fun ms => held.foldl (fun ms va => ms.faultNote m.asid va) ms)
    else
      let s := us.foldl (fun s x => s.maintAct x.1 x.2) (us.foldl (fun s x => s.maintTouch x.1) s)
      let done := us.filter fun x => x.2.all fun p => match p with
        | .range lo hi => s.maintClean x.1 lo hi
        | _ => true
      .next (s.modMs fun ms => { ms with maint := ms.maint.filter fun x => !done.any fun y => y.1.id == x.id })

/-! ### Translation (R31, R35) -/

/-- A die has 16 walkers (R30). They serve its oldest misses: the manual gives no order (DESIGN CHOICE, log entry 101). -/
def MemSys.walking (ms : MemSys) (k : Nat) (core : Nat) : Bool :=
  decide (((ms.misses.take k).filter fun x => x.core / 16 == core / 16).length < 16)

/-- TRANSLATION_MISS_COMPLETE (R31): the walk of outstanding miss `k` is done; its quads may issue; the oldest queued
miss of the core is granted. -/
def execTranslationMissComplete (k : Nat) (s : State) : Out :=
  match s.ms.misses[k]? with
  | none => .next s
  | some m =>
    if !s.ms.walking k m.core then .next s
    else
      let va : W64 := BitVec.ofNat 64 (m.page * 65536)
      let s := match s.hub.space m.asid with
        | some sp => s.walkFor m.core sp va
        | none => s
      let s := m.lanes.foldl (fun s x => s.modWg x.1 (·.modLane x.2 fun l => { l with walked := l.walked ++ [m.page] })) s
      .next (s.modMs fun ms =>
        match ms.missq.find? (·.core == m.core) with
        | some q => { ms with misses := ms.misses.eraseIdx k ++ [q], missq := ms.missq.erase q }
        | none => { ms with misses := ms.misses.eraseIdx k })

/-- The node ends with a CODE: each of its threads exits (R35, R422). -/
def State.failNode (s : State) (node code : Nat) : State :=
  let s := s.modNode node (·.fail code)
  (s.ex.wgs.filter fun w => w.node == node).foldl (fun s w =>
    let s := s.modMs fun ms => { ms with acc := ms.acc.filter fun a => !(a.wg == w.id && a.loc.isNone)
                                         maint := ms.maint.filter fun m => m.wg != w.id }
    (List.range w.lanes.length).foldl (fun s i => if (w.lane i).live then s.exitLane w.id i else s) s) s

/-- Nodes that wait for a page in fault service: a held access or CMAINT, a held tile, a lane at a tile or at code. -/
def State.faultNodes (s : State) (asid : BitVec 16) (page : Nat) : List Nat :=
  ((s.ex.wgs.filter fun w => (s.space w).asid == asid &&
    ((s.ms.acc.any fun a => a.wg == w.id && a.loc.isNone && a.va.toNat / 65536 == page)
      || (s.ms.maint.any fun m => m.wg == w.id && decide (m.lo.toNat / 65536 ≤ page) && decide (page ≤ m.hi.toNat / 65536))
      || (w.tiles.any fun t => t.vpage.toNat / 65536 == page && (t.held || w.lanes.any fun l => l.live && l.atTile.contains (w.id, t.idx)))
      || (w.itr.any fun x => x.held == some page)
      || (w.lanes.any fun l => l.live && (l.pc.toNat / 65536 == page || l.clause.toNat / 65536 == page)))).map (·.node)).eraseDups

/-- A status word that waits for a page without memory stays unwritten (R204). -/
def State.statusFails (s : State) (asid : BitVec 16) (page : Nat) : State :=
  if s.cp.statusWaits.contains (asid, page) then
    { s with cp := { s.cp with statusWaits := s.cp.statusWaits.filter (· != (asid, page)), statusGone := (asid, page) :: s.cp.statusGone } }
  else s

/-- PAGE_FAULT_SERVICE_COMPLETE (R35): the module OS has written an entry, within R32, and what waited may replay; or it
had no memory, and the nodes fail with status 4. -/
def execPageFaultServiceComplete (asid va : Nat) (leaf : Option LeafWrite) (s : State) : Out :=
  let as' : BitVec 16 := BitVec.ofNat 16 asid
  let page := va / 65536
  if !s.ms.faults.contains (as', page) then .next s
  else
    let s1 := s.modMs fun ms => { ms with faults := ms.faults.filter (· != (as', page)) }
    let s1 := { s1 with ex := { s1.ex with wgs := s1.ex.wgs.map fun w =>
      if (s.space w).asid == as' then { w with tiles := w.tiles.map fun (t : Tile) => if t.vpage.toNat / 65536 = page then { t with held := false } else t } else w } }
    match leaf, s.hub.space as' with
    | some lw, some sp =>
      (match s1.ms.entryLoc sp (BitVec.ofNat 64 va) lw.level with
       | some a => .next ((s1.homeStore a 8 lw.entry.toNat false).modMs fun ms => { ms with
           tlb := ms.tlb.filter fun t => !(t.asid == as' && t.entry == a) })
       | none => .next s1)
    | _, _ => .next ((s.faultNodes as' page).foldl (fun s n => s.failNode n 4) (s1.statusFails as' page))

end Sys2Proof.Machine
end

