-- ==== Sys2Proof/Machine/Clause.lean ====
section
/-! DEFINITION. Clauses: the header, fetching the words of a clause through translation, checks 1 to 9 of Table 12-14,
and forming a gang that issues one slot (spec/12 R245 to R250, R259, R268; spec/08 R167 to R171). -/
namespace Sys2Proof.Machine

/-! ### The header (Table 12-1) -/

def hdrChk (h : W64) : Nat := bits h 63 60
def hdrClass (h : W64) : Nat := bits h 59 57
def hdrSlots (h : W64) : Nat := bits h 56 53 + 1
def hdrLmap (h : W64) : BitVec 16 := h.extractLsb' 37 16
def hdrWaits (h : W64) : BitVec 8 := h.extractLsb' 29 8
def hdrU (h : W64) : Bool := h.getLsbD 28
def hdrY (h : W64) : Bool := h.getLsbD 27
def hdrS (h : W64) : Bool := h.getLsbD 26

/-! ### Slots and literals (R248) -/

/-- The instruction slots of a clause with their numbers: none where marking and taking differ, or a literal would lie
past the last slot. -/
def slotLayout (lmap : BitVec 16) : Nat → Nat → List W64 → Option (List (Nat × W64))
  | _, _, [] => some []
  | 0, _, _ => none
  | fuel + 1, i, w :: rest =>
    let n := literalCount w
    if lmap.getLsbD i || decide (rest.length < n) || (List.range n).any (fun j => !lmap.getLsbD (i + 1 + j)) then none
    else (slotLayout lmap fuel (i + 1 + n) (rest.drop n)).map fun l => (i, w) :: l

def opcodeOf (w : W64) : Nat := bits w 63 56

/-- R267. -/
def unassigned (o : Nat) : Bool :=
  (decide (0x30 ≤ o) && decide (o ≤ 0x3F)) || o == 0x51 || o == 0x5E || o == 0x5F || (decide (0x67 ≤ o) && decide (o ≤ 0x7F))
    || (decide (0xA0 ≤ o) && decide (o ≤ 0xBF)) || (decide (0xCA ≤ o) && decide (o ≤ 0xCF))
    || (decide (0xE9 ≤ o) && decide (o ≤ 0xEF)) || decide (0xFB ≤ o)

/-- The class of an opcode: its table (Tables 12-9 to 12-13). -/
def opcodeClass (o : Nat) : Nat := if o < 0x80 then 0 else if o < 0xC0 then 1 else if o < 0xF0 then 2 else 3

/-- The control opcodes (R247). -/
def isControl (o : Nat) : Bool := decide (0x20 ≤ o) && decide (o ≤ 0x28)

/-- Check 6. -/
def classFits (cls : Nat) (w : W64) : Bool :=
  let o := opcodeOf w
  unassigned o || o == 0 || isControl o || opcodeClass o == cls

/-- A byte that names a scalar (Table 12-3). -/
def scalarByte (b : BitVec 8) : Bool := decide (0x20 ≤ b.toNat) && decide (b.toNat < 0xE0)

/-- Check 8: a field that is an operand names a scalar. -/
def namesScalar (w : W64) : Bool :=
  let r := RawWord.ofWord w
  scalarByte r.dst || (!isRelative r.opc && (scalarByte r.a || (r.b != 0xFD && (scalarByte r.b || scalarByte r.c))))

/-- Check 9: every REP stands before an assigned class A instruction that is no control transfer, REP or NOP. -/
def repPlaced : List (Nat × W64) → Bool
  | [] => true
  | [(_, w)] => opcodeOf w != 0x29
  | (_, w) :: (i, x) :: l =>
    let o := opcodeOf x
    (opcodeOf w != 0x29 || (opcodeClass o == 0 && !unassigned o && !isControl o && o != 0x29 && o != 0))
      && repPlaced ((i, x) :: l)

/-- Checks 2 to 9 on a header and its slots: the subcode of the first that fails. -/
def clauseCheck (h : W64) (ws : List W64) : Option Nat :=
  if hdrChk h != 11 then some 1
  else if 3 < hdrClass h then some 2
  else if bits h 25 0 != 0 then some 3
  else match (if hdrLmap h >>> ws.length = 0 then slotLayout (hdrLmap h) 16 0 ws else none) with
    | none => some 4
    | some l =>
      if !l.all (fun x => classFits (hdrClass h) x.2) then some 5
      else if l.dropLast.any (fun x => isControl (opcodeOf x.2)) then some 6
      else if !hdrU h && l.any (fun x => namesScalar x.2) then some 7
      else if !repPlaced l then some 8
      else none

/-! ### Fetch (R245, R269) -/

/-- A fetched word, or why there is none. -/
inductive Fetched where
  | word (w : W64)
  /-- The fetch violates (tval: the address), its page is in fault service, or its translation misses. -/
  | viol (va : W64)
  | held (va : W64)
  | miss (va : W64)
  | poison (va : W64)
  deriving DecidableEq, Repr

/-- The word of code at a location, as its home holds it. -/
def MemSys.codeAt (ms : MemSys) (loc : Nat) : W64 :=
  BitVec.ofNat 64 (natLE (((ms.homeBytes (sectorOf loc)).drop (loc - sectorOf loc)).take 8))

/-- One word of code, translated and read through L2, for lanes that have waited for the misses of the pages given (R31). -/
def State.fetchWord (s : State) (core : Nat) (sp : Space) (walked : List Nat) (va : W64) : Fetched × State :=
  match xlate s.ms core sp va .fetch (walked.contains (va.toNat / 65536)) with
  | .ok loc =>
    let s := ((s.xlateBy core sp va .fetch).2).openHome loc
    (if s.ms.poisoned loc then .poison va else .word (s.ms.codeAt loc), s)
  | .fault => (.held va, s.modMs (·.faultNote sp.asid va))
  | .poison _ => (.poison va, s)
  | .miss => (.miss va, s)
  | .viol => (.viol va, s)

/-- `n` words from an address on. -/
def State.fetchWords (s : State) (core : Nat) (sp : Space) (walked : List Nat) : Nat → W64 → Except Fetched (List W64) × State
  | 0, _ => (.ok [], s)
  | n + 1, va =>
    match s.fetchWord core sp walked va with
    | (.word w, s) =>
      match s.fetchWords core sp walked n (va + 8) with
      | (.ok ws, s) => (.ok (w :: ws), s)
      | (.error e, s) => (.error e, s)
    | (e, s) => (.error e, s)

/-- A clause: its header and its slots. -/
def State.fetchClause (s : State) (core : Nat) (sp : Space) (walked : List Nat) (va : W64) : Except Fetched (W64 × List W64) × State :=
  match s.fetchWord core sp walked va with
  | (.word h, s) =>
    match s.fetchWords core sp walked (hdrSlots h) (va + 8) with
    | (.ok ws, s) => (.ok (h, ws), s)
    | (.error e, s) => (.error e, s)
  | (e, s) => (.error e, s)

/-! ### Who issues (R166, R167, R170) -/

/-- A lane that is not blocked at a meeting, a JOIN, a DOZE or a barrier, whose last instruction has completed its issue
(R59), and that has taken no pipeline-error trap (R414). -/
def Lane.offered (l : Lane) : Bool :=
  !l.atPort && !l.pipe && match l.wait with
  | .none => true
  | .group .. => true
  | .result _ => true
  | _ => false

/-- A live lane that is not blocked: it does not wait at its instruction either, or something that it may wait for has
changed (log entry 81). -/
def Lane.free (l : Lane) : Bool := l.live && l.offered && (l.since.isNone || l.retry)

/-- The lanes of a quad that are not blocked. -/
def Wg.unblocked (w : Wg) (q : Nat) : List Nat :=
  ((List.range 4).map (4 * q + ·)).filter fun i => (w.lanes[i]?).any (·.free)

/-- Those of them that stand at a pc (R167). -/
def Wg.at (w : Wg) (pc : W64) (q : Nat) : List Nat := (w.unblocked q).filter fun i => (w.lane i).pc == pc

/-- The lowest pc of some lanes. -/
def Wg.lowestPc (w : Wg) : List Nat → Option W64
  | [] => none
  | i :: ls =>
    match w.lowestPc ls with
    | none => some (w.lane i).pc
    | some p => some (if (w.lane i).pc.toNat < p.toNat then (w.lane i).pc else p)

/-- The pc that a quad offers (R167): that of a subset passed over for 16 issues of the quad, else the lowest. -/
def Wg.offerPc (w : Wg) (q : Nat) : Option W64 :=
  match (w.unblocked q).filter fun i => decide (16 ≤ (w.lane i).passed) with
  | [] => w.lowestPc (w.unblocked q)
  | ls => w.lowestPc ls

/-- A quad may issue at a pc: it offers that subset. -/
def Wg.mayOffer (w : Wg) (q : Nat) (pc : W64) : Bool := w.offerPc q == some pc

/-- The lanes a quad brings: those at the pc, and its helpers when the lane they shadow is among them (R168). -/
def Wg.quadLanes (w : Wg) (pc : W64) (q : Nat) : List Nat :=
  let ls := w.at pc q
  match w.shadow q with
  | some j =>
    if ls.contains j then
      ((List.range 4).map (4 * q + ·)).filter fun i => ls.contains i ||
        (match w.lanes[i]? with | some l => l.helper && !l.exited | none => false)
    else ls
  | none => ls

/-- S of the header: the lane's stores, REDs and atomics are acknowledged (R250). -/
def MemSys.storesDone (ms : MemSys) (wg lane : Nat) : Bool :=
  !ms.acc.any fun a => a.wg == wg && a.lane == lane &&
    (match a.kind with
     | .load .. => false
     | _ => true)

/-- HWAIT: the named handles are full (R250). -/
def Lane.handlesFull (l : Lane) (m : BitVec 8) : Bool :=
  (List.range 8).all fun j => !m.getLsbD j || (l.handle j).full

/-- A quad passes the header's waits. -/
def quadReady (ms : MemSys) (w : Wg) (h : W64) (pc : W64) (q : Nat) : Bool :=
  (w.at pc q).all fun i => (w.lane i).handlesFull (hdrWaits h) && (!hdrS h || ms.storesDone w.id i)

/-- Ascending, without repeats, at most `n`. -/
def takeQuads (n : Nat) (qs : List Nat) : List Nat := (qs.foldr insertNat []).take n

/-- The core takes workgroups. -/
def Core.runs (c : Core) : Bool := c.inService && !c.quarantined && !c.halted && !c.testing

/-- A lane of the workgroup has a depth above 0 (R403). -/
def Wg.inRegion (w : Wg) : Bool := w.lanes.any fun l => l.live && l.nopre != 0

/-- A non-preemptible region defers a save: not for a quarantine; and past its bound, only one for an in-field test (R417,
R421). -/
def Wg.defers (w : Wg) : Bool :=
  w.inRegion && w.regionSince.isSome && w.saveAsked != some .quarantine && (!w.overran || w.saveAsked == some .test)

/-- The workgroup may issue at a pc: on a core, and not stopped at a clause boundary for a save (R416). -/
def State.mayIssue (s : State) (w : Wg) (header : Bool) : Bool :=
  (match w.place with
   | .core _ => true
   | _ => false) && s.hub.phase != .off && !(header && w.saveAsked.isSome && !w.defers)

/-! ### The picker's choice (R170, R171, R250, R293) -/

/-- Arithmetic clocks per 5 ns: 3.6 GHz, and 1.2 GHz in Overcast service (R9, R471). -/
def State.rate (s : State) : Nat := if s.hub.phase = .overcast then 6 else 18

/-- How long a quad has offered a pc, ns. -/
def State.waitedFor (s : State) (w : Wg) (q : Nat) (pc : W64) : Nat :=
  match w.offers.find? fun o => o.quad == q && o.pc == pc with
  | some o => s.ck.now - o.since
  | none => 0

/-- It has offered it for 32 arithmetic clocks: it is taken first (R170). -/
def State.overdue (s : State) (w : Wg) (q : Nat) (pc : W64) : Bool :=
  decide (160 ≤ s.waitedFor w q pc * s.rate)

/-- The port of an instruction (R212): 0 vector ALU, 1 special function and conversion, 2 scalar ALU, 3 memory, 4 engine
command; 5: the manual assigns none. -/
def portOf (w : W64) : Nat :=
  let o := opcodeOf w
  if o == 0 || isControl o || o == 0x29 || o == 0x2A || decide (0xF0 ≤ o) then 5
  else if 0xC0 ≤ o then 4
  else if 0x80 ≤ o || o == 0x2E || o == 0x2F then 3
  else if scalarByte (w.extractLsb' 44 8) then 2
  else if decide (0x4C ≤ o) && decide (o ≤ 0x58) then 1
  else 0

/-- The header and the next instruction word of a lane: from the clause it is in, or from memory. -/
def State.nextWords (s : State) (w : Wg) (i : Nat) : Option (W64 × W64) :=
  let l := w.lane i
  match l.code with
  | h :: ws => some (h, ws.getD ((l.pc - l.clause).toNat / 8 - 1) 0)
  | [] =>
    match (s.fetchWord w.core (s.space w) l.walked l.clause).1,
        (s.fetchWord w.core (s.space w) l.walked (if l.pc = l.clause then l.pc + 8 else l.pc)).1 with
    | .word h, .word x => some (h, x)
    | _, _ => none

/-- The picker passes a quad over while another is ready: after a YIELD or a clause with the Y hint of one of its lanes (R250,
R293). -/
def Wg.shyAt (w : Wg) (q : Nat) : Bool :=
  ((List.range 4).map (4 * q + ·)).any fun i => (w.lanes[i]?).any fun l => l.live && (l.shy != 0 || l.hint)

/-- The port that a word needs is free in a quarter. -/
def State.portFree (s : State) (core qt : Nat) (x : W64) : Bool := portOf x != 3 || !s.ms.portHeld core qt

/-- The port that a quad's offer needs, when the quad is ready to issue. -/
def State.offerPort (s : State) (w : Wg) (q : Nat) (pc : W64) : Option Nat :=
  match (w.at pc q).head? with
  | none => none
  | some i =>
    let header := (w.lane i).clause == pc
    match s.nextWords w i with
    | none => none
    | some (h, x) =>
      if s.mayIssue w header && s.portFree w.core (quarterOf i) x && (!header || quadReady s.ms w h pc q) then some (portOf x)
      else none

/-- The quads of a workgroup in a quarter of its core (log entry 10). -/
def Wg.quartQuads (w : Wg) (qt : Nat) : List Nat :=
  (List.range ((w.lanes.length + 3) / 4)).filter fun q => quarterOf (4 * q) == qt

/-- Another quad of the quarter is ready: one that `p` accepts, with its workgroup, its pc and the port it needs. -/
def State.rival (s : State) (core qt : Nat) (p : Wg → Nat → W64 → Nat → Bool) : Bool :=
  s.ex.wgs.any fun u => u.onCore core && (u.quartQuads qt).any fun r =>
    match u.offerPc r with
    | none => false
    | some pc =>
      match s.offerPort u r pc with
      | some k => p u r pc k
      | none => false

/-- The picker would rather take another pc: one whose oldest offered quad has waited longer for the same port (R170), the
instructions to which the manual assigns none being compared among themselves (log entry 81); or all of these are passed over
while another quad is ready (R250, R293). -/
def State.outranked (s : State) (w : Wg) (qt : Nat) (pc : W64) (qs : List Nat) : Bool :=
  let waited := qs.foldl (fun m q => max m (s.waitedFor w q pc)) 0
  let port := (qs.findSome? fun q => s.offerPort w q pc).getD 5
  (s.rival w.core qt fun u r p k => k == port && !(u.id == w.id && p == pc) && !u.shyAt r && decide (waited < s.waitedFor u r p))
  || (qs.all w.shyAt && s.rival w.core qt fun u r p _ => !(u.id == w.id && p == pc && qs.contains r) && !u.shyAt r)

/-- Lanes that a lane's gang may hold: one clause as fetched, one repetition, one gang (R171); at a header, any. -/
def Lane.agrees (header : Bool) (a b : Lane) : Bool :=
  a.clause == b.clause && (header || (a.rep == b.rep && a.gang == b.gang && a.code == b.code))

/-- The quads that form a gang with lane `j` at a pc: those of the quarter that may issue there and agree with it. -/
def Wg.gangQuads (w : Wg) (pc : W64) (j : Nat) : List Nat :=
  (w.quartQuads (quarterOf (4 * (j / 4)))).filter fun q =>
    w.mayOffer q pc && (w.at pc q).any fun i => (w.lane i).agrees ((w.lane j).clause == pc) (w.lane j)

/-- Where a gang is formed, those of them that the picker does not pass over for a hint, when there are any (R250, R293). -/
def Wg.boldQuads (w : Wg) (formed : Bool) (pc : W64) (j : Nat) : List Nat :=
  let bold := (w.gangQuads pc j).filter fun q => !w.shyAt q
  if formed || bold.isEmpty then w.gangQuads pc j else bold

/-- The quads taken: those overdue first, then in ascending number, of one group when U is set, at most 8 (R170). A gang
that issues a clause goes on as it is (R171). -/
def State.takenQuads (s : State) (w : Wg) (pc : W64) (h : W64) (formed : Bool) (qs : List Nat) : List Nat :=
  if formed then qs
  else
    let order := (qs.filter fun q => s.overdue w q pc) ++ qs.filter fun q => !s.overdue w q pc
    match order with
    | [] => []
    | q :: _ => takeQuads 8 ((order.filter fun r => !hdrU h || w.grpOf (4 * r) == w.grpOf (4 * q)).take 8)

/-! ### Issue -/

/-- What an action comes to: an instruction for `exec` on a state, or a state as it is. -/
inductive Act where
  | run (i : Instr) (s : State)
  | done (s : State)

/-- The lanes of the gang move from a header to the clause's first slot. -/
def Wg.openClause (w : Wg) (lanes : List Nat) (pc : W64) : Wg :=
  { w with lanes := mapLanes (fun i l => if lanes.contains i && l.pc == pc then { l with pc := pc + 8, clause := pc, rep := 0 } else l) 0 w.lanes }

/-- A lane of the workgroup at an issue by a gang: those of the gang carry its number and the clause's words; the gang's
lanes that are not taken have dropped out of it (R171). -/
def Lane.issuing (lanes : List Nat) (old gid : Nat) (code : List W64) (i : Nat) (l : Lane) : Lane :=
  if lanes.contains i then { l with gang := gid, code := code, hint := false }
  else if old != 0 && l.gang == old then { l with gang := 0 } else l

/-- The quads of some lanes. -/
def quadsOf (lanes : List Nat) (q : Nat) : Bool := lanes.any fun i => i / 4 == q

/-- A lane after a gang of its workgroup has issued in some lanes: the other subsets of their quads have been passed over
(R167). -/
def Lane.passedBy (went : List Nat) (i : Nat) (l : Lane) : Lane :=
  if went.contains i then { l with passed := 0 }
  else if l.live && quadsOf went (i / 4) then { l with passed := l.passed + 1 } else l

/-- The groups that issue are in the active set (R191). -/
def Wg.issueMark (w : Wg) (now : Nat) (lanes : List Nat) : Wg :=
  { w with
    groups := mapGroups 0 w.groups
    offers := w.offers.filter fun o => !quadsOf lanes o.quad }
where
  mapGroups : Nat → List Group → List Group
    | _, [] => []
    | k, g :: gs => (if lanes.any fun i => w.grpOf i == k then { g with lastIssue := now, doldrums := false } else g) :: mapGroups (k + 1) gs

/-- The active groups of a quarter: workgroup, group, last issue. -/
def State.activeGroups (s : State) (core qt : Nat) : List (Nat × Nat × Nat) :=
  (s.ex.wgs.filter fun w => w.onCore core).flatMap fun w =>
    (List.range w.groups.length).filterMap fun k =>
      if quarterOf (w.grpFirst k) == qt && !(w.group k).doldrums then some (w.id, k, (w.group k).lastIssue) else none

/-- The longest idle of some groups. -/
def longestIdle : List (Nat × Nat × Nat) → Option (Nat × Nat × Nat)
  | [] => none
  | x :: l =>
    match longestIdle l with
    | none => some x
    | some y => some (if x.2.2 ≤ y.2.2 then x else y)

/-- At most 32 groups of a quarter are active: the longest idle ones fall to the Doldrums (R191). A gang has at most 8
groups. -/
def State.capActive (s : State) (core qt : Nat) : Nat → State
  | 0 => s
  | n + 1 =>
    let act := s.activeGroups core qt
    if act.length ≤ 32 then s
    else match longestIdle act with
      | none => s
      | some x => (s.modWg x.1 fun w => { w with groups := upd w.groups x.2.1 fun g => { g with doldrums := true } }).capActive core qt n

/-- A lane of a quarter that is passed over: its Y hint is spent (R250). -/
def Lane.passHint (qt : Nat) (keep : Nat → Bool) (i : Nat) (l : Lane) : Lane :=
  if l.hint && quarterOf i == qt && !keep (i / 4) then { l with hint := false } else l

/-- The quads of a quarter that an issue by quads of a workgroup passes over. -/
def State.passHints (s : State) (core qt wg : Nat) (went : List Nat) : State :=
  let pass := fun (w : Wg) => if w.onCore core then
      { w with lanes := mapLanes (Lane.passHint qt fun q => w.id == wg && quadsOf went q) 0 w.lanes } else w
  { s with ex := { s.ex with wgs := s.ex.wgs.map pass } }

/-- A gang has issued in some lanes of a workgroup: their groups are in the active set, and what the picker passed over is
noted (R167, R191, R250). -/
def State.haveIssued (s : State) (g : Gang) (went : List Nat) : State :=
  match s.wg? g.wg with
  | none => s
  | some w =>
    if went.isEmpty then s
    else
      let qt := quarterOf (went.headD 0)
      let s := s.modWg g.wg fun w =>
        ({ w with lanes := mapLanes (Lane.passedBy went) 0 w.lanes } : Wg).issueMark s.ck.now went
      (s.passHints w.core qt g.wg went).capActive w.core qt 8

/-- The repetitions of slot `n`: VAR + 1 of a REP in the slot before it (R259). -/
def repCount (l : List (Nat × W64)) (n : Nat) : Nat :=
  match l with
  | (_, w) :: (j, x) :: l => if j = n then (if opcodeOf w = 0x29 then bits w 7 4 + 1 else 1) else repCount ((j, x) :: l) n
  | _ => 1

/-- The gang of lanes at slot `n` of a clause. -/
def gangAt (w : Wg) (lanes : List Nat) (clause : W64) (h : W64) (ws : List W64) (n : Nat) : Gang :=
  let after := clause + BitVec.ofNat 64 (8 * (hdrSlots h + 1))
  let nx := n + 1 + literalCount (ws.getD n 0)
  { wg := w.id, lanes := lanes, pc := clause + BitVec.ofNat 64 (8 * (n + 1)), clause := clause, slot := n
    next := if nx < hdrSlots h then clause + BitVec.ofNat 64 (8 * (nx + 1)) else after
    nextClause := if nx < hdrSlots h then clause else after
    after := after
    k := repCount ((slotLayout (hdrLmap h) 16 0 ws).getD []) n }

/-- A clause trap: every lane of the gang takes it at the clause's header, with no slot issued (R245, R268). -/
def State.gangTrap (s : State) (w : Wg) (lanes : List Nat) (cause : Nat) (tval : W64) : State :=
  let s := s.modWg w.id fun w => { w with lanes := mapLanes (fun i l =>
    if lanes.contains i then { l with pc := l.clause, rep := 0 } else l) 0 w.lanes }
  let s := lanes.foldl (fun s i => s.takeTrap w.id i cause tval true false) s
  s.modWg w.id Wg.syncHelpers

/-- A slot that no REP repeats has no repetition to resume at (R413). -/
def Wg.unrepeated (w : Wg) (lanes : List Nat) : Wg :=
  { w with lanes := mapLanes (fun i l => if lanes.contains i then { l with rep := 0 } else l) 0 w.lanes }

/-- The workgroup at the issue of slot `n` by a gang. -/
def State.issuedWg (s : State) (w : Wg) (lanes : List Nat) (old : Nat) (h : W64) (ws : List W64) (g : Gang) : Wg :=
  let w := { w with lanes := mapLanes (Lane.issuing lanes old (if old = 0 then s.ck.nextId else old) (h :: ws)) 0 w.lanes }
  if g.k == 1 then w.unrepeated lanes else w

/-- The state in which a gang of the lanes given is at slot `n`: the gang is set, and its lanes carry its number and its
words. `old` is the gang the lanes are already in (0: it is formed now). -/
def State.atSlot (s : State) (w : Wg) (lanes : List Nat) (old : Nat) (clause h : W64) (ws : List W64) (n : Nat) : State :=
  let g := gangAt w lanes clause h ws n
  let s := s.freshId.setWg (s.issuedWg w lanes old h ws g)
  { s with ex := { s.ex with gang := some g } }

/-- A helper at a word that is no instruction: no trap, and the destination of an assigned opcode becomes full with the value
0 (R168). The DST of a store or a RED is data, and a control transfer has none. -/
def Lane.zeroWord (free : Nat) (w : W64) (l : Lane) : Lane :=
  let o := opcodeOf w
  if unassigned o || isControl o || [0x81, 0x83, 0x86, 0x8A].contains o then l
  else match Operand.ofByte (RawWord.ofWord w).dst with
    | .v n => l.put free (l.entry n.val) {}
    | .p n => l.setPred n.val false
    | _ => l

/-- One slot issues in the lanes given: the word decodes, and `exec` follows; a word that is no instruction traps
(checks 10 to 13). -/
def State.issueSlot (s : State) (w : Wg) (lanes : List Nat) (old : Nat) (clause h : W64) (ws : List W64) (n : Nat) : Act :=
  let t := s.atSlot w lanes old clause h ws n
  let g := gangAt w lanes clause h ws n
  match decodeInstr (ws.getD n 0) (ws.drop (n + 1)) with
  | .ok i => .run i t
  | .error e => .done (t.trapAll g (s.issuedWg w lanes old h ws g) 1 (slotVal g e.subcode) (Lane.zeroWord s.ck.free (ws.getD n 0)))

/-- The clause of a lane: the words it was fetched and checked as, or the words in memory now (R245, R268). -/
def State.clauseOf (s : State) (w : Wg) (l : Lane) : Except Fetched (W64 × List W64) × State :=
  match l.code with
  | h :: ws => (.ok (h, ws), s)
  | [] => s.fetchClause w.core (s.space w) l.walked l.clause

/-- Lanes that wait for their code: for its translation, or for the service of its page (R31, R35). -/
def State.awaitCode (s : State) (w : Wg) (lanes : List Nat) (e : Fetched) : State :=
  let s := match e with
    | .miss va => lanes.foldl (fun (s : State) i => s.modMs (·.addMiss w.core (s.space w).asid va w.id i)) s
    | _ => s
  s.modWg w.id fun w => { w with lanes := mapLanes (fun i l => if lanes.contains i then l.stalled s.ck.now else l) 0 w.lanes }

/-- A PICKER'S CHOICE: the gang of one of the named quads issues one slot at a pc, the clause's first slot with the checks
on the whole clause. The quads it takes are the picker's; a choice that the picker could not make does nothing. -/
def State.issue (s : State) (wg : Nat) (pc : W64) (quads : List Nat) : Act :=
  match s.wg? wg with
  | none => .done s
  | some w =>
    match ((quads.find? fun q => w.mayOffer q pc).bind fun q => (w.at pc q).head?) with
    | none => .done s
    | some j =>
      let l := w.lane j
      let header := l.clause == pc
      let old := if header then 0 else l.gang
      let qs := w.boldQuads (old != 0) pc j
      if !s.mayIssue w header || s.outranked w (quarterOf j) pc qs then .done s
      else
        let lanesOf := fun qs => (qs.flatMap (w.quadLanes pc)).filter fun i => (w.lane i).agrees header l
        match s.clauseOf w l with
        | (.error (.viol a), s) => .done (s.gangTrap w (lanesOf qs) 8 a)
        | (.error (.poison a), s) => .done (s.gangTrap w (lanesOf qs) 13 a)
        | (.error e, s) => .done (s.awaitCode w (lanesOf qs) e)
        | (.ok (h, ws), s) =>
          let w := (s.wg? wg).getD w
          let qs := s.takenQuads w pc h (old != 0) (if header then qs.filter (quadReady s.ms w h pc) else qs)
          let lanes := lanesOf qs
          if lanes.isEmpty then .done s
          else match (if l.code.isEmpty then clauseCheck h ws else none) with
            | some sub => .done (s.gangTrap w lanes 2 (BitVec.ofNat 64 sub))
            | none =>
              let n := if header then 0 else (pc - l.clause).toNat / 8 - 1
              if !s.portFree w.core (quarterOf j) (ws.getD n 0) then .done s
              else if header then s.issueSlot (w.openClause lanes pc) lanes 0 l.clause h ws 0
              else
                if hdrSlots h ≤ n then
                  .done (s.modWg wg fun w => { w with lanes := mapLanes (fun i l =>
                    if lanes.contains i then { l with clause := pc, code := [], gang := 0 } else l) 0 w.lanes })
                else s.issueSlot w lanes old l.clause h ws n

end Sys2Proof.Machine
end

