-- ==== Sys2Proof/Machine/Place.lean ====
section
/-! DEFINITION. Where workgroups may run: affinity, room and operand scores, and placing one (spec/09 R198 to R201, R208;
spec/03 R47, R48; spec/04 R79). -/
namespace Sys2Proof.Machine

/-! ### Affinity (Table 9-6) -/

def affKind (a : W64) : Nat := bits a 63 62
def affDies (a : W64) : Nat := bits a 61 58
def affCore (a : W64) : Nat := bits a 57 52
def affFirst (a : W64) : Nat := bits a 51 26
def affLast (a : W64) : Nat := bits a 25 0

/-- KIND, the fields that are otherwise zero, and the range. -/
def affFields (a : W64) : Bool :=
  (if affKind a = 0 then affCore a == 0 else affKind a == 1 && affDies a == 0) && decide (affFirst a ≤ affLast a)

/-- A core in service. -/
def State.coreServes (s : State) (c : Nat) : Bool :=
  decide (c < 64) && s.hub.dies.getD (c / 16) false && (s.core c).inService && !(s.core c).quarantined && !(s.core c).halted

/-- A core that takes new workgroups (R208). -/
def State.coreTakes (s : State) (c : Nat) : Bool := s.coreServes c && (s.core c).runs

/-- A die in service and allotted to a tenant (R199). -/
def State.dieFor (s : State) (part d : Nat) : Bool := s.hub.dies.getD d false && (s.hub.dieAllot.getD part 0).getLsbD d

/-- The dies and cores that a word names (R199). -/
def State.affNames (s : State) (part : Nat) (a : W64) : Bool :=
  if affKind a = 0 then (List.range 4).all fun d => !(affDies a).testBit d || s.dieFor part d
  else s.dieFor part (affCore a / 16) && s.coreServes (affCore a)

/-- A workgroup may run on a core: every word that names it permits the core. -/
def affPermits (aff : List W64) (wgi c : Nat) : Bool :=
  aff.all fun a => !(decide (affFirst a ≤ wgi) && decide (wgi ≤ affLast a))
    || (if affKind a = 0 then (affDies a).testBit (c / 16) else affCore a == c)

/-- No workgroup's permitted set is empty: the sets change only where a range begins or has ended. -/
def affNonempty (aff : List W64) (grid : Nat) : Bool :=
  (0 :: aff.flatMap fun a => [affFirst a, affLast a + 1]).all fun i =>
    decide (grid ≤ i) || (List.range 64).any fun c => affPermits aff i c

/-- The map of a LAUNCH is legal (R199). -/
def State.affLegal (s : State) (part : Nat) (aff : List W64) (grid : Nat) : Bool :=
  aff.all (fun a => affFields a && decide (affLast a < grid) && s.affNames part a) && affNonempty aff grid

/-- The first stage for an INDIRECT-LAUNCH, at parse (R200). -/
def State.affParse (s : State) (part : Nat) (aff : List W64) : Bool := aff.all fun a => affFields a && s.affNames part a

/-- The words below a count that is now known (R200). -/
def affClip (aff : List W64) (grid : Nat) : List W64 :=
  (aff.filter fun a => decide (affFirst a < grid)).map fun a => if grid ≤ affLast a then setBits a 0 26 (grid - 1) else a

/-! ### Room (R47, R79, R164) -/

/-- Lanes of a workgroup, helpers included. -/
def laneCount (p : LaunchPkt) : Nat := (p.wgnm1.toNat + 4) / 4 * 4

/-- Its lanes in a quarter: blocks of 64 lanes go to the quarters in turn. -/
def quarterLanes (n q : Nat) : Nat :=
  ((List.range ((n + 63) / 64)).filter fun b => b % 4 == q).foldl (fun k b => k + min 64 (n - 64 * b)) 0

/-- Its scalars in a quarter: SCAL for each group of the narrowest shape, to which a GSHAPE may change (log entry 111). -/
def quarterScalars (n scal q : Nat) : Nat := (quarterLanes n q + 7) / 8 * scal

def State.residents (s : State) (c : Nat) : List Wg := s.ex.wgs.filter (·.onCore c)

def State.tenant (s : State) (asid : BitVec 16) : Nat := ((s.hub.space asid).map fun x => x.part.toNat).getD 0

/-- Sums over the residents of a core. -/
def State.sumOver (s : State) (c : Nat) (f : Wg → Nat) : Nat := (s.residents c).foldl (fun n w => n + f w) 0

def State.tilesOf (s : State) (w : Wg) : Nat := (s.launch w).tiles
def State.driftOf (s : State) (w : Wg) : Nat := (s.launch w).drift

/-- The runs of a core's 256 tile-table entries that workgroups hold: bases and lengths (R52). -/
def State.tileRuns (s : State) (c : Nat) : List (Nat × Nat) :=
  (s.ex.wgs.filter fun w => w.onCore c || (w.place == .ended c && !w.tiles.isEmpty)).map fun w => (w.tileBase, s.tilesOf w)

/-- The entries that they hold: an ended workgroup keeps its run while a write-back is held (R53). -/
def State.tilesHeld (s : State) (c : Nat) : Nat := (s.tileRuns c).foldl (fun n r => n + r.2) 0

/-- A tile base: the lowest free run of entries (R52; DEDUCED, log entry 98). -/
def State.tileBaseFor (s : State) (c n : Nat) : Option Nat :=
  if n = 0 then some 0
  else (List.range (257 - n)).find? fun b => (s.tileRuns c).all fun r => decide (r.1 + r.2 ≤ b) || decide (b + n ≤ r.1)

/-- A core has room for a workgroup of a tenant: lanes and scalars of each quarter, tiles, Drift entries. -/
def State.room (s : State) (c : Nat) (p : LaunchPkt) (part : Nat) : Bool :=
  (List.range 4).all (fun q => decide (s.sumOver c (fun w => quarterLanes w.lanes.length q) + quarterLanes (laneCount p) q ≤ 512))
    && (List.range 4).all (fun q => decide (s.sumOver c (fun w => quarterScalars w.lanes.length (s.launch w).scal q)
      + quarterScalars (laneCount p) p.scal q ≤ 12288))
    && decide (s.tilesHeld c + p.tiles ≤ 224) && (s.tileBaseFor c p.tiles).isSome
    && decide (s.sumOver c s.driftOf + p.drift ≤ 16384)
    && decide (s.sumOver c (fun w => if (s.space w).part.toNat = part then s.driftOf w else 0) + p.drift ≤ s.hub.driftQuotas.getD part 0)

/-- The split with the largest L1 that leaves enough tiles (R47). -/
def splitFor (tiles : Nat) : Nat := min 6 ((256 - tiles) / 32)

/-- The split of a core is chosen when a workgroup is placed; what passes to the stash is cleaned and dropped (R48). -/
def State.chooseSplit (s : State) (c : Nat) : State :=
  let m := splitFor (s.tilesHeld c)
  let s := if m < (s.core c).split then (s.ms.l1.filter fun x => x.core == c).foldl (fun s x => s.evictSector c x.loc) s else s
  s.modCore c fun k => { k with split := m }

/-! ### Scores (R208) -/

/-- Bytes of a node's declared operands homed on a die, written ones twice. -/
def State.score (s : State) (n : Node) (die : Nat) : Nat :=
  let sp := (s.hub.space n.asid).getD { asid := n.asid, root := 0, t := false, part := 0, rlim := 0, privileged := false }
  n.launch.ops.foldl (fun k o =>
    let b := o.base.toNat
    let e := b + o.len.toNat
    (List.range ((e + 65535) / 65536 - b / 65536)).foldl (fun k i =>
      let lo := max b ((b / 65536 + i) * 65536)
      let hi := min e ((b / 65536 + i + 1) * 65536)
      match walk s.ms sp (BitVec.ofNat 64 lo) with
      | .leaf lv en _ =>
        let loc := leafLoc lv en (BitVec.ofNat 64 lo)
        if !isOutside loc && homeDie loc == die then k + (hi - lo) * (if o.mode.getLsbD 1 then 2 else 1) else k
      | _ => k) k) 0

/-- A core that could take workgroup `wgi` of a node now. -/
def State.canPlace (s : State) (n : Node) (wgi c : Nat) : Bool :=
  s.coreTakes c && affPermits n.launch.aff wgi c && s.room c n.launch (s.tenant n.asid)

/-- The die of a core scores best among the dies that have room. -/
def State.bestDie (s : State) (n : Node) (wgi c : Nat) : Bool :=
  (List.range 4).all fun d => !((List.range 16).any fun k => s.canPlace n wgi (16 * d + k)) || decide (s.score n d ≤ s.score n (c / 16))

/-! ### A new workgroup (R201) -/

def shapeLanes (code : BitVec 2) : Nat := 8 * 2 ^ code.toNat

/-- A workgroup as it starts. -/
def Node.newWg (n : Node) (id wgi c : Nat) : Wg :=
  let p := n.launch
  let k := p.wgnm1.toNat + 1
  let total := laneCount p
  let width := shapeLanes p.shape
  let ss : List W32 := p.args ++ n.trees.map (BitVec.ofNat 32)
  let g : Group := { s := (ss.map fun x => ({ val := x } : Reg)) ++ List.replicate (192 - ss.length) {} }
  { id, node := n.id, index := wgi, n := k, width, cls := p.cls.toNat, place := .core c
    lanes := (List.range total).map fun i => { pc := p.entry, clause := p.entry, helper := decide (k ≤ i) }
    groups := List.replicate ((total + width - 1) / width) g }

/-- A workgroup is placed on a core: dispatch synchronises with its threads (R203). -/
def State.placeWg (s : State) (n : Node) (wgi c : Nat) : State :=
  let id := s.ck.nextId
  let s := { s.freshId with ex := { s.ex with
    wgs := s.ex.wgs ++ [{ n.newWg id wgi c with tileBase := (s.tileBaseFor c n.launch.tiles).getD 0 }] } }
  let s := s.modNode n.id fun n => { n with map := n.map ++ [(wgi, c)], since := none }
  (s.chooseSplit c).modMs (·.dropClean c)

end Sys2Proof.Machine
end

