-- ==== Sys2Proof/Machine/System.lean ====
section
/-! DEFINITION. System instructions: opcodes 0xF0 to 0xFA, and checkpoint increments (spec/17 R396 to R406, spec/18 R410 to
R413, spec/26 R462 to R465). -/
namespace Sys2Proof.Machine

/-! ### TRAP, BKPT, TRET (R397, R398) -/

def sigCode (f : Fields) : Sig := { var := f.var == 0, unit := 5 }

def trapSpec (f : Fields) : LaneSpec where
  sig := sigCode f
  body := fun _ _ l f _ => if l.helper then .done l [] else .trap l 12 (f.q.zeroExtend 64) false
/-- TRAP (R397): the software trap. -/
def execTrapOp (f : Fields) (s : State) : Out := laneExec (trapSpec f) f s

def bkptSpec (f : Fields) : LaneSpec where
  sig := sigCode f
  body := fun _ _ l f _ => if l.helper then .done l [] else .trap l 11 (f.q.zeroExtend 64) false
/-- BKPT (R397). -/
def execBkpt (f : Fields) (s : State) : Out := laneExec (bkptSpec f) f s

/-- A word of code as it stands in memory now. -/
def State.codeWord (s : State) (sp : Space) (va : W64) : Option W64 :=
  match walkOutcome s.ms sp va .fetch with
  | .ok loc => some (s.ms.codeAt loc)
  | _ => none

/-- The word `k` words before an address is the header of a clause with so many slots. -/
def State.headerBefore (s : State) (sp : Space) (a : W64) (k : Nat) : Bool :=
  (s.codeWord sp (a - BitVec.ofNat 64 (8 * k))).any fun h => hdrChk h == 11 && decide (k ≤ hdrSlots h)

/-- The header of the clause that an address of code names a slot of: itself, if a header stands there; else the nearest one
before it that reaches so far (log entry 9). -/
def State.headerOf (s : State) (sp : Space) (a : W64) : W64 :=
  ((List.range 17).find? (s.headerBefore sp a)).elim a fun k => a - BitVec.ofNat 64 (8 * k)

/-- The clause in which a TRET resumes (R410, R413): as the trap left `tpc`, its own clause, or the header that a clause trap
names (Table 18-4); after a CSRW of `tpc`, the clause of the slot that it names. -/
def State.retClause (s : State) (sp : Space) (l : Lane) : W64 :=
  if l.tset then s.headerOf sp l.tpc else if l.tstatus.getLsbD 62 then l.tpc else l.tclause

def tretSpec (s : State) (f : Fields) : LaneSpec where
  sig := { var := f.var == 0, q := f.q == 0, fixed := true, unit := 5 }
  body := fun cx _ l _ _ =>
    if l.helper then .done l []
    else if !l.tstatus.getLsbD 63 then .trap l 1 (slotVal cx.g 6) false
    else .go (l.retTrap (s.retClause (s.space cx.w) l)) []
/-- TRET (R398, R413). -/
def execTret (f : Fields) (s : State) : Out := laneExec (tretSpec s f) f s

/-! ### CSRs (R399, R400, R410; Table 17-10) -/

def csrKnown (n : Nat) : Bool := decide (n ≤ 5) || n == 0x10 || n == 0x11 || (decide (0x100 ≤ n) && decide (n ≤ 0x1FF))
def csrOs (n : Nat) : Bool := decide (0x100 ≤ n) && decide (n ≤ 0x1FF)

/-- A CSR as a lane reads it. -/
def csrValue (s : State) (w : Wg) (l : Lane) (n : Nat) : W64 :=
  match n with
  | 0 => l.tcause
  | 1 => l.tval
  | 2 => l.tpc
  | 3 => l.tstatus
  | 4 => l.tbase
  | 5 => l.tsave
  | 0x10 => zx (s.core w.core).errseed
  | 0x11 => zx (s.core w.core).errrate
  | _ => s.hub.osCsr.getD (n - 0x100) 0

def csrrSpec (s : State) (f : Fields) : LaneSpec where
  sig := { var := f.var == 0, q := csrKnown f.q.toNat, priv := csrOs f.q.toNat, dst := .vreg true, unit := 5 }
  body := fun cx _ l f _ => write cx l f.dst true (csrValue s cx.w l f.q.toNat) false 0
/-- CSRR (R399). -/
def execCsrr (f : Fields) (s : State) : Out := laneExec (csrrSpec s f) f s

def sigCsrw (f : Fields) (q test : Bool) : Sig :=
  { var := f.var == 0, q := q, priv := csrOs f.q.toNat, test := test, a := .vpr, unit := 5 }

/-- Numbers that CSRW writes without a behaviour of their own: `tsave` and the module OS's registers. -/
def csrPlain (n : Nat) : Bool := n == 5 || csrOs n

def csrwSpec (f : Fields) : LaneSpec where
  sig := sigCsrw f (csrPlain f.q.toNat) false
  body := fun _ _ l f v =>
    if l.helper then .done l []
    else if f.q = 5 then .done { l with tsave := v.a } []
    else .done l [.act fun s => { s with hub := { s.hub with osCsr := s.hub.osCsr.set (f.q.toNat - 0x100) v.a } }]
/-- CSRW (R399); a number that is read-only or unknown is an illegal instruction. -/
def execCsrw (f : Fields) (s : State) : Out := laneExec (csrwSpec f) f s

/-- A CSRW sets `tpc`. -/
def Lane.setTpc (l : Lane) (a : W64) : Lane := { l with tpc := a, tset := true }

def csrwTpcTbaseSpec (f : Fields) : LaneSpec where
  sig := sigCsrw f (f.q == 2 || f.q == 4) false
  body := fun cx _ l f v =>
    if l.helper then .done l []
    else if bits v.a 63 52 != 0 || (if f.q = 2 then bits v.a 2 0 != 0 else bits v.a 8 0 != 0) then .trap l 3 (slotVal cx.g 4) false
    else .done (if f.q = 2 then l.setTpc v.a else { l with tbase := v.a }) []
/-- CSRW of `tpc` or `tbase` (R410). -/
def execCsrwTpcTbase (f : Fields) (s : State) : Out := laneExec (csrwTpcTbaseSpec f) f s

def csrwTstatusSpec (f : Fields) : LaneSpec where
  sig := sigCsrw f (f.q == 3) false
  body := fun _ _ l _ v => if l.helper then .done l [] else .done { l with tstatus := setBits l.tstatus 57 4 (bits v.a 60 57) } []
/-- CSRW of `tstatus`: REPR only (R410). -/
def execCsrwTstatus (f : Fields) (s : State) : Out := laneExec (csrwTstatusSpec f) f s

/-- The seed a write loads: 0 loads 1 (R462). -/
def seedOf (x : W32) : W32 := if x = 0 then 1 else x

def csrwErrseedSpec (f : Fields) : LaneSpec where
  sig := sigCsrw f (f.q == 0x10) true
  body := fun cx _ l _ v =>
    if l.helper then .done l []
    else .done l [.act fun s => s.modCore cx.w.core fun c => { c with errseed := seedOf (lo32 v.a), x := seedOf (lo32 v.a) }]
/-- CSRW of `errseed` (R462). -/
def execCsrwErrseed (f : Fields) (s : State) : Out := laneExec (csrwErrseedSpec f) f s

def csrwErrrateSpec (f : Fields) : LaneSpec where
  sig := sigCsrw f (f.q == 0x11) true
  body := fun cx _ l _ v =>
    if l.helper then .done l [] else .done l [.act fun s => s.modCore cx.w.core fun c => { c with errrate := lo32 v.a }]
/-- CSRW of `errrate` (R400). -/
def execCsrwErrrate (f : Fields) (s : State) : Out := laneExec (csrwErrrateSpec f) f s

/-! ### TLBINV, TLBPROBE (R401, R402) -/

/-- An access that has been translated, of a space and an address that `p` names, is not performed yet. The entry it was
translated under need not be held any more. -/
def State.underEntry (s : State) (p : BitVec 16 → W64 → Bool) : Bool :=
  (s.ms.acc.any fun a => a.loc.isSome && p a.asid a.va) || s.ex.ringWrites.any fun x => p x.asid x.ring

/-- No TLB holds an entry that `m` names; a store that stands dirty in an L1, its line not owned, is performed at `.dev` by its
write-back (Table 6-1, log entry 110). -/
def State.dropEntries (s : State) (m : TlbEntry → Bool) : State :=
  ((List.range 64).foldl (fun s c => s.cleanCore c false) s).modMs fun ms => { ms with tlb := ms.tlb.filter fun t => !m t }

/-- The lanes wait until the accesses are performed, those whose space and address `p` names; then no TLB holds an entry that
`m` names. -/
def tlbinvOp (s : State) (f : Fields) (var : Nat) (a b : SRole) (m : Vals → TlbEntry → Bool) (p : Vals → BitVec 16 → W64 → Bool) :
    Once where
  sig := { var := f.var.toNat == var, q := f.q == 0, priv := true, a := a, b := b, unit := 5 }
  dec := fun _ _ _ _ v => if s.underEntry (p v) then .wait [] else .ok
  act := fun _ _ _ _ v s => s.dropEntries (m v)

/-- The ASID of B. -/
def asidOf (v : Vals) : BitVec 16 := v.b.extractLsb' 0 16

/-- TLBINV of a page. The size of the page that an access was translated under is not recorded: those of the GiB around A
are waited for (log entry 110). -/
def execTlbinvPage (f : Fields) (s : State) : Out :=
  onceExec (tlbinvOp s f 0 .pr .u (fun v t => t.asid == asidOf v && t.vpn == v.a.toNat / 2 ^ pageBits t.level)
    fun v asid va => asid == asidOf v && va.toNat / 2 ^ 30 == v.a.toNat / 2 ^ 30) f s

/-- TLBINV of an address space. -/
def execTlbinvAs (f : Fields) (s : State) : Out :=
  onceExec (tlbinvOp s f 1 .blank .u (fun v t => t.asid == asidOf v) fun v asid _ => asid == asidOf v) f s

/-- TLBINV of everything. -/
def execTlbinvAll (f : Fields) (s : State) : Out := onceExec (tlbinvOp s f 2 .blank .blank (fun _ _ => true) fun _ _ _ => true) f s

/-- The entries of a walk as an engine of a core reads them at `.dev` (R142): each from its home, under what that core's L1
holds of it. -/
def State.settleWalk (s : State) (core : Nat) (sp : Space) (va : W64) : State :=
  (List.range 3).foldl (fun s lv =>
    match s.ms.entryLoc sp va lv with
    | some a => (s.evictSector core (sectorOf a)).openHome a
    | none => s) (s.modMs fun ms => { ms with tag := sp.part })

/-- The tables of the space that an ASID names are settled for a walk. -/
def State.settleProbe (s : State) (core : Nat) (asid : BitVec 16) (va : W64) : State :=
  match s.hub.space asid with
  | some sp => if addressOk sp va then s.settleWalk core sp va else s
  | none => s

/-- What TLBPROBE writes, and whether the entry is poisoned. -/
def probeWord (s : State) (asid : BitVec 16) (va : W64) : W64 × Bool :=
  match s.hub.space asid with
  | none => (0, false)
  | some sp =>
    if !addressOk sp va then (0, false)
    else match walk s.ms sp va with
      | .leaf _ e _ => (e, false)
      | .absent _ e => (e, false)
      | .forbidden _ e => (e, false)
      | .malformed _ => (BitVec.ofNat 64 (2 ^ 64 - 1), false)
      | .poisoned a => (s.ms.entryAt a, true)

def tlbprobeSpec (s : State) (f : Fields) : LaneSpec where
  sig := { var := f.var == 0, q := f.q == 0, priv := true, dst := .vreg true, a := .pr, b := .u, unit := 5 }
  body := fun cx _ l f v =>
    if v.poison then .trap l 13 v.tag false
    else
      let go := fun (s : State) => s.settleProbe cx.w.core (asidOf v) v.a
      let r := probeWord (go s) (asidOf v) v.a
      (write cx l f.dst true r.1 r.2 0).addFx [.act go]
/-- TLBPROBE (R402). -/
def execTlbprobe (f : Fields) (s : State) : Out := laneExec (tlbprobeSpec s f) f s

/-! ### NOPRE (R403) -/

def sigNopre (f : Fields) (var : Nat) : Sig := { var := f.var.toNat == var, q := f.q == 0, fixed := true, unit := 5 }

def nopreBeginSpec (f : Fields) : LaneSpec where
  sig := sigNopre f 0
  body := fun cx _ l _ _ =>
    if l.helper then .done l []
    else if l.nopre = 15 then .trap l 3 (slotVal cx.g 4) false
    else .done { l with nopre := l.nopre + 1 }
      (if cx.w.inRegion then [] else [.act fun s => s.modWg cx.w.id fun w => { w with regionSince := some s.ck.now, overran := false }])
/-- NOPRE.BEGIN (R403). -/
def execNopreBegin (f : Fields) (s : State) : Out := laneExec (nopreBeginSpec f) f s

def nopreEndSpec (f : Fields) : LaneSpec where
  sig := sigNopre f 1
  body := fun _ _ l _ _ => if l.helper then .done l [] else .done { l with nopre := l.nopre - 1 } []
/-- NOPRE.END (R403). -/
def execNopreEnd (f : Fields) (s : State) : Out := laneExec (nopreEndSpec f) f s

/-! ### ERRINJ (R404) -/

def sigErrinj (f : Fields) (tgt : Nat) (d : DRole) (a : SRole) : Sig :=
  { var := f.var == 0, q := bits f.q 11 8 == tgt && bits f.q 7 0 == 0, test := true, dst := d, a := a, unit := 5 }

def errinjRegSpec (f : Fields) : LaneSpec where
  sig := sigErrinj f 0 .vs .blank
  body := fun cx i l f _ =>
    if l.helper then .done l []
    else match f.dst with
      | .v n => .done { l with v := l.v.set (l.entry n.val) { l.reg n.val with poison := true } } []
      | .s n => .done l [.scal n.val { cx.scalar i n.val with poison := true }]
      | _ => .done l []
/-- ERRINJ of a register. -/
def execErrinjReg (f : Fields) (s : State) : Out := laneExec (errinjRegSpec f) f s

def errinjOnceSpec (f : Fields) : LaneSpec where
  sig := sigErrinj f 1 .blank .blank
  body := fun _ _ l _ _ => if l.helper then .done l [] else .done { l with inject := 1 } []
/-- ERRINJ of one mismatch. -/
def execErrinjOnce (f : Fields) (s : State) : Out := laneExec (errinjOnceSpec f) f s

def errinjTwiceSpec (f : Fields) : LaneSpec where
  sig := sigErrinj f 2 .blank .blank
  body := fun _ _ l _ _ => if l.helper then .done l [] else .done { l with inject := 2 } []
/-- ERRINJ of two mismatches. -/
def execErrinjTwice (f : Fields) (s : State) : Out := laneExec (errinjTwiceSpec f) f s

/-- The sector at a location is poisoned at its home. -/
def State.poisonSector (s : State) (core loc : Nat) : State :=
  let s := (s.evictSector core (sectorOf loc)).recall (lineOf loc) none
  s.modMs fun ms => (ms.l2Fill (sectorOf loc)).setPoison (sectorOf loc) true

def errinjSectorSpec (s : State) (f : Fields) : LaneSpec where
  sig := sigErrinj f 3 .blank .pr
  body := fun cx _ l _ v =>
    if l.helper then .done l []
    else if v.poison then .trap l 13 v.tag false
    else
      let go := fun (s : State) => s.agent (engineUnit cx.w.core) (s.space cx.w) v.a .write fun s loc => (s.poisonSector cx.w.core loc, .val 0 false)
      match (go s).2 with
      | .val .. => .done l [.act fun s => (go s).1]
      | .wait => .wait l [.act fun s => (go s).1]
      | .viol => .trapFx l 8 v.a [.act fun s => (go s).1]
      | .poison e => .trapFx l 13 (BitVec.ofNat 64 e) [.act fun s => (go s).1]
/-- ERRINJ of a sector. -/
def execErrinjSector (f : Fields) (s : State) : Out := laneExec (errinjSectorSpec s f) f s

/-! ### CKPT (R405) -/

def ckptOp (s : State) (f : Fields) : Once where
  sig := { var := f.var == 0, q := f.q == 0, dst := .handle, a := .pr, unit := 4 }
  dec := fun cx i _ _ v => if v.a.toNat % 64 ≠ 0 then .trap 9 v.a else if issueHolds s cx i then .hold [] else .ok
  own := fun _ _ l f _ => newHandle s.ck.nextId l f
  act := fun cx _ _ _ v s =>
    let op := s.ck.nextId
    let s := s.startOp op cx.w .ckpt
    { s with cp := { s.cp with ckpts := s.cp.ckpts ++ [{ op, wg := cx.w.id, queue := none, asid := (s.space cx.w).asid, addr := v.a }] } }
/-- CKPT. -/
def execCkpt (f : Fields) (s : State) : Out := onceExec (ckptOp s f) f s

/-! ### HALT (R406) -/

/-- The residents of a core are asked to move. -/
def State.evacuate (s : State) (core : Nat) (why : SaveCause) : State := s.askAll core why

/-- HALT: every lane of the issuing workgroup ends; the core empties and stops. -/
def execHalt (f : Fields) (s : State) : Out :=
  s.withGang fun g w =>
    match check (s.checkCtx w) { var := f.var == 0, q := f.q == 0, fixed := true, priv := true, unit := 5 } f with
    | some (c, sub) => .next (s.trapAll g w c (slotVal g sub))
    | none =>
      if f.gn then .next (s.runLanes g w fun _ l => .done l [])
      else
        let s := (List.range w.lanes.length).foldl (fun s i => if (w.lane i).live then s.exitLane w.id i else s) s
        .next (((s.modCore w.core fun c => { c with halted := true, inService := false }).evacuate w.core .os).reportHalted w.core)

/-! ### CKPT_INCREMENT (R43, R463 to R465) -/

def State.spaceAt (s : State) (asid : BitVec 16) : Space :=
  (s.hub.space asid).getD { asid := asid, root := 0, t := false, part := 0, rlim := 0, privileged := false }

/-- The first job of its context is the one that runs. -/
def State.ckptFirst (s : State) (k : Nat) (j : CkptJob) : Bool := !((s.cp.ckpts.take k).any fun x => x.asid == j.asid)

def State.setJob (s : State) (k : Nat) (j : CkptJob) : State := { s with cp := { s.cp with ckpts := s.cp.ckpts.set k j } }

/-- A job ends: its handle, in the save area where its workgroup is saved (Table 18-8), once the area takes it; or its queue's
failure. -/
def State.endJob (s : State) (k : Nat) (j : CkptJob) (v : Nat) (err : Option ErrMark) : State :=
  let ended := { s with cp := { s.cp with ckpts := s.cp.ckpts.eraseIdx k } }
  if j.op = 0 then ended
  else
    let r := (ended.completeOp j.wg j.op (BitVec.ofNat 32 (min v 0xFFFFFFFF)) err 5).fillArea j.wg
    match r.2 with
    | .wait => { s with ms := r.1.ms }
    | _ => r.1

/-- Pages of a range with D = 1 and TGT 0, at their mapped size, ascending: virtual address, size, location of the
entry. -/
def dirtyPages (ms : MemSys) (sp : Space) (hi : Nat) : Nat → Nat → List (Nat × Nat × Nat)
  | 0, _ => []
  | n + 1, a =>
    if hi ≤ a then []
    else if !addressOk sp (BitVec.ofNat 64 a) then dirtyPages ms sp hi n ((a / 65536 + 1) * 65536)
    else
      let step := fun (lv : Nat) => 2 ^ pageBits lv
      match walk ms sp (BitVec.ofNat 64 a) with
      | .leaf lv e ent =>
        let va := a / step lv * step lv
        let rest := dirtyPages ms sp hi n (va + step lv)
        if e.getLsbD 55 && bits e 53 52 == 0 then (va, step lv, ent) :: rest else rest
      | _ => dirtyPages ms sp hi n ((a / 65536 + 1) * 65536)

/-- An entry written at its home, and its translations invalidated on every die. -/
def MemSys.putEntry (ms : MemSys) (ent : Nat) (e : W64) : MemSys :=
  let ms := ms.homeWrite (sectorOf ent) (byteMask (ent % 32) 8) (wideBytes (ent % 32) (bytesLE 8 e.toNat)) false
  { ms with tlb := ms.tlb.filter fun t => t.entry != ent }

/-- D is cleared in an entry by a read-modify-write at L2, and its translations are invalidated on every die. -/
def State.clearD (s : State) (ent : Nat) : State :=
  (s.recall (lineOf ent) none).modMs fun ms => ms.putEntry ent (ms.entryAt ent &&& ~~~ (1#64 <<< 55))

/-- A bad field of a descriptor (Table 26-2). -/
def ckptBad (base len dest : Nat) : Bool := base % 65536 != 0 || len == 0 || len % 65536 != 0 || dest % 64 != 0

/-- The dirty sectors that cores hold of a page reach the home. -/
def State.cleanPage (s : State) (loc n : Nat) : State :=
  (s.ms.l1.filter fun x => decide (loc ≤ x.loc) && decide (x.loc < loc + n) && x.dirty != 0).foldl State.writeBack s

/-- Words written at consecutive addresses of the log, in host memory (TGT 0b01). -/
def State.logWords (s : State) (sp : Space) (a : W64) (ws : List W64) : State × Got × W64 :=
  putWords (fun s a n v p => s.agent hubUnit sp a .write fun s loc =>
    if locTgt loc = 1 then (s.homeStore loc n v p, .val 0 false) else (s, .viol)) s a (ws.map fun w => (w, false))

/-- A page's words at its home, poisoned sectors as zero, and whether it holds any. -/
def State.pageWords (s : State) (loc : Nat) : Nat → State × List W64 × Bool
  | 0 => (s, [], false)
  | n + 1 =>
    match s.homeRead loc 8 with
    | (s, .val v p) =>
      let r := s.pageWords (loc + 8) n
      (r.1, (if p then 0 else BitVec.ofNat 64 v) :: r.2.1, p || r.2.2)
    | (s, _) => (s, [], false)

/-- The increment begins: the descriptor, the room, and D cleared (R464, R43). -/
def State.ckptBegin (s : State) (k : Nat) (j : CkptJob) : State :=
  let sp := s.spaceAt j.asid
  match s.agentWords hubUnit sp j.addr 6 with
  | (s, .error .wait) => s
  | (s, .error g) => s.endJob k j 0 (g.err j.addr)
  | (s, .ok (ws, p)) =>
    let wd := fun n => (ws.getD n 0).toNat
    if p then s.endJob k j 0 (some { cause := 13, tval := j.addr })
    else if ckptBad (wd 0) (wd 1) (wd 2) then s.endJob k j 0 (some { cause := 8, tval := j.addr })
    else
      let ps := dirtyPages s.ms sp (wd 0 + wd 1) (wd 1 / 65536 + 1) (wd 0)
      if wd 3 < wd 4 + ps.foldl (fun n x => n + 64 + x.2.1) 0 then
        s.endJob k j 0 (some { cause := 8, tval := BitVec.ofNat 64 (wd 2 + wd 4) })
      else
        let s := ps.foldl (fun s x => s.clearD x.2.2) s
        s.setJob k { j with run := some { mark := s.ck.nextId, pages := ps.map fun x => (x.1, x.2.1), done := 0
                                          dest := ws.getD 2 0, incr := lo32 (ws.getD 5 0), used := ws.getD 4 0 } }

/-- A record cannot be made: the increment makes no other, and ends with an error. -/
def CkptRun.fail (r : CkptRun) (e : ErrMark) : CkptRun := { r with pages := [], failed := some e }

/-- The record of a page: its header, and its words with poisoned sectors as zero (R464). -/
def CkptRun.record (r : CkptRun) (va n : Nat) (words : List W64) (poison : Bool) : List W64 :=
  [BitVec.ofNat 64 va, BitVec.ofNat 64 n, zx (r.incr + 1), if poison then 1 else 0, 0, 0, 0, 0] ++ words

/-- One page is appended to the log, whatever its R bit says: R464 counts the pages with D = 1. -/
def State.ckptCopy (s : State) (sp : Space) (k : Nat) (j : CkptJob) (r : CkptRun) (va n : Nat) (rest : List (Nat × Nat)) : State :=
  match s.ms.locOf sp (BitVec.ofNat 64 va) with
  | some loc =>
    let pw := (s.cleanPage loc n).pageWords loc (n / 8)
    (match pw.1.logWords sp (r.dest + r.used) (r.record va n pw.2.1 pw.2.2) with
     | (s, .wait, _) => s
     | (s, .val .., _) =>
       s.setJob k { j with run := some { r with pages := rest, done := r.done + 1, used := r.used + BitVec.ofNat 64 (64 + n) } }
     | (s, g, a) => s.setJob k { j with run := some (r.fail ((g.err a).getD { cause := 8, tval := a })) })
  | none =>
    (match walkOutcome s.ms sp (BitVec.ofNat 64 va) .read with
     | .fault => s.modMs (·.faultNote sp.asid (BitVec.ofNat 64 va))
     | .poison e => s.setJob k { j with run := some (r.fail { cause := 13, tval := BitVec.ofNat 64 e }) }
     | _ => s.setJob k { j with run := some (r.fail { cause := 8, tval := BitVec.ofNat 64 va }) })

/-- The end of an increment that has cleared D: DUSED and INCR are written, with a release at `.sys` (R463); one that ends with
an error too, so that DUSED says what the log holds (log entry 109). -/
def State.ckptFinish (s : State) (sp : Space) (k : Nat) (j : CkptJob) (r : CkptRun) : State :=
  match s.agentPuts hubUnit sp (j.addr + 32) [(r.used, false), (zx (r.incr + 1), false)] with
  | (s, .val ..) => (s.modMs (·.cleanHosts)).endJob k j r.done r.failed
  | (s, .wait) => s
  | (s, g) => s.endJob k j r.done (r.failed.or (g.err j.addr))

/-- The next page's record, once every write translated before the clear is performed; then the end. -/
def State.ckptPage (s : State) (k : Nat) (j : CkptJob) (r : CkptRun) : State :=
  let sp := s.spaceAt j.asid
  let old := fun (va n : Nat) => s.ms.acc.any fun a => decide (a.id < r.mark) && a.asid == j.asid && a.loc.isSome
    && decide (va ≤ a.va.toNat) && decide (a.va.toNat < va + n)
  if r.pages.any (fun x => old x.1 x.2) || s.ex.ringWrites.any (fun x => x.asid == j.asid) then s
  else match r.pages with
    | [] => s.ckptFinish sp k j r
    | (va, n) :: rest => s.ckptCopy sp k j r va n rest

/-- CKPT_INCREMENT (R464): job `k` takes its next step. -/
def execCkptIncrement (k : Nat) (s : State) : Out :=
  match s.cp.ckpts[k]? with
  | none => .next s
  | some j =>
    if !s.ckptFirst k j then .next s
    else .next (match j.run with
      | none => s.ckptBegin k j
      | some r => s.ckptPage k j r)

end Sys2Proof.Machine
end

