-- ==== Sys2Proof/Machine/Saves.lean ====
section
/-! DEFINITION. Pre-emption: saving a workgroup and restoring it, regions, in-field test, halted cores, and the ends of a
lane's bounded waits (spec/18 R414 to R421, spec/08 R173, R191, spec/13 R293, spec/11 R232). An event that is not enabled
leaves the state. -/
namespace Sys2Proof.Machine

/-! ### Before a save (R416, Table 18-8) -/

/-- A lane that a save finds at a clause boundary, or at an instruction at which it is blocked. One whose wait may have ended
finishes its clause first (R171), but for one that has taken a pipeline-error trap (R414). -/
def Lane.settled (l : Lane) : Bool :=
  !l.live || (l.pc == l.clause && l.rep == 0) || l.pipe || l.wait != .none || (l.since.isSome && !l.retry)

/-- Copies, queued VEERs and merges of a workgroup are cancelled as by FCANCEL. -/
def State.settleOps (s : State) (wg : Nat) : State :=
  (s.ex.ops.filter fun o => o.wg == wg).foldl (fun s o =>
    match o.kind with
    | .cpy .. => s.cancelOp o.id
    | .veer _ => s.cancelOp o.id
    | .kmerge .. => s.cancelOp o.id
    | _ => s) s

/-- Nothing of the workgroup is in flight that must complete before its state is written. An ITRSAVE or ITRLOAD that is queued
behind a pull which has not committed is among it (DESIGN CHOICE, log entry 106): it is waited for. -/
def State.quietWg (s : State) (w : Wg) : Bool :=
  !(s.ms.acc.any (·.wg == w.id)) && !(s.ms.maint.any (·.wg == w.id)) && !(s.ex.ringWrites.any (·.wg == w.id))
    && (s.ex.ops.all fun o => o.wg != w.id || o.kind == .ckpt)
    && (w.mx.all fun m => m.cell.isNone)
    && (w.tiles.all fun t => !t.freeing && t.queue.isEmpty && (t.state == .empty || t.state == .ready))

/-- A lane as it is saved: a JOIN or DOZE wait is over; its clause is fetched and its translation walked afresh. -/
def Lane.saved (l : Lane) : Lane :=
  { l with
    walked := [], atPort := false, atTile := [], since := none, slotFrom := none, retry := false, pipe := false
    code := [], gang := 0, passed := 0, shy := 0, hint := false
    wait := match l.wait with
      | .join .. => .none
      | .doze _ => .none
      | w => w }

/-- The workgroup off its core: tiles clean, iterator and matrix slots without a physical one. -/
def Wg.saved (w : Wg) : Wg :=
  { w with
    place := .saved, saveAsked := none, forSlot := w.saveAsked == some .iter, offers := [], reached := []
    lanes := w.lanes.map Lane.saved
    itr := w.itr.map fun x => { x with bound := false }
    mx := w.mx.map fun m => { m with since := none, slots := m.slots.map fun t => t.map fun t => { t with phys := 4 } } }

/-- A core keeps no weights, misses or link holds of a workgroup. -/
def State.dropTraces (s : State) (w : Wg) : State :=
  let s := s.modCore w.core fun c => { c with weights := c.weights.map fun x => if x.any (fun y => y.1 == w.id) then none else x }
  let s := s.modMs fun ms =>
    let drop := fun (m : Miss) => { m with lanes := m.lanes.filter fun x => x.1 != w.id }
    { ms with misses := ms.misses.map drop, missq := ms.missq.map drop }
  { s with net := { s.net with links := s.net.links.map fun (l : Link) =>
      match l.hold with
      | some h => if h.1 == w.id then { l with hold := none } else l
      | none => l } }

/-- Cores that a workgroup may run on. -/
def State.permitted (s : State) (w : Wg) : List Nat := (List.range 64).filter fun c => affPermits (s.launch w).aff w.index c

/-- A tile whose write-back is held at a save. -/
def State.tileFault (s : State) (w : Wg) : Option Tile := w.tiles.find? fun t => s.drainHeld w t

/-- Step 4: dirty tiles and the core's dirty sectors reach their homes, at `.sys`; the image is written to the save area. Where
the area violates, the save cannot be completed, and the node fails (R420). -/
def State.writeSave (s0 : State) (w : Wg) : State :=
  let s := w.tiles.foldl (fun s t =>
    let r := s.drainTile w t
    if r.2 then r.1.modTile w.id t.idx Tile.cleaned else r.1) s0
  let s := (s.cleanCore w.core true).modMs (·.cleanHosts)
  let s := (s.dropTraces w).modWg w.id Wg.saved
  match s.fillArea w.id with
  | (s, .val ..) => s.reportHalted w.core
  | (s, .wait) => s0.modMs fun ms => { ms with faults := s.ms.faults }
  | _ => (s0.note (.saveFailed w.id)).failNode w.node 5

/-- WORKGROUP_SAVE (R416): a save that was asked for and is not deferred; a workgroup that only a quarantined core may run
fails with CODE 5 (R414). -/
def execWorkgroupSave (wg : Nat) (why : SaveCause) (s : State) : Out :=
  match s.wg? wg with
  | none => .next s
  | some w =>
    if w.place != .core w.core || w.saveAsked != some why || w.defers || !(w.lanes.all Lane.settled) then .next s
    else if why == .quarantine && s.permitted w == [w.core] then .next (s.failNode w.node 5)
    else
      let s := s.settleOps wg
      match s.wg? wg with
      | none => .next s
      | some w =>
        if !s.quietWg w then .next s
        else match s.tileFault w with
          | some t => .next (if s.drainFaults w t then s.modMs (·.faultNote (s.space w).asid t.vpage) else s)
          | none => .next (s.writeSave w)

/-! ### Restore (R419) -/

/-- No tile of another workgroup of the core mirrors a block of this one's tiles, by whatever address. -/
def State.tilesFit (s : State) (w : Wg) (core : Nat) : Bool :=
  w.tiles.all fun t => (s.tileAt { w with place := .core core, tiles := [] } t.vpage).isNone
    && (s.tileLoc w t).all fun loc => (s.tileOn core loc).isNone

/-- Physical matrix slots of a core are given out; a restored slot that finds none waits from now on (R210, R373). -/
def State.rebind (s : State) (wg core : Nat) : State :=
  (List.range 4).foldl (fun s q =>
    let s := s.bindSlots core q
    if (s.wg? wg).any fun u => (List.range 4).any (u.quarter q).unloaded then s.slotWaits wg q else s) s

/-- A saved workgroup goes on, on a core. -/
def State.restoreWg (s : State) (w : Wg) (core : Nat) : State :=
  let base := (s.tileBaseFor core (s.tilesOf w)).getD 0
  let s := s.modWg w.id fun w => ({ w with place := .core core, tileBase := base, forSlot := false } : Wg).syncHelpers
  let s := { s with ex := { s.ex with ops := s.ex.ops.map fun (o : EngineOp) => if o.wg == w.id then { o with core } else o } }
  let s := s.modNode w.node fun n => { n with map := n.map.map fun (x : Nat × Nat) => if x.1 == w.index then (w.index, core) else x }
  let s := w.tiles.foldl (fun s t => match s.wg? w.id with
    | some u => s.dropBlock u t.vpage
    | none => s) s
  ((s.chooseSplit core).modMs (·.dropClean core)).rebind w.id core

/-- A restore reads the save area: DONE must be set, and an error there fails the node (R420). -/
def State.restoreFrom (s : State) (w : Wg) (core : Nat) : State :=
  match s.readArea w with
  | (s, .val v p) => if p then (s.note (.saveFailed w.id)).failNode w.node 5 else if v = 0 then s else s.restoreWg w core
  | (s, .wait) => s
  | (s, _) => (s.note (.saveFailed w.id)).failNode w.node 5

/-- A restore happens on a core that the affinity permits and that has room. -/
def State.tryRestore (s : State) (wg core : Nat) : State :=
  match s.wg? wg with
  | none => s
  | some w =>
    let p := s.launch w
    if w.place != .saved || !s.coreTakes core || !affPermits p.aff w.index core
        || !s.room core p (s.space w).part.toNat || !s.tilesFit w core || (w.forSlot && decide (32 ≤ s.itrHeld core)) then s
    else s.restoreFrom w core

/-- WORKGROUP_RESTORE (R419). -/
def execWorkgroupRestore (wg core : Nat) (s : State) : Out := .next (s.tryRestore wg core)

/-! ### Regions and in-field test (R417, R421) -/

/-- The test of a core is skipped for this round. -/
def State.skipTest (s : State) (core : Nat) : State :=
  let s := s.modCore core fun c => { c with testing := false }
  let clear := fun (w : Wg) => if w.onCore core && w.saveAsked == some .test then { w with saveAsked := none } else w
  let s := { s with ex := { s.ex with wgs := s.ex.wgs.map clear } }
  s.note (.testSkipped core)

/-- NOPRE_BOUND_EXPIRY (R417, R421): at the bound the test that is due on the core is skipped; a save for another source goes
on, and the overrun is logged. -/
def execNopreBoundExpiry (wg : Nat) (s : State) : Out :=
  match s.wg? wg with
  | none => .next s
  | some w =>
    match w.regionSince, w.saveAsked with
    | some t, some why =>
      if !w.inRegion || w.place != .core w.core || s.ck.now < t + s.hub.regionBound then .next s
      else
        let s := if (s.core w.core).testing then s.skipTest w.core else s
        if why == .test || w.overran then .next s
        else .next ((s.modWg wg fun w => { w with overran := true }).note (.overrun wg))
    | _, _ => .next s

/-- INFIELD_TEST_DUE (R421): the core takes no new workgroups and its residents are asked to move; one pinned to the core
alone skips the test. -/
def execInfieldTestDue (core : Nat) (s : State) : Out :=
  let c := s.core core
  if 64 ≤ core || c.testing || c.halted then .next s
  else if (s.residents core).any (fun w => s.permitted w == [core]) then .next (s.note (.testSkipped core))
  else .next ((s.modCore core fun c => { c with testing := true }).evacuate core .test)

/-- A core as it returns to service (R462). -/
def Core.returned (c : Core) : Core :=
  { c with testing := false, quarantined := false, halted := false, inService := true, errrate := 0, errseed := 1, x := 1 }

/-- INFIELD_TEST_RESULT (R421): the test has run on the empty core. -/
def execInfieldTestResult (core : Nat) (pass : Bool) (s : State) : Out :=
  if !(s.core core).testing || !(s.residents core).isEmpty then .next s
  else if pass then .next (s.modCore core Core.returned)
  else .next ((s.modCore core fun c => { c with testing := false, quarantined := true }).note (.coreFailed core))

/-- HALTED_CORE_RETURN (R406). -/
def execHaltedCoreReturn (core : Nat) (s : State) : Out :=
  if !(s.core core).halted || !(s.residents core).isEmpty then .next s
  else .next (s.modCore core Core.returned)

/-! ### Iterator slot shortage (R232) -/

/-- A lane of the workgroup has waited 20 µs for a physical iterator slot (R232). -/
def State.slotLong (s : State) (w : Wg) : Bool :=
  w.lanes.any fun l => l.live && l.slotFrom.any fun t => decide (t + 20000 ≤ s.ck.now)

/-- ITERATOR_SLOT_MOVE (R232): a workgroup that has waited 20 µs for a physical slot is saved and restored on a permitted
core that has one. -/
def execIteratorSlotMove (wg core : Nat) (s : State) : Out :=
  match s.wg? wg with
  | none => .next s
  | some w =>
    match w.place with
    | .core c =>
      if s.itrHeld c < 32 || 32 ≤ s.itrHeld core || !s.coreTakes core || !affPermits (s.launch w).aff w.index core
          || !s.slotLong w then .next s
      else .next (s.modWg wg (·.ask .iter))
    | .saved => .next (if s.itrHeld core < 32 then s.tryRestore wg core else s)
    | .ended _ => .next s

/-! ### Bounded waits of lanes -/

/-- JOIN_TIMEOUT (R173): a quad that has waited 64 arithmetic clocks at a JOIN's target is offered. -/
def execJoinTimeout (wg quad : Nat) (s : State) : Out :=
  let offer := fun (i : Nat) (l : Lane) =>
    match l.wait with
    | .join _ 0 => if i / 4 == quad then { l with wait := .none } else l
    | _ => l
  .next (s.modWg wg fun w => { w with lanes := mapLanes offer 0 w.lanes })

/-- DOZE_EXPIRY (R293). -/
def execDozeExpiry (wg lane : Nat) (s : State) : Out :=
  .next (s.modWg wg (·.modLane lane fun l =>
    match l.wait with
    | .doze 0 => { l with wait := .none }
    | _ => l))

/-- A group that has not issued for 256 arithmetic clocks leaves the active set; its registers keep their values (R191). -/
def State.fall (s : State) (g : Group) : Group :=
  if 256 ≤ s.clocks (s.ck.now - g.lastIssue) then { g with doldrums := true } else g

/-- DOLDRUMS_ENTRY (R191). -/
def execDoldrumsEntry (wg grp : Nat) (s : State) : Out :=
  .next (s.modWg wg fun w => { w with groups := upd w.groups grp s.fall })

end Sys2Proof.Machine
end

