-- ==== Sys2Proof/Machine/Migrate.lean ====
section
/-! DEFINITION. Homes that move: heat records and migration (spec/02 R38 to R42), sticks drained, lost and replaced
(spec/03 R77, spec/27 R473), and compressed optimiser state (spec/02 R44 to R46).  An event that is not enabled leaves the
state. -/
namespace Sys2Proof.Machine

/-! ### Leaves of the registered spaces -/

/-- A leaf: level, location of its entry, entry. -/
structure LeafAt where
  level : Nat
  ent   : Nat
  entry : W64
  deriving DecidableEq, Repr

/-- Addresses of the entries of a table that memory lists. -/
def MemSys.entriesIn (ms : MemSys) (lo n : Nat) : List Nat :=
  ((ms.mem.filter fun c => decide (lo ≤ c.1) && decide (c.1 < lo + 8 * n)).map fun c => c.1 / 8 * 8).eraseDups

/-- The leaves below a table, with `depth` levels from here; and the tables themselves, with their bytes. -/
def MemSys.leavesIn (ms : MemSys) : Nat → Nat → Nat → Nat → List LeafAt × List (Nat × Nat)
  | 0, _, _, _ => ([], [])
  | depth + 1, level, table, n =>
    (ms.entriesIn table n).foldl (fun acc a =>
      let e := ms.entryAt a
      if !e.getLsbD 63 then acc
      else if e.getLsbD 62 then (({ level, ent := a, entry := e } : LeafAt) :: acc.1, acc.2)
      else
        let r := ms.leavesIn depth (level + 1) (bits e 47 8 * 256) (if level = 0 then 512 else 32)
        (r.1 ++ acc.1, r.2 ++ acc.2)) ([], [(table, 8 * n)])

/-- The table pointers below a table: the location of each, and the table that it names. -/
def MemSys.pointersIn (ms : MemSys) : Nat → Nat → Nat → List (Nat × Nat)
  | 0, _, _ => []
  | depth + 1, table, n =>
    (ms.entriesIn table n).foldl (fun acc a =>
      let e := ms.entryAt a
      if e.getLsbD 63 && !e.getLsbD 62 then
        (a, bits e 47 8 * 256) :: (ms.pointersIn depth (bits e 47 8 * 256) (if depth = 2 then 512 else 32) ++ acc)
      else acc) []

/-- Every table pointer that a registered space reaches. -/
def State.pointers (s : State) : List (Nat × Nat) :=
  s.hub.spaces.flatMap fun sp => s.ms.pointersIn 3 (sp.root.toNat * 4096) (512 * (sp.rlim.toNat + 1))

/-- Every leaf that a registered space reaches, and every table. -/
def State.leaves (s : State) : List LeafAt × List (Nat × Nat) :=
  s.hub.spaces.foldl (fun acc sp =>
    let r := s.ms.leavesIn 3 0 (sp.root.toNat * 4096) (512 * (sp.rlim.toNat + 1))
    (r.1 ++ acc.1, r.2 ++ acc.2)) ([], [])

/-- First physical byte of a leaf's frame. -/
def LeafAt.frame (l : LeafAt) : Nat := bits l.entry 47 16 * 65536
def LeafAt.module (l : LeafAt) : Bool := bits l.entry 53 52 == 0
def LeafAt.pinned (l : LeafAt) : Bool := l.entry.getLsbD 58

/-- The leaf maps a part of a 2 MiB region. -/
def LeafAt.maps (l : LeafAt) (region : Nat) : Bool :=
  l.module && decide (l.frame / 2 ^ 21 ≤ region) && decide (region * 2 ^ 21 < l.frame + 2 ^ pageBits l.level)

/-! ### Regions -/

def regionStick (r : Nat) : Nat := r / 2 ^ 16
def regionDie (r : Nat) : Nat := regionStick r / 6

/-- The regions that a range of bytes lies in: the first, and the one after the last. -/
def regionsOf (x : Nat × Nat) : Nat × Nat := (x.1 / 2 ^ 21, (x.1 + x.2 - 1) / 2 ^ 21 + 1)

/-- The bytes of a stick's size table that hold the entries of its compressed pages. -/
def State.sizeBytes (s : State) (st : StickSetup) : Nat :=
  s.leaves.1.foldl (fun n l =>
    if l.entry.getLsbD 57 && l.frame / 2 ^ 37 == st.stick then
      max n (4 * (l.frame / 32768 + bits l.entry 15 15 + 1 - st.pool.toNat / 32768))
    else n) 4

/-- The size tables of some sticks, with their bytes. -/
def State.sizeTables (s : State) (p : StickSetup → Bool) : List (Nat × Nat) :=
  (s.ms.setup.filter p).map fun st => (st.base.toNat, s.sizeBytes st)

/-- Every table, with its bytes: page tables, and the size tables of the sticks. -/
def State.tables (s : State) : List (Nat × Nat) := s.leaves.2 ++ s.sizeTables fun _ => true

/-- A run of regions takes in the regions of every table that lies in it; `n` times over. -/
def joinTables (ts : List (Nat × Nat)) : Nat → Nat × Nat → Nat × Nat
  | 0, r => r
  | n + 1, r => joinTables ts n (ts.foldl (fun r x =>
      let y := regionsOf x
      if y.1 < r.2 && r.1 < y.2 then (min r.1 y.1, max r.2 y.2) else r) r)

/-- The regions that migrate together with a region: those that a table across their ends joins, since one base names all of
it (log entry 24). -/
def State.joined (s : State) (r : Nat) : Nat × Nat := joinTables s.tables (s.tables.length + 1) (r, r + 1)

/-- A region that may move (R39): no pinned or 1 GiB page maps it, and no register page lies in it. Tables that lie in it move
with it. -/
def State.movable (s : State) (r : Nat) : Bool :=
  !(s.leaves.1.any fun l => l.maps r && (l.pinned || l.level == 0)) && !(s.ms.pages.any fun g => inRegion r g.addr)

/-- A region that holds nothing: a frame that a migration may take. -/
def State.freeRegion (s : State) (r : Nat) : Bool :=
  decide (regionStick r < 24) && !s.ms.lost.contains (regionStick r) && !s.ms.draining.contains (regionStick r)
    && !(s.leaves.1.any fun l => l.maps r) && !(s.tables.any fun x => decide ((regionsOf x).1 ≤ r) && decide (r < (regionsOf x).2))
    && !(s.ms.migs.any fun m => m.fills (r * 2 ^ 21) || m.takes (r * 2 ^ 21)) && !(s.ms.pages.any fun g => inRegion r g.addr)

/-- A write already translated to the region is not performed yet (R40). -/
def State.writesPending (s : State) (r : Nat) : Bool :=
  (s.ms.acc.any fun a => !a.isLoad && a.loc.any (inRegion r)) || (s.ex.ringWrites.any fun x => (x.wloc :: x.locs).any (inRegion r))

/-! ### Policy (Table 2-8) -/

/-- The candidates that one record makes: every die whose count passes the ratio and the floor. -/
def candidates (ratio floor : Nat) (h : Heat) : List (Nat × Nat) :=
  let home := h.counts.getD (regionDie h.region) 0
  (List.range 4).filterMap fun d =>
    if d != regionDie h.region && ratio * home ≤ h.counts.getD d 0 && floor ≤ h.counts.getD d 0 then some (h.region, d) else none

/-- A die's records are evaluated and cleared; the next epoch has begun (R38). -/
def State.endEpoch (s : State) (die : Nat) : State :=
  let mine := fun (h : Heat) => regionDie h.region == die
  let (ratio, floor, _, _) := s.ms.policy
  s.modMs fun ms =>
    let e := ms.epochs.getD die 0
    { ms with
      epochs := ms.epochs.set die (e + (s.ck.now - e) / 100000 * 100000)
      heat := ms.heat.filter fun h => !mine h
      cands := ms.cands.filter (fun c => regionDie c.1 != die) ++ (ms.heat.filter mine).flatMap (candidates ratio floor) }

/-- A die's epoch of 100 µs is over. -/
def State.epochOver (s : State) (die : Nat) : Bool := decide (s.ms.epochs.getD die 0 + 100000 ≤ s.ck.now)

/-- MIGRATION_EPOCH (R38). -/
def execMigrationEpoch (die : Nat) (s : State) : Out := .next (if s.epochOver die then s.endEpoch die else s)

/-- Every epoch that is over ends. -/
def State.endEpochs (s : State) : State := (List.range 4).foldl (fun s d => if s.epochOver d then s.endEpoch d else s) s

/-- The region has rested since its last migration. -/
def State.rested (s : State) (r rest : Nat) : Bool :=
  s.ms.migrated.all fun m => m.1 != r || decide (m.2 + rest ≤ s.ck.now)

/-- The migrations in flight toward a die. -/
def State.toward (s : State) (die : Nat) : Nat := (s.ms.migs.filter fun m => regionDie m.frame == die).length

/-- The module OS or the policy asks for a region to move to a frame. The migrations of a drain do not wait for Rest and
Concurrency, which Table 2-8 gives for the policy: the manual does not say whether they bind a drain (DESIGN CHOICE, log
entry 95). -/
def State.wanted (s : State) (r f : Nat) : Bool :=
  let (_, _, rest, conc) := s.ms.policy
  s.ms.draining.contains (regionStick r)
    || (s.ms.cands.contains (r, regionDie f) && s.rested r rest && decide (s.toward (regionDie f) < conc))

/-! ### Steps (Table 2-9) -/

/-- The lines that L1s and tiles own among some locations. -/
def State.ownedLines (s : State) (p : Nat → Bool) : List Nat :=
  ((s.ms.l1.filter fun x => x.owned && p x.loc).map fun x => lineOf x.loc)
    ++ s.ex.wgs.flatMap fun w => w.tiles.flatMap fun t =>
      match s.tileLoc w t with
      | some loc => if p loc then ((List.range 32).filter t.owned.getLsbD).map fun k => loc + 128 * k else []
      | none => []

/-- Copy engines of the hub take the migrations in their order; one whose migration is over is free (R7). That the checkpoint
streamer is engine 7, and takes none, is a DESIGN CHOICE (log entry 108). -/
def State.giveEngines (s : State) : State :=
  let es := s.hub.copyEngines.map fun e => e.filter fun r => s.ms.migs.any (·.region == r)
  let es := s.ms.migs.foldl (fun es m =>
    if es.contains (some m.region) then es
    else match (List.range 7).find? fun k => (es.getD k none).isNone with
      | some k => es.set k (some m.region)
      | none => es) es
  { s with hub := { s.hub with copyEngines := es } }

/-- The migration that moves a region to a frame, with the regions that a table joins to it. -/
def State.migration (s : State) (r f : Nat) : Migration :=
  let j := s.joined r
  { region := j.1, frame := f - (r - j.1), start := s.ck.now, span := j.2 - j.1 }

/-- A migration may start: every region of it is movable, nothing of it is written still, and its frames are free. Regions that a
table joins move when their stick is drained. -/
def State.canMigrate (s : State) (m : Migration) : Bool :=
  (List.range m.span).all (fun k => s.movable (m.region + k) && s.freeRegion (m.frame + k) && !s.writesPending (m.region + k)
      && !(s.ms.migs.any fun x => x.takes ((m.region + k) * 2 ^ 21)))
    && (m.span == 1 || s.ms.draining.contains (regionStick m.region) || s.ms.draining.contains (regionStick (m.region + m.span - 1)))

/-- MIGRATION_START (R40, Table 2-9): the region is marked, its lines are recalled, and L2's dirty sectors of it cleaned. -/
def execMigrationStart (region frame : Nat) (s : State) : Out :=
  let m := s.migration region frame
  if !s.wanted region frame || frame < region - m.region || !s.canMigrate m then .next s
  else
    let s := s.modMs fun ms => { ms with migs := ms.migs ++ [m] }
    let s := (s.ownedLines m.takes).foldl (fun s line => s.recall line none) s
    .next (((s.ms.l2.filter fun x => m.takes x.line && x.dirty != 0).foldl (fun s x => s.modMs (·.l2Clean x.line)) s).giveEngines)

/-- An entry names the new frame; the rest of it stays (R41). -/
def Migration.entry (m : Migration) (l : LeafAt) : W64 := setBits l.entry 16 32 (m.to l.frame / 65536)

/-- A table pointer after a move. -/
def Migration.pointer (m : Migration) (e : W64) : W64 := setBits e 8 40 (m.to (bits e 47 8 * 256) / 256)

/-- Table pointers, root tables and size tables name their new places; held translations know their entries there. -/
def State.moveTables (s : State) (m : Migration) (ps : List (Nat × Nat)) : State :=
  let s := ps.foldl (fun s p => if m.takes p.2 then s.modMs fun ms =>
      { ms with mem := ms.mem.writeBytes (m.to p.1) (bytesLE 8 (m.pointer (ms.entryAt (m.to p.1))).toNat) }
    else s) s
  let root := fun (sp : Space) => { sp with root := BitVec.ofNat 36 (m.to (sp.root.toNat * 4096) / 4096) }
  let base := fun (st : StickSetup) => { st with base := BitVec.ofNat 64 (m.to st.base.toNat) }
  { s with hub := { s.hub with spaces := s.hub.spaces.map root }
           ms := { s.ms with setup := s.ms.setup.map base, tlb := s.ms.tlb.map fun t => { t with entry := m.to t.entry } } }

/-- The bytes that a migration moves stand at their new frames. L2 holds no line of either, and no line of them is owned. -/
def MemSys.moveBytes (ms : MemSys) (m : Migration) : MemSys :=
  let here := fun loc => m.takes loc || m.fills loc
  let rest := ms.mem.filter fun c => !here c.1
  { ms with
    mem := (ms.mem.filter fun c => m.takes c.1).foldl (fun (x : Memory) c => x.write (m.to c.1) c.2) rest
    poison := ((ms.poison.filter fun k => !m.fills (32 * k)).map fun k => m.to (32 * k) / 32).foldr insertNat []
    l1 := (ms.l1.filter fun x => !m.fills x.loc).map fun x => { x with loc := m.to x.loc }
    l2 := ms.l2.filter fun x => !here x.line
    dir := ms.dir.filter fun e => !here e.line
    acc := ms.acc.map fun a => { a with loc := a.loc.map m.to }
    heat := ms.heat.filter fun h => !m.takes (h.region * 2 ^ 21)
    cands := ms.cands.filter fun c => !m.takes (c.1 * 2 ^ 21) }

/-- The size-table entry of a page that moved with its region. -/
def MemSys.movePage (ms : MemSys) (page : Nat) : MemSys :=
  match ms.setup.find? (·.stick == locStick (3 * 2 ^ 48 + page * 65536)) with
  | some st => if ms.overflow.any (·.page == page) then ms else
      ms.setSize st page (sizeEntry none (max 1 (Config.compressedSectors (ms.mem.readBytes (3 * 2 ^ 48 + page * 65536) 65536))))
  | none => ms

/-- The location of a compressed page, by its slot. -/
def slotLoc (page : Nat) : Nat := 3 * 2 ^ 48 + page * 65536

/-- Compressed pages move with their size-table entries (R39): a page in overflow takes a slot of its new stick. -/
def MemSys.movePages (ms : MemSys) (m : Migration) (ls : List LeafAt) : MemSys :=
  let mine := fun (o : Overflow) => m.takes (slotLoc o.page)
  let old := ms.overflow.filter mine
  let back := fun (x : StickSetup) =>
    { x with slots := x.slots ++ (old.filter fun o => locStick (slotLoc o.page) == x.stick).filterMap (·.slot) }
  let ms : MemSys := { ms with overflow := ms.overflow.filter fun o => !mine o, setup := ms.setup.map back }
  let ms := old.foldl (fun ms o =>
    match ms.setup.find? (·.stick == locStick (m.to (slotLoc o.page))) with
    | some st => ms.overflowPage st (pageSlot (m.to (slotLoc o.page)))
    | none => ms) ms
  (ls.filter fun l => l.entry.getLsbD 57).foldl (fun ms l => ms.movePage (m.to l.frame / 32768 + bits l.entry 15 15)) ms

/-- A migration ends (Table 2-9): the bytes, then the entries and the tables, name the new frames, and the translations of the
old ones are invalid on every die. -/
def State.migrate (s : State) (m : Migration) : State :=
  let ls := s.leaves.1.filter fun l => (List.range m.span).any fun k => l.maps (m.region + k)
  let ps := s.pointers
  let s := ls.foldl (fun s l => s.modMs fun ms => { ms with
    mem := ms.mem.writeBytes (m.to l.ent) (bytesLE 8 (m.entry l).toNat)
    tlb := ms.tlb.filter fun t => t.entry != l.ent }) (s.modMs (·.moveBytes m))
  let ended := (List.range m.span).map fun k => (m.frame + k, s.ck.now)
  ((s.moveTables m ps).modMs fun ms => ({ ms with
    migs := ms.migs.filter fun x => x.region != m.region
    migrated := ended ++ ms.migrated.filter fun x => !m.takes (x.1 * 2 ^ 21) && !m.fills (x.1 * 2 ^ 21) } : MemSys).movePages m ls).giveEngines

/-- MIGRATION_COPY_COMPLETE (R40): the copy, the entries, the translations; waiting writes replay at the new home. -/
def execMigrationCopyComplete (region : Nat) (s : State) : Out :=
  match s.ms.migs.find? (·.region == region) with
  | none => .next s
  | some m => if m.start + 40000 < s.ck.now || !s.hub.copyEngines.contains (some region) then .next s else .next (s.migrate m)

/-- The migrations that a predicate names are abandoned: the old frame stays the home (R40). -/
def State.abandon (s : State) (p : Migration → Bool) : State :=
  if s.ms.migs.any p then (s.modMs fun ms => { ms with migs := ms.migs.filter fun m => !p m }).giveEngines else s

/-- No write stall lasts longer than 40 µs (R40). -/
def State.abandonLate (s : State) : State := s.abandon fun m => decide (m.start + 40000 ≤ s.ck.now)

/-- MIGRATION_ABANDON (R40): the copy is not done within 40 µs; the old frame stays the home. -/
def execMigrationAbandon (region : Nat) (s : State) : Out :=
  match s.ms.migs.find? (·.region == region) with
  | none => .next s
  | some m =>
    if s.ck.now < m.start + 40000 then .next s
    else .next (s.abandon fun x => x.region == region)

/-! ### Sticks (R42, R77, R473) -/

/-- A stick is drained, or the drain is refused with the region that forbids it. -/
def State.drain (s : State) (stick : Nat) : State :=
  let bad := s.leaves.1.find? fun l => l.module && (l.pinned || l.level == 0) && decide (l.frame / 2 ^ 37 ≤ stick)
    && decide (stick * 2 ^ 37 < l.frame + 2 ^ pageBits l.level)
  match bad with
  | some l => s.note (.drainRefused stick (max (l.frame / 2 ^ 21) (stick * 2 ^ 16)))
  | none => if s.ms.draining.contains stick then s else s.modMs fun ms => { ms with draining := ms.draining ++ [stick] }

/-- STICK_DRAIN (R42): its regions then migrate one by one. -/
def execStickDrain (stick : Nat) (s : State) : Out :=
  .next (if 24 ≤ stick || s.ms.lost.contains stick then s else s.drain stick)

/-- A migration moves from a stick, or to it. -/
def Migration.onStick (m : Migration) (stick : Nat) : Bool :=
  (List.range m.span).any fun k => regionStick (m.region + k) == stick || regionStick (m.frame + k) == stick

/-- No page maps a stick, no table but its own lies on it, and nothing migrates from or to it. -/
def State.stickEmpty (s : State) (stick : Nat) : Bool :=
  !(s.leaves.1.any fun l => l.module && l.frame / 2 ^ 37 == stick)
    && !((s.leaves.2 ++ s.sizeTables fun st => st.stick != stick).any fun x => decide (x.1 / 2 ^ 37 ≤ stick) && decide (stick ≤ (x.1 + x.2 - 1) / 2 ^ 37))
    && !(s.ms.migs.any fun m => m.onStick stick)

/-- A location on a stick, plain or compressed. -/
def onStick (stick loc : Nat) : Bool := (locTgt loc == 0 || locTgt loc == 3) && locStick loc == stick

/-- STICK_REPLACEMENT (R473): a drained stick, or one that was lost, is replaced by a new one, trained and returned. -/
def execStickReplacement (stick : Nat) (s : State) : Out :=
  if !(s.ms.draining.contains stick || s.ms.lost.contains stick) || !s.stickEmpty stick then .next s
  else .next (s.modMs fun ms => { ms with
    mem := ms.mem.filter fun c => !onStick stick c.1
    poison := ms.poison.filter fun k => !onStick stick (32 * k)
    l1 := ms.l1.filter fun x => !onStick stick x.loc
    l2 := ms.l2.filter fun x => !onStick stick x.line
    dir := ms.dir.filter fun e => !onStick stick e.line
    draining := ms.draining.filter (· != stick)
    lost := ms.lost.filter (· != stick)
    setup := ms.setup.filter fun x => x.stick != stick
    overflow := ms.overflow.filter fun o => !onStick stick (3 * 2 ^ 48 + o.page * 65536) })

/-- MEMORY_LINK_RETRAIN_FAIL (R77, R473): the stick leaves service with its data. -/
def execMemoryLinkRetrainFail (stick : Nat) (s : State) : Out :=
  if 24 ≤ stick || s.ms.lost.contains stick then .next s
  else .next (((s.modMs fun ms => { ms with
    lost := ms.lost ++ [stick]
    draining := ms.draining.filter (· != stick) }).abandon fun m => m.onStick stick).note (.stickLost stick))

/-- MEMORY_LINK_CRC_REPLAY (R76): visible only in timing and counters. -/
def execMemoryLinkCrcReplay (stick : Nat) (s : State) : Out :=
  .next (s.modMs fun ms => { ms with crcReplays := upd ms.crcReplays stick (· + 1) })

/-! ### Compressed optimiser state (R45, R46) -/

/-- COMPRESSED_STATE_SETUP (R45): while none of the stick's pages has Z = 1. -/
def execCompressedStateSetup (stick : Nat) (base pool overflow : W64) (s : State) : Out :=
  if 24 ≤ stick || (s.leaves.1.any fun l => l.module && l.entry.getLsbD 57 && l.frame / 2 ^ 37 == stick) then .next s
  else .next (s.modMs fun ms => { ms with
    setup := { stick, base, pool, overflow, slots := [] } :: ms.setup.filter fun x => x.stick != stick
    overflow := ms.overflow.filter fun o => locStick (3 * 2 ^ 48 + o.page * 65536) != stick })

/-- The writes that wait for a page's overflow slot are performed: its dirty lines leave L2 (R46). -/
def MemSys.cleanPage (ms : MemSys) (page : Nat) : MemSys :=
  (ms.l2.filter fun x => locTgt x.line == 3 && pageSlot x.line == page).foldl (fun ms x => ms.l2Clean x.line) ms

/-- OVERFLOW_SLOT_SUPPLIED (R46): the oldest page of the stick that waits takes the slot; else it is free. -/
def execOverflowSlotSupplied (stick slot : Nat) (s : State) : Out :=
  match s.ms.setup.find? (·.stick == stick) with
  | none => .next s
  | some st =>
    if st.slots.contains slot || (s.ms.overflow.any fun o => o.slot == some slot && locStick (3 * 2 ^ 48 + o.page * 65536) == stick) then .next s
    else match s.ms.overflow.find? fun o => o.slot.isNone && locStick (3 * 2 ^ 48 + o.page * 65536) == stick with
      | some o => .next (s.modMs fun ms =>
          let give := fun (x : Overflow) => if x.page == o.page then { x with slot := some slot } else x
          (({ ms with overflow := ms.overflow.map give } : MemSys).setSize st o.page (sizeEntry (some slot) 0)).cleanPage o.page)
      | none =>
        let add := fun (x : StickSetup) => if x.stick == stick then { x with slots := x.slots ++ [slot] } else x
        .next (s.modMs fun ms => { ms with setup := ms.setup.map add })

/-- COMPRESSED_PAGE_REPACK (R46): a page whose image fits again leaves overflow; its bytes do not change. -/
def execCompressedPageRepack (page : Nat) (s : State) : Out :=
  match s.ms.overflow.find? (·.page == page), s.ms.setup.find? (·.stick == locStick (3 * 2 ^ 48 + page * 65536)) with
  | some o, some st =>
    let n := max 1 (Config.compressedSectors (s.ms.mem.readBytes (3 * 2 ^ 48 + page * 65536) 65536))
    if 1024 < n then .next s
    else
      let back := fun (x : StickSetup) => if x.stick == st.stick then { x with slots := x.slots ++ o.slot.toList } else x
      .next (s.modMs fun ms => ({ ms with setup := ms.setup.map back
                                          overflow := ms.overflow.filter fun x => x.page != page } : MemSys).setSize st page (sizeEntry none n))
  | _, _ => .next s

end Sys2Proof.Machine
end

