-- ==== Sys2Proof/Machine/Device.lean ====
section
/-! DEFINITION. The device around the cores: registrations by the module OS, the host and the fabric, bring-up and Overcast
service, patches and identity, power and telemetry, errors in SRAM (spec/27 R466 to R476, spec/02 R23, spec/03 R65,
spec/06 R150, spec/26 R459).  An event that is not enabled leaves the state. -/
namespace Sys2Proof.Machine

/-! ### Registrations -/

/-- A workgroup of the space has not ended. -/
def State.spaceBusy (s : State) (asid : BitVec 16) : Bool :=
  s.ex.wgs.any fun w => !w.ended && (s.space w).asid == asid

/-- ASID_REGISTRATION (R23): an ASID names at most one descriptor; a registration is withdrawn after the last workgroup. -/
def execAsidRegistration (asid : BitVec 16) (desc : Option SpaceDesc) (s : State) : Out :=
  match desc with
  | some d =>
    if (s.hub.space asid).isSome then .next s
    else
      let sp : Space := { asid, root := d.root, t := d.t, part := d.part, rlim := d.rlim, privileged := d.privileged }
      .next { s with hub := { s.hub with spaces := s.hub.spaces ++ [sp] } }
  | none =>
    if s.spaceBusy asid then .next s
    else .next { s with hub := { s.hub with spaces := s.hub.spaces.filter fun x => x.asid != asid } }

/-- PARTITION_TABLE_WRITE (R65): K of 5 to 7 leaves the field unchanged. -/
def execPartitionTableWrite (idx : BitVec 4) (entry : W32) (s : State) : Out :=
  let put := fun (p : PartEntry) =>
    { p with k := if bits entry 31 29 ≤ 4 then entry.extractLsb' 29 3 else p.k, xw := entry.extractLsb' 20 4, vsh := entry.extractLsb' 12 6 }
  .next (s.modMs fun ms => { ms with parts := upd ms.parts idx.toNat put })

/-- A partition-table entry as it reads (Table 3-4). -/
def PartEntry.word (p : PartEntry) : W32 :=
  BitVec.ofNat 32 (p.k.toNat * 2 ^ 29 + p.xw.toNat * 2 ^ 20 + p.vsh.toNat * 2 ^ 12)

/-! ### Accesses from outside the cores (R466, R467, R150) -/

/-- A naturally aligned access of 1, 2, 4 or 8 bytes. -/
def outsideAligned (a : OutsideAccess) : Bool :=
  (a.width == 1 || a.width == 2 || a.width == 4 || a.width == 8) && a.addr % a.width == 0

/-- The update that an access makes, with the value that a compare-and-swap compares. -/
def outsideKind : OutsideKind → Option (AccKind × W64)
  | .store => some (.store, 0)
  | .atom op ty => some (.atom op ty false, 0)
  | .cas cmp => some (.cas false, cmp)
  | .red op ty _ => some (.red op ty, 0)
  | .load => none
  | .fence => none

/-- An update from outside the cores, at the home of a location; a RED of `.sys` to module memory, at the controller of the line's
stick (R73, R467). It waits while the region migrates, or while the line's page waits for an overflow slot. -/
def State.outsideUpdate (s : State) (loc : Nat) (a : OutsideAccess) (k : AccKind) (cmp : W64) : State :=
  let go := fun (s : State) => (s.homeUpdate 64 loc a.width k a.data cmp false).1
  if s.ms.migrating loc || s.ms.pageWaits loc then s
  else match s.ms.regPage loc with
    | some (g, off) => s.regTouch g off (a.kind == .store && a.width == 4)
    | none =>
      match a.kind with
      | .red _ _ true => if isOutside loc then go s else (s.atController loc go).getD s
      | _ => go s

/-- An access at the home of a location: ownership is recalled first, and it takes its place in the line's order. It carries
partition 0 (log entry 112). -/
def State.outside (s : State) (loc : Nat) (a : OutsideAccess) : State :=
  match outsideKind a.kind with
  | some (k, cmp) => s.forPart 0 fun s => s.outsideUpdate loc a k cmp
  | none => if a.kind == .load then s.forPart 0 fun s => (s.homeRead loc a.width).1 else s.modMs (·.cleanHosts)

/-- A physical address of this module's memory (R27). -/
def moduleAddr (a : Nat) : Bool := decide (a / 2 ^ 37 < 24)

/-- Ownership of a host line is recalled; what L2 holds of it reaches the host and its copy is dropped (R466). -/
def State.snoop (s : State) (loc : Nat) : State := (s.recallOwned (lineOf loc) none).modMs (·.l2Drop (lineOf loc))

/-- HOST_SNOOP (R466): under CXL.cache. -/
def execHostSnoop (addr : Nat) (s : State) : Out := .next (if s.hub.cxl then s.snoop (2 ^ 48 + addr % 2 ^ 48) else s)

/-- The host's own access to its memory. Under CXL.cache it snoops the home slice first; over plain PCIe a copy in L2 stays,
stale (R64, R466). -/
def State.hostOwn (s : State) (a : OutsideAccess) : State :=
  let s := if s.hub.cxl then s.snoop a.addr else s
  let put := fun (x : Nat) => s.modMs fun ms => { ms with mem := ms.mem.writeBytes a.addr (bytesLE a.width x) }
  match (outsideKind a.kind).bind fun u => updated u.1 a.width (s.ms.mem.readNat a.addr a.width) a.data u.2 with
  | some x => put x
  | none => s

/-- The host reaches an address of module memory: all of it under CXL.mem, and over plain PCIe what a BAR window maps (R466). -/
def State.hostReaches (s : State) (a : OutsideAccess) : Bool :=
  moduleAddr a.addr && (s.hub.cxl || s.hub.windows.any fun w => decide (w.1 ≤ a.addr) && decide (a.addr + a.width ≤ w.1 + w.2))

/-- HOST_MEMORY_ACCESS (R466, R64): at a physical address of the module, or at a location of host memory. -/
def execHostMemoryAccess (a : OutsideAccess) (s : State) : Out :=
  .next (if s.hub.phase == .off || !outsideAligned a || a.kind == .fence then s
    else if locTgt a.addr == 1 then s.hostOwn a
    else if s.hostReaches a then s.outside a.addr a
    else s)

/-- FABRIC_REMOTE_ACCESS (R467): the ports are closed in Overcast service (R471). -/
def execFabricRemoteAccess (a : OutsideAccess) (s : State) : Out :=
  .next (if s.hub.phase == .service && s.net.portsRetired.length < 8 && moduleAddr a.addr && outsideAligned a && a.kind != .fence
    then s.outside a.addr a else s)

/-- HUB_CORE_MEMORY_ACCESS (R150): at a location; a RISC-V FENCE rw,rw is a `.sc` fence at `.sys`. -/
def execHubCoreMemoryAccess (a : OutsideAccess) (s : State) : Out :=
  .next (if s.hub.phase == .off then s
    else if a.kind == .fence then s.modMs (·.cleanHosts)
    else if outsideAligned a && (locTgt a.addr == 1 || (locTgt a.addr == 0 && moduleAddr a.addr)) then s.outside a.addr a
    else s)

/-- FABRIC_PORT_RETIRE (R468). -/
def execFabricPortRetire (port : Nat) (s : State) : Out :=
  if 8 ≤ port || s.net.portsRetired.contains port then .next s
  else .next (({ s with net := { s.net with portsRetired := s.net.portsRetired ++ [port] } } : State).note (.portRetired port))

/-- FABRIC_MODULE_UNREACHABLE (R468). -/
def execFabricModuleUnreachable (m : BitVec 6) (s : State) : Out :=
  .next (if s.net.unreachable.contains m then s else { s with net := { s.net with unreachable := s.net.unreachable ++ [m] } })

/-- DOMAIN_ID_ASSIGN (R467). -/
def execDomainIdAssign (id : BitVec 6) (s : State) : Out :=
  .next (if s.hub.phase == .off then s else s.modMs fun ms => { ms with domain := some id })

/-! ### Bring-up (R470, R471) -/

/-- A patch table that the boot ROM or a live load accepts (R472). -/
def State.takePatch (s : State) (version : W32) (signed : Bool) : State :=
  if signed && decide (s.hub.rollback.toNat ≤ version.toNat) then { s with hub := { s.hub with patch := version } }
  else s.note (.patchRefused version)

/-- POWER_ON (R470): patches verified, one die trained, Overcast service. -/
def execPowerOn (patch : W32) (signed : Bool) (die : Nat) (s : State) : Out :=
  if s.hub.phase != .off || 4 ≤ die then .next s
  else
    let s := s.takePatch patch signed
    .next { s with hub := { s.hub with phase := .overcast, first := die, dies := (List.range 4).map fun d => d == die } }

/-- OVERCAST_END (R470): every die, its links and every Vervo link are in service, or retired and logged. -/
def execOvercastEnd (dies : List Nat) (retired : List (Nat × Nat)) (s : State) : Out :=
  if s.hub.phase != .overcast || !dies.contains s.hub.first then .next s
  else
    let out := (List.range 4).filter fun d => !dies.contains d
    let s := { s with
      hub := { s.hub with phase := .service, dies := (List.range 4).map fun d => dies.contains d }
      ms := { s.ms with lost := (List.range 24).filter fun k => out.contains (k / 6) } }
    let s := out.foldl (fun s d => s.note (.dieRetired d)) s
    .next (retired.foldl (fun s x =>
      match (s.link x.1).group? x.2 with
      | none => s
      | some g => if g.retired then s
        else (s.modLink x.1 fun k => (k.modGroup x.2 fun g => { g with retired := true, turning := none, recal := false }).replace s.ck.now g.up).note
          (.groupRetired x.1 x.2)) s)

/-- DIE_OFFLINE (R473): its cores are quarantined and their workgroups moved; its sticks are drained. -/
def execDieOffline (die : Nat) (s : State) : Out :=
  if 4 ≤ die || !(s.hub.dies.getD die false) then .next s
  else
    let s := (List.range 16).foldl (fun s c => s.quarantine (16 * die + c)) s
    let s := { s with hub := { s.hub with dies := s.hub.dies.set die false } }
    .next (((List.range 6).foldl (fun s k => s.drain (6 * die + k)) s).note (.dieRetired die))

/-! ### Firmware, identity, attestation (R472) -/

/-- LIVE_PATCH (R472): between two packets of each command processor, so queues go on. -/
def execLivePatch (version : W32) (signed : Bool) (s : State) : Out :=
  .next (if s.hub.phase == .off then s else s.takePatch version signed)

/-- ATTESTATION_REPORT (R472): the leaf is committed before the signature; after 32,768 leaves it is refused. -/
def execAttestationReport (challenge : W64) (s : State) : Out :=
  if s.hub.phase == .off then .next s
  else if 32768 ≤ s.hub.leaf then .next (s.note .attestRefused)
  else .next { s with hub := { s.hub with leaf := s.hub.leaf + 1, reports := (challenge, s.hub.leaf) :: s.hub.reports } }

/-- POWER_LOSS (R472): what flash holds stays, and a leaf may be skipped; host memory and other modules are not the
module's. The model's counters go on. -/
def execPowerLoss (s : State) : Out :=
  let r := State.reset
  let skip := (freeWord s.ck.free 0).toNat % 2
  .next { r with
    ck := { r.ck with free := s.ck.free + 1, nextId := s.ck.nextId }
    ex := { r.ex with agenda := s.ex.agenda }
    ms := { r.ms with mem := s.ms.mem.filter fun c => locTgt c.1 == 1 || locTgt c.1 == 2 }
    hub := { r.hub with rollback := s.hub.rollback, leaf := s.hub.leaf + skip, reports := s.hub.reports }
    log := s.log }

/-! ### Power, telemetry, connectors (R474 to R476) -/

/-- Withheld sixteenths after an evaluation (R475): power in W, flux and limit in tenths of W/cm². -/
def withhold (limit power flux w : Nat) : Nat :=
  if 720 < power || limit < flux + 20 then min 12 (w + 1)
  else if flux + 40 < limit && power < 720 then w - 1
  else w

/-- POWER_CAP_EVALUATION (R475). -/
def execPowerCapEvaluation (die power flux : Nat) (s : State) : Out :=
  .next { s with hub := { s.hub with withheld := upd s.hub.withheld die (withhold s.hub.fluxLimit power flux) } }

/-- INPUT_POWER_LIMIT_EXPIRY (R475): every die withholds a step while the input is above 3,400 W. -/
def execInputPowerLimitExpiry (power : Nat) (s : State) : Out :=
  .next (if power ≤ 3400 then s else { s with hub := { s.hub with withheld := s.hub.withheld.map fun w => min 12 (w + 1) } })

/-- TELEMETRY_PUBLISH (R474). -/
def execTelemetryPublish (stage : Nat) (word : W64) (s : State) : Out :=
  .next { s with hub := { s.hub with telemetry := s.hub.telemetry.set stage word } }

/-- CONNECTOR_HEALTH_REPORT (R476): the latest record of each connector; reserved bits read as zero. -/
def execConnectorHealthReport (conn : BitVec 8) (word : W64) (s : State) : Out :=
  let w := setBits (setBits word 2 6 0) 56 8 conn.toNat
  .next { s with hub := { s.hub with health := (conn, w) :: s.hub.health.filter fun x => x.1 != conn } }

/-! ### Uncorrectable errors (R459) -/

/-- UNCORRECTABLE_SRAM_ERROR (R459): the granule is poisoned, or the node of state without a poison bit fails; in a save
or its area, that is logged (R420). -/
def execUncorrectableSramError (g : SramGranule) (s : State) : Out :=
  let bad := fun (r : Reg) => { r with poison := true }
  match g with
  | .vreg wg lane entry => .next (s.modWg wg (·.modLane lane fun l => { l with v := upd l.v entry bad }))
  | .sreg wg grp n => .next (s.modWg wg fun w => { w with groups := upd w.groups grp fun g => { g with s := upd g.s n bad } })
  | .sector addr => .next (s.modMs fun ms => (ms.l2Fill (sectorOf addr)).setPoison addr true)
  | .l1 k addr =>
    let hit := fun (x : L1Sector) => if x.core == k && x.loc == sectorOf addr then { x with poison := true } else x
    .next (s.modMs fun ms => { ms with l1 := ms.l1.map hit })
  | .tile wg idx off => .next (s.modTile wg idx fun t => { t with poison := t.poison ||| (1#128 <<< (off / 32)) })
  | .drift wg table set way =>
    let hit := fun (e : DEntry) => if e.set == set && e.way == way then { e with poison := true } else e
    .next (s.modTable wg table fun t => { t with entries := t.entries.map hit })
  | .accum wg quarter slot row col =>
    let mark := fun (t : MxSlot) => t.put { t.at row col with poison := true }
    .next (s.modMx wg quarter fun m => { m with slots := upd m.slots slot fun t => t.map mark })
  | .unmarked wg =>
    match s.wg? wg with
    | none => .next s
    | some w =>
      let s := if w.place == .saved || (w.saveAsked.isSome && !w.defers) then s.note (.saveFailed wg) else s
      .next (s.failNode w.node 5)

end Sys2Proof.Machine
end

