-- ==== Sys2Proof/Machine/Lanes.lean ====
section
/-! DEFINITION. Moving values between lanes: opcodes 0x60 to 0x66 (spec/14 R317 to R322). -/
namespace Sys2Proof.Machine

/-- FILL alone in bits 19:8 (R264). -/
def fbOk (q : BitVec 12) : Bool := bits q 11 1 == 0

/-- What the reading lane receives: the source's value, or the fill; poisoned with a poisoned selector (R317). -/
def moved (fill : Bool) (src : Option Vals) (v : Vals) : W64 × Bool :=
  match src with
  | some u => (u.a, u.pa || v.pb)
  | none => if fill then (0, v.pb) else (v.a, v.pa || v.pb)

/-! ### LSHFL and LPERM -/

def lshflSpec (f : Fields) : GroupSpec where
  sig := { var := varTL f.var, q := fbOk f.q, dst := .dst (isWide f.var), a := .src (isWide f.var), b := .src false, c := .mask }
  res := fun x _ v => moved (f.q.getLsbD 0) (x.contrib (lo32 v.b).toNat) v
/-- LSHFL (R318). -/
def execLshfl (f : Fields) (s : State) : Out := groupExec (lshflSpec f) f s

/-- What reading LPERM's fields needs. -/
def lpermRead (f : Fields) : LaneSpec where
  sig := { var := varTL f.var, q := fbOk f.q, dst := .dst (isWide f.var), a := .src (isWide f.var), b := .src false }
  body := fun _ _ l _ _ => .done l []

/-- The quads of the gang that drop out at an LPERM: a lane waits for a source, its destination, or a credit (R122, R171). -/
def lpermAway (cx : Cx) (f : Fields) : List Nat :=
  (cx.g.lanes.map (· / 4)).eraseDups.filter fun q => quadUnready cx (lpermRead f) f q
    || cx.g.lanes.any fun j => j / 4 == q && (cx.w.lane j).guard f && creditStop cx f j (cx.w.lane j)

/-- A lane of this gang that supplies its A: active with a true guard, in a quad that issues (R319). -/
def lpermGives (cx : Cx) (f : Fields) (i j : Nat) : Option Vals :=
  let k := cx.w.grpOf i
  let n := cx.w.grpFirst k + j
  let l := cx.w.lane n
  if cx.canGive (lpermAway cx f) k j && l.guard f && (arrivalStop cx (lpermRead f) f n l).isNone then
    some (valsOf cx (lpermRead f) f n l)
  else none

def lpermSpec (f : Fields) : LaneSpec :=
  { lpermRead f with
    body := fun cx i l f v =>
      let r := moved (f.q.getLsbD 0) (lpermGives cx f i (lo32 v.b).toNat) v
      write cx l f.dst (isWide f.var) r.1 r.2 v.tag }
/-- LPERM (R319). -/
def execLperm (f : Fields) (s : State) : Out := laneExec (lpermSpec f) f s

/-! ### QSWAP and QBCAST (R320) -/

/-- Lane `j` of the reader's quad as it stands, or the reader when that lane has exited. -/
def quadGiver (cx : Cx) (i : Nat) (l : Lane) (j : Nat) : Option (Nat × Lane) :=
  let n := 4 * (i / 4) + j
  if n = i || (cx.w.lane n).exited then some (i, l) else some (n, cx.w.lane n)

def qswapSpec (f : Fields) : LaneSpec where
  sig := { var := decide (f.var.toNat < 3), q := f.q == 0, dst := .dst false, a := .src false }
  giver := fun cx f i l => quadGiver cx i l ((i % 4) ^^^ (f.var.toNat + 1))
  body := fun cx _ l f v => write cx l f.dst false v.a v.pa v.tag
/-- QSWAP. -/
def execQswap (f : Fields) (s : State) : Out := laneExec (qswapSpec f) f s

def qbcastSpec (f : Fields) : LaneSpec where
  sig := { var := decide (f.var.toNat < 4), q := f.q == 0, dst := .dst false, a := .src false }
  giver := fun cx f i l => quadGiver cx i l f.var.toNat
  body := fun cx _ l f v => write cx l f.dst false v.a v.pa v.tag
/-- QBCAST. -/
def execQbcast (f : Fields) (s : State) : Out := laneExec (qbcastSpec f) f s

/-! ### GRED and GSCAN (R321) -/

/-- The group operation of Qg on two values in the type of VAR. -/
def groupOp (op : Nat) (var : BitVec 4) (a b : W64) : W64 :=
  if var == 8 then
    match op with
    | 0 => zx (fAdd (lo32 a) (lo32 b))
    | 1 => zx (fMin (lo32 a) (lo32 b))
    | _ => zx (fMax (lo32 a) (lo32 b))
  else
    match op with
    | 0 => op2 (isWide var) (fun x y => x + y) a b
    | 1 => op2 (isWide var) (fun x y => minBy (isSigned var) x y) a b
    | 2 => op2 (isWide var) (fun x y => maxBy (isSigned var) x y) a b
    | 3 => op2 (isWide var) (fun x y => x &&& y) a b
    | 4 => op2 (isWide var) (fun x y => x ||| y) a b
    | _ => op2 (isWide var) (fun x y => x ^^^ y) a b

/-- Largest and smallest value of an integer type. -/
def typeMax (var : BitVec 4) : W64 :=
  match var.toNat with
  | 2 => 0x7FFFFFFF | 3 => 0x7FFFFFFFFFFFFFFF | 6 => 0xFFFFFFFF | _ => 0xFFFFFFFFFFFFFFFF
def typeMin (var : BitVec 4) : W64 :=
  match var.toNat with
  | 2 => 0x80000000 | 3 => 0x8000000000000000 | _ => 0

/-- Table 14-7. -/
def groupIdentity (op : Nat) (var : BitVec 4) : W64 :=
  if var == 8 then
    match op with
    | 0 => 0x80000000 | 1 => 0x7F800000 | _ => 0xFF800000
  else
    match op with
    | 1 => typeMax var
    | 2 => typeMin var
    | 3 => if isWide var then 0xFFFFFFFFFFFFFFFF else 0xFFFFFFFF
    | _ => 0

/-- The fold over the group's first `n` lanes, ascending, with the poison it combines. -/
def groupFold (op : Nat) (var : BitVec 4) (x : GroupCx) (n : Nat) : W64 × Bool :=
  (List.range n).foldl (fun acc j =>
    match x.contrib j with
    | some u => (groupOp op var acc.1 u.a, acc.2 || u.pa)
    | none => (groupOp op var acc.1 (groupIdentity op var), acc.2)) (groupIdentity op var, false)

/-- Qg (R264): the operation, the exclusive bit, and which of them are legal. -/
def qgOk (scan : Bool) (q : BitVec 12) (var : BitVec 4) : Bool :=
  bits q 11 5 == 0 && (scan || !q.getLsbD 4) && decide (bits q 3 0 ≤ (if var == 8 then 2 else 5))

def sigGred (scan : Bool) (f : Fields) : Sig :=
  { var := varTI f.var || varTF f.var, q := qgOk scan f.q f.var, dst := .dst (isWide f.var), a := .src (isWide f.var), c := .mask }

def gredSpec (f : Fields) : GroupSpec where
  sig := sigGred false f
  res := fun x _ _ => groupFold (bits f.q 3 0) f.var x x.count
/-- GRED (R321). -/
def execGred (f : Fields) (s : State) : Out := groupExec (gredSpec f) f s

def gscanSpec (f : Fields) : GroupSpec where
  sig := sigGred true f
  res := fun x i _ => groupFold (bits f.q 3 0) f.var x (if f.q.getLsbD 4 then i else i + 1)
/-- GSCAN (R321). -/
def execGscan (f : Fields) (s : State) : Out := groupExec (gscanSpec f) f s

/-! ### V2S (R322) -/

def v2sSpec (f : Fields) : GroupSpec where
  sig := { var := varTL f.var, q := f.q == 0, dst := .scal (isWide f.var), a := .src (isWide f.var), b := .u, c := .mask, free := true }
  bad := fun x _ v => let j := (lo32 v.b).toNat; decide (x.count ≤ j) || !x.mask.getLsbD j
  res := fun x _ v =>
    match x.contrib (lo32 v.b).toNat with
    | some u => (u.a, u.pa || v.pb)
    | none => (0, v.pb)
/-- V2S. -/
def execV2s (f : Fields) (s : State) : Out := groupExec (v2sSpec f) f s

end Sys2Proof.Machine
end

