-- ==== Sys2Proof/Machine/Packets.lean ====
section
/-! DEFINITION. Command packets: their words, queues and their parse, LAUNCH and the control packets, segments (spec/09 R192
to R207).  An event that is not enabled leaves the state. -/
namespace Sys2Proof.Machine

/-! ### Words of a packet (Tables 9-2, 9-3, 9-5) -/

/-- `n` words with bits 63:52 zero and aligned. -/
def addrOk (a : W64) (align : Nat) : Bool := bits a 63 52 == 0 && a.toNat % align == 0

def fenceCtr (a b c : W64) : FenceCtr :=
  { w64 := a.getLsbD 63, cmp := a.extractLsb' 60 3, addr := a.extractLsb' 0 52, value := b, deadline := c }

def fenceCtrs : Nat → List W64 → Option (List FenceCtr)
  | 0, [] => some []
  | n + 1, a :: b :: c :: l =>
    if bits a 59 52 != 0 || a.toNat % (if a.getLsbD 63 then 8 else 4) != 0 then none
    else (fenceCtrs n l).map fun cs => fenceCtr a b c :: cs
  | _, _ => none

def operandDecl (a b : W64) : Option OperandDecl :=
  if bits a 63 62 == 0 || bits a 61 52 != 0 || b == 0 || 2 ^ 40 < b.toNat then none
  else some { mode := a.extractLsb' 62 2, base := a.extractLsb' 0 52, len := b }

def operandDecls : Nat → List W64 → Option (List OperandDecl)
  | 0, _ => some []
  | n + 1, a :: b :: l => (operandDecl a b).bind fun o => (operandDecls n l).map fun os => o :: os
  | _, _ => none

/-- Arguments from their words; an unused high half must be zero. -/
def argList : Nat → List W64 → Option (List W32)
  | 0, _ => some []
  | 1, w :: _ => if hi32 w = 0 then some [lo32 w] else none
  | n + 2, w :: l => (argList n l).map fun as' => lo32 w :: hi32 w :: as'
  | _, _ => none

/-- The body of a LAUNCH or INDIRECT-LAUNCH. -/
def launchPkt (h : W64) (ind : Bool) (ws : List W64) : Option LaunchPkt :=
  let narg := bits h 39 32
  let ntree := bits h 31 26
  let nops := bits h 25 21
  let naff := bits h 20 13
  let wd := fun n => ws.getD n 0
  let o := if ind then 6 else 5
  let rest := ws.drop o
  if bits h 9 0 != 0 || 192 < narg || 32 < ntree || 16 < nops || ws.length != o + 2 * nops + naff + (narg + 1) / 2 then none
  else if !addrOk (wd 0) 8 || bits (wd 1) 33 24 != 0 || (ind && bits (wd 1) 23 0 != 0) || 192 < bits (wd 2) 63 56
      || bits (wd 2) 31 0 % 64 != 0 || !addrOk (wd 3) 8 || bits (wd 4) 15 12 != 0 || (ind && !addrOk (wd 5) 4) then none
  else match operandDecls nops rest, argList narg (rest.drop (2 * nops + naff)) with
    | some ops, some args => some
        { ntree, ndep := bits h 12 11, allprev := h.getLsbD 10, entry := wd 0
          tag := (wd 1).extractLsb' 48 16, cls := (wd 1).extractLsb' 46 2, shape := (wd 1).extractLsb' 44 2
          wgnm1 := (wd 1).extractLsb' 34 10, gridm1 := (wd 1).extractLsb' 0 24
          scal := bits (wd 2) 63 56, drift := bits (wd 2) 55 40, tiles := bits (wd 2) 39 32, priv := lo32 (wd 2)
          staddr := wd 3, dtags := [(wd 4).extractLsb' 48 16, (wd 4).extractLsb' 32 16, (wd 4).extractLsb' 16 16]
          frame := (wd 4).extractLsb' 0 12, gaddr := if ind then wd 5 else 0
          ops, aff := (rest.drop (2 * nops)).take naff, args }
    | _, _ => none

def signalPkt (h a v : W64) : SignalPkt :=
  { allprev := h.getLsbD 39, irq := h.getLsbD 36, vec := h.extractLsb' 0 11, addr := a, value := v }

/-- A packet of a queue from its words (R195); none: a packet-format error. -/
def decodePacket (q : Nat) (h : W64) (ws : List W64) : Option Instr :=
  if bits h 43 40 != 0 || bits h 55 44 != ws.length + 1 then none
  else
    match bits h 63 56, ws with
    | 0, _ => some (.nopPacket q (ws.length + 1))
    | 1, _ => (launchPkt h false ws).map (.launch q)
    | 2, _ => (launchPkt h true ws).map (.indirectLaunch q)
    | 3, _ => if bits h 35 0 != 0 || 11 < bits h 39 36 then none else (fenceCtrs (bits h 39 36 + 1) ws).map (.fencePacket q)
    | 4, [w] =>
      if bits h 38 32 != 0 || (if h.getLsbD 39 then !addrOk w 4 else hi32 w != 0) then none
      else some (.loopPacket q (h.getLsbD 39) (lo32 h) w)
    | 5, [a, v] =>
      if bits h 35 32 != 0 || !addrOk a (if h.getLsbD 39 then 8 else 4) then none
      else some (.ifPacket q (h.getLsbD 39) (h.extractLsb' 36 3) (lo32 h) a v)
    | 6, [] => if bits h 31 0 != 0 then none else some (.segmentBegin q (h.extractLsb' 36 4) (h.extractLsb' 32 4))
    | 7, [] => if bits h 35 0 != 0 then none else some (.segmentEnd q (h.extractLsb' 36 4))
    | 8, [] => if bits h 35 0 != 0 then none else some (.replay q (h.extractLsb' 36 4))
    | 9, [a] => if bits h 38 0 != 0 || !addrOk a 64 then none else some (.ckptPacket q (h.getLsbD 39) a)
    | 10, [a, v] =>
      if bits h 35 11 != 0 then none
      else (match bits h 38 37 with
        | 0 => if addrOk a 8 then some (.signalWrite64 q (signalPkt h a v)) else none
        | 1 => if addrOk a 8 then some (.signalRedAdd q (signalPkt h a v)) else none
        | 2 => if addrOk a 4 then some (.signalWrite32 q (signalPkt h a v)) else none
        | _ => none)
    | _, _ => none

/-! ### Writing a packet's words -/

def pktHead (type len args : Nat) : W64 := BitVec.ofNat 64 (type * 2 ^ 56 + len * 2 ^ 44 + args)

def bitN (b : Bool) (n : Nat) : Nat := if b then 2 ^ n else 0

def argWords : List W32 → List W64
  | [] => []
  | [a] => [zx a]
  | a :: b :: l => pair a b :: argWords l

def launchWords (type : Nat) (ind : Bool) (p : LaunchPkt) : List W64 :=
  let body : List W64 := [p.entry,
    BitVec.ofNat 64 (p.tag.toNat * 2 ^ 48 + p.cls.toNat * 2 ^ 46 + p.shape.toNat * 2 ^ 44 + p.wgnm1.toNat * 2 ^ 34 + p.gridm1.toNat),
    BitVec.ofNat 64 (p.scal * 2 ^ 56 + p.drift * 2 ^ 40 + p.tiles * 2 ^ 32 + p.priv.toNat), p.staddr,
    BitVec.ofNat 64 ((p.dtags.getD 0 0).toNat * 2 ^ 48 + (p.dtags.getD 1 0).toNat * 2 ^ 32 + (p.dtags.getD 2 0).toNat * 2 ^ 16 + p.frame.toNat)]
    ++ (if ind then [p.gaddr] else [])
    ++ p.ops.flatMap (fun o => [BitVec.ofNat 64 (o.mode.toNat * 2 ^ 62 + o.base.toNat), o.len]) ++ p.aff ++ argWords p.args
  pktHead type (body.length + 1) (p.args.length * 2 ^ 32 + p.ntree * 2 ^ 26 + p.ops.length * 2 ^ 21 + p.aff.length * 2 ^ 13
    + p.ndep * 2 ^ 11 + bitN p.allprev 10) :: body

def signalWords (op : Nat) (p : SignalPkt) : List W64 :=
  [pktHead 10 3 (bitN p.allprev 39 + op * 2 ^ 37 + bitN p.irq 36 + p.vec.toNat), p.addr, p.value]

/-- The words of a packet; none for what is no packet. -/
def encodePacket : Instr → List W64
  | .nopPacket _ n => pktHead 0 n 0 :: List.replicate (n - 1) 0
  | .launch _ p => launchWords 1 false p
  | .indirectLaunch _ p => launchWords 2 true p
  | .fencePacket _ cs => pktHead 3 (1 + 3 * cs.length) ((cs.length - 1) * 2 ^ 36) :: cs.flatMap fun c =>
      [BitVec.ofNat 64 (bitN c.w64 63 + c.cmp.toNat * 2 ^ 60 + c.addr.toNat), c.value, c.deadline]
  | .loopPacket _ m b w => [pktHead 4 2 (bitN m 39 + b.toNat), w]
  | .ifPacket _ w64 c k a v => [pktHead 5 3 (bitN w64 39 + c.toNat * 2 ^ 36 + k.toNat), a, v]
  | .segmentBegin _ k r => [pktHead 6 1 (k.toNat * 2 ^ 36 + r.toNat * 2 ^ 32)]
  | .segmentEnd _ k => [pktHead 7 1 (k.toNat * 2 ^ 36)]
  | .replay _ k => [pktHead 8 1 (k.toNat * 2 ^ 36)]
  | .ckptPacket _ w a => [pktHead 9 2 (bitN w 39), a]
  | .signalWrite64 _ p => signalWords 0 p
  | .signalRedAdd _ p => signalWords 1 p
  | .signalWrite32 _ p => signalWords 2 p
  | _ => []

/-! ### Queues -/

def State.queue? (s : State) (q : Nat) : Option Queue := (s.cp.queues.find? (·.1 == q)).map (·.2)
def State.modQueue (s : State) (q : Nat) (f : Queue → Queue) : State :=
  { s with cp := { s.cp with queues := s.cp.queues.map fun x => if x.1 == q then (q, f x.2) else x } }

/-- The open segment and the steps around it, innermost first. -/
def Queue.steps (x : Queue) : List SegState := x.seg.toList ++ x.under

/-- A queue that parses: running, and not held at a packet. -/
def Queue.parses (x : Queue) : Bool := x.state == 0 && x.hold == .none && !(x.steps.any (·.failed))

/-- The parse point: in the stored words of a step that replays, or in the stream. -/
def Queue.here (x : Queue) : Nat :=
  match x.seg with
  | some { pos := some p, .. } => p
  | _ => x.pos

def Queue.replaying (x : Queue) : Bool := x.seg.any fun g => g.pos.isSome

/-- Moves the parse point. -/
def Queue.goto (x : Queue) (n : Nat) : Queue :=
  match x.seg with
  | some g => if g.pos.isSome then { x with seg := some { g with pos := some n } } else { x with pos := n }
  | none => { x with pos := n }

/-- Loops opened by the words now parsed: while a step replays, those it opened itself. -/
def Queue.innerLoops (x : Queue) : List LoopState :=
  match x.seg with
  | some g => if g.pos.isSome then x.loops.take (x.loops.length - g.depth) else x.loops
  | none => x.loops

/-- Where the packets parsed next must end: the innermost open LOOP's body, or what is skipped. -/
def Queue.limit (x : Queue) : Option Nat :=
  if x.here < x.skipTo then some x.skipTo
  else x.innerLoops.head?.map fun l => l.start + l.body

/-- The end of an iteration goes back to the body's start, or closes the loop (R206). -/
def Queue.closeLoops : Nat → Queue → Queue
  | 0, x => x
  | n + 1, x =>
    match x.innerLoops with
    | [] => x
    | l :: _ =>
      if x.here < l.start + l.body then x
      else if 1 < l.left then { (x.goto l.start) with skipTo := 0, loops := { l with left := l.left - 1 } :: x.loops.drop 1 }
      else Queue.closeLoops n { x with loops := x.loops.drop 1 }

/-- RIDX: the header of the outermost open LOOP, else the next packet (R193). A step that replays stands at its REPLAY. -/
def Queue.ridxNow (x : Queue) : Nat :=
  let outer := match (x.steps.filter fun g => g.pos.isSome).getLast? with
    | some g => x.loops.drop (x.loops.length - g.depth)
    | none => x.loops
  max x.ridx (match outer.getLast? with
    | some l => l.header
    | none => x.pos)

/-- The step's packets are all parsed: it is over when its nodes are; a replay passes its packet, and what it interrupted
goes on. -/
def Queue.endStep (x : Queue) (done : Nat → Bool) : Queue :=
  match x.seg with
  | none => x
  | some g =>
    let y := { x with
      seg := x.under.head?, under := x.under.drop 1, hold := g.outer
      skipTo := if g.pos.isSome then 0 else x.skipTo
      loops := x.loops.drop (x.loops.length - g.depth) }
    let y := if g.pos.isSome && g.start == 0 then y.goto (y.here + 1) else y
    if g.nodes.all done then y else { y with past := y.past ++ [{ g with outer := .none }] }

/-- The parse point has arrived past a packet: loops that end there go back or close, and a step whose stored packets are all
parsed ends; what its REPLAY stood in has then arrived past the REPLAY (R206, R207). -/
def Queue.arrive (done : Nat → Bool) : Nat → Queue → Queue
  | 0, x => x.closeLoops 5
  | n + 1, x =>
    let x := x.closeLoops 5
    match x.seg with
    | some g => if g.pos.any (fun p => decide (g.words.length ≤ p)) then Queue.arrive done n (x.endStep done) else x
    | none => x

/-- A node has completed. -/
def State.nodeDone (s : State) (n : Nat) : Bool :=
  match s.node? n with
  | some x => x.state == .done
  | none => true

/-- Word 4 of the descriptor (Table 9-1). -/
def Queue.word4 (x : Queue) : Nat := x.state % 4 * 2 ^ 62 + x.cause % 256 * 2 ^ 48 + x.pkt % 2 ^ 48

/-- What a queue's descriptor still lacks is written; a page fault or a migration holds it (R193, R195). A violation of the
write of RIDX is reported. -/
def State.writeDesc (s : State) (q : Nat) : State × Bool :=
  match s.queue? q with
  | none => (s, true)
  | some x =>
    let sp := s.spaceAt x.asid
    let r := if x.ridxOwed then s.agentWrite hubUnit sp (x.desc + 24) 8 x.ridx false else (s, .val 0 false)
    let t := if x.stateOwed then r.1.agentWrite hubUnit sp (x.desc + 32) 8 x.word4 false else (r.1, .val 0 false)
    (t.1.modQueue q fun x => { x with ridxOwed := r.2 == .wait, stateOwed := t.2 == .wait }, r.2 != .viol)

/-- A queue halts (R193): STATE, CAUSE and PKT in its descriptor, RIDX as it stands. A packet that holds the queue goes on when
it resumes. -/
def State.haltQueue (s : State) (q cause pkt : Nat) : State :=
  match s.queue? q with
  | none => s
  | some x =>
    if x.state = 1 then s
    else ((s.modQueue q fun x => { x with state := 1, cause, pkt, ridxOwed := true, stateOwed := true }).writeDesc q).1

/-- The recording without the words from the parse point on: they are read again. -/
def SegState.unrecord (g : SegState) (i : Nat) : SegState :=
  if g.pos.isSome then g else { g with words := g.words.take (i - g.start) }

/-- PKT of a halt at the parse point: of a step that replays, its REPLAY. -/
def Queue.pktHere (x : Queue) : Nat := if x.replaying then x.pos else x.here

/-- The packet at the parse point halts its queue; it is parsed again, from the ring. -/
def State.haltHere (s : State) (q cause : Nat) : State :=
  match s.queue? q with
  | none => s
  | some x => (s.modQueue q fun x => { x with hold := .none, seg := x.seg.map (·.unrecord x.here) }).haltQueue q cause x.pktHere

/-- A packet of `len` words has taken effect: the parse point, the loops, the end of a replay, RIDX. -/
def State.passPacket (s : State) (q len : Nat) : State :=
  let s := s.modQueue q fun x => (x.goto (x.here + len)).arrive s.nodeDone x.steps.length
  let r := (s.modQueue q fun x => { x with ridx := x.ridxNow, ridxOwed := true }).writeDesc q
  if r.2 then r.1 else r.1.haltQueue q 8 (((r.1.queue? q).map (·.ridx)).getD 0)

/-- An access of the command processor (R195): a violation halts the queue; a fault waits. -/
def State.cpRead (s : State) (q : Nat) (va : W64) (n : Nat) (k : State → Nat → State) : State :=
  match s.queue? q with
  | none => s
  | some x =>
    match s.agentRead hubUnit (s.spaceAt x.asid) va n with
    | (s, .val v _) => k s v
    | (s, .wait) => s
    | (s, _) => s.haltHere q 8

/-- The processor's queues in the order in which it considers them: from its turn on, round robin (R192). -/
def State.turnOrder (s : State) (cp : Nat) : List Nat :=
  (List.range 16).filterMap fun k =>
    (s.cp.queues.find? fun y => y.2.cp == cp && y.2.index == (s.cp.turn.getD cp 0 + k) % 16).map (·.1)

/-- A queue that has a packet to parse, and whose descriptor lacks nothing (R193). -/
def State.canParse (s : State) (q : Nat) : Bool :=
  (s.queue? q).any fun x => x.parses && !x.ridxOwed && !x.stateOwed && (x.replaying || decide (x.here < x.widx))

/-- It is the queue's turn: the processor takes one packet at a time from each queue that can proceed (R192). -/
def State.parseTurn (s : State) (q : Nat) : Bool :=
  (s.queue? q).any fun x => (s.turnOrder x.cp).find? s.canParse == some q

/-- The turn passes on. -/
def State.passTurn (s : State) (q : Nat) : State :=
  match s.queue? q with
  | none => s
  | some x => { s with cp := { s.cp with turn := s.cp.turn.set x.cp ((x.index + 1) % 16) } }

/-- A packet acts only while its queue parses. -/
def State.atPacket (s : State) (q : Nat) (k : Queue → State) : Out :=
  match s.queue? q with
  | none => .next s
  | some x => .next (if x.parses then k x else s)

/-! ### Parsing (R193) -/

/-- Words of the stream or of the stored words from index `i` on. -/
def State.streamWords (s : State) (x : Queue) : Nat → Nat → State × Except Got (List W64)
  | 0, _ => (s, .ok [])
  | n + 1, i =>
    let stored : Option W64 := match x.seg with
      | some g => (match g.pos with
        | some _ => some (g.words.getD i 0)
        | none => if g.start ≤ i then g.words[i - g.start]? else none)
      | none => none
    let r : State × Got := match stored with
      | some w => (s, .val w.toNat false)
      | none => s.agentRead hubUnit (s.spaceAt x.asid) (x.base + BitVec.ofNat 64 (i % x.capw * 8)) 8
    match r with
    | (s, .val v _) =>
      (match s.streamWords x n (i + 1) with
       | (s, .ok ws) => (s, .ok (BitVec.ofNat 64 v :: ws))
       | r => r)
    | (s, g) => (s, .error g)

/-- A recording keeps the words of a packet the first time it passes them; 65,536 is the store's size. -/
def SegState.record (g : SegState) (i : Nat) (ws : List W64) : SegState :=
  if g.pos.isSome || i < g.start + g.words.length then g
  else { g with words := g.words ++ ws }

/-- What a parse comes to: a packet to run, or the state. A packet that is none is not recorded. -/
def State.parse (s : State) (q : Nat) : Act :=
  match s.queue? q with
  | none => .done s
  | some x =>
    let i := x.here
    let last := if x.replaying then (x.seg.map fun g => g.words.length).getD 0 else x.widx
    if !x.parses || s.hub.phase == .off || last ≤ i || x.capw < 8 then .done s
    else match s.streamWords x 1 i with
      | (s, .error .wait) => .done s
      | (s, .error _) => .done (s.haltHere q 8)
      | (s, .ok hs) =>
        let h := hs.headD 0
        let len := bits h 55 44
        if len = 0 then .done (s.haltHere q 1)
        else if last < i + len then .done (if x.replaying then s.haltHere q 1 else s)
        else if (match x.limit with | some e => decide (e < i + len) | none => false) then .done (s.haltHere q 1)
        else match s.streamWords x (len - 1) (i + 1) with
          | (s, .error .wait) => .done s
          | (s, .error _) => .done (s.haltHere q 8)
          | (s, .ok ws) =>
            let ends := bits h 63 56 == 7 && !(decide (i < x.skipTo))
            let g := x.seg.map fun g => if ends then g else g.record i (h :: ws)
            if g.any (fun g => decide (65536 < g.words.length)) then .done (s.haltHere q 1)
            else
              let t := s.modQueue q fun x => { x with seg := g }
              if i < x.skipTo then .run (.nopPacket q len) t
              else match decodePacket q h ws with
                | some p => .run p t
                | none => .done (s.haltHere q 1)

/-! ### Simple packets -/

/-- NOP: skipped with its body. -/
def execNopPacket (q len : Nat) (s : State) : Out := s.atPacket q fun _ => s.passPacket q len

/-- Every earlier node of the queue has completed. -/
def State.earlierDone (s : State) (x : Queue) : Bool := x.nodes.all s.nodeDone

/-- FENCE (R205): the queue is held until its counters are satisfied. -/
def execFencePacket (q : Nat) (cs : List FenceCtr) (s : State) : Out := s.atPacket q fun _ =>
  s.modQueue q fun x => { x with hold := .fence (cs.map fun c => { c, done := false }) (s.ck.dcount.getD 4 0) }

/-- The body or the skipped words would pass the end of the enclosing body. -/
def Queue.splits (x : Queue) (e : Nat) : Bool :=
  match x.innerLoops with
  | l :: _ => decide (l.start + l.body < e)
  | [] => false

/-- LOOP (R206). -/
def execLoopPacket (q : Nat) (mem : Bool) (body : W32) (word : W64) (s : State) : Out := s.atPacket q fun x =>
  let start := x.here + 2
  let go := fun (s : State) (n : Nat) =>
    if n = 0 || body = 0 then (s.modQueue q fun x => { x with skipTo := start + body.toNat }).passPacket q 2
    else (s.modQueue q fun x => { x with loops := { start, body := body.toNat, left := n, header := x.here } :: x.loops }).passPacket q 2
  if 4 ≤ x.loops.length then s.haltHere q 6
  else if x.splits (start + body.toNat) then s.haltHere q 1
  else if mem then s.cpRead q word 4 go
  else go s (lo32 word).toNat

/-- A comparison of Table 9-4 in its width. -/
def memCmp (w64 : Bool) (code : BitVec 3) (m : Nat) (v : W64) : Bool :=
  if w64 then cmp64 code.toNat (BitVec.ofNat 64 m) v
  else if 6 ≤ code.toNat then cmp64 code.toNat (sx (BitVec.ofNat 32 m)) (sx (lo32 v))
  else cmp64 code.toNat (zx (BitVec.ofNat 32 m)) (zx (lo32 v))

/-- IF (R206). -/
def execIfPacket (q : Nat) (w64 : Bool) (cmp : BitVec 3) (skip : W32) (addr value : W64) (s : State) : Out :=
  s.atPacket q fun x =>
    s.cpRead q addr (if w64 then 8 else 4) fun s m =>
      if memCmp w64 cmp m value then s.passPacket q 3
      else if x.splits (x.here + 3 + skip.toNat) then s.haltHere q 1
      else (s.modQueue q fun x => { x with skipTo := x.here + 3 + skip.toNat }).passPacket q 3

/-- CKPT (R206): once every earlier node has completed the increment starts; with WAIT the queue is held until it is
complete. -/
def execCkptPacket (q : Nat) (wait : Bool) (addr : W64) (s : State) : Out := s.atPacket q fun x =>
  if !s.earlierDone x then s
  else
    let j : CkptJob := { op := 0, wg := 0, queue := some q, asid := x.asid, addr }
    let s := { s with cp := { s.cp with ckpts := s.cp.ckpts ++ [j] } }
    if wait then s.modQueue q fun x => { x with hold := .ckpt } else s.passPacket q 2

/-- A SIGNAL's access, a release at `.sys`, then the interrupt (R206). -/
def State.signal (s : State) (q : Nat) (p : SignalPkt) (access : State → Space → State × Got) : Out := s.atPacket q fun x =>
  if p.allprev && !s.earlierDone x then s
  else match access (s.modMs (·.cleanHosts)) (s.spaceAt x.asid) with
    | (s, .val ..) =>
      let s := s.modMs (·.cleanHosts)
      let s := if p.irq then { s with cp := { s.cp with irqs := s.cp.irqs ++ [p.vec] } } else s
      s.passPacket q 3
    | (s, .wait) => s
    | (s, _) => s.haltHere q 8

/-- SIGNAL, 8-byte write. -/
def execSignalWrite64 (q : Nat) (p : SignalPkt) (s : State) : Out :=
  s.signal q p fun s sp => s.agentWrite hubUnit sp p.addr 8 p.value.toNat false

/-- SIGNAL, n64 RED add. -/
def execSignalRedAdd (q : Nat) (p : SignalPkt) (s : State) : Out :=
  s.signal q p fun s sp => s.agentAdd hubUnit sp p.addr p.value.toNat

/-- SIGNAL, 4-byte write of the low half. -/
def execSignalWrite32 (q : Nat) (p : SignalPkt) (s : State) : Out :=
  s.signal q p fun s sp => s.agentWrite hubUnit sp p.addr 4 (lo32 p.value).toNat false

/-! ### Segments (R207) -/

/-- SEGMENT-BEGIN: what follows is executed and recorded. -/
def execSegmentBegin (q : Nat) (seg retry : BitVec 4) (s : State) : Out := s.atPacket q fun x =>
  if x.seg.isSome then s.haltHere q 1
  else (s.modQueue q fun x => { x with seg := some { seg := seg.toNat, retry := retry.toNat, header := x.pos, start := x.pos + 1, depth := x.loops.length } }).passPacket q 1

/-- SEGMENT-END: the store holds the recorded words. -/
def execSegmentEnd (q : Nat) (seg : BitVec 4) (s : State) : Out := s.atPacket q fun x =>
  match x.seg with
  | none => s.haltHere q 1
  | some g =>
    if g.seg != seg.toNat || g.pos.isSome then s.haltHere q 1
    else
      let s := s.modQueue q fun x => { x with stores := (g.seg, g.words, g.retry) :: x.stores.filter fun t => t.1 != g.seg }
      (s.modQueue q fun x => { (x.endStep s.nodeDone) with loops := x.loops }).passPacket q 1

/-- REPLAY: the stored packets are executed again. What it interrupts, an open segment or another step, goes on after it. -/
def execReplay (q : Nat) (seg : BitVec 4) (s : State) : Out := s.atPacket q fun x =>
  match x.stores.find? fun t => t.1 == seg.toNat with
  | none => s.haltHere q 7
  | some t =>
    if t.2.1.isEmpty then s.passPacket q 1
    else s.modQueue q fun x =>
      let g : SegState := { seg := seg.toNat, retry := t.2.2, header := x.pos, depth := x.loops.length, words := t.2.1, pos := some 0 }
      { x with seg := some g, under := x.steps, skipTo := 0 }

/-! ### Launches (R197 to R201) -/

/-- Nodes in the ready pool: not all of their workgroups are placed. -/
def State.poolSize (s : State) : Nat := (s.ex.nodes.filter fun n => n.state == .waiting || n.state == .ready).length

/-- Tree barriers that no node holds (R117). -/
def State.freeTrees (s : State) : List Nat := (List.range 32).filter fun i => (s.net.treeOwner.getD i none).isNone

/-- What a launch needs of the memory of Overcast service: its declared operands and its threads' private space (log
entry 26). -/
def launchBytes (p : LaunchPkt) : Nat :=
  p.ops.foldl (fun n o => n + o.len.toNat) ((p.gridm1.toNat + 1) * (p.wgnm1.toNat + 1) * p.priv.toNat)

/-- Every workgroup of a grid has a permitted core in service: an empty core has the lanes, the scalars and, for a legal
launch, the tiles and the Drift entries of one workgroup (R198). The permitted sets change only where a range begins or has
ended. -/
def State.fits (s : State) (aff : List W64) (grid : Nat) : Bool :=
  (0 :: aff.flatMap fun a => [affFirst a, affLast a + 1]).all fun i =>
    decide (grid ≤ i) || (List.range 64).any fun c => affPermits aff i c && s.coreServes c

/-- The limits of R198 on what one workgroup asks for: its Drift quota and its tiles. -/
def State.within (s : State) (part : Nat) (p : LaunchPkt) : Bool :=
  decide (p.drift ≤ s.hub.driftQuotas.getD part 0) && decide (p.drift ≤ 16384) && decide (p.tiles ≤ 224)

/-- R198: a cause for which a launch is rejected, with the affinity check given, for a grid: none of an INDIRECT-LAUNCH at its
parse, whose cores are looked for once its count is read (R200). -/
def State.rejects (s : State) (x : Queue) (p : LaunchPkt) (aff : Bool) (grid : Nat) : Option Nat :=
  let part := s.tenant x.asid
  if p.scal < p.args.length + p.ntree || !s.within part p || p.drift % 8 != 0
      || p.priv.toNat < 64 * p.frame.toNat || s.freeTrees.length < p.ntree then some 2
  else if !aff then some 3
  else if !s.fits p.aff grid || (s.hub.phase == .overcast && decide (2 ^ 26 < launchBytes p)) then some 2
  else none

/-- A status word (Table 9-8). -/
def statusWord (code killed : Nat) : Nat := code % 16 * 2 ^ 60 + killed % 2 ^ 32

/-- No status write waits for a page any more. -/
def State.statusOver (s : State) (asid : BitVec 16) (page : Nat) : State :=
  { s with cp := { s.cp with statusWaits := s.cp.statusWaits.filter (· != (asid, page))
                             statusGone := s.cp.statusGone.filter (· != (asid, page)) } }

/-- The write of a status word, a release at `.sys` (R203, R204): it waits for a fault; a violation, or a page that the module
OS cannot supply, loses it, logged with the queue and the tag. -/
def State.writeStatus (s : State) (queue : Nat) (tag asid : BitVec 16) (addr : W64) (code killed : Nat) : State × Bool :=
  let page := addr.toNat / 65536
  let ended := fun (s : State) => s.statusOver asid page
  if addr = 0 then (s, true)
  else if s.cp.statusGone.contains (asid, page) then ((ended s).note (.statusLost queue tag.toNat), true)
  else match (s.modMs (·.cleanHosts)).agentWrite hubUnit (s.spaceAt asid) addr 8 (statusWord code killed) false with
    | (s, .val ..) => (ended (s.modMs (·.cleanHosts)), true)
    | (s, .wait) => ({ ended s with cp := { (ended s).cp with statusWaits := (asid, page) :: (ended s).cp.statusWaits } }, false)
    | (s, _) => ((ended s).note (.statusLost queue tag.toNat), true)

/-- The latest earlier node of a queue with a tag (R202). -/
def State.tagged (s : State) (x : Queue) (tag : BitVec 16) : Option Nat :=
  x.nodes.find? fun n => ((s.node? n).map fun n => n.launch.tag == tag).getD false

/-- A barrier as a launch finds it. -/
def freshBarrier : Barrier := {}

/-- A node enters the pool (R197). -/
def State.addNode (s : State) (q : Nat) (x : Queue) (p : LaunchPkt) (ind : Bool) : State :=
  let id := s.ck.nextId
  let trees := s.freeTrees.take p.ntree
  let preds := if p.allprev then x.nodes else ((p.dtags.take p.ndep).filterMap (s.tagged x)).eraseDups
  let n : Node :=
    { id, queue := q, asid := x.asid, launch := p, indirect := ind, preds := preds.filter fun m => !s.nodeDone m
      grid := if ind then 0 else p.gridm1.toNat + 1, base := Config.nodeBase id, trees, pkt := if x.replaying then x.pos else x.here
      segment := !x.steps.isEmpty }
  let s := { s.freshId with
    ex := { s.ex with nodes := s.ex.nodes ++ [n] }
    net := { s.net with treeOwner := trees.foldl (fun l i => l.set i (some id)) s.net.treeOwner
                        trees := trees.foldl (fun l i => l.set i freshBarrier) s.net.trees } }
  s.modQueue q fun x => { x with nodes := id :: x.nodes, seg := x.seg.map fun g => { g with nodes := id :: g.nodes } }

/-- Words of a launch packet. -/
def launchLen (ind : Bool) (p : LaunchPkt) : Nat :=
  6 + (if ind then 1 else 0) + 2 * p.ops.length + p.aff.length + (p.args.length + 1) / 2

/-- A launch takes effect, or is rejected at its parse. -/
def State.launchAt (s : State) (q : Nat) (p : LaunchPkt) (ind : Bool) : Out := s.atPacket q fun x =>
  let part := s.tenant x.asid
  let aff := if ind then s.affParse part p.aff else s.affLegal part p.aff (p.gridm1.toNat + 1)
  if 4096 ≤ s.poolSize then s
  else match s.rejects x p aff (if ind then 0 else p.gridm1.toNat + 1) with
    | some c =>
      let r := s.writeStatus q p.tag x.asid p.staddr 3 0
      if r.2 then r.1.haltHere q c else r.1
    | none => (s.addNode q x p ind).passPacket q (launchLen ind p)

/-- LAUNCH (R197). -/
def execLaunch (q : Nat) (p : LaunchPkt) (s : State) : Out := s.launchAt q p false

/-- INDIRECT-LAUNCH (R200). -/
def execIndirectLaunch (q : Nat) (p : LaunchPkt) (s : State) : Out := s.launchAt q p true

/-! ### Events of queues -/

/-- WIDX_POLL (R193): WIDX is read, an acquire at `.sys`. A violation halts the queue (R195); a packet that holds it goes on when
it resumes. -/
def execWidxPoll (q : Nat) (s : State) : Out :=
  match s.queue? q with
  | none => .next s
  | some x =>
    if x.state != 0 then .next s
    else .next (match s.agentRead hubUnit (s.spaceAt x.asid) (x.desc + 16) 8 with
      | (s, .val v _) => s.modQueue q fun x => { x with widx := v, lastPoll := s.ck.now }
      | (s, .wait) => s
      | (s, _) => s.haltQueue q 8 x.pktHere)

/-- DOORBELL (R194): a 4-byte store to offset 4 × q of a doorbell page prompts a read of WIDX; another access has no effect
and is counted. -/
def execDoorbell (cp off width : Nat) (s : State) : Out :=
  match if width = 4 && off % 4 = 0 && off < 64 then s.cp.queues.find? fun x => x.2.cp == cp && x.2.index == off / 4 else none with
  | some x => execWidxPoll x.1 s
  | none => .next { s with cp := { s.cp with ignored := s.cp.ignored + 1 } }

/-- QUEUE_RESUME (R193): STATE is written back to 0b00, and parsing goes on where it stopped. -/
def execQueueResume (q : Nat) (s : State) : Out :=
  match s.queue? q with
  | none => .next s
  | some x =>
    match s.agentWrite hubUnit (s.spaceAt x.asid) (x.desc + 32) 8 0 false with
    | (s, .wait) => .next s
    | (s, _) => .next (s.modQueue q fun x => { x with state := 0, cause := 0, pkt := 0, stateOwed := false })

/-- QUEUE_HALTED_BY_MODULE_OS (R192): STATE 0b10. -/
def execQueueHaltedByModuleOs (q : Nat) (s : State) : Out :=
  match s.queue? q with
  | none => .next s
  | some x =>
    match s.agentWrite hubUnit (s.spaceAt x.asid) (x.desc + 32) 8 (2 ^ 63) false with
    | (s, .wait) => .next s
    | (s, _) => .next (s.modQueue q fun x => { x with state := 2, cause := 0, pkt := 0, stateOwed := false })

/-- QUEUE_BINDING (R192): queue `q` is bound to a context, on command processor q ÷ 16 mod 4 with index q mod 16. -/
def execQueueBinding (q asid : Nat) (desc : W64) (s : State) : Out :=
  let as' : BitVec 16 := BitVec.ofNat 16 asid
  if (s.queue? q).isSome || 64 ≤ q || (s.hub.space as').isNone then .next s
  else match s.agentWords hubUnit (s.spaceAt as') desc 5 with
    | (s, .ok (ws, _)) =>
      let wd := fun n => ws.getD n 0
      let x : Queue := { asid := as', cp := q / 16 % 4, index := q % 16, desc, base := wd 0, capw := (lo32 (wd 1)).toNat
                         widx := (wd 2).toNat, ridx := (wd 3).toNat, pos := (wd 3).toNat, state := bits (wd 4) 63 62
                         cause := bits (wd 4) 55 48, pkt := bits (wd 4) 47 0 }
      .next { s with cp := { s.cp with queues := s.cp.queues ++ [(q, x)] } }
    | (s, _) => .next s

/-! ### FENCE (R205) -/

/-- One counter is read; satisfied once, it stays so. -/
def State.readCounters (s : State) (q : Nat) (x : Queue) : List FenceWait → State × Option (List FenceWait)
  | [] => (s, some [])
  | c :: cs =>
    if c.done then
      (match s.readCounters q x cs with
       | (s, some l) => (s, some (c :: l))
       | r => r)
    else match s.agentRead hubUnit (s.spaceAt x.asid) (c.c.addr.zeroExtend 64) (if c.c.w64 then 8 else 4) with
      | (s, .val v _) =>
        (match s.readCounters q x cs with
         | (s, some l) => (s, some ({ c with done := memCmp c.c.w64 c.c.cmp v c.c.value } :: l))
         | r => r)
      | (s, .wait) =>
        (match s.readCounters q x cs with
         | (s, some l) => (s, some (c :: l))
         | r => r)
      | (s, _) => (s, none)

/-- A counter is unsatisfied and its deadline has passed. -/
def State.fenceLate (s : State) (cs : List FenceWait) (since : W64) : Bool :=
  cs.any fun c => !c.done && c.c.deadline != 0 && decide (c.c.deadline.toNat < (s.ck.dcount.getD 4 0 - since).toNat)

/-- A FENCE fails: inside a segment the step fails, outside the queue halts (R205). -/
def State.failFence (s : State) (q : Nat) : State :=
  if (s.queue? q).any fun x => x.seg.isSome then
    s.modQueue q fun x => { x with hold := .none, seg := x.seg.map fun g => { g with failed := true } }
  else s.haltHere q 4

/-- FENCE_COUNTER_POLL (R205): a counter whose deadline has passed is read no more. -/
def execFenceCounterPoll (q : Nat) (s : State) : Out :=
  match s.queue? q with
  | none => .next s
  | some x =>
    match x.hold with
    | .fence cs since =>
      if x.state != 0 || x.steps.any (·.failed) then .next s
      else if s.fenceLate cs since then .next (s.failFence q)
      else (match s.readCounters q x cs with
        | (s, none) => .next (s.haltHere q 8)
        | (s, some cs) =>
          if cs.all (·.done) then .next ((s.modQueue q fun x => { x with hold := .none }).passPacket q (1 + 3 * cs.length))
          else .next (s.modQueue q fun x => { x with hold := .fence cs since }))
    | _ => .next s

/-- FENCE_DEADLINE (R205): inside a step the step fails, outside the queue halts. -/
def execFenceDeadline (q : Nat) (s : State) : Out :=
  match s.queue? q with
  | none => .next s
  | some x =>
    match x.hold with
    | .fence cs since =>
      .next (if x.state != 0 || !s.fenceLate cs since then s else s.failFence q)
    | _ => .next s

/-- A queue held at CKPT with WAIT goes on once its increment is complete (R206). -/
def State.ckptRelease (s : State) (q : Nat) : State :=
  match s.queue? q with
  | none => s
  | some x =>
    if x.state == 0 && x.hold == .ckpt && !(s.cp.ckpts.any fun j => j.queue == some q) then
      (s.modQueue q fun x => { x with hold := .none }).passPacket q 2
    else s

/-! ### Nodes (R202 to R204) -/

/-- A node's dependents in the pool are cancelled, transitively (R198): they complete with CODE 6. -/
def State.cancelAfter (s : State) (queue : Nat) : Nat → List Nat → State
  | 0, _ => s
  | fuel + 1, bad =>
    let next := (s.ex.nodes.filter fun n => n.queue == queue && (n.state == .waiting || n.state == .ready) && n.map.isEmpty
      && n.preds.any bad.contains).map (·.id)
    if next.isEmpty then s
    else State.cancelAfter (next.foldl (fun s i => s.modNode i fun n => { n with state := .running, grid := 0, code := 6 }) s) queue fuel next

/-- A node is done: its tree barriers are free, its workgroups and their flits are gone; a step with CODE 5 has failed
(R207). -/
def State.finishNode (s : State) (n : Node) (code : Nat) : State :=
  let ids := (s.ex.wgs.filter fun w => w.node == n.id).map (·.id)
  let lost := (s.net.flits.filter fun x => x.node == n.id).length
  let s := s.modNode n.id fun n => { n with state := .done, code }
  let s := { s with
    ex := { s.ex with wgs := s.ex.wgs.filter fun w => !ids.contains w.id }
    net := { s.net with treeOwner := s.net.treeOwner.map fun o => if o == some n.id then none else o
                        flits := s.net.flits.filter fun x => x.node != n.id
                        discards := s.net.discards + lost } }
  let mark := fun (g : SegState) => if code = 5 && g.nodes.contains n.id then { g with failed := true } else g
  s.modQueue n.queue fun x => { x with
    seg := x.seg.map mark, under := x.under.map mark
    past := (x.past.map mark).filter fun g => g.failed || !(g.nodes.all s.nodeDone) }

/-- A rejection found after the parse (R198, R200): CODE 3, dependents cancelled, the queue halts. -/
def State.rejectLate (s : State) (n : Node) (cause : Nat) : State :=
  let r := s.writeStatus n.queue n.launch.tag n.asid n.launch.staddr 3 0
  if !r.2 then r.1
  else (((r.1.finishNode n 3).cancelAfter n.queue 4096 [n.id])).haltQueue n.queue cause n.pkt

/-- NODE_READY (R202, R200). -/
def execNodeReady (n : Nat) (s : State) : Out :=
  match s.node? n with
  | none => .next s
  | some x =>
    if x.state != .waiting || !(x.preds.all s.nodeDone) then .next s
    else
      let ready := fun (s : State) (f : Node → Node) =>
        s.modNode n fun x => f { x with state := .ready, readyAt := s.ck.now, since := none }
      if !x.indirect then .next (ready s id)
      else match s.agentRead hubUnit (s.spaceAt x.asid) x.launch.gaddr 4 with
        | (s, .wait) => .next s
        | (s, .val v _) =>
          if v = 0 then .next (s.modNode n fun x => { x with state := .running, grid := 0 })
          else if 2 ^ 24 < v then .next (s.rejectLate x 2)
          else
            let aff := affClip x.launch.aff v
            if !affNonempty aff v then .next (s.rejectLate x 3)
            else .next (ready s fun x => { x with grid := v, launch := { x.launch with aff } })
        | (s, _) => .next (s.rejectLate x 8)

/-- `a` is dispatched before `b` (R202). Of two of one class that became ready in one nanosecond, the one launched first goes
first (DESIGN CHOICE, log entry 105). -/
def Node.before (a b : Node) : Bool :=
  decide (b.launch.cls.toNat < a.launch.cls.toNat) || (a.launch.cls == b.launch.cls &&
    (decide (a.readyAt < b.readyAt) || (a.readyAt == b.readyAt && decide (a.id < b.id))))

/-- The next placements of a node, workgroup by workgroup in ascending index: at most `k`, the first of index `i` (R208). -/
def State.choose (s : State) (n : Node) : Nat → Nat → List Placement
  | 0, _ => []
  | k + 1, i =>
    match (List.range 64).find? fun c => s.canPlace n i c && s.bestDie n i c with
    | some c =>
      let t := s.placeWg n i c
      { wgi := i, core := c } :: ((t.node? n.id).map fun m => t.choose m k (i + 1)).getD []
    | none => []

/-- A ready node that could be given cores now: its next workgroup, or all of a node with tree barriers (R117). -/
def State.couldPlace (s : State) (n : Node) : Bool :=
  n.state == .ready && (if n.launch.ntree = 0 then (List.range 64).any fun c => s.canPlace n n.map.length c
    else (s.choose n n.grid 0).length == n.grid)

/-- The choices for a node's next workgroups are ones the pool could make; they are placed in ascending index (R208). -/
def State.placeAll (s : State) (n : Nat) : List Placement → Option State
  | [] => some s
  | p :: ps =>
    match s.node? n with
    | none => none
    | some x =>
      if p.wgi = x.map.length && p.wgi < x.grid && s.canPlace x p.wgi p.core && s.bestDie x p.wgi p.core then
        (s.placeWg x p.wgi p.core).placeAll n ps
      else none

/-- NODE_DISPATCH (R208): a node with tree barriers is placed whole (R117). -/
def execNodeDispatch (n : Nat) (places : List Placement) (s : State) : Out :=
  match s.node? n with
  | none => .next s
  | some x =>
    if x.state != .ready then .next s
    else if x.map.isEmpty && !(s.affLegal (s.tenant x.asid) x.launch.aff x.grid) then .next (s.rejectLate x 3)
    else if x.map.isEmpty && !(s.within (s.tenant x.asid) x.launch && s.fits x.launch.aff x.grid) then .next (s.rejectLate x 2)
    else if s.ex.nodes.any (fun m => m.id != n && m.before x && s.couldPlace m) then .next s
    else if x.launch.ntree != 0 && places.length != x.grid then .next s
    else match s.placeAll n places with
      | none => .next s
      | some s => .next (s.modNode n fun x => if x.map.length = x.grid then { x with state := .running } else x)

/-- Work of a workgroup that is not performed yet. -/
def State.busyWg (s : State) (w : Wg) : Bool :=
  (s.ms.acc.any (·.wg == w.id)) || (s.ms.maint.any (·.wg == w.id)) || (s.ex.ops.any (·.wg == w.id)) || (s.ex.ringWrites.any (·.wg == w.id))
    || (w.mx.any fun m => !m.steps.isEmpty || m.cell.isSome) || !w.tiles.isEmpty

/-- NODE_COMPLETE (R203): every lane has exited and every write is performed; those that a lane's exit left pending were
performed into its core's L1, which is cleaned. -/
def execNodeComplete (n : Nat) (s : State) : Out :=
  match s.node? n with
  | none => .next s
  | some x =>
    let ws := s.ex.wgs.filter fun w => w.node == n
    if x.state != .running || x.map.length < x.grid || ws.any (fun w => !w.ended || s.busyWg w) then .next s
    else
      let code := if x.code = 0 then 1 else x.code
      let s := ws.foldl (fun s w => s.cleanCore w.core true) s
      let r := s.writeStatus x.queue x.launch.tag x.asid x.launch.staddr code x.killed
      .next (if r.2 then r.1.finishNode x code else r.1)

/-- The nodes of a failed step that have not been dispatched are cancelled; those that have end first. -/
def State.cancelStep (s : State) (g : SegState) (queue : Nat) : State :=
  let bad := g.nodes.filter fun i => ((s.node? i).map fun n => (n.state == .waiting || n.state == .ready) && n.map.isEmpty).getD false
  (bad.foldl (fun s i => s.modNode i fun n => { n with state := .running, grid := 0, code := 6 }) s).cancelAfter queue 4096 bad

/-- A step begins again, from its first packet. -/
def Queue.restart (x : Queue) (g : SegState) (outer : QueueHold) : Queue :=
  let g := { g with fails := g.fails + 1, failed := false, nodes := [], outer, pos := g.pos.map fun _ => 0 }
  { x with
    seg := some g, hold := .none, skipTo := 0
    loops := x.loops.drop (x.loops.length - g.depth)
    pos := if g.pos.isSome then x.pos else g.start }

/-- A failed step: it is executed again once its dispatched nodes have ended, or its retries are spent. -/
def State.retryStep (s : State) (q : Nat) (g : SegState) (earlier : Bool) : State :=
  let s := s.cancelStep g q
  if !g.nodes.all s.nodeDone then s
  else if g.fails < g.retry then
    s.modQueue q fun x =>
      if earlier then
        ({ x with past := x.past.filter fun h => h != g, seg := none } : Queue).restart
          { g with pos := some 0, start := max 1 g.start, depth := x.loops.length } x.hold
      else x.restart g g.outer
  else
    let s := s.modQueue q fun x => if earlier then { x with past := x.past.filter fun h => h != g }
      else { x with seg := some { g with failed := false, nodes := [] } }
    s.haltQueue q 5 g.header

/-- SEGMENT_RETRY (R207). A step that a failed one had begun ends with it. -/
def execSegmentRetry (q : Nat) (s : State) : Out :=
  match s.queue? q with
  | none => .next s
  | some x =>
    match x.seg with
    | some g =>
      .next (if g.failed then s.retryStep q g false
        else if x.under.any (·.failed) then
          (s.cancelStep g q).modQueue q fun x => { x with
            seg := x.under.head?, under := x.under.drop 1, hold := .none, loops := x.loops.drop (x.loops.length - g.depth) }
        else s)
    | none =>
      match x.past.find? (·.failed) with
      | some g => .next (s.retryStep q g true)
      | none => .next s

/-- A node with tree barriers is placed whole: as though those of its workgroups that find room had it. -/
def State.placedAhead (s : State) (n : Node) : State :=
  if n.launch.ntree = 0 then s else (s.placeAll n.id (s.choose n n.grid n.map.length)).getD s

/-- Workgroups that are asked, or that are to be asked, to leave a core are gone from it. -/
def State.without (s : State) (core : Nat) (ids : List Nat) : State :=
  { s with ex := { s.ex with wgs := s.ex.wgs.filter fun u => !(u.onCore core && (u.saveAsked.isSome || ids.contains u.id)) } }

/-- The first workgroups of a list whose leaving makes room, in a state; all of none if they do not. -/
def roomWithout (s : State) (x : Node) (core : Nat) (ids : List Nat) : List Nat :=
  match (List.range (ids.length + 1)).find? fun k => (s.without core (ids.take k)).room core x.launch (s.tenant x.asid) with
  | some k => ids.take k
  | none => []

/-- Residents of a permitted core are already asked to leave, and will have made room there. -/
def roomAsked (s : State) (x : Node) (wgi core : Nat) : Bool :=
  (List.range 64).any fun c => c != core && s.coreTakes c && affPermits x.launch.aff wgi c
    && (s.without c []).room c x.launch (s.tenant x.asid)

/-- CLASS_PREEMPTION (R209): workgroup `wgi` of a ready node has found no room for 20 µs; residents of lower classes on one
permitted core are asked to be saved, the lowest class first, and as many as are needed to make room. -/
def execClassPreemption (n wgi core : Nat) (s : State) : Out :=
  match s.node? n with
  | none => .next s
  | some x =>
    let t := s.placedAhead x
    if x.state != .ready || (t.node? n).all (fun m => m.map.length != wgi || decide (m.grid ≤ wgi)) || !(x.since.any fun t => decide (t + 20000 ≤ s.ck.now))
        || !s.coreTakes core || !affPermits x.launch.aff wgi core || (List.range 64).any (fun c => t.canPlace x wgi c)
        || roomAsked t x wgi core then .next s
    else
      let low := (List.range x.launch.cls.toNat).flatMap fun c => (s.residents core).filter fun w => w.cls == c
      .next ((roomWithout t x core (low.map (·.id))).foldl (fun s i => s.modWg i (·.ask .cls)) s)

end Sys2Proof.Machine
end

