-- ==== Sys2Proof/Machine/Sync.lean ====
section
/-! DEFINITION. Barriers and core queues: opcodes 0x8E to 0x95 (spec/15 R338 to R345, spec/05 R116 to R125), and their
events. -/
namespace Sys2Proof.Machine

/-! ### Reaching a barrier -/

def State.bar (s : State) (tree : Bool) (wg idx : Nat) : Barrier :=
  if tree then s.net.trees.getD idx {}
  else ((s.wg? wg).map fun w => w.bars.getD idx {}).getD {}

def State.modBar (s : State) (tree : Bool) (wg idx : Nat) (f : Barrier → Barrier) : State :=
  if tree then { s with net := { s.net with trees := upd s.net.trees idx f } }
  else s.modWg wg fun w => { w with bars := upd w.bars idx f }

/-- R338: a local index below 16, or a tree barrier allotted to the node. -/
def barIndexOk (s : State) (w : Wg) (tree : Bool) (idx : Nat) : Bool :=
  if tree then decide (idx < 32) && s.net.treeOwner.getD idx none == some w.node else decide (idx < 16)

/-- The roles of a barrier form. -/
def sigBar (f : Fields) (q : Bool) : Sig := { var := decide (f.var.toNat < 2), q, b := .src false, unit := 3 }

/-- A lane at a barrier it may name: helpers do nothing there (R168), an illegal index traps, a poisoned one kills (R408,
R461). -/
def atBar (s : State) (cx : Cx) (l : Lane) (f : Fields) (v : Vals) (k : Bool → Nat → LOut) : LOut :=
  let tree := f.var == 1
  let idx := (lo32 v.b).toNat
  if l.helper then .done l []
  else if !barIndexOk s cx.w tree idx then .trap l 3 (slotVal cx.g 4) false
  else if v.poison then .trap l 13 v.tag false
  else k tree idx

/-- Arrivals stall between the reach of zero and the re-arm, and while the lane's own arrival is outstanding (R341). -/
def Barrier.stalls (b : Barrier) (k : Nat) : Bool := b.due || b.released || b.outstanding.contains k || b.pend.contains k

/-- An arrival that counts now. -/
def Barrier.arrive (b : Barrier) (k : Nat) : Barrier :=
  { b.count with outstanding := k :: b.outstanding, stalled := b.stalled.filter (· != k) }

/-- A release arrival, which counts once the lane's writes are performed (R119). -/
def Barrier.arriveLater (b : Barrier) (k : Nat) : Barrier :=
  { b with pend := k :: b.pend, stalled := b.stalled.filter (· != k) }

/-- A scope of a barrier (R148). -/
def barScope (tree : Bool) : Nat := if tree then 4 else 2

/-! ### The forms (Table 15-6) -/

def barinitSpec (s : State) (f : Fields) : LaneSpec where
  sig := sigBar f (f.q == 0)
  body := fun cx _ l f v => atBar s cx l f v fun tree idx =>
    let b := s.bar tree cx.w.id idx
    if b.waiting.isEmpty && b.stalled.isEmpty then .done l [.act fun s => s.modBar tree cx.w.id idx fun _ => {}]
    else .stay l
/-- BARINIT (R339). -/
def execBarinit (f : Fields) (s : State) : Out := laneExec (barinitSpec s f) f s

def barregSpec (s : State) (f : Fields) : LaneSpec where
  sig := sigBar f (f.q == 0)
  body := fun cx i l f v => atBar s cx l f v fun tree idx =>
    let b := s.bar tree cx.w.id idx
    let k := barKey cx.w.id i
    if b.reg.contains k then .trap l 3 (slotVal cx.g 4) false
    else if b.due || b.released then .stay l
    else .done l [.act fun s => s.modBar tree cx.w.id idx fun b =>
      { b with reload := b.reload + 1, remaining := b.remaining + 1, reg := k :: b.reg }]
/-- BARREG (R340, R451). -/
def execBarreg (f : Fields) (s : State) : Out := laneExec (barregSpec s f) f s

/-- ORD of an arrival: `.rlx` or `.rel`, the rest zero (R338). -/
def barOrdOk (q : BitVec 12) : Bool := q == 0 || q == 0x800

/-- An arrival by lane `i`. -/
def arriveOut (s : State) (cx : Cx) (i : Nat) (l : Lane) (f : Fields) (tree : Bool) (idx : Nat) : LOut :=
  let b := s.bar tree cx.w.id idx
  let k := barKey cx.w.id i
  if !b.reg.contains k then .trap l 3 (slotVal cx.g 4) false
  else if b.stalls k then
    .wait l [.act fun s => s.modBar tree cx.w.id idx fun b => { b with stalled := insertNat k b.stalled }]
  else .done l [.act fun s => s.modBar tree cx.w.id idx fun b => if qmRel f.q then b.arriveLater k else b.arrive k]

def bararrSpec (s : State) (f : Fields) : LaneSpec where
  sig := sigBar f (barOrdOk f.q)
  body := fun cx i l f v => atBar s cx l f v fun tree idx => arriveOut s cx i l f tree idx
/-- BARARR (R341). -/
def execBararr (f : Fields) (s : State) : Out := laneExec (bararrSpec s f) f s

/-- The lane waits for a release, at the instruction, with what comes after it (R342, R416). -/
def Lane.waitAt (l : Lane) (g : Gang) (tree : Bool) (idx : Nat) : Lane := { l with wait := .barrier tree idx g.next g.nextClause g.k }

/-- A wait at a barrier begins. -/
def waitOut (cx : Cx) (i : Nat) (l : Lane) (tree : Bool) (idx : Nat) (fx : List Fx) : LOut :=
  .wait (l.waitAt cx.g tree idx) (fx ++ [.act fun s => s.modBar tree cx.w.id idx fun b =>
    { b with waiting := insertNat (barKey cx.w.id i) b.waiting }])

def barwaitSpec (s : State) (f : Fields) : LaneSpec where
  sig := sigBar f (f.q == 0)
  body := fun cx i l f v => atBar s cx l f v fun tree idx => waitOut cx i l tree idx []
/-- BARWAIT (R342). -/
def execBarwait (f : Fields) (s : State) : Out := laneExec (barwaitSpec s f) f s

def barsyncSpec (s : State) (f : Fields) : LaneSpec where
  sig := sigBar f (barOrdOk f.q)
  body := fun cx i l f v => atBar s cx l f v fun tree idx =>
    match arriveOut s cx i l f tree idx with
    | .done l' fx => waitOut cx i l' tree idx fx
    | o => o
/-- BARSYNC (R342). -/
def execBarsync (f : Fields) (s : State) : Out := laneExec (barsyncSpec s f) f s

def bardropSpec (s : State) (f : Fields) : LaneSpec where
  sig := sigBar f (f.q == 0)
  body := fun cx i l f v => atBar s cx l f v fun tree idx =>
    let k := barKey cx.w.id i
    if !(s.bar tree cx.w.id idx).reg.contains k then .trap l 3 (slotVal cx.g 4) false
    else .done l [.act fun s => s.modBar tree cx.w.id idx (·.drop k)]
/-- BARDROP (R343, R453). -/
def execBardrop (f : Fields) (s : State) : Out := laneExec (bardropSpec s f) f s

/-! ### Events of barriers -/

/-- A lane that waited leaves: it goes on after its wait. -/
def Lane.leaveBar (l : Lane) : Lane :=
  match l.wait with
  | .barrier _ _ n c k => l.goOn n c k
  | _ => l

/-- Every wait in progress completes, with the acquire of the barrier's scope (R116, R148). -/
def State.releaseBar (s : State) (tree : Bool) (wg idx : Nat) : State :=
  let b := s.bar tree wg idx
  let s := b.waiting.foldl (fun s k =>
    let s := s.modWg (k / 1024) (·.modLane (k % 1024) Lane.leaveBar)
    match s.wg? (k / 1024) with
    | some w => (s.acquire w.core (barScope tree)).modWg w.id Wg.syncHelpers
    | none => s) s
  s.modBar tree wg idx fun b => { b with due := false, released := true, outstanding := [], waiting := [] }

/-- BARRIER_ARRIVAL_COUNT (R119): a release arrival counts once the lane's earlier writes are performed at the barrier's
scope. -/
def execBarrierArrivalCount (tree : Bool) (wg idx lane : Nat) (s : State) : Out :=
  let k := barKey wg lane
  if !(s.bar tree wg idx).pend.contains k || s.ms.releaseWaits wg lane (barScope tree) then .next s
  else
    let s := match s.wg? wg with
      | some w => s.release w.core (barScope tree)
      | none => s
    .next (s.modBar tree wg idx fun b => ({ b with pend := b.pend.filter (· != k) } : Barrier).arrive k)

/-- LOCAL_BARRIER_RELEASE (R116). -/
def execLocalBarrierRelease (wg idx : Nat) (s : State) : Out :=
  let b := s.bar false wg idx
  .next (if b.due && !b.released then s.releaseBar false wg idx else s)

/-- LOCAL_BARRIER_REARM (R116). -/
def execLocalBarrierRearm (wg idx : Nat) (s : State) : Out :=
  .next (if (s.bar false wg idx).released then
    s.modBar false wg idx fun b => { b with released := false, remaining := b.reload } else s)

/-- TREE_BARRIER_RELEASE (R118). -/
def execTreeBarrierRelease (idx : Nat) (s : State) : Out :=
  let b := s.bar true 0 idx
  .next (if b.due && !b.released then s.releaseBar true 0 idx else s)

/-- TREE_BARRIER_REARM (R118). -/
def execTreeBarrierRearm (idx : Nat) (s : State) : Out :=
  .next (if (s.bar true 0 idx).released then
    s.modBar true 0 idx fun b => { b with released := false, remaining := b.reload } else s)

/-! ### Queues (R344, R345, R121 to R124) -/

def qbindSpec (s : State) (f : Fields) : LaneSpec where
  sig := { var := f.var == 0, q := f.q == 0, dst := .qtx, a := .u, b := .u, unit := 3 }
  bad := fun cx i l f => (limitOf cx i l f.b).any (decide <| 3 < ·) || (limitOf cx i l f.a).any (decide <| (s.nodeOf cx.w).grid ≤ ·)
  body := fun cx _ l f v =>
    let idx := (lo32 v.a).toNat
    let q := (lo32 v.b).toNat
    if v.poison then .trap l 13 v.tag false
    else match f.dst with
      | .qtx n => if l.helper then .done l [] else
        .done l [.act fun s => s.modWg cx.w.id fun w => { w with qtx := w.qtx.set n.val (some (idx, q)) }]
      | _ => .done l []
/-- QBIND (R344): the send register is no destination that a binding or a credit holds. -/
def execQbind (f : Fields) (s : State) : Out := laneExec (qbindSpec s f) f s

def qpollSpec (f : Fields) : LaneSpec where
  sig := { var := f.var == 0, q := f.q == 0, dst := .dst false, a := .qrx, ta := false, unit := 3 }
  body := fun cx _ l f _ =>
    match f.a with
    | .qrx n => write cx l f.dst false (BitVec.ofNat 64 (cx.w.qrx.getD n.val []).length) false 0
    | _ => .done l []
/-- QPOLL (R345). -/
def execQpoll (f : Fields) (s : State) : Out := laneExec (qpollSpec f) f s

/-- QUEUE_FLIT_DELIVERY (R124): flit `k` reaches its receive queue, unless an earlier one of its sender to that queue is
still in flight, or its workgroup is saved or not placed; a workgroup that has exited discards it. -/
def execQueueFlitDelivery (k : Nat) (s : State) : Out :=
  match s.net.flits[k]? with
  | none => .next s
  | some x =>
    if (s.net.flits.take k).any fun y => y.srcWg == x.srcWg && y.srcLane == x.srcLane && y.node == x.node
        && y.index == x.index && y.queue == x.queue then .next s
    else
      let rest := { s.net with flits := s.net.flits.eraseIdx k }
      match s.ex.wgs.find? (fun w => w.node == x.node && w.index == x.index) with
      | none => .next s
      | some w =>
        match w.place with
        | .ended _ => .next { s with net := { rest with discards := rest.discards + 1 } }
        | .saved => .next s
        | .core _ => .next (State.modWg { s with net := rest } w.id fun w =>
            { w with qrx := upd w.qrx x.queue fun q => q ++ [x.data] })

end Sys2Proof.Machine
end

