-- ==== Sys2Proof/Machine/Dispatch.lean ====
section
/-! DEFINITION. One arm per instruction, packet and event. -/
namespace Sys2Proof.Machine

def exec (i : Instr) (s : State) : Host.Outcome State Fault Refusal :=
  match i with
  | .nop f => Sys2Proof.Machine.execNop f s
  | .mov f => Sys2Proof.Machine.execMov f s
  | .sel f => Sys2Proof.Machine.execSel f s
  | .rdspec f => Sys2Proof.Machine.execRdspec f s
  | .iadd f => Sys2Proof.Machine.execIadd f s
  | .isub f => Sys2Proof.Machine.execIsub f s
  | .imul f => Sys2Proof.Machine.execImul f s
  | .imulhi f => Sys2Proof.Machine.execImulhi f s
  | .imad f => Sys2Proof.Machine.execImad f s
  | .imin f => Sys2Proof.Machine.execImin f s
  | .imax f => Sys2Proof.Machine.execImax f s
  | .iabs f => Sys2Proof.Machine.execIabs f s
  | .iaddc f => Sys2Proof.Machine.execIaddc f s
  | .lea f => Sys2Proof.Machine.execLea f s
  | .icmp f => Sys2Proof.Machine.execIcmp f s
  | .clamp f => Sys2Proof.Machine.execClamp f s
  | .land f => Sys2Proof.Machine.execLand f s
  | .lor f => Sys2Proof.Machine.execLor f s
  | .lxor f => Sys2Proof.Machine.execLxor f s
  | .ltab f => Sys2Proof.Machine.execLtab f s
  | .shl f => Sys2Proof.Machine.execShl f s
  | .shr f => Sys2Proof.Machine.execShr f s
  | .sar f => Sys2Proof.Machine.execSar f s
  | .rot f => Sys2Proof.Machine.execRot f s
  | .bfe f => Sys2Proof.Machine.execBfe f s
  | .bfi f => Sys2Proof.Machine.execBfi f s
  | .popc f => Sys2Proof.Machine.execPopc f s
  | .clz f => Sys2Proof.Machine.execClz f s
  | .brev f => Sys2Proof.Machine.execBrev f s
  | .permb f => Sys2Proof.Machine.execPermb f s
  | .plop f => Sys2Proof.Machine.execPlop f s
  | .pmovToPredicate f => Sys2Proof.Machine.execPmovToPredicate f s
  | .pmovFromPredicate f => Sys2Proof.Machine.execPmovFromPredicate f s
  | .bra f off => Sys2Proof.Machine.execBra f off s
  | .brx f => Sys2Proof.Machine.execBrx f s
  | .call f off => Sys2Proof.Machine.execCall f off s
  | .callx f => Sys2Proof.Machine.execCallx f s
  | .ret f => Sys2Proof.Machine.execRet f s
  | .join f off => Sys2Proof.Machine.execJoin f off s
  | .exitOp f => Sys2Proof.Machine.execExitOp f s
  | .yield f => Sys2Proof.Machine.execYield f s
  | .doze f => Sys2Proof.Machine.execDoze f s
  | .repOp f => Sys2Proof.Machine.execRepOp f s
  | .gshape f => Sys2Proof.Machine.execGshape f s
  | .elect f => Sys2Proof.Machine.execElect f s
  | .voteAll f => Sys2Proof.Machine.execVoteAll f s
  | .voteAny f => Sys2Proof.Machine.execVoteAny f s
  | .voteBallot f => Sys2Proof.Machine.execVoteBallot f s
  | .voteCount f => Sys2Proof.Machine.execVoteCount f s
  | .matchOp f => Sys2Proof.Machine.execMatchOp f s
  | .wspill f => Sys2Proof.Machine.execWspill f s
  | .wfill f => Sys2Proof.Machine.execWfill f s
  | .fadd f => Sys2Proof.Machine.execFadd f s
  | .fsub f => Sys2Proof.Machine.execFsub f s
  | .fmul f => Sys2Proof.Machine.execFmul f s
  | .ffma f => Sys2Proof.Machine.execFfma f s
  | .fmin f => Sys2Proof.Machine.execFmin f s
  | .fmax f => Sys2Proof.Machine.execFmax f s
  | .fabs f => Sys2Proof.Machine.execFabs f s
  | .fneg f => Sys2Proof.Machine.execFneg f s
  | .fcmp f => Sys2Proof.Machine.execFcmp f s
  | .fclass f => Sys2Proof.Machine.execFclass f s
  | .fround f => Sys2Proof.Machine.execFround f s
  | .fscale f => Sys2Proof.Machine.execFscale f s
  | .frcp f => Sys2Proof.Machine.execFrcp f s
  | .frsq f => Sys2Proof.Machine.execFrsq f s
  | .fexp2 f => Sys2Proof.Machine.execFexp2 f s
  | .flog2 f => Sys2Proof.Machine.execFlog2 f s
  | .ftanh f => Sys2Proof.Machine.execFtanh f s
  | .cvtf f => Sys2Proof.Machine.execCvtf f s
  | .cvtfi f => Sys2Proof.Machine.execCvtfi f s
  | .cvtif f => Sys2Proof.Machine.execCvtif f s
  | .pack8 f => Sys2Proof.Machine.execPack8 f s
  | .pack4 f => Sys2Proof.Machine.execPack4 f s
  | .unpk8 f => Sys2Proof.Machine.execUnpk8 f s
  | .unpk4 f => Sys2Proof.Machine.execUnpk4 f s
  | .dot4 f => Sys2Proof.Machine.execDot4 f s
  | .dot8 f => Sys2Proof.Machine.execDot8 f s
  | .idot4 f => Sys2Proof.Machine.execIdot4 f s
  | .idot8 f => Sys2Proof.Machine.execIdot8 f s
  | .pfma f => Sys2Proof.Machine.execPfma f s
  | .lshfl f => Sys2Proof.Machine.execLshfl f s
  | .lperm f => Sys2Proof.Machine.execLperm f s
  | .qswap f => Sys2Proof.Machine.execQswap f s
  | .qbcast f => Sys2Proof.Machine.execQbcast f s
  | .gred f => Sys2Proof.Machine.execGred f s
  | .gscan f => Sys2Proof.Machine.execGscan f s
  | .v2s f => Sys2Proof.Machine.execV2s f s
  | .ld f => Sys2Proof.Machine.execLd f s
  | .st f => Sys2Proof.Machine.execSt f s
  | .lds f => Sys2Proof.Machine.execLds f s
  | .sts f => Sys2Proof.Machine.execSts f s
  | .ldu f => Sys2Proof.Machine.execLdu f s
  | .ldl f => Sys2Proof.Machine.execLdl f s
  | .stl f => Sys2Proof.Machine.execStl f s
  | .pref f => Sys2Proof.Machine.execPref f s
  | .atom f => Sys2Proof.Machine.execAtom f s
  | .atomcas f => Sys2Proof.Machine.execAtomcas f s
  | .red f => Sys2Proof.Machine.execRed f s
  | .atoms f => Sys2Proof.Machine.execAtoms f s
  | .fence f => Sys2Proof.Machine.execFence f s
  | .cmaintClean f => Sys2Proof.Machine.execCmaintClean f s
  | .cmaintInv f => Sys2Proof.Machine.execCmaintInv f s
  | .cmaintClinv f => Sys2Proof.Machine.execCmaintClinv f s
  | .barinit f => Sys2Proof.Machine.execBarinit f s
  | .barreg f => Sys2Proof.Machine.execBarreg f s
  | .bararr f => Sys2Proof.Machine.execBararr f s
  | .barwait f => Sys2Proof.Machine.execBarwait f s
  | .barsync f => Sys2Proof.Machine.execBarsync f s
  | .bardrop f => Sys2Proof.Machine.execBardrop f s
  | .qbind f => Sys2Proof.Machine.execQbind f s
  | .qpoll f => Sys2Proof.Machine.execQpoll f s
  | .tclaim f => Sys2Proof.Machine.execTclaim f s
  | .tfill f => Sys2Proof.Machine.execTfill f s
  | .tdrain f => Sys2Proof.Machine.execTdrain f s
  | .tstat f => Sys2Proof.Machine.execTstat f s
  | .tfree f => Sys2Proof.Machine.execTfree f s
  | .rbres f => Sys2Proof.Machine.execRbres f s
  | .rbpub f => Sys2Proof.Machine.execRbpub f s
  | .rbtake f => Sys2Proof.Machine.execRbtake f s
  | .rbfree f => Sys2Proof.Machine.execRbfree f s
  | .rbmeta f => Sys2Proof.Machine.execRbmeta f s
  | .mxldw f => Sys2Proof.Machine.execMxldw f s
  | .mxmul f => Sys2Proof.Machine.execMxmul f s
  | .mxmult f => Sys2Proof.Machine.execMxmult f s
  | .mxprom f => Sys2Proof.Machine.execMxprom f s
  | .mxzero f => Sys2Proof.Machine.execMxzero f s
  | .mxrd f => Sys2Proof.Machine.execMxrd f s
  | .mxstat f => Sys2Proof.Machine.execMxstat f s
  | .mxfence f => Sys2Proof.Machine.execMxfence f s
  | .cvset f => Sys2Proof.Machine.execCvset f s
  | .cvqry f => Sys2Proof.Machine.execCvqry f s
  | .kacc f => Sys2Proof.Machine.execKacc f s
  | .kprobe f => Sys2Proof.Machine.execKprobe f s
  | .kdrain f => Sys2Proof.Machine.execKdrain f s
  | .kcfg f => Sys2Proof.Machine.execKcfg f s
  | .kstat f => Sys2Proof.Machine.execKstat f s
  | .kflush f => Sys2Proof.Machine.execKflush f s
  | .kmergeBlock f => Sys2Proof.Machine.execKmergeBlock f s
  | .kmergeRing f => Sys2Proof.Machine.execKmergeRing f s
  | .kclear f => Sys2Proof.Machine.execKclear f s
  | .itrsrcRange f => Sys2Proof.Machine.execItrsrcRange f s
  | .itrsrcList f => Sys2Proof.Machine.execItrsrcList f s
  | .itrsrcBitmap f => Sys2Proof.Machine.execItrsrcBitmap f s
  | .itrmapAffine f => Sys2Proof.Machine.execItrmapAffine f s
  | .itrmapGather f => Sys2Proof.Machine.execItrmapGather f s
  | .itrfilt f => Sys2Proof.Machine.execItrfilt f s
  | .itrzip f => Sys2Proof.Machine.execItrzip f s
  | .itrchain f => Sys2Proof.Machine.execItrchain f s
  | .itrflat f => Sys2Proof.Machine.execItrflat f s
  | .itrnext f => Sys2Proof.Machine.execItrnext f s
  | .itrenough f => Sys2Proof.Machine.execItrenough f s
  | .itrsave f => Sys2Proof.Machine.execItrsave f s
  | .itrload f => Sys2Proof.Machine.execItrload f s
  | .cpy f => Sys2Proof.Machine.execCpy f s
  | .cpy2d f => Sys2Proof.Machine.execCpy2d f s
  | .veer f => Sys2Proof.Machine.execVeer f s
  | .veerq f => Sys2Proof.Machine.execVeerq f s
  | .fwait f => Sys2Proof.Machine.execFwait f s
  | .ftest f => Sys2Proof.Machine.execFtest f s
  | .fcancel f => Sys2Proof.Machine.execFcancel f s
  | .trapOp f => Sys2Proof.Machine.execTrapOp f s
  | .tret f => Sys2Proof.Machine.execTret f s
  | .csrr f => Sys2Proof.Machine.execCsrr f s
  | .csrw f => Sys2Proof.Machine.execCsrw f s
  | .csrwTpcTbase f => Sys2Proof.Machine.execCsrwTpcTbase f s
  | .csrwTstatus f => Sys2Proof.Machine.execCsrwTstatus f s
  | .csrwErrseed f => Sys2Proof.Machine.execCsrwErrseed f s
  | .csrwErrrate f => Sys2Proof.Machine.execCsrwErrrate f s
  | .tlbinvPage f => Sys2Proof.Machine.execTlbinvPage f s
  | .tlbinvAs f => Sys2Proof.Machine.execTlbinvAs f s
  | .tlbinvAll f => Sys2Proof.Machine.execTlbinvAll f s
  | .tlbprobe f => Sys2Proof.Machine.execTlbprobe f s
  | .nopreBegin f => Sys2Proof.Machine.execNopreBegin f s
  | .nopreEnd f => Sys2Proof.Machine.execNopreEnd f s
  | .bkpt f => Sys2Proof.Machine.execBkpt f s
  | .errinjReg f => Sys2Proof.Machine.execErrinjReg f s
  | .errinjOnce f => Sys2Proof.Machine.execErrinjOnce f s
  | .errinjTwice f => Sys2Proof.Machine.execErrinjTwice f s
  | .errinjSector f => Sys2Proof.Machine.execErrinjSector f s
  | .ckpt f => Sys2Proof.Machine.execCkpt f s
  | .halt f => Sys2Proof.Machine.execHalt f s
  | .nopPacket q len => Sys2Proof.Machine.execNopPacket q len s
  | .launch q p => Sys2Proof.Machine.execLaunch q p s
  | .indirectLaunch q p => Sys2Proof.Machine.execIndirectLaunch q p s
  | .fencePacket q cs => Sys2Proof.Machine.execFencePacket q cs s
  | .loopPacket q mem body word => Sys2Proof.Machine.execLoopPacket q mem body word s
  | .ifPacket q w64 cmp skip addr value => Sys2Proof.Machine.execIfPacket q w64 cmp skip addr value s
  | .segmentBegin q seg retry => Sys2Proof.Machine.execSegmentBegin q seg retry s
  | .segmentEnd q seg => Sys2Proof.Machine.execSegmentEnd q seg s
  | .replay q seg => Sys2Proof.Machine.execReplay q seg s
  | .ckptPacket q wait addr => Sys2Proof.Machine.execCkptPacket q wait addr s
  | .signalWrite64 q p => Sys2Proof.Machine.execSignalWrite64 q p s
  | .signalRedAdd q p => Sys2Proof.Machine.execSignalRedAdd q p s
  | .signalWrite32 q p => Sys2Proof.Machine.execSignalWrite32 q p s
  | .doorbell cp off width => Sys2Proof.Machine.execDoorbell cp off width s
  | .widxPoll q => Sys2Proof.Machine.execWidxPoll q s
  | .queueResume q => Sys2Proof.Machine.execQueueResume q s
  | .fenceCounterPoll q => Sys2Proof.Machine.execFenceCounterPoll q s
  | .fenceDeadline q => Sys2Proof.Machine.execFenceDeadline q s
  | .nodeReady n => Sys2Proof.Machine.execNodeReady n s
  | .nodeDispatch n places => Sys2Proof.Machine.execNodeDispatch n places s
  | .nodeComplete n => Sys2Proof.Machine.execNodeComplete n s
  | .segmentRetry q => Sys2Proof.Machine.execSegmentRetry q s
  | .classPreemption n wgi core => Sys2Proof.Machine.execClassPreemption n wgi core s
  | .arrayStep core quarter => Sys2Proof.Machine.execArrayStep core quarter s
  | .arrayStepComplete core quarter => Sys2Proof.Machine.execArrayStepComplete core quarter s
  | .arraySlotPreemption core quarter => Sys2Proof.Machine.execArraySlotPreemption core quarter s
  | .mxmultChunk core quarter => Sys2Proof.Machine.execMxmultChunk core quarter s
  | .joinTimeout wg quad => Sys2Proof.Machine.execJoinTimeout wg quad s
  | .dozeExpiry wg lane => Sys2Proof.Machine.execDozeExpiry wg lane s
  | .translationMissComplete k => Sys2Proof.Machine.execTranslationMissComplete k s
  | .pageFaultServiceComplete asid va leaf => Sys2Proof.Machine.execPageFaultServiceComplete asid va leaf s
  | .loadDataReturn id => Sys2Proof.Machine.execLoadDataReturn id s
  | .tileFillComplete wg idx => Sys2Proof.Machine.execTileFillComplete wg idx s
  | .tileDrainComplete wg idx => Sys2Proof.Machine.execTileDrainComplete wg idx s
  | .tileRelease wg idx => Sys2Proof.Machine.execTileRelease wg idx s
  | .migrationEpoch die => Sys2Proof.Machine.execMigrationEpoch die s
  | .migrationStart region frame => Sys2Proof.Machine.execMigrationStart region frame s
  | .migrationCopyComplete region => Sys2Proof.Machine.execMigrationCopyComplete region s
  | .migrationAbandon region => Sys2Proof.Machine.execMigrationAbandon region s
  | .stickDrain stick => Sys2Proof.Machine.execStickDrain stick s
  | .overflowSlotSupplied stick slot => Sys2Proof.Machine.execOverflowSlotSupplied stick slot s
  | .memoryLinkRetrainFail stick => Sys2Proof.Machine.execMemoryLinkRetrainFail stick s
  | .driftRingWrite asid ring => Sys2Proof.Machine.execDriftRingWrite asid ring s
  | .kmergeBatch op => Sys2Proof.Machine.execKmergeBatch op s
  | .engineOperationComplete op => Sys2Proof.Machine.execEngineOperationComplete op s
  | .iteratorPullCommit wg slot => Sys2Proof.Machine.execIteratorPullCommit wg slot s
  | .iteratorSlotMove wg core => Sys2Proof.Machine.execIteratorSlotMove wg core s
  | .veerRequestServe link => Sys2Proof.Machine.execVeerRequestServe link s
  | .laneGroupTurnStart link grp => Sys2Proof.Machine.execLaneGroupTurnStart link grp s
  | .laneGroupTurnComplete link grp => Sys2Proof.Machine.execLaneGroupTurnComplete link grp s
  | .veerHoldExpiry link => Sys2Proof.Machine.execVeerHoldExpiry link s
  | .adaptiveTurn link grp => Sys2Proof.Machine.execAdaptiveTurn link grp s
  | .laneGroupRetire link grp => Sys2Proof.Machine.execLaneGroupRetire link grp s
  | .recalibrationStart link grp => Sys2Proof.Machine.execRecalibrationStart link grp s
  | .recalibrationEnd link => Sys2Proof.Machine.execRecalibrationEnd link s
  | .linkOutOfService link => Sys2Proof.Machine.execLinkOutOfService link s
  | .linkRestore link grp => Sys2Proof.Machine.execLinkRestore link grp s
  | .barrierArrivalCount tree wg idx lane => Sys2Proof.Machine.execBarrierArrivalCount tree wg idx lane s
  | .treeBarrierRelease idx => Sys2Proof.Machine.execTreeBarrierRelease idx s
  | .treeBarrierRearm idx => Sys2Proof.Machine.execTreeBarrierRearm idx s
  | .localBarrierRelease wg idx => Sys2Proof.Machine.execLocalBarrierRelease wg idx s
  | .localBarrierRearm wg idx => Sys2Proof.Machine.execLocalBarrierRearm wg idx s
  | .queueFlitDelivery k => Sys2Proof.Machine.execQueueFlitDelivery k s
  | .workgroupSave wg why => Sys2Proof.Machine.execWorkgroupSave wg why s
  | .workgroupRestore wg core => Sys2Proof.Machine.execWorkgroupRestore wg core s
  | .nopreBoundExpiry wg => Sys2Proof.Machine.execNopreBoundExpiry wg s
  | .infieldTestDue core => Sys2Proof.Machine.execInfieldTestDue core s
  | .infieldTestResult core pass => Sys2Proof.Machine.execInfieldTestResult core pass s
  | .ckptIncrement k => Sys2Proof.Machine.execCkptIncrement k s
  | .glq die ring value => Sys2Proof.Machine.execGlq die ring value s
  | .mres die ring => Sys2Proof.Machine.execMres die ring s
  | .ridxWrite die ring value => Sys2Proof.Machine.execRidxWrite die ring value s
  | .controlBlockAccessIgnored die ring => Sys2Proof.Machine.execControlBlockAccessIgnored die ring s
  | .metadataDelivery die ring => Sys2Proof.Machine.execMetadataDelivery die ring s
  | .gateLogitPop die => Sys2Proof.Machine.execGateLogitPop die s
  | .coprocessorReserveRetry die => Sys2Proof.Machine.execCoprocessorReserveRetry die s
  | .ringConfiguration die ring cfg => Sys2Proof.Machine.execRingConfiguration die ring cfg s
  | .asidRegistration asid desc => Sys2Proof.Machine.execAsidRegistration asid desc s
  | .partitionTableWrite idx entry => Sys2Proof.Machine.execPartitionTableWrite idx entry s
  | .hostSnoop addr => Sys2Proof.Machine.execHostSnoop addr s
  | .hostMemoryAccess acc => Sys2Proof.Machine.execHostMemoryAccess acc s
  | .fabricPortRetire port => Sys2Proof.Machine.execFabricPortRetire port s
  | .fabricLoadTimeout id => Sys2Proof.Machine.execFabricLoadTimeout id s
  | .domainIdAssign id => Sys2Proof.Machine.execDomainIdAssign id s
  | .powerOn patch signed die => Sys2Proof.Machine.execPowerOn patch signed die s
  | .overcastEnd dies retired => Sys2Proof.Machine.execOvercastEnd dies retired s
  | .livePatch version signed => Sys2Proof.Machine.execLivePatch version signed s
  | .attestationReport challenge => Sys2Proof.Machine.execAttestationReport challenge s
  | .dieOffline die => Sys2Proof.Machine.execDieOffline die s
  | .stickReplacement stick => Sys2Proof.Machine.execStickReplacement stick s
  | .powerCapEvaluation die power flux => Sys2Proof.Machine.execPowerCapEvaluation die power flux s
  | .inputPowerLimitExpiry power => Sys2Proof.Machine.execInputPowerLimitExpiry power s
  | .telemetryPublish stage word => Sys2Proof.Machine.execTelemetryPublish stage word s
  | .connectorHealthReport conn word => Sys2Proof.Machine.execConnectorHealthReport conn word s
  | .writeAcknowledgement id => Sys2Proof.Machine.execWriteAcknowledgement id s
  | .ownershipGrant id => Sys2Proof.Machine.execOwnershipGrant id s
  | .cacheMaintenanceComplete id => Sys2Proof.Machine.execCacheMaintenanceComplete id s
  | .memoryLinkCrcReplay stick => Sys2Proof.Machine.execMemoryLinkCrcReplay stick s
  | .uncorrectableSramError g => Sys2Proof.Machine.execUncorrectableSramError g s
  | .doldrumsEntry wg grp => Sys2Proof.Machine.execDoldrumsEntry wg grp s
  | .fabricRemoteAccess acc => Sys2Proof.Machine.execFabricRemoteAccess acc s
  | .fabricModuleUnreachable m => Sys2Proof.Machine.execFabricModuleUnreachable m s
  | .hubCoreMemoryAccess acc => Sys2Proof.Machine.execHubCoreMemoryAccess acc s
  | .compressedStateSetup stick base pool overflow => Sys2Proof.Machine.execCompressedStateSetup stick base pool overflow s
  | .compressedPageRepack page => Sys2Proof.Machine.execCompressedPageRepack page s
  | .queueBinding q asid desc => Sys2Proof.Machine.execQueueBinding q asid desc s
  | .queueHaltedByModuleOs q => Sys2Proof.Machine.execQueueHaltedByModuleOs q s
  | .haltedCoreReturn core => Sys2Proof.Machine.execHaltedCoreReturn core s
  | .powerLoss => Sys2Proof.Machine.execPowerLoss s

end Sys2Proof.Machine
end

