-- ==== Sys2Proof/Machine/Fetch.lean ====
section
/-! DEFINITION. The smallest machine that runs one given instruction next: the load that stands for a launch
(log entry 2). -/
namespace Sys2Proof.Machine

/-- A header for one instruction and its literal slots: its class, LMAP, U set. -/
def loneHeader (w : W64) : W64 :=
  let n := literalCount w
  BitVec.ofNat 64 (11 * 2 ^ 60 + opcodeClass (opcodeOf w) * 2 ^ 57 + n * 2 ^ 53 + (2 ^ (n + 1) - 2) * 2 ^ 37 + 2 ^ 28)

/-- The space the lone instruction runs in: one 1 GiB leaf at address 0, its root table at 0x2000_0000. -/
def loneSpace : Space := { asid := 1, root := 0x20000, t := true, part := 0, rlim := 0, privileged := true }

/-- V, L, R, W, X, Q, D, A of the leaf (Table 2-4). -/
def loneLeaf : W64 := 0xF9C0000000000000

def loneLaunch : LaunchPkt := { entry := 0x1000, scal := 192 }

/-- Four lanes at slot 0 of the clause at 0x1000, on core 0. -/
def loneWg (id node : Nat) : Wg :=
  { id, node, index := 0, n := 4, width := 64, place := .core 0
    lanes := List.replicate 4 { pc := 0x1008, clause := 0x1000 }
    groups := [{}]
    offers := [{ quad := 0, pc := 0x1008, since := 0 }] }

def loneNode (id : Nat) : Node :=
  { id, queue := 0, asid := 1, launch := loneLaunch, state := .running, grid := 1, map := [(0, 0)] }

/-- The clause and the root table in memory. -/
def loneMemory (m : Memory) (w : W64) : Memory :=
  ((m.writeBytes 0x1000 (bytesOfWord (loneHeader w))).writeBytes 0x1008 (tableBytes w.toNat)).writeBytes 0x20000000
    (bytesOfWord loneLeaf)

/-- The state with that clause loaded, its translation held, a workgroup at it, and its issue as the next action. -/
def State.load (s : State) (w : W64) : State :=
  let k := s.ck.nextId
  { s with
    ck := { s.ck with nextId := k + 2 }
    hub := { s.hub with phase := .service, spaces := loneSpace :: s.hub.spaces.filter fun x => x.asid != 1 }
    ms := { s.ms with
      mem := loneMemory s.ms.mem w
      poison := s.ms.poison.filter fun k => !(k == 0x1000 / 32 || k == 0x1020 / 32 || k == 0x20000000 / 32)
      tlb := { unit := 0, asid := 1, level := 0, vpn := 0, leaf := loneLeaf, entry := 0x20000000 } :: s.ms.tlb.filter fun t => t.asid != 1 }
    ex := { s.ex with
      cores := upd s.ex.cores 0 fun c => { c with inService := true, quarantined := false, halted := false, testing := false }
      nodes := s.ex.nodes ++ [loneNode k]
      wgs := s.ex.wgs ++ [loneWg (k + 1) k]
      agenda := .issue (k + 1) 0x1008 [0] :: s.ex.agenda } }

end Sys2Proof.Machine
end

