-- ==== Sys2Proof/Machine/Schedule.lean ====
section
/-! DEFINITION. The passage of time, the actions of the agenda that are no instruction, and what the machine does when the
agenda is empty (log entry 2). -/
namespace Sys2Proof.Machine

/-! ### Time -/

/-- Counters of a lane's wait in arithmetic clocks fall with the time (R173, R293). -/
def Lane.count (clocks : Nat) (l0 : Lane) : Lane :=
  let l := { l0 with shy := l0.shy - clocks }
  match l.wait with
  | .join t n => { l with wait := .join t (n - clocks) }
  | .doze n => { l with wait := .doze (n - clocks) }
  | _ => l

/-- Every counter runs (R9: `dcount` at 1 GHz). -/
def State.elapse (s : State) (n : Nat) : State :=
  let clocks := (s.ck.now + n) * s.rate / 5 - s.ck.now * s.rate / 5
  { s with
    ck := { s.ck with now := s.ck.now + n, dcount := s.ck.dcount.map (· + BitVec.ofNat 64 n) }
    ex := { s.ex with
      cores := s.ex.cores.map fun c => { c with ccount := c.ccount + BitVec.ofNat 64 clocks }
      wgs := s.ex.wgs.map fun w => { w with lanes := w.lanes.map (Lane.count clocks) } } }

/-- Groups that have not issued leave the active sets (R191). -/
def State.fallIdle (s : State) : State :=
  { s with ex := { s.ex with wgs := s.ex.wgs.map fun w => { w with groups := w.groups.map s.fall } } }

/-- `n` nanoseconds pass. What happens by the time alone has happened: idle groups have fallen to the Doldrums (R191), the heat
records of a die are evaluated every 100 µs (R38), and no migration stalls writes longer than 40 µs (R40). -/
def State.pass (s : State) (n : Nat) : State := (s.elapse n).fallIdle.endEpochs.abandonLate

/-! ### What follows a step by itself -/

/-- What the quads of a workgroup offer to their pickers, and since when (R170). -/
def State.offersOf (s : State) (w : Wg) : List Offer :=
  match w.place with
  | .core _ => (List.range ((w.lanes.length + 3) / 4)).filterMap fun q =>
      (w.offerPc q).bind fun pc =>
        if (s.offerPort w q pc).isSome then
          some ((w.offers.find? fun o => o.quad == q && o.pc == pc).getD { quad := q, pc, since := s.ck.now })
        else none
  | _ => []

/-- A wait without its count. -/
def Wait.uncounted : Wait → Wait
  | .join t _ => .join t 0
  | .doze _ => .doze 0
  | w => w

/-- What another lane of its workgroup may wait for, in a lane. -/
def Lane.seen (l : Lane) : List Bool × List Bool × BitVec 8 × Bool × Wait × List Nat × Bool :=
  (l.v.map (·.full), l.h.map (·.full), l.pbusy, l.exited, l.wait.uncounted, l.walked, l.atPort)

/-- What a lane may wait for, in a workgroup, besides the lanes: no bookkeeping of waits. -/
def Wg.seen (w : Wg) : Wg :=
  { w with
    lanes := [], offers := [], reached := [], area := []
    groups := w.groups.map fun g => { s := g.s.map fun r => { full := r.full } }
    tiles := w.tiles.map fun t => { t with waiters := [] }
    mx := w.mx.map fun m => { m with since := none }
    drift := w.drift.map fun d => d.map fun t => { t with waitFrom := none } }

/-- What a lane may wait for, in the machine besides its own workgroup's lanes: neither the time nor a counter nor the log. -/
def State.seen (s : State) : State :=
  { s with
    ck := {}, log := []
    ex := { wgs := s.ex.wgs.map Wg.seen, ops := s.ex.ops, ringWrites := s.ex.ringWrites, drained := s.ex.drained, cores := [] }
    ms := { s.ms with l1 := [], tlb := [], heat := [], tag := 0, replaced := 0, crcReplays := [], corrected := [] }
    rt := { s.rt with rings := s.rt.rings.filter (·.st != 0) }
    hub := { phase := s.hub.phase, spaces := s.hub.spaces, copyEngines := s.hub.copyEngines, driftQuotas := s.hub.driftQuotas } }

/-- Lanes that wait are not known to be blocked any more once something has changed that they may wait for (R167, R190; log
entry 81). -/
def State.awaken (s0 s : State) : State :=
  let waits := fun (l : Lane) => l.since.isSome && !l.retry
  if !(s.ex.wgs.any fun w => w.lanes.any waits) then s
  else
    let changed := decide (s0.seen ≠ s.seen)
    let wake := fun (w : Wg) =>
      if changed || (s0.wg? w.id).map (·.lanes.map Lane.seen) != some (w.lanes.map Lane.seen) then
        { w with lanes := w.lanes.map fun l => if waits l then { l with retry := true } else l }
      else w
    { s with ex := { s.ex with wgs := s.ex.wgs.map wake } }

/-- The gang of the step has issued, in the lanes that do not wait at its instruction; there is none between steps. -/
def State.endGang (s : State) : State :=
  match s.ex.gang with
  | none => s
  | some g =>
    let went := match s.wg? g.wg with
      | some w => g.lanes.filter fun i => (w.lane i).since.isNone
      | none => []
    let s := s.haveIssued g went
    { s with ex := { s.ex with gang := none } }

/-- A ready node that finds no room finds none from now on, until it does (R209). -/
def State.noteRoom (s : State) (n : Node) : Node :=
  if n.state == .ready then { n with since := if s.couldPlace n then none else some (n.since.getD s.ck.now) } else n

/-- After a step from `s0`: line requests take the lane-miss entries that are free (R59), meetings that an exit, a kill or a
filled scalar has completed close (R173, R174), the gang that issued is noted, waiting lanes look again, and the quads' offers
stand from now on. -/
def State.settle (s0 s : State) : State :=
  let s := s.leavePorts
  let s := s.ex.wgs.foldl (fun s w => (s.modWg w.id Wg.meetJoins).closeMeeting w.id) s
  let s := State.awaken s0 s.endGang
  { s with ex := { s.ex with nodes := s.ex.nodes.map s.noteRoom, wgs := s.ex.wgs.map fun w => { w with offers := s.offersOf w } } }

/-! ### Actions of the module OS -/

/-- A parameter is set. -/
def State.setOs (s : State) (x : OsSetting) : State :=
  match x with
  | .slotQuota die part q l pool =>
    { s with rt := { s.rt with quotas := { die, part, q, l } :: s.rt.quotas.filter (fun y => !(y.die == die && y.part == part))
                               pool := s.rt.pool.set die pool } }
  | .driftQuota part n => { s with hub := { s.hub with driftQuotas := s.hub.driftQuotas.set part n } }
  | .dieAllot part dies => { s with hub := { s.hub with dieAllot := s.hub.dieAllot.set part dies } }
  | .regionBound ns => { s with hub := { s.hub with regionBound := ns } }
  | .policy ratio floor rest conc => s.modMs fun ms => { ms with policy := (ratio, floor, rest, conc) }
  | .flux limit => { s with hub := { s.hub with fluxLimit := limit } }
  | .hostLink cxl => { s with hub := { s.hub with cxl } }
  | .barWindow base len => { s with hub := { s.hub with windows := s.hub.windows ++ [(base, len)] } }
  | .saveArea wg asid addr => s.modWg wg fun w => { w with areaAt := some (asid, addr) }

/-- One `dcount` counter runs ahead: the five are not synchronised (R9). -/
def State.drift (s : State) (unit ticks : Nat) : State :=
  { s with ck := { s.ck with dcount := upd s.ck.dcount unit (· + BitVec.ofNat 64 ticks) } }

/-- Missing sectors of a unit arrive, and free their miss-status entries (R60). DESIGN CHOICE (log entry 82): when they do is
the agenda's. -/
def State.engineArrives (s : State) (core unit n : Nat) : State :=
  s.modMs fun ms => { ms with engMiss := upd ms.engMiss core fun us => upd us unit (· - n) }

/-- The residue checker of a unit of a core meets a mismatch next, or two (R456). -/
def State.meetMismatch (s : State) (core unit : Nat) (second : Bool) : State :=
  s.modCore core fun c => { c with mismatch := c.mismatch.set unit (if second then 2 else 1) }

/-- The next update by the adders at a sector's home or controller meets one (R458). -/
def State.meetAdder (s : State) (sector : Nat) (second : Bool) : State :=
  s.modMs fun ms => { ms with adderBad := (sector, second) :: ms.adderBad.filter (·.1 != sector) }

/-- A byte of a die's scratchpad of 128 KiB (R8). -/
def State.putScratch (s : State) (die addr : Nat) (b : Byte) : State :=
  if 131072 ≤ addr then s else { s with rt := { s.rt with scratch := upd s.rt.scratch die (·.write addr b) } }

/-- A register page is mapped. -/
def State.addPage (s : State) (doorbell : Bool) (unit addr : Nat) : State :=
  s.modMs fun ms => { ms with pages := { doorbell, unit, addr } :: ms.pages.filter fun g => g.addr != addr }

/-- A save of a workgroup on a core is asked for (R415). -/
def State.askSave (s : State) (wg : Nat) (why : SaveCause) : State :=
  s.modWg wg fun w => if w.onCore w.core then w.ask why else w

/-- A step that happens by itself, and is no word of a program or of a queue. -/
def isEvent (i : Instr) : Bool := i.code.isNone && (encodePacket i).isEmpty

/-- What an action comes to. -/
def State.act (s : State) (a : Action) : Act :=
  match a with
  | .issue wg pc quads => s.issue wg pc quads
  | .parse q =>
    let s := ((s.writeDesc q).1).ckptRelease q
    if s.parseTurn q then (s.passTurn q).parse q else .done s
  | .event i => if isEvent i then .run i s else .done s
  | .tick n => .done (s.pass n)
  | .evict core sector => .done (s.evictSector core (sectorOf sector))
  | .mapPage doorbell unit addr => .done (s.addPage doorbell unit addr)
  | .osSet x => .done (s.setOs x)
  | .askSave wg why => .done (s.askSave wg why)
  | .drift unit ticks => .done (s.drift unit ticks)
  | .evictL2 line => .done (s.evictL2 (lineOf line))
  | .corrected stick => .done (s.modMs fun ms => { ms with corrected := upd ms.corrected stick (· + 1) })
  | .engineReads core unit n => .done (s.engineArrives core unit n)
  | .mismatch core unit second => .done (s.meetMismatch core unit second)
  | .adderMismatch sector second => .done (s.meetAdder sector second)
  | .scratch die addr b => .done (s.putScratch die addr b)

/-! ### The empty agenda: what is waiting to happen, in turn -/

/-- Something that could happen: the meaning of an event, applied. -/
abbrev Ev := State → Out

def indices {α : Type} (l : List α) : List Nat := List.range l.length

def accEvent (s : State) (a : Acc) : Ev :=
  if a.isLoad then (if a.loc.any s.unreachable then execFabricLoadTimeout a.id else execLoadDataReturn a.id)
  else if a.isLocal && !(a.loc.any fun l => locTgt l == 2) then execOwnershipGrant a.id
  else execWriteAcknowledgement a.id

def memEvents (s : State) : List Ev :=
  ((indices s.ms.misses).map execTranslationMissComplete) ++ s.ms.acc.map (accEvent s)
    ++ s.ms.maint.map (fun m => execCacheMaintenanceComplete m.id)
    ++ s.ex.ringWrites.map (fun x => execDriftRingWrite x.asid.toNat x.ring.toNat)
    ++ (indices s.ms.engMiss).flatMap (fun c => (indices (s.ms.engMiss.getD c [])).filterMap fun u =>
      let n := (s.ms.engMiss.getD c []).getD u 0
      if n = 0 then none else some fun s => .next (s.engineArrives c u n))
    ++ s.ms.migs.map (fun m => if m.start + 40000 ≤ s.ck.now then execMigrationAbandon m.region else execMigrationCopyComplete m.region)

def opEvents (s : State) : List Ev :=
  (s.ex.ops.flatMap fun o => match o.kind with
    | .cpy .. => [execEngineOperationComplete o.id]
    | .kdrain .. => [execEngineOperationComplete o.id]
    | .kmerge .. => [execKmergeBatch o.id]
    | .veer link => [execVeerRequestServe link]
    | _ => []) ++ (indices s.cp.ckpts).map execCkptIncrement

def barEvents (tree : Bool) (b : Barrier) (wg idx : Nat) : List Ev :=
  b.pend.map (fun k => execBarrierArrivalCount tree (k / 1024) idx (k % 1024))
    ++ (if b.due then [if tree then execTreeBarrierRelease idx else execLocalBarrierRelease wg idx] else [])
    ++ (if b.released then [if tree then execTreeBarrierRearm idx else execLocalBarrierRearm wg idx] else [])

def tileEvents (w : Wg) : List Ev :=
  w.tiles.flatMap fun t =>
    if t.freeing then [execTileRelease w.id t.idx]
    else match t.state with
      | .filling => [execTileFillComplete w.id t.idx]
      | .draining => [execTileDrainComplete w.id t.idx]
      | _ => if t.queue.isEmpty then [] else [execTileDrainComplete w.id t.idx]

def mxEvents (w : Wg) (c : Nat) : List Ev :=
  (List.range 4).flatMap fun q =>
    let m := w.quarter q
    (if m.since.isSome then [execArraySlotPreemption c q] else []) ++ (if m.cell.isSome then [execArrayStepComplete c q] else [])
      ++ m.steps.map fun x => if x.step.cells then (if x.step.isMult then execMxmultChunk c q else execArrayStep c q)
          else execEngineOperationComplete x.step.op

def laneEvents (w : Wg) : List Ev :=
  (indices w.lanes).flatMap fun i => match (w.lane i).wait with
    | .join _ 0 => [execJoinTimeout w.id (i / 4)]
    | .doze 0 => [execDozeExpiry w.id i]
    | _ => []

def wgEvents (s : State) (w : Wg) : List Ev :=
  (match w.place with
   | .saved => (s.permitted w).map fun c => execWorkgroupRestore w.id c
   | .core c => mxEvents w c ++ laneEvents w
      ++ (if s.slotLong w then (s.permitted w).map (fun k => execIteratorSlotMove w.id k) else [])
      ++ (match w.saveAsked with
        | some why => [execWorkgroupSave w.id why, execNopreBoundExpiry w.id]
        | none => [])
   | .ended c => mxEvents w c)
    ++ tileEvents w ++ ((indices w.itr).filter fun k => !(w.itrSlot k).queue.isEmpty).map (fun k => execIteratorPullCommit w.id k)
    ++ (List.range 16).flatMap fun i => barEvents false (w.bars.getD i {}) w.id i

def linkEvents (s : State) : List Ev :=
  (List.range 10).flatMap fun k =>
    let l := s.link k
    l.picks.map (fun g => execLaneGroupTurnStart k g)
      ++ ((indices l.groups).filter fun g => ((l.group? g).bind (·.turning)).isSome).map (fun g => execLaneGroupTurnComplete k g)
      ++ (if l.hold.isSome then [execVeerHoldExpiry k] else [])
      ++ (if l.size - l.retired < 4 && !l.out then [execLinkOutOfService k] else [])
      ++ (if l.recaling != 0 && decide (l.recalStart + 500000 ≤ s.ck.now) then [execRecalibrationEnd k] else []) ++ (if l.reqs.isEmpty then [] else [execVeerRequestServe k])

def ringEvents (s : State) : List Ev :=
  ((List.range 256).filter fun k => (s.ring k).st != 0).map (fun k => execMetadataDelivery (k / 64) (k % 64))
    ++ (List.range 4).flatMap fun d =>
      if (s.rt.cop.getD d none).isSome then [execCoprocessorReserveRetry d]
      else if (s.rt.glq.getD d []).isEmpty then [] else [execGateLogitPop d]

def nodeEvents (s : State) : List Ev :=
  s.ex.nodes.flatMap fun n => match n.state with
    | .waiting => [execNodeReady n.id]
    | .ready =>
      let i := n.map.length
      let low := if n.since.any fun t => decide (t + 20000 ≤ s.ck.now) then (List.range 64).map (fun c => execClassPreemption n.id i c) else []
      execNodeDispatch n.id (s.choose n (if n.launch.ntree = 0 then 1 else n.grid) i) :: low
    | .running => [execNodeComplete n.id]
    | .done => []

def queueEvents (s : State) : List Ev :=
  s.cp.queues.flatMap fun x => [execWidxPoll x.1, execSegmentRetry x.1] ++
    (match x.2.hold with
     | .fence .. => [execFenceCounterPoll x.1, execFenceDeadline x.1]
     | _ => [])

def netEvents (s : State) : List Ev :=
  ((indices s.net.flits).map execQueueFlitDelivery) ++ (List.range 32).flatMap fun i => barEvents true (s.net.trees.getD i {}) 0 i

/-- What is waiting to happen besides instructions and packets. -/
def State.events (s : State) : List Ev :=
  match s.hub.phase with
  | .off => [execPowerOn s.hub.rollback true 0]
  | .overcast => [execOvercastEnd [0, 1, 2, 3] []]
  | .service => memEvents s ++ opEvents s ++ s.ex.wgs.flatMap (wgEvents s) ++ linkEvents s ++ ringEvents s ++ nodeEvents s
      ++ queueEvents s ++ netEvents s

/-- The gangs that could issue, by workgroup, pc and a quad, and the queues that could parse. -/
def State.issues (s : State) : List Action :=
  if s.hub.phase != .service then []
  else (s.ex.wgs.flatMap fun w =>
    let quads := List.range (w.lanes.length / 4)
    ((w.lanes.filter fun l => l.live).map (·.pc)).eraseDups.flatMap fun pc =>
      quads.filterMap fun q => if w.mayOffer q pc then some (.issue w.id pc [q]) else none) ++ s.cp.queues.map fun x => .parse x.1

/-- The turn of an empty agenda, by the time: an event that is waiting. -/
def State.idleEvent (s : State) : Option Ev := s.events[s.ck.now % (s.events.length + s.issues.length + 1)]?

/-- Else an issue or a parse, or nothing but the passage of time. -/
def State.idleAct (s : State) : Act :=
  match s.issues[s.ck.now % (s.events.length + s.issues.length + 1) - s.events.length]? with
  | some a => (s.pass 1).act a
  | none => .done (s.pass 1)

end Sys2Proof.Machine
end

