-- ==== Sys2Proof/Machine/Step.lean ====
section
/-! DEFINITION. One step of the machine: the next action of the agenda happens; with an empty agenda, what is waiting. -/
namespace Sys2Proof.Machine

/-- An instruction to run, or a state as it is. -/
def Act.run! (a : Act) : Host.Outcome State Fault Refusal :=
  match a with
  | .run i s => exec i s
  | .done s => .next s

/-- The empty agenda: one thing that is waiting happens, and 1 ns passes. -/
def State.idle (s : State) : Host.Outcome State Fault Refusal :=
  match s.idleEvent with
  | some f => f (s.pass 1)
  | none => s.idleAct.run!

/-- A next state of `s` is settled: what follows from it by itself has happened. -/
def settled (s : State) (o : Host.Outcome State Fault Refusal) : Host.Outcome State Fault Refusal :=
  match o with
  | .next t => .next (State.settle s t)
  | o => o

/-- One step. -/
def step (s : State) : Host.Outcome State Fault Refusal :=
  settled s (match s.ex.agenda with
    | [] => s.idle
    | a :: rest => (State.act { s with ex := { s.ex with agenda := rest } } a).run!)

/-- `s` with the instruction of the bits `w` stored where the next step fetches. -/
def State.withFetchWord (s : State) (_nbits w : Nat) : State := s.load (BitVec.ofNat 64 w)

end Sys2Proof.Machine
end

