-- ==== Sys2Proof/Safety.lean ====
section
/-! DEFINITION. What the claims call a good state, a safe step, and an instruction that nothing holds up. -/
namespace Sys2Proof

/-- The memory is in its one canonical form: addresses rise strictly and no entry reads as an unlisted byte. -/
def Machine.State.memOk (s : Machine.State) : Prop := s.ms.mem.wf = true

/-- The machine goes on: no stop and no refusal. -/
def Machine.State.goesOn (s : Machine.State) : Prop := ∃ t, Machine.step s = .next t

namespace Machine

/-- The number that a word stands for, by type. -/
def intVal (signed : Bool) {w : Nat} (x : BitVec w) : Int := if signed then x.toInt else (x.toNat : Int)

/-! ### A per-lane instruction that nothing holds up -/

/-- Lane `i` is not held up at an instruction with the roles of `sp`: no repetition past v31 (R259); its guard's
predicate is not awaited and carries no trap (R236, R239); and, when the guard is true, its operands are within the
instruction's limits (R121, R268), no source is empty or carries a trap (R186, R239, R381), its quad takes part (R171), a
send has a credit (R122), and no producer of the destination is pending (R186). -/
def laneReady (cx : Cx) (sp : LaneSpec) (f0 : Fields) (i : Nat) : Bool :=
  let l := cx.w.lane i
  let f := repFields sp.sig f0 l.rep
  !repPast sp.sig f0 l.rep && (guardStop f l).isNone
    && (!l.guard f || ((limitStop cx sp f i l).isNone && (stopOf cx i (sources cx sp f i l)).isNone
      && !(awayQuads cx sp.sig f).contains (i / 4) && (sp.sig.dst == .qtx || !creditStop cx f i l)
      && !dstBusy cx i l sp.sig.dst f.dst))

/-- What lane `i` does when nothing holds it up: nothing where its guard is false (R252); else the body of `sp`, with
the acquires that its reads make (R142), unless it does not execute after all (R407). -/
def laneRuns (cx : Cx) (sp : LaneSpec) (f0 : Fields) (i : Nat) (l : Lane) : LOut :=
  let f := repFields sp.sig f0 l.rep
  let xs := sources cx sp f i l
  LOut.guarded f l (if !l.guard f then .done l []
    else LOut.forHelper cx f sp.sig.dst l
      (((sp.body cx i (afterRead xs i l) f (valsOf cx sp f i l)).unread l).addFx (readAcq xs i)))

/-- A condition on every lane of the gang whose guard is true, on its values and on the lane as its reads leave it. -/
def lanesMeet (cx : Cx) (sp : LaneSpec) (f0 : Fields) (ok : Cx → Nat → Lane → Fields → Vals → Bool) : Bool :=
  cx.g.lanes.all fun i =>
    let l := cx.w.lane i
    let f := repFields sp.sig f0 l.rep
    !l.guard f || ok cx i (afterRead (sources cx sp f i l) i l) f (valsOf cx sp f i l)

/-- The workgroup as the gang finds it once its receive queues have been popped (R123). -/
def poppedWg (g : Gang) (sp : LaneSpec) (f : Fields) (w : Wg) : Wg := popFlits g sp f w

/-- No residue mismatch arises: the hardware meets none (R456), ERRINJ has injected none (R404), and the injector is off or
its context is no test context (R462); or the instruction's unit checks none. -/
def residueQuiet (s : State) (g : Gang) (w : Wg) (unit : Nat) : Bool :=
  unit == 5 || ((unit != 0 || g.lanes.all fun i => (w.lane i).inject == 0)
    && (s.core w.core).mismatch.getD unit 0 == 0 && (!(s.space w).t || (s.core w.core).errrate == 0))

/-- A state in which an operation of some lanes has been checked without a mismatch: the injector has drawn for it (R462). -/
def checked (s : State) (g : Gang) (w : Wg) (unit : Nat) (f : Fields) (out : Nat → Lane → LOut) : State :=
  if unit == 5 then s else s.drawn w (s.drawCount w (execLanes g w f out))

/-- The unit that checks a per-lane instruction. -/
def unitOf (sp : LaneSpec) (f : Fields) : Nat := if sp.sig.unit = 0 && f.dst.isScalar then 2 else sp.sig.unit

/-- The gang `g` of workgroup `w` is at an instruction with the roles of `sp`: its checks pass (R268), no lane is held
up, and no residue mismatch arises. -/
def gangReady (s : State) (g : Gang) (w : Wg) (sp : LaneSpec) (f : Fields) : Bool :=
  (check (s.checkCtx w) sp.sig f).isNone && residueQuiet s g (poppedWg g sp f w) (unitOf sp f)
    && g.lanes.all (laneReady (s.cxOf g (poppedWg g sp f w) f) sp f)

/-- The state after a gang has done the body of `sp` in every lane whose guard is true. -/
def afterGang (s : State) (g : Gang) (w : Wg) (sp : LaneSpec) (f : Fields)
    (post : Nat → List Fx → State → State := fun _ _ s => s) : State :=
  let w := poppedWg g sp f w
  let out := laneRuns (s.cxOf g w f) sp f
  ((post w.core ((g.lanes.flatMap (laneFx g w out)).map (·.2))
    ((checked s g w (unitOf sp f) f out).runLanes g w out))).spendFree g w

/-- THE INSTRUCTION HAS THE EFFECT OF `sp`: for every gang that nothing holds up and whose lanes meet `ok`, `exec` answers
the next state in which every lane whose guard is true has done the body of `sp`. -/
def RunsAs (ins : Instr) (s : State) (f : Fields) (sp : LaneSpec) (ok : Cx → Nat → Lane → Fields → Vals → Bool := fun _ _ _ _ _ => true)
    (post : Nat → List Fx → State → State := fun _ _ s => s) : Prop :=
  ∀ g w, s.ex.gang = some g → s.wg? g.wg = some w → gangReady s g w sp f = true →
    lanesMeet (s.cxOf g (poppedWg g sp f w) f) sp f ok = true → exec ins s = .next (afterGang s g w sp f post)

/-! ### An instruction that acts once per gang issue -/

/-- The lowest executing lane of a quad that is no helper. -/
def quadElect (cx : Cx) (f : Fields) (q : Nat) : Option Nat :=
  cx.g.lanes.find? fun i => i / 4 == q && ((cx.w.lane i).live && (cx.w.lane i).guard f)

/-- The values that an executing lane meets: those of the acting lane, the lowest that executes (R381); `quad`: of its own
quad's lowest, which stands for the acting lane before it is known. -/
def Once.electVals (o : Once) (quad : Bool) (cx : Cx) (f : Fields) (i : Nat) : Vals :=
  let lead := if quad then none else (electLane cx f).filter fun j => decide (j / 4 ≤ i / 4)
  o.valsAt cx f ((lead.or (quadElect cx f (i / 4))).getD i)

/-- What such an instruction does when nothing holds its lanes up: every executing lane that is no helper receives what
`own` and `out` say, under the values of the lowest one, which acts for all (R172, R381). -/
def Once.effect (o : Once) : LaneSpec where
  sig := o.sig
  more := o.more
  body := fun cx i l f _ =>
    let v := o.electVals false cx f i
    if l.helper then .done l []
    else match o.out cx (o.own cx i l f v) f v with
      | .done l' fx => .done l' (fx ++ if electLane cx f == some i then [.act (o.act cx i l f v)] else [])
      | x => x

/-- A condition on every lane of the gang whose guard is true, as it is and as its reads leave it, under the values that it
meets; these are not poisoned where that would kill it (R461). -/
def onceMeet (cx : Cx) (o : Once) (f : Fields) (ok : Cx → Nat → Lane → Fields → Vals → Bool) : Bool :=
  cx.g.lanes.all fun i =>
    let l := cx.w.lane i
    !l.guard f || [true, false].all fun q =>
      let v := o.electVals q cx f i
      !o.bad f v && ok cx i l f v && ok cx i (afterRead (sources cx o.effect f i l) i l) f v

/-- THE INSTRUCTION ACTS ONCE AS `o` SAYS, for every gang that nothing holds up and whose lanes meet `ok`. No REP repeats
such an instruction (R259). -/
def OnceAs (ins : Instr) (s : State) (f : Fields) (o : Once) (ok : Cx → Nat → Lane → Fields → Vals → Bool := fun _ _ _ _ _ => true) : Prop :=
  ∀ g w, s.ex.gang = some g → s.wg? g.wg = some w → gangReady s g w o.effect f = true →
    (g.lanes.all fun i => ((poppedWg g o.effect f w).lane i).rep == 0) = true →
    onceMeet (s.cxOf g (poppedWg g o.effect f w) f) o f ok = true →
    exec ins s = .next (afterGang s g w o.effect f)

/-! ### A group-wide instruction -/

/-- Lane `i`, of the gang or waiting here, is not held up at a group-wide instruction: it has arrived, the mask names
lanes of the group only and it among them, its operands are within the instruction's limits, every named lane that has
not exited has arrived (R176, R298), and the flits of its quad find credits (R122). -/
def groupLaneReady (cx : Cx) (sp : GroupSpec) (f0 : Fields) (i : Nat) : Bool :=
  let l := cx.w.lane i
  let f := repFields sp.sig f0 l.rep
  let k := cx.w.grpOf i
  let m := groupMask cx.w k f.c
  !repPast sp.sig f0 l.rep && (arrivalStop cx sp.lane f i l).isNone && !l.hasResult && !creditShort cx f (i / 4)
    && !maskTooWide (cx.w.grpCount k) m
    && m.getLsbD (i - cx.w.grpFirst k) && groupComplete cx sp.lane f l.rep k m
    && !groupBad cx sp f i l k m

/-- What lane `i` does when the operation completes: its result is written where its guard was true at its arrival. -/
def groupRuns (cx : Cx) (sp : GroupSpec) (f0 : Fields) (i : Nat) (l : Lane) : LOut :=
  let f := repFields sp.sig f0 l.rep
  let k := cx.w.grpOf i
  let m := groupMask cx.w k f.c
  let v := arrivalVals cx sp.lane f i l
  let xs := arrivalSources cx sp.lane f i l
  let l1 := { afterRead xs i l with wait := .none }
  (groupGive cx sp.sig f l1 (if arrivalGuard f l then
    let r := sp.res (groupCx cx sp.lane f l.rep k m) (i - cx.w.grpFirst k) v
    some (r.1, r.2 || v.pc, v.tag) else none)).addFx (readAcq xs i)

/-- THE GROUP-WIDE INSTRUCTION HAS THE RESULTS OF `sp`, when its member lanes have all arrived and nothing holds them up. The
gang's lanes are lanes of the workgroup. -/
def GroupAs (ins : Instr) (s : State) (f : Fields) (sp : GroupSpec) : Prop :=
  ∀ g0 w0, s.ex.gang = some g0 → s.wg? g0.wg = some w0 →
    let w := popFlits g0 sp.lane f w0
    let g := withWaiting g0 w
    (check (s.checkCtx w0) sp.sig f).isNone = true → (g0.lanes.all fun i => g.lanes.contains i) = true →
    residueQuiet s g0 w sp.sig.unit = true →
    (g.lanes.all (groupLaneReady (s.cxOf g w f) sp f)) = true →
    exec ins s = .next (((checked s g0 w sp.sig.unit f (groupRuns (s.cxOf g w f) sp f)).runLanes g w
      (groupRuns (s.cxOf g w f) sp f)).spendFree g w)

/-- The operands let the lane go on. -/
def Dec.isOk : Dec → Bool
  | .ok => true
  | _ => false

/-! ### Memory accesses that nothing holds up -/

/-- The access has a place: a READY tile or a location in memory. -/
def Target.placed : Target → Bool
  | .mem _ => true
  | .tile .. => true
  | _ => false

/-- A load of `n` bytes of lane `i` is not held by the lane's own accesses (R35, R130), takes none of its pending store's
bytes, and its address translates to a place (R327). -/
def loadFree (s : State) (cx : Cx) (i : Nat) (l : Lane) (va : W64) (n : Nat) : Bool :=
  (s.forward cx.w i va n).isNone && !memHolds s cx i va && (s.target cx.w i l va va .read).placed

/-- A store of lane `i` is not held, and its address translates to a place. -/
def storeFree (s : State) (cx : Cx) (i : Nat) (l : Lane) (va : W64) (rel : Bool) (scope : Nat) : Bool :=
  !memHolds s cx i va && !(rel && s.ms.releaseWaits cx.w.id i scope) && !s.ms.queueFull cx.w.core
    && (s.target cx.w i l va va .write).placed

/-- A stash access of lane `i` is not held by the lane's own accesses (R130), no lane of the gang waits for a tile (R328), and
its address names a tile that is READY. -/
def stashFree (s : State) (cx : Cx) (i : Nat) (l : Lane) (va : W64) (k : Access) (waits : Bool) : Bool :=
  !memHolds s cx i (cx.w.stashVa va) && !waits && (s.stashTarget cx.w i l va k).placed

/-- An update of lane `i` is not held, and its address translates to a place. -/
def updateFree (s : State) (cx : Cx) (i : Nat) (l : Lane) (f : Fields) (va : W64) : Bool :=
  !memHolds s cx i va && !(qmRel f.q && s.ms.releaseWaits cx.w.id i (qmScope f.q))
    && (s.target cx.w i l va va .both).placed

/-- An access of a helper, or of a lane whose address carries no poison and is aligned (R168, R324, R326). -/
def accessOk (l : Lane) (p : Bool) (va : W64) (n : Nat) (ok : Bool) : Bool :=
  l.helper || (!p && va.toNat % n == 0 && ok)


end Machine

end Sys2Proof
end

