-- ==== Sys2Proof/Certificates/Slice0/Obligations.lean ====
section
/-! DEFINITION. The statements for the provers. Each docstring names the rules of spec/ it formalises. -/

open Sys2Proof Sys2Proof.Machine

/-! ### The machine as a whole -/

/-- R248, R251, R255 to R259, R263: words written out from the encodings of the spec decode to the instructions they stand
for (Tables 12-15, 12-16 and 18-6, and the examples of files 13 to 17): every operand form, a negated guard, an A
modifier, an immediate, literals, an offset, a qualifier. -/
def Obligations.DecodesSpecWords : Prop :=
  decodeWords [0x4070504FEF800080, 0x3FC00000] = .ok (.fadd { dst := .v 5, a := .v 4, b := .lit 0x3FC00000, var := 8 }) ∧
  decodeWords [0x04A0606FD0358260] = .ok (.iadd { gn := true, gp := 2, dst := .v 6, a := .v 6, b := .imm 3, c := .used, q := 0x582, var := 6 }) ∧
  decodeWords [0x8070335F8F860060] = .ok (.ld { dst := .v 3, a := .s 21, q := 0x600, var := 6 }) ∧
  decodeWords [0x0E7E103FD0000000] = .ok (.icmp { dst := .p 1, a := .v 3, b := .imm 0, c := .used }) ∧
  decodeWords [0x201F8FFFFFE00000] = .ok (.bra { gp := 1 } 0xFFFFFE) ∧
  decodeWords [0x227F800008000000] = .ok (.call {} 0x000080) ∧
  decodeWords [0x2C748E1F82A00020] = .ok (.voteBallot { dst := .s 40, a := .p 1, c := .s 10, var := 2 }) ∧
  decodeWords [0x00FF8F8F8F800000] = .ok (.nop { gn := true }) ∧
  decodeWords [0x5570C0049F810200] = .ok (.pack8 { dst := .v 12, a := .v 0, b := .s 41, q := 0x102 }) ∧
  decodeWords [0x457070707F898880] = .ok (.fmax { dst := .v 7, a := .v 7, b := .v 7, q := 0x988, var := 8 }) ∧
  decodeWords [0x8870336010514020] = .ok (.atom { dst := .v 3, a := .s 22, b := .v 1, c := .v 5, q := 0x140, var := 2 }) ∧
  decodeWords [0x8A70738F8F820280] = .ok (.red { dst := .v 7, a := .s 24, q := 0x202, var := 8 }) ∧
  decodeWords [0xC87F8F8F84C00020] = .ok (.cvset { c := .s 44, var := 2 }) ∧
  decodeWords [0xC77F8F8F8F800000] = .ok (.mxfence {}) ∧
  decodeWords [0xC17E90848F840001] = .ok (.mxmul { dst := .h 1, a := .v 8, b := .s 40, q := 0x400, h := true }) ∧
  decodeWords [0xD07060204F800010] = .ok (.kacc { dst := .v 6, a := .v 2, b := .v 4, var := 1 }) ∧
  decodeWords [0xD87F8F8FEFE48000, 4, 1] = .ok (.itrsrcRange { b := .lit 4, c := .lit 1, q := 0x480 }) ∧
  decodeWords [0xDD7F848F8F854000] = .ok (.itrflat { a := .s 40, q := 0x540 }) ∧
  decodeWords [0xDE704F8FD0205200] = .ok (.itrnext { dst := .v 4, b := .imm 2, c := .used, q := 0x052 }) ∧
  decodeWords [0x2E7F8F8F8F800000] = .ok (.wspill {}) ∧
  decodeWords [0xF17F8F8F8F800000] = .ok (.tret {})

/-- R245, R248, R249, R268: A STEP RUNS THE DECODED INSTRUCTION. The next action of the agenda lets a picker choose a pc. When
lane `j` stands there in a quad that may issue, the words of its clause were checked when they were fetched or pass the
checks now, the picker would take no other pc, and the word of the slot decodes to an instruction, the step is `exec` of that
instruction, settled, on the state with the clause fetched and the gang at the slot: the lanes of the quads that the picker
takes, which agree with lane `j` on the clause; the word's port is free. At a header these quads have passed its waits and
their lanes enter the clause.
Model's own choices in it: log entries 2, 9 and 81. -/
def Obligations.StepRunsTheDecodedInstruction : Prop :=
  ∀ (s s1 : State) (rest : List Action) (pc : W64) (quads : List Nat) (w : Wg) (j : Nat) (h : W64) (ws : List W64) (i : Instr),
  s.ex.agenda = .issue w.id pc quads :: rest → s.wg? w.id = some w →
  let s0 : State := { s with ex := { s.ex with agenda := rest } }
  let l := w.lane j
  let header := l.clause == pc
  let old := if header then 0 else l.gang
  let qs := w.boldQuads (old != 0) pc j
  ((quads.find? fun q => w.mayOffer q pc).bind fun q => (w.at pc q).head?) = some j →
  s0.mayIssue w header = true → s0.outranked w (quarterOf j) pc qs = false → s0.clauseOf w l = (.ok (h, ws), s1) →
  (l.code = [] → clauseCheck h ws = none) →
  let u := (s1.wg? w.id).getD w
  let taken := s1.takenQuads u pc h (old != 0) (if header then qs.filter (quadReady s1.ms u h pc) else qs)
  let lanes := (taken.flatMap (w.quadLanes pc)).filter fun i => (w.lane i).agrees header l
  let n := if header then 0 else (pc - l.clause).toNat / 8 - 1
  lanes ≠ [] → s1.portFree u.core (quarterOf j) (ws.getD n 0) = true →
  (header = true → decodeInstr (ws.getD 0 0) (ws.drop 1) = .ok i →
    step s = settled s (exec i (s1.atSlot (u.openClause lanes pc) lanes 0 l.clause h ws 0))) ∧
  (header = false → n < hdrSlots h → decodeInstr (ws.getD n 0) (ws.drop (n + 1)) = .ok i →
    step s = settled s (exec i (s1.atSlot u lanes old l.clause h ws n)))

/-- R248, R251, R255, R256, R263 to R267: decoding the words of a well-formed instruction gives the instruction, with every
operand and literal. -/
def Obligations.EncodeDecodeRoundTrip : Prop :=
  ∀ i : Instr, i.code.isSome = true → i.wf = true → decodeWords (encode i) = .ok i

/-- R195 to R207 (Tables 9-2 to 9-6): decoding the words of a well-formed command packet gives the packet. -/
def Obligations.PacketRoundTrip : Prop :=
  ∀ (i : Instr) (h : W64) (ws : List W64), encodePacket i = h :: ws → i.wf = true →
    ∃ q, decodePacket q h ws = some i ∧ h.toNat / 2 ^ 44 % 2 ^ 12 = ws.length + 1

/-- What reset leaves: memory in its canonical form with nothing listed; no die in service, no workgroup, node, queue or
space; every injector at rate 0 and seed 1 (R462); no deferral bound but 100 µs (R417), no flux limit but 26 W/cm² (R475),
and the migration policy of Table 2-8 (R38).
Model's own choices in it: log entries 1 (what unlisted bytes read as), 4 and 5. -/
def Obligations.ResetState : Prop :=
  State.reset.memOk ∧ State.reset.hub.phase = .off ∧ (∀ a, State.reset.ms.mem.read a = unlistedByte a) ∧
  State.reset.ex.wgs = [] ∧ State.reset.ex.nodes = [] ∧ State.reset.cp.queues = [] ∧ State.reset.hub.spaces = [] ∧
  State.reset.hub.dies = [false, false, false, false] ∧
  (∀ c, c < 64 → (State.reset.core c).errrate = 0 ∧ (State.reset.core c).errseed = 1 ∧ (State.reset.core c).x = 1) ∧
  State.reset.hub.regionBound = 100000 ∧ State.reset.hub.fluxLimit = 260 ∧ State.reset.ms.policy = (2, 4096, 10000000, 8)

/-- The model's memory stays in its canonical form: addresses rise and no listed byte reads as an unlisted one. Every step
keeps it, whatever the step does.
Model's own choices in it: log entry 1. -/
def Obligations.MemoryStaysCanonical : Prop := ∀ s t : State, s.memOk → step s = .next t → t.memOk

/-- The machine always goes on: no step of it ends in a fault or a refusal, whatever the state.
Model's own choices in it: log entries 2 and 28. -/
def Obligations.EveryStepGoesOn : Prop := ∀ s : State, s.goesOn

/-- R50, R459, R460: masked bytes that reach the home of a sector of module memory are the bytes read there afterwards, and
every other byte of memory reads as before; a poisoned write poisons the sector, a whole clean one clears its poison, and
another leaves it.
R332 to R335: the updates that write there begin: ATOM, ATOMCAS and RED at the address they compute, ATOMS in a tile.
Model's own choices in it: log entry 30. -/
def Obligations.SectorWritesReachOnlyTheirBytes : Prop :=
  (∀ (ms : MemSys) (sec : Nat) (mask : BitVec 32) (bs : List Byte) (p : Bool), ms.mem.wf = true → locTgt sec = 0 →
  sec % 32 = 0 → bs.length = 32 → ms.lostLoc sec = false →
  let t := ms.homeWrite sec mask bs p
  t.mem.wf = true ∧
  (∀ a, t.mem.read a = if sec ≤ a ∧ a < sec + 32 ∧ mask.getLsbD (a - sec) = true then bs.getD (a - sec) 0 else ms.mem.read a) ∧
  t.poisoned sec = (p || (mask != fullMask && ms.poisoned sec)) ∧
  (∀ a, a / 32 ≠ sec / 32 → t.poisoned a = ms.poisoned a) ∧ t.l1 = ms.l1 ∧ t.acc = ms.acc ∧ t.tlb = ms.tlb ∧ t.l2host = ms.l2host) ∧
  (∀ (s : State) (f : Fields),
  RunsAs (.atom f) s f
    { sig := { var := varTA f.var, q := qmOk [0, 1, 2, 3] 5 true 2 true true f.q, dst := .dst (isWide f.var)
               a := .base (qmWb f.q), b := .src false, c := .src (isWide f.var), unit := 3 }
      body := fun cx i l f v =>
        if l.helper then write cx l f.dst (isWide f.var) 0 false 0
        else updateOut s cx i l f (destOf cx.w i l f.dst (isWide f.var)) (.atom (qmOp f.q) f.var.toNat (localScope f)) (atomAddr f v)
          (typeWidth f.var) v.c 0 v.pc (f.c.toByte.zeroExtend 64) (s.target cx.w i l (atomAddr f v) (atomAddr f v) .both) }
    (fun cx i l f v => accessOk l (v.pa || v.pb) (atomAddr f v) (typeWidth f.var) (updateFree s cx i l f (atomAddr f v))) ∧
  RunsAs (.atomcas f) s f
    { sig := { var := varTI f.var, q := qmOk [0, 1, 2, 3] 5 true 0 false true f.q, dst := .dst (isWide f.var)
               a := .base (qmWb f.q), b := .src (isWide f.var), c := .src (isWide f.var), unit := 3 }
      body := fun cx i l f v =>
        if l.helper then write cx l f.dst (isWide f.var) 0 false 0
        else updateOut s cx i l f (destOf cx.w i l f.dst (isWide f.var)) (.cas (localScope f)) (memBase f v) (typeWidth f.var) v.c v.b (v.pb || v.pc)
          ((if v.pb then f.b else f.c).toByte.zeroExtend 64) (s.target cx.w i l (memBase f v) (memBase f v) .both) }
    (fun cx i l f v => accessOk l v.pa (memBase f v) (typeWidth f.var) (updateFree s cx i l f (memBase f v))) ∧
  RunsAs (.red f) s f
    { sig := { sigMem f (qmOk [0, 2] 5 true 2 true true f.q) (.data (isWide f.var)) with var := varTA f.var }
      more := dataSource
      body := fun cx i l f v =>
        if l.helper then .done l []
        else updateOut s cx i l f .none (.red (qmOp f.q) f.var.toNat) (memAddr f v) (typeWidth f.var) (srcVal cx i l f.dst (isWide f.var) 0) 0
          (srcPoison cx i l f.dst (isWide f.var)) (f.dst.toByte.zeroExtend 64) (s.target cx.w i l (memAddr f v) (memAddr f v) .both) }
    (fun cx i l f v => accessOk l v.poison (memAddr f v) (typeWidth f.var)
      (!s.ms.queueFull cx.w.core && updateFree s cx i l f (memAddr f v))) ∧
  RunsAs (.atoms f) s f
    { sig := { var := varTA f.var, q := qmOk [0, 1, 2, 3] 2 true 2 true true f.q, dst := .dst (isWide f.var)
               a := .base (qmWb f.q), b := .src false, c := .src (isWide f.var), unit := 3 }
      body := fun cx i l f v =>
        if l.helper then write cx l f.dst (isWide f.var) 0 false 0
        else updateOut s cx i l f (destOf cx.w i l f.dst (isWide f.var)) (.atom (qmOp f.q) f.var.toNat false) (atomAddr f v)
          (typeWidth f.var) v.c 0 v.pc (f.c.toByte.zeroExtend 64) (s.stashTarget cx.w i l (atomAddr f v) .both) }
    (fun cx i l f v => accessOk l (v.pa || v.pb) (atomAddr f v) (typeWidth f.var)
      (!(qmRel f.q && s.ms.releaseWaits cx.w.id i (qmScope f.q)) && stashFree s cx i l (atomAddr f v) .both
        (tilesWait s cx (readOnly (sigAtoms f) fun _ => []) f .both (atomAddr f)))))

/-- R185: a predicate is one bit of a lane. p7 reads true and a write to it is discarded; another predicate reads as it was
written, and the rest keep their values; in every lane of a launched workgroup p0 to p6 are false. -/
def Obligations.PredicateSevenReadsTrue : Prop :=
  (∀ (l : Lane) (b : Bool), l.pred 7 = true ∧ l.setPred 7 b = l) ∧
  (∀ (l : Lane) (n k : Nat) (b : Bool), n < 7 → k < 8 → (l.setPred n b).pred k = if k = n then b else l.pred k) ∧
  (∀ (n : Node) (id wgi c i k : Nat), k < 7 → ((n.newWg id wgi c).lane i).pred k = false)

/-- R411: when a lane with INH = 0 takes a cause of codes 1 to 12 and its `tbase` is not zero: `tcause`, `tval` and `tpc` are
written; INH is set and CLT, ENG, REPR and NPD are written; the lane goes on at VEC × 512 + 32 × CAUSE; no register,
predicate, handle, window bound or other CSR changes, and neither does any other part of the machine but the helpers of its
quad, which follow it (R168): the destination of a
queue read that the lane waited with is full again (R186), and flits that the instruction had taken are at the head of their
queues. -/
def Obligations.TrapDelivery : Prop :=
  ∀ (s : State) (id i : Nat) (w : Wg) (cause : Nat) (tval : W64) (clt eng : Bool), s.wg? id = some w → i < w.lanes.length →
  (w.lane i).live = true → (w.lane i).tstatus.getLsbD 63 = false → bits (w.lane i).tbase 51 9 ≠ 0 → 1 ≤ cause → cause ≤ 12 →
  let l := w.lane i
  let t := s.takeTrap id i cause tval clt eng
  ∃ l' : Lane, t.wg? id = some ({ w with qrx := returnFlits l.flits w.qrx, lanes := w.lanes.set i l' } : Wg).syncHelpers ∧
    l'.tcause = BitVec.ofNat 64 cause ∧ l'.tval = tval ∧ l'.tpc = BitVec.ofNat 64 (bits l.pc 51 3 * 8) ∧
    l'.tstatus.getLsbD 63 = true ∧ l'.tstatus.getLsbD 62 = clt ∧ l'.tstatus.getLsbD 61 = eng ∧
    bits l'.tstatus 60 57 = l.rep % 16 ∧ bits l'.tstatus 56 53 = l.nopre % 16 ∧ bits l'.tstatus 52 0 = 0 ∧
    l'.pc = BitVec.ofNat 64 (bits l.tbase 51 9 * 512 + 32 * cause) ∧
    l'.v = l.unowe.v ∧ l'.p = l.p ∧ l'.h = l.h ∧ l'.d = l.d ∧ l'.lo = l.lo ∧ l'.tbase = l.tbase ∧ l'.tsave = l.tsave ∧ l'.nopre = l.nopre ∧
    l'.exited = l.exited ∧ l'.helper = l.helper ∧ l'.tclause = l.clause ∧ l'.tset = false ∧
    t.ms = s.ms ∧ t.net = s.net ∧ t.rt = s.rt ∧ t.cp = s.cp ∧ t.hub = s.hub ∧ t.log = s.log ∧ t.ex.nodes = s.ex.nodes ∧ t.ex.cores = s.ex.cores ∧
    (∀ k, k ≠ id → t.wg? k = s.wg? k)

/-- R412: a trap of a lane whose `tbase` is zero, whose INH is 1, or of cause 13, goes to the module OS: the node's trap log
takes cause, `tval` and `tpc`, KILLED counts only poison kills, and the thread ends.
R397, R398, R413: TRAP and BKPT take the trap of cause 12 and 11 in every lane that is no helper; TRET returns from one.
Model's own choices in it: log entries 9 and 18. -/
def Obligations.TrapsOfTheModuleOs : Prop :=
  (∀ (s : State) (id i : Nat) (w : Wg) (n : Node) (cause : Nat) (tval : W64) (clt eng : Bool), s.wg? id = some w → i < w.lanes.length →
  (w.lane i).live = true → s.node? w.node = some n →
  bits (w.lane i).tbase 51 9 = 0 ∨ (w.lane i).tstatus.getLsbD 63 = true ∨ cause = 13 →
  let t := s.takeTrap id i cause tval clt eng
  (∃ u, t.wg? id = some u ∧ (u.lane i).exited = true) ∧
  (∃ m, t.node? w.node = some m ∧ m.killed = (if cause = 13 then min (n.killed + 1) 0xFFFFFFFF else n.killed) ∧
    m.log = n.log ++ [{ wg := w.index, lane := i, cause := cause, tval := tval, tpc := BitVec.ofNat 64 (bits (w.lane i).pc 51 3 * 8) }] ∧
    (n.code = 0 → m.code = 2 ∨ m.code = 5))) ∧
  (∀ (s : State) (f : Fields),
  RunsAs (.trapOp f) s f
    { sig := { var := f.var == 0, unit := 5 }
      body := fun _ _ l f _ => if l.helper then .done l [] else .trap l 12 (f.q.zeroExtend 64) false } ∧
  RunsAs (.bkpt f) s f
    { sig := { var := f.var == 0, unit := 5 }
      body := fun _ _ l f _ => if l.helper then .done l [] else .trap l 11 (f.q.zeroExtend 64) false } ∧
  RunsAs (.tret f) s f
    { sig := { var := f.var == 0, q := f.q == 0, fixed := true, unit := 5 }
      body := fun cx _ l _ _ => if l.helper then .done l []
        else .go { l with tstatus := l.tstatus &&& 0x7FFFFFFFFFFFFFFF, pc := l.tpc, clause := s.retClause (s.space cx.w) l
                          rep := bits l.tstatus 60 57 } [] }
    (fun _ _ l _ _ => l.helper || l.tstatus.getLsbD 63))

/-- R186, R61, R171: a lane whose source register is empty waits, and its whole quad with it: neither it nor any lane of the
quad moves on or changes a register or a predicate. Said of IADD with a vector register in A; a send register in DST is bound. -/
def Obligations.EmptySourceWaits : Prop :=
  ∀ (s : State) (f : Fields) (g : Gang) (w : Wg) (i : Nat) (n : Fin 32), s.ex.gang = some g → s.wg? g.wg = some w →
  check (s.checkCtx w) (iaddSpec f).sig f = none → residueQuiet s g w (unitOf (iaddSpec f) f) = true →
  f.gp = 7 → f.gn = false → f.a = .v n → f.q = 0 → f.ta = false → f.tb = false → f.tc = false → isQrx f.b = false → isQrx f.c = false →
  (∀ q : Fin 4, f.dst = .qtx q → (w.qtx.getD q.val none).isSome = true) →
  i ∈ g.lanes → (w.lane i).live = true → (w.lane i).rep = 0 → ((w.lane i).reg n.val).full = false →
  ∃ t u, exec (.iadd f) s = .next t ∧ t.wg? w.id = some u ∧
    ∀ j, j / 4 = i / 4 → (w.lane j).live = true →
      (u.lane j).pc = (w.lane j).pc ∧ (u.lane j).clause = (w.lane j).clause ∧ (u.lane j).v = (w.lane j).v ∧ (u.lane j).p = (w.lane j).p

/-- R252, R272: THE FRAME of an instruction whose lanes write registers, predicates, scalars and flits only. When nothing
holds it up and every lane's outcome is a plain result, no memory, space, ring, queue, node, engine, link or barrier changes,
no core but the state of its test injector, which has drawn (R462), no other workgroup, and no lane outside the gang; and a written register, wide or not, is the only thing that a
result changes in its lane. -/
def Obligations.RegisterInstructionFrame : Prop :=
  (∀ (s : State) (g : Gang) (w : Wg) (sp : LaneSpec) (f : Fields), s.wg? g.wg = some w →
    let p := poppedWg g sp f w
    let plain := fun (x : Fx) => match x with
      | .act _ => false
      | .acquire _ => false
      | _ => true
    let c := checked s g p (unitOf sp f) f (laneRuns (s.cxOf g p f) sp f)
    (∀ i ∈ g.lanes, ∃ l fx, laneRuns (s.cxOf g p f) sp f i (p.lane i) = .done l fx ∧ fx.all plain = true) →
    let t := afterGang s g w sp f
    t.ms = s.ms ∧ t.hub = s.hub ∧ t.rt = s.rt ∧ t.cp = s.cp ∧ t.log = s.log ∧ t.ex.nodes = s.ex.nodes ∧ t.ex.cores = c.ex.cores ∧
    t.ex.ops = s.ex.ops ∧ t.ex.ringWrites = s.ex.ringWrites ∧ t.net.links = s.net.links ∧ t.net.trees = s.net.trees ∧
    (∀ id, id ≠ w.id → t.wg? id = s.wg? id) ∧
    (∃ u, t.wg? w.id = some u ∧ ∀ i, i ∉ g.lanes → (w.lane i).helper = false → u.lane i = w.lane i)) ∧
  (∀ (cx : Cx) (l l' : Lane) (o : Operand) (wide p : Bool) (v tag : W64) (fx : List Fx), write cx l o wide v p tag = .done l' fx →
    l'.pc = l.pc ∧ l'.clause = l.clause ∧ l'.d = l.d ∧ l'.lo = l.lo ∧ l'.h = l.h ∧ l'.tcause = l.tcause ∧ l'.tval = l.tval ∧
    l'.tpc = l.tpc ∧ l'.tstatus = l.tstatus ∧ l'.tbase = l.tbase ∧ l'.tsave = l.tsave ∧ l'.nopre = l.nopre ∧ l'.rep = l.rep ∧
    l'.exited = l.exited ∧ l'.helper = l.helper ∧ l'.wait = l.wait ∧
    (∀ e, (∀ n : Fin 32, o = .v n → e ≠ l.entry n.val ∧ (wide = true → e ≠ l.entry (n.val + 1))) → l'.at e = l.at e) ∧
    (∀ k, k < 8 → (∀ n : Fin 8, o = .p n → k ≠ n.val) → l'.pred k = l.pred k) ∧
    (∀ x ∈ fx, (∃ n : Fin 192, o = .s n ∧ ∃ k r, x = .scal k r ∧ (k = n.val ∨ k = n.val + 1)) ∨ ∃ q : Fin 4, o = .qtx q ∧ x = .send q.val (lo32 v)))

/-! ### Arithmetic, logic, control -/

/-- R278 to R280: sums, differences, products, extremes, absolute value and addresses, in the form's width. IADDC writes
the sum, then the carry to its predicate; its sources must carry no poison (R279). -/
def Obligations.IntegerArithmeticResults : Prop := ∀ (s : State) (f : Fields),
  RunsAs (.iadd f) s f (aluSpec (sigBin f (varTI f.var)) fun v => if isWide f.var then v.a + v.b else zx (lo32 v.a + lo32 v.b)) ∧
  RunsAs (.isub f) s f (aluSpec (sigBin f (varTI f.var)) fun v => if isWide f.var then v.a - v.b else zx (lo32 v.a - lo32 v.b)) ∧
  RunsAs (.imul f) s f (aluSpec (sigBin f (varTI f.var)) fun v => if isWide f.var then v.a * v.b else zx (lo32 v.a * lo32 v.b)) ∧
  RunsAs (.imulhi f) s f (aluSpec (sigBin f (varTI f.var)) fun v =>
    if isWide f.var then BitVec.ofInt 64 (intVal (isSigned f.var) v.a * intVal (isSigned f.var) v.b / 2 ^ 64)
    else zx (BitVec.ofInt 32 (intVal (isSigned f.var) (lo32 v.a) * intVal (isSigned f.var) (lo32 v.b) / 2 ^ 32))) ∧
  RunsAs (.imad f) s f (aluSpec (sigTri f (varTI f.var)) fun v =>
    if isWide f.var then v.a * v.b + v.c else zx (lo32 v.a * lo32 v.b + lo32 v.c)) ∧
  RunsAs (.imin f) s f (aluSpec (sigBin f (varTI f.var)) fun v =>
    if isWide f.var then (if intVal (isSigned f.var) v.b < intVal (isSigned f.var) v.a then v.b else v.a)
    else zx (if intVal (isSigned f.var) (lo32 v.b) < intVal (isSigned f.var) (lo32 v.a) then lo32 v.b else lo32 v.a)) ∧
  RunsAs (.imax f) s f (aluSpec (sigBin f (varTI f.var)) fun v =>
    if isWide f.var then (if intVal (isSigned f.var) v.a < intVal (isSigned f.var) v.b then v.b else v.a)
    else zx (if intVal (isSigned f.var) (lo32 v.a) < intVal (isSigned f.var) (lo32 v.b) then lo32 v.b else lo32 v.a)) ∧
  RunsAs (.iabs f) s f (aluSpec (sigUn f (f.var == 2 || f.var == 3)) fun v =>
    if isWide f.var then BitVec.ofNat 64 v.a.toInt.natAbs else zx (BitVec.ofNat 32 (lo32 v.a).toInt.natAbs)) ∧
  RunsAs (.lea f) s f (aluSpec { var := true, am := true, noLane64 := true, dst := .dst true, a := .src true, b := .src false } fun v =>
    v.a + ((lo32 v.b).signExtend 64 <<< f.var.toNat)) ∧
  RunsAs (.clamp f) s f (aluSpec (sigTri f (varTI f.var)) fun v =>
    if isWide f.var then minBy (isSigned f.var) (maxBy (isSigned f.var) v.a v.b) v.c
    else zx (minBy (isSigned f.var) (maxBy (isSigned f.var) (lo32 v.a) (lo32 v.b)) (lo32 v.c))) ∧
  RunsAs (.iaddc f) s f
    { sig := { sigBin f (varTL f.var) with c := .pred }
      body := fun cx _ l f v => match f.c with
        | .p n =>
          let w := if isWide f.var then 64 else 32
          let t := v.a.toNat % 2 ^ w + v.b.toNat % 2 ^ w + v.c.toNat
          (match write cx l f.dst (isWide f.var) (BitVec.ofNat 64 (t % 2 ^ w)) false 0 with
           | .done l' fx => .done (l'.setPred n.val (decide (2 ^ w ≤ t))) fx
           | o => o)
        | _ => .done l [] }
    fun _ _ _ _ v => !v.poison && (v.c == 0 || v.c == 1)

/-- R274 to R277, R281: NOP changes nothing; MOV copies a value, or a handle as it stands; SEL takes A or B by its
predicate; RDSPEC reads a special register; ICMP writes the comparison of its code. -/
def Obligations.MoveSelectAndCompareResults : Prop := ∀ (s : State) (f : Fields),
  RunsAs (.nop f) s f { sig := sigBlank f, body := fun _ _ l _ _ => .done l [] } ∧
  (isHandle f.dst = false → isHandle f.a = false → RunsAs (.mov f) s f
    (aluSpec (sigUn f (varTL f.var)) fun v => v.a)) ∧
  (∀ a : Fin 8, f.a = .h a → isHandle f.dst = false → RunsAs (.mov f) s f
    { sig := { sigUn f (varTL f.var) with free := true }
      body := fun cx _ l f v =>
        if l.helper && f.dst.isScalar then .done l [] else write cx l f.dst (isWide f.var) v.a v.poison v.tag }
    fun cx i _ f v => !f.dst.isScalar || cx.g.lanes.all fun j => cx.w.grpOf j != cx.w.grpOf i || !(cx.w.lane j).live
      || !(cx.w.lane j).guard f || zx ((cx.w.lane j).handle a.val).val == v.a) ∧
  (∀ d a : Fin 8, f.dst = .h d → f.a = .h a → RunsAs (.mov f) s f
    { sig := { var := f.var == 6, q := f.q == 0, dst := .handle, a := .handle, ta := false }
      body := fun _ _ l f _ => match f.dst, f.a with
        | .h d, .h a => .done { l with h := l.h.set d.val (l.h.getD a.val {}) } []
        | _, _ => .done l [] }) ∧
  RunsAs (.sel f) s f
    { sig := { sigBin f (varTL f.var) with c := .pred }
      use := fun l f => match f.c with
        | .p n => if l.pred n.val then (true, false, true) else (false, true, true)
        | _ => (false, true, true)
      body := fun cx _ l f v => write cx l f.dst (isWide f.var) (if v.c = 1 then v.a else v.b) v.poison v.tag } ∧
  (∀ w : Wg, (s.ex.gang.bind fun g => s.wg? g.wg) = some w → RunsAs (.rdspec f) s f
    (rdspecSpec f (s.core w.core).ccount (s.ck.dcount.getD (w.core / 16) 0))) ∧
  RunsAs (.icmp f) s f (predSpec
    { var := true, am := true, noLane64 := true, dst := .pred, a := .src (decide (10 ≤ f.var.toNat)), b := .src (decide (10 ≤ f.var.toNat)) }
    fun v =>
      let x := lo32 v.a
      let y := lo32 v.b
      match f.var.toNat with
      | 0 => x == y | 1 => x != y | 2 => x.slt y | 3 => x.sle y | 4 => y.slt x | 5 => y.sle x
      | 6 => x.ult y | 7 => x.ule y | 8 => y.ult x | 9 => y.ule x
      | 10 => v.a == v.b | 11 => v.a != v.b | 12 => v.a.slt v.b | 13 => v.b.sle v.a | 14 => v.a.ult v.b | _ => v.b.ule v.a)

/-- R282 to R286: logic, truth tables, shifts and rotations by a count of 32 bits, bit fields, counts and byte
selection. A shift of the width or more gives 0, or the sign in SAR; POPC counts set bits and CLZ the zeros above the
highest.
R287, R288, R296: PLOP looks its three predicates up in its truth table, PMOV moves between a predicate and a
register, ELECT is true in the lowest lane of the gang whose guard is true. -/
def Obligations.LogicAndPredicateResults : Prop :=
  (∀ (s : State) (f : Fields),
  RunsAs (.land f) s f (aluSpec (sigBin f (varTL f.var)) fun v => if isWide f.var then v.a &&& v.b else zx (lo32 v.a &&& lo32 v.b)) ∧
  RunsAs (.lor f) s f (aluSpec (sigBin f (varTL f.var)) fun v => if isWide f.var then v.a ||| v.b else zx (lo32 v.a ||| lo32 v.b)) ∧
  RunsAs (.lxor f) s f (aluSpec (sigBin f (varTL f.var)) fun v => if isWide f.var then v.a ^^^ v.b else zx (lo32 v.a ^^^ lo32 v.b)) ∧
  RunsAs (.ltab f) s f (aluSpec { sigTri f (varTL f.var) with am := false, q := decide (f.q.toNat < 256) } fun v =>
    if isWide f.var then ttWord f.q.toNat v.a v.b v.c else zx (ttWord f.q.toNat (lo32 v.a) (lo32 v.b) (lo32 v.c))) ∧
  RunsAs (.shl f) s f (aluSpec (sigShift f) fun v =>
    if isWide f.var then v.a <<< (lo32 v.b).toNat else zx (lo32 v.a <<< (lo32 v.b).toNat)) ∧
  RunsAs (.shr f) s f (aluSpec (sigShift f) fun v =>
    if isWide f.var then v.a >>> (lo32 v.b).toNat else zx (lo32 v.a >>> (lo32 v.b).toNat)) ∧
  RunsAs (.sar f) s f (aluSpec (sigShift f) fun v =>
    if isWide f.var then v.a.sshiftRight (min (lo32 v.b).toNat 64) else zx ((lo32 v.a).sshiftRight (min (lo32 v.b).toNat 64))) ∧
  RunsAs (.rot f) s f (aluSpec (sigShift f) fun v =>
    if isWide f.var then v.a.rotateLeft ((lo32 v.b).toNat % 64) else zx ((lo32 v.a).rotateLeft ((lo32 v.b).toNat % 32))) ∧
  RunsAs (.bfe f) s f (aluSpec { sigUn f (varTI f.var) with b := .src false, c := .src false } fun v =>
    if isWide f.var then bfeVal (isSigned f.var) (lo32 v.b).toNat (lo32 v.c).toNat v.a
    else zx (bfeVal (isSigned f.var) (lo32 v.b).toNat (lo32 v.c).toNat (lo32 v.a))) ∧
  RunsAs (.bfi f) s f (aluSpec { sigUn f (varTL f.var) with b := .src false, c := .src (isWide f.var) } fun v =>
    if isWide f.var then bfiVal (bits v.b 7 0) (bits v.b 15 8) v.a v.c
    else zx (bfiVal (bits v.b 7 0) (bits v.b 15 8) (lo32 v.a) (lo32 v.c))) ∧
  RunsAs (.popc f) s f (aluSpec (sigCount f) fun v => BitVec.ofNat 64 (popCount v.a (if isWide f.var then 64 else 32))) ∧
  RunsAs (.clz f) s f (aluSpec (sigCount f) fun v => BitVec.ofNat 64 (leadZeros v.a (if isWide f.var then 64 else 32))) ∧
  RunsAs (.brev f) s f (aluSpec (sigUn f (varTL f.var)) fun v => if isWide f.var then v.a.reverse else zx (lo32 v.a).reverse) ∧
  RunsAs (.permb f) s f (aluSpec { var := f.var == 6, am := true, dst := .dst false, a := .src false, b := .src false, c := .src false }
    fun v => BitVec.ofNat 64 (permByte (pair (lo32 v.a) (lo32 v.b)) v.c 0 + 256 * permByte (pair (lo32 v.a) (lo32 v.b)) v.c 1
      + 65536 * permByte (pair (lo32 v.a) (lo32 v.b)) v.c 2 + 16777216 * permByte (pair (lo32 v.a) (lo32 v.b)) v.c 3))) ∧
  (∀ (s : State) (f : Fields),
  RunsAs (.plop f) s f (predSpec { var := f.var == 0, q := decide (f.q.toNat < 256), dst := .pred, a := .pred, b := .pred, c := .pred }
    fun v => f.q.getLsbD ((if v.a = 1 then 1 else 0) + (if v.b = 1 then 2 else 0) + (if v.c = 1 then 4 else 0))) ∧
  RunsAs (.pmovToPredicate f) s f (predSpec { var := f.var == 0, q := f.q == 0, dst := .pred, a := .src false } fun v => lo32 v.a != 0) ∧
  RunsAs (.pmovFromPredicate f) s f (aluSpec { var := f.var == 1, q := f.q == 0, dst := .dst false, a := .pred } fun v => v.a) ∧
  RunsAs (.elect f) s f
    { sig := { var := f.var == 0, q := f.q == 0, dst := .pred }
      body := fun cx i l f _ => match f.dst with
        | .p n => .done (l.setPred n.val ((cx.g.lanes.find? fun j => (cx.w.lane j).live && (cx.w.lane j).guard f) == some i)) []
        | _ => .done l [] })

/-- R249, R289 to R291: a branch goes to the clause header it names; a CALL slides the window, writes the return address
and goes; a RET slides back and goes to the address in v15; a JOIN goes to its target, where its quad waits for the
meeting of its group. Register targets are aligned and not poisoned, and no window trap arises.
R292 to R294: EXIT ends the lane, or waits for the lane a helper shadows; REP leaves it as it is whatever its guard says;
YIELD and a DOZE of 0 make the picker pass its quad over for 16 clocks; DOZE keeps it from being offered for as many clocks
as its source says, at most 2^20. Model's own choices in it: log entry 100. -/
def Obligations.ControlTransfersAndWaits : Prop :=
  (∀ (s : State) (f : Fields) (off : BitVec 24),
  RunsAs (.bra f off) s f
    { sig := sigBlank f
      body := fun cx _ l _ _ => let t := cx.g.clause + (off.signExtend 64 <<< 3); .go { l with pc := t, clause := t, rep := 0 } [] } ∧
  RunsAs (.brx f) s f { sig := sigTarget f, body := fun _ _ l _ v => .go { l with pc := v.a, clause := v.a, rep := 0 } [] }
    (fun _ _ _ _ v => !v.pa && v.a.toNat % 8 == 0) ∧
  RunsAs (.call f off) s f
    { sig := sigBlank f
      body := fun cx _ l _ _ =>
        let t := cx.g.clause + (off.signExtend 64 <<< 3)
        .go { l.slide cx.free (returnWord cx.g.after) with pc := t, clause := t, rep := 0 } [] }
    (fun _ _ l _ _ => decide (l.d < l.lo + 2) && !callBusy l) ∧
  RunsAs (.callx f) s f
    { sig := sigTarget f
      body := fun cx _ l _ v => .go { l.slide cx.free (returnWord cx.g.after) with pc := v.a, clause := v.a, rep := 0 } [] }
    (fun _ _ l _ v => decide (l.d < l.lo + 2) && !callBusy l && !v.pa && v.a.toNat % 8 == 0) ∧
  RunsAs (.ret f) s f
    { sig := sigBlank f
      more := fun _ => [(.v 15, false, false)]
      body := fun cx i l _ _ =>
        let t := returnTarget cx.g.clause (vsrc cx i l 15)
        .go { l with d := l.d - 1, pc := t, clause := t, rep := 0 } [] }
    (fun _ _ l _ _ => l.d != 0 && l.lo != l.d && !(l.reg 15).poison) ∧
  RunsAs (.join f off) s f
    { sig := sigBlank f
      body := fun cx i l f _ =>
        let t := cx.g.clause + (off.signExtend 64 <<< 3)
        .go { l with pc := t, clause := t, rep := 0, wait := if quadGuardedOff cx f i then .none else .join t 64 } [] }) ∧
  (∀ (s : State) (f : Fields),
  RunsAs (.exitOp f) s f { sig := sigBlank f, body := fun _ _ l _ _ => if l.helper then .done l [] else .exit l } ∧
  RunsAs (.yield f) s f { sig := sigBlank f, body := fun _ _ l _ _ => .done { l with shy := 16 } [] } ∧
  RunsAs (.doze f) s f
    { sig := { var := f.var == 0, q := f.q == 0, a := .src false, unit := 5 }
      body := fun _ _ l _ v =>
        .done (if lo32 v.a = 0 then { l with shy := 16 } else { l with wait := .doze (min (lo32 v.a).toNat (2 ^ 20)) }) [] }
    (fun _ _ _ _ v => !v.pa) ∧
  RunsAs (.repOp f) s { f with gp := 7, gn := false } { sig := { var := true, q := f.q == 0, unit := 5 }, body := fun _ _ l _ _ => .done l [] })

/-- R174, R175, R295: when the gang's lanes are the live lanes of the workgroup that have not arrived, all name one width
and no scalar write is pending, GSHAPE ends the meeting: the workgroup has groups of that width, and each live lane goes
on after the instruction, or to its next repetition under a REP (R259). With guard 0b1111 it changes nothing. -/
def Obligations.ShapeChangesAtTheMeeting : Prop := ∀ (s : State) (f : Fields) (g : Gang) (w : Wg),
  s.ex.gang = some g → s.wg? g.wg = some w →
  check (s.checkCtx w) { var := decide (f.var.toNat < 4), q := f.q == 0, fixed := true, unit := 5 } f = none →
  (f.gn = true → exec (.gshape f) s = .next (s.runLanes g w fun _ l => .done l [])) ∧
  (f.gn = false → w.scalarsPending = false → w.lanes.any Lane.live = true →
    (∀ i < w.lanes.length, (w.lane i).live = true → i ∈ g.lanes ∧ (w.lane i).wait = .none) →
    ∃ t u, exec (.gshape f) s = .next t ∧ t.wg? g.wg = some u ∧ u.width = 8 * 2 ^ f.var.toNat ∧
      ∀ i < w.lanes.length, (w.lane i).live = true →
        let l := w.lane i
        let f : Lane := { l with wait := .none, since := none, slotFrom := none, retry := false, gang := 0 }
        let r : Lane := { f with rep := l.rep + 1 }
        let e : Lane := { f with pc := g.next, clause := g.nextClause, rep := 0 }
        u.lane i = if l.rep + 1 < g.k then r else if g.nextClause = l.clause then e else e.leave)

/-- R296 to R298: VOTE and MATCH, once their members have arrived: the conjunction, disjunction, set and number of the
members' predicates, and the set of members whose A equals the reader's.
Model's own choices in it: log entry 17. -/
def Obligations.VoteAndMatchResults : Prop := ∀ (s : State) (f : Fields),
  GroupAs (.voteAll f) s f
    { sig := sigVote f .pred 0
      res := fun x _ _ => (if ∀ j < x.count, ∀ v, x.contrib j = some v → v.a = 1 then 1 else 0, false) } ∧
  GroupAs (.voteAny f) s f
    { sig := sigVote f .pred 1
      res := fun x _ _ => (if ∃ j < x.count, (x.contrib j).map (·.a) = some 1 then 1 else 0, false) } ∧
  GroupAs (.voteBallot f) s f
    { sig := sigVote f (.scal true) 2
      res := fun x _ _ =>
        (((List.range x.count).filter fun j => (x.contrib j).map (·.a) == some 1).foldl (fun m j => m ||| 1#64 <<< j) 0, false) } ∧
  GroupAs (.voteCount f) s f
    { sig := sigVote f (.scal false) 3
      res := fun x _ _ => (BitVec.ofNat 64 ((List.range x.count).filter fun j => (x.contrib j).map (·.a) == some 1).length, false) } ∧
  GroupAs (.matchOp f) s f
    { sig := { var := varTL f.var, q := f.q == 0, noLane64 := true, dst := .dst true, a := .src (isWide f.var), c := .mask }
      res := fun x _ v => (List.range x.count).foldl (fun m j =>
        match x.contrib j with
        | some u => (if (if isWide f.var then u.a == v.a else lo32 u.a == lo32 v.a) then m.1 ||| 1#64 <<< j else m.1, m.2 || u.pa)
        | none => m) (0, v.pa) }

/-- R304 to R308: the exact result of the operation, rounded once to the nearest FP32 value; minimum and maximum number;
sign operations on the bits; compare, class, rounding to a whole number and scaling by a power of two. -/
def Obligations.FloatingArithmeticResults : Prop := ∀ (s : State) (f : Fields),
  RunsAs (.fadd f) s f (aluSpec (sigBin f (f.var == 8)) fun v => zx (ofFl ((f32 (lo32 v.a)).add (f32 (lo32 v.b))))) ∧
  RunsAs (.fsub f) s f (aluSpec (sigBin f (f.var == 8)) fun v => zx (ofFl ((f32 (lo32 v.a)).add (f32 (lo32 v.b)).neg))) ∧
  RunsAs (.fmul f) s f (aluSpec (sigBin f (f.var == 8)) fun v => zx (ofFl ((f32 (lo32 v.a)).mul (f32 (lo32 v.b))))) ∧
  RunsAs (.ffma f) s f (aluSpec (sigTri f (f.var == 8)) fun v =>
    zx (ofFl (((f32 (lo32 v.a)).mul (f32 (lo32 v.b))).add (f32 (lo32 v.c))))) ∧
  RunsAs (.fmin f) s f (aluSpec (sigBin f (f.var == 8)) fun v => zx (BitVec.ofNat 32 (fp32.minNum (lo32 v.a).toNat (lo32 v.b).toNat))) ∧
  RunsAs (.fmax f) s f (aluSpec (sigBin f (f.var == 8)) fun v => zx (BitVec.ofNat 32 (fp32.maxNum (lo32 v.a).toNat (lo32 v.b).toNat))) ∧
  RunsAs (.fabs f) s f (aluSpec (sigUn f (f.var == 8)) fun v =>
    zx (if isNan32 (lo32 v.a) then 0x7FC00000 else lo32 v.a &&& 0x7FFFFFFF)) ∧
  RunsAs (.fneg f) s f (aluSpec (sigUn f (f.var == 8)) fun v =>
    zx (if isNan32 (lo32 v.a) then 0x7FC00000 else lo32 v.a ^^^ 0x80000000)) ∧
  RunsAs (.fcmp f) s f (predSpec { var := decide (f.var.toNat < 8), am := true, dst := .pred, a := .src false, b := .src false }
    fun v => fcmpHolds f.var.toNat (lo32 v.a) (lo32 v.b)) ∧
  RunsAs (.fclass f) s f (aluSpec (sigUn f (f.var == 8)) fun v => zx (fclassOf (lo32 v.a))) ∧
  RunsAs (.fround f) s f (aluSpec (sigUn32 (decide (f.var.toNat < 4))) fun v => zx (fRound (Mode.of f.var.toNat) (lo32 v.a))) ∧
  RunsAs (.fscale f) s f (aluSpec (sigBin f (f.var == 8)) fun v => zx (fScale (lo32 v.a) (lo32 v.b)))

/-- R309: each special function writes one fixed function of its input bits.
R309, Table 14-3: the exact cases. The reciprocal of a power of two inside the range is exact, ±0 gives ±infinity,
±infinity gives ±0; NaN gives NaN; 2^0 is 1, the logarithm of 1 is 0, the hyperbolic tangent of ±0 is ±0.
Model's own choices in it: log entry 6. -/
def Obligations.SpecialFunctionResults : Prop :=
  (∀ (s : State) (f : Fields),
  RunsAs (.frcp f) s f (aluSpec (sigSfu f) fun v => zx (fRcp (lo32 v.a))) ∧
  RunsAs (.frsq f) s f (aluSpec (sigSfu f) fun v => zx (fRsq (lo32 v.a))) ∧
  RunsAs (.fexp2 f) s f (aluSpec (sigSfu f) fun v => zx (fExp2 (lo32 v.a))) ∧
  RunsAs (.flog2 f) s f (aluSpec (sigSfu f) fun v => zx (fLog2 (lo32 v.a))) ∧
  RunsAs (.ftanh f) s f (aluSpec (sigSfu f) fun v => zx (fTanh (lo32 v.a)))) ∧
  (fRcp 0x40000000 = 0x3F000000 ∧ fRcp 0x3F800000 = 0x3F800000 ∧ fRcp 0 = 0x7F800000 ∧ fRcp 0x80000000 = 0xFF800000 ∧
  fRcp 0x7F800000 = 0 ∧ fRcp 0xFF800000 = 0x80000000 ∧ fRsq 0 = 0x7F800000 ∧ fRsq 0xBF800000 = 0x7FC00000 ∧
  fExp2 0 = 0x3F800000 ∧ fExp2 0xFF800000 = 0 ∧ fLog2 0x3F800000 = 0 ∧ fLog2 0 = 0xFF800000 ∧ fTanh 0x80000000 = 0x80000000 ∧
  fRcp 0x7FC00001 = 0x7FC00000 ∧ fTanh 0x7F800000 = 0x3F800000)

/-- R310 to R312: conversions between floating formats, and between them and integers, in the rounding mode of the
qualifier.
R309: each special function runs and writes one fixed function of its input bits.
Model's own choices in it: log entries 6 and 14. -/
def Obligations.ConversionResults : Prop := ∀ (s : State) (f : Fields),
  RunsAs (.cvtf f) s f (aluSpec
    { var := f.var == 0, q := qcOk s.overcast [0, 6, 7] [0, 6, 7] true true f.q, dst := .dst false, a := .src false, unit := 1 }
    fun v =>
      let d := qDfmt f.q
      let c := qSfmt f.q
      let x := (lo32 v.a).toNat % 2 ^ ((fmtOf c).width + 1)
      zx (BitVec.ofNat 32 (if d = c ∧ (fmtOf c).decode x ≠ .nan then x
        else (fmtOf d).convert (qMode f.q) (qSat f.q) ((fmtOf c).decode x)))) ∧
  RunsAs (.cvtfi f) s f (aluSpec
    { var := f.var == 2 || f.var == 6, q := qcOk s.overcast [0] [0, 6, 7] true true f.q, dst := .dst false, a := .src false, unit := 1 }
    fun v =>
      let x := (fmtOf (qSfmt f.q)).decode ((lo32 v.a).toNat % 2 ^ ((fmtOf (qSfmt f.q)).width + 1))
      zx (BitVec.ofInt 32 (if f.var = 2 then x.toInt (qMode f.q) (-2147483648) 2147483647
        else x.toInt (qMode f.q) 0 4294967295))) ∧
  RunsAs (.cvtif f) s f (aluSpec
    { var := varTI f.var, q := qcOk s.overcast [0, 6, 7] [0] true false f.q, dst := .dst false, a := .src (isWide f.var), unit := 1 }
    fun v => BitVec.ofNat 64 ((fmtOf (qDfmt f.q)).convert (qMode f.q) false
      (Fl.ofInt (if isWide f.var then intVal (isSigned f.var) v.a else intVal (isSigned f.var) (lo32 v.a))))) ∧
  RunsAs (.frcp f) s f (aluSpec (sigSfu f) fun v => zx (fRcp (lo32 v.a))) ∧
  RunsAs (.frsq f) s f (aluSpec (sigSfu f) fun v => zx (fRsq (lo32 v.a))) ∧
  RunsAs (.fexp2 f) s f (aluSpec (sigSfu f) fun v => zx (fExp2 (lo32 v.a))) ∧
  RunsAs (.flog2 f) s f (aluSpec (sigSfu f) fun v => zx (fLog2 (lo32 v.a))) ∧
  RunsAs (.ftanh f) s f (aluSpec (sigSfu f) fun v => zx (fTanh (lo32 v.a)))

/-- R313, R314: PACK multiplies four or eight FP32 registers by the scale and packs the elements, the first lowest; UNPK
widens the elements of a register, times the scale, to four or eight registers.
R223, R315, R316: the exact sum of the products and the accumulator, rounded once; the integer forms wrap, or
saturate when VAR says so; PFMA is two multiply-adds of 16-bit halves.
Model's own choices in it: log entry 8. -/
def Obligations.PackedFormatResults : Prop :=
  (∀ (s : State) (f : Fields),
  RunsAs (.pack8 f) s f (packSpec 4 8 [1, 2, 4] f s.overcast) ∧ RunsAs (.pack4 f) s f (packSpec 8 4 [3, 5] f s.overcast) ∧
  RunsAs (.unpk8 f) s f
    { sig := { var := f.var == 0, q := qcOk s.overcast [0] [1, 2, 4] false false f.q, dst := .vrange 4, a := .src false, b := .src false, unit := 1 }
      body := fun cx _ l f v => match f.dst with
        | .v k => .done (putRange l cx.free k.val v.poison ((List.range 4).map fun i =>
            ofFl ((elemVal (qSfmt f.q) ((lo32 v.a).toNat / 2 ^ (8 * i) % 2 ^ 8)).mul (f32 (lo32 v.b))))) []
        | _ => .done l [] } ∧
  RunsAs (.unpk4 f) s f
    { sig := { var := f.var == 0, q := qcOk s.overcast [0] [3, 5] false false f.q, dst := .vrange 8, a := .src false, b := .src false, unit := 1 }
      body := fun cx _ l f v => match f.dst with
        | .v k => .done (putRange l cx.free k.val v.poison ((List.range 8).map fun i =>
            ofFl ((elemVal (qSfmt f.q) ((lo32 v.a).toNat / 2 ^ (4 * i) % 2 ^ 4)).mul (f32 (lo32 v.b))))) []
        | _ => .done l [] }) ∧
  (∀ (s : State) (f : Fields),
  RunsAs (.dot4 f) s f (aluSpec (sigTri32 (decide (f.var.toNat < 4))) fun v =>
    zx (ofFl (Fl.sum ((List.range 4).map (fun i =>
      (elemVal (if f.var.getLsbD 0 then 2 else 1) (elemAt 8 i (lo32 v.a))).mul
        (elemVal (if f.var.getLsbD 1 then 2 else 1) (elemAt 8 i (lo32 v.b)))) ++ [f32 (lo32 v.c)])))) ∧
  RunsAs (.dot8 f) s f (aluSpec (sigTri32 (f.var == 0)) fun v =>
    zx (ofFl (Fl.sum ((List.range 8).map (fun i =>
      (elemVal 3 (elemAt 4 i (lo32 v.a))).mul (elemVal 3 (elemAt 4 i (lo32 v.b)))) ++ [f32 (lo32 v.c)])))) ∧
  RunsAs (.idot4 f) s f (aluSpec (sigTri32 (decide (f.var.toNat < 2))) fun v =>
    let x := (lo32 v.c).toInt + ((List.range 4).map fun i =>
      (BitVec.ofNat 8 (elemAt 8 i (lo32 v.a))).toInt * (BitVec.ofNat 8 (elemAt 8 i (lo32 v.b))).toInt).sum
    zx (BitVec.ofInt 32 (if f.var.getLsbD 0 then max (-2 ^ 31) (min (2 ^ 31 - 1) x) else x))) ∧
  RunsAs (.idot8 f) s f (aluSpec (sigTri32 (decide (f.var.toNat < 2))) fun v =>
    let x := (lo32 v.c).toInt + ((List.range 8).map fun i =>
      (BitVec.ofNat 4 (elemAt 4 i (lo32 v.a))).toInt * (BitVec.ofNat 4 (elemAt 4 i (lo32 v.b))).toInt).sum
    zx (BitVec.ofInt 32 (if f.var.getLsbD 0 then max (-2 ^ 31) (min (2 ^ 31 - 1) x) else x))) ∧
  RunsAs (.pfma f) s f (aluSpec (sigTri32 (f.var == 9 || f.var == 10)) fun v =>
    let g := if f.var = 9 then fp16 else bf16
    let h := fun i => g.pack (((g.decode (elemAt 16 i (lo32 v.a))).mul (g.decode (elemAt 16 i (lo32 v.b)))).add (g.decode (elemAt 16 i (lo32 v.c))))
    zx (BitVec.ofNat 32 (h 0 + 65536 * h 1))))

/-- R317 to R322: LSHFL, LPERM, QSWAP and QBCAST read another lane's A; GRED and GSCAN fold the members in ascending lane
order from the identity, GSCAN up to the lane or below it; V2S gives the group the value of the lane that B names.
Model's own choices in it: log entries 11 and 17. -/
def Obligations.LaneExchangeResults : Prop := ∀ (s : State) (f : Fields),
  GroupAs (.lshfl f) s f
    { sig := { var := varTL f.var, q := fbOk f.q, dst := .dst (isWide f.var), a := .src (isWide f.var), b := .src false, c := .mask }
      res := fun x _ v => match x.contrib (lo32 v.b).toNat with
        | some u => (u.a, u.pa || v.pb)
        | none => if f.q.getLsbD 0 then (0, v.pb) else (v.a, v.pa || v.pb) } ∧
  RunsAs (.lperm f) s f
    { lpermRead f with
      body := fun cx i l f v => match lpermGives cx f i (lo32 v.b).toNat with
        | some u => write cx l f.dst (isWide f.var) u.a (u.pa || v.pb) v.tag
        | none => write cx l f.dst (isWide f.var) (if f.q.getLsbD 0 then 0 else v.a) ((!f.q.getLsbD 0 && v.pa) || v.pb) v.tag } ∧
  RunsAs (.qswap f) s f
    { sig := { var := decide (f.var.toNat < 3), q := f.q == 0, dst := .dst false, a := .src false }
      giver := fun cx f i l => quadGiver cx i l ((i % 4) ^^^ (f.var.toNat + 1))
      body := fun cx _ l f v => write cx l f.dst false v.a v.pa v.tag } ∧
  RunsAs (.qbcast f) s f
    { sig := { var := decide (f.var.toNat < 4), q := f.q == 0, dst := .dst false, a := .src false }
      giver := fun cx f i l => quadGiver cx i l f.var.toNat
      body := fun cx _ l f v => write cx l f.dst false v.a v.pa v.tag } ∧
  GroupAs (.gred f) s f { sig := sigGred false f, res := fun x _ _ => groupFold (bits f.q 3 0) f.var x x.count } ∧
  GroupAs (.gscan f) s f
    { sig := sigGred true f, res := fun x i _ => groupFold (bits f.q 3 0) f.var x (if f.q.getLsbD 4 then i else i + 1) } ∧
  GroupAs (.v2s f) s f
    { sig := { var := varTL f.var, q := f.q == 0, dst := .scal (isWide f.var), a := .src (isWide f.var), b := .u, c := .mask, free := true }
      bad := fun x _ v => decide (x.count ≤ (lo32 v.b).toNat) || !x.mask.getLsbD (lo32 v.b).toNat
      res := fun x _ v => match x.contrib (lo32 v.b).toNat with
        | some u => (u.a, u.pa || v.pb)
        | none => (0, v.pb) }

/-! ### Memory and synchronisation -/

/-- R324, R327 to R330: a load reads the bytes at its address — base, index scaled, offset — and writes them, extended by
their type, to its destination: at once from a tile or the core's L1, else when the data returns. LDU reads once for the
gang, as a read by each of its lanes, and writes a scalar; LDS reads a stash tile of the workgroup; LDL reads the lane's private space below the node's
private size, 8 bytes as two words. A helper's destination becomes 0.
Model's own choices in it: log entries 28, 30 and 113. -/
def Obligations.LoadResults : Prop := ∀ (s : State) (f : Fields),
  RunsAs (.ld f) s f
    { sig := sigMem f (qmOk [0, 1] 5 false 0 true true f.q) (.vz (isWide f.var))
      body := fun cx i l f v =>
        if l.helper then write cx l f.dst (isWide f.var) 0 false 0
        else loadOut s cx i l (destOf cx.w i l f.dst (isWide f.var)) (memAddr f v) (typeWidth f.var) (isSigned f.var) (qmAcq f.q) (qmScope f.q)
          (s.target cx.w i l (memAddr f v) (memAddr f v) .read) }
    (fun cx i l f v => accessOk l v.poison (memAddr f v) (typeWidth f.var) (loadFree s cx i l (memAddr f v) (typeWidth f.var))) ∧
  RunsAs (.lds f) s f
    { sig := sigMem f (qmOk [0] 0 false 0 true true f.q) (.vz (isWide f.var))
      body := fun cx i l f v =>
        if l.helper then write cx l f.dst (isWide f.var) 0 false 0
        else loadOut s cx i l (destOf cx.w i l f.dst (isWide f.var)) (memAddr f v) (typeWidth f.var) (isSigned f.var) false 0
          (s.stashTarget cx.w i l (memAddr f v) .read) }
    (fun cx i l f v => accessOk l v.poison (memAddr f v) (typeWidth f.var)
      (stashFree s cx i l (memAddr f v) .read (tilesWait s cx (readOnly (sigLds f) fun _ => []) f .read (memAddr f)))) ∧
  RunsAs (.ldu f) s f
    { sig := sigMem f (qmOk [0, 1] 5 false 0 true true f.q) (.scal (isWide f.var))
      body := fun cx i l f v =>
        if l.helper then .done l []
        else match loadOut s cx i l (destOf cx.w i l f.dst (isWide f.var)) (memAddr f v) (typeWidth f.var) (isSigned f.var) (qmAcq f.q)
            (qmScope f.q) (s.target cx.w i l (memAddr f v) (memAddr f v) .read)
            (cx.g.lanes.filter fun j => (cx.w.lane j).live && (cx.w.lane j).guard f) with
          | .done l' fx => if electLane cx f == some i then .done l' fx else .done l []
          | o => o }
    (fun cx i l f v => accessOk l v.poison (memAddr f v) (typeWidth f.var) (loadFree s cx i l (memAddr f v) (typeWidth f.var))
      && cx.g.lanes.all fun j => !((cx.w.lane j).live && (cx.w.lane j).guard f) || !(lduLane s cx j (cx.w.lane j) f v).stays) ∧
  RunsAs (.ldl f) s f
    { sig := sigMem f (qmOk [0] 0 false 0 true false f.q) (.vz (isWide f.var))
      body := fun cx i l f v =>
        let o := memAddr f v
        let pv := privateAddr (s.nodeOf cx.w) cx.w i
        let word := fun (d : Dest) (va : W64) (m : Nat) (signed : Bool) (l' : Lane) =>
          loadOut s cx i l' d va m signed false 0 (s.target cx.w i l' va va .read)
        if l.helper then write cx l f.dst (isWide f.var) 0 false 0
        else if typeWidth f.var = 8 then
          match f.dst with
          | .v k => (word (.v [l.entry k.val]) (pv o) 4 false l).andThen l fun l' => word (.v [l'.entry (k.val + 1)]) (pv (o + 4)) 4 false l'
          | _ => (word .none (pv o) 4 false l).andThen l fun l' => word .none (pv (o + 4)) 4 false l'
        else word (destOf cx.w i l f.dst false) (pv o) (typeWidth f.var) (isSigned f.var) l }
    (fun cx i l f v => accessOk l v.poison (memAddr f v) (typeWidth f.var) (decide ((memAddr f v).toNat < (s.nodeOf cx.w).launch.priv.toNat)
      && loadFree s cx i l (privateAddr (s.nodeOf cx.w) cx.w i (memAddr f v)) (if typeWidth f.var = 8 then 4 else typeWidth f.var)
      && (typeWidth f.var != 8 || loadFree s cx i l (privateAddr (s.nodeOf cx.w) cx.w i (memAddr f v + 4)) 4)))

/-- R326 to R328, R330, R460: a store writes the low bytes of its data register at its address: into a tile, into the
core's L1, or as an access that the home serves; a sector that the lanes of one instruction write whole without poison
becomes clean. STS stores to a stash tile, STL to the private space.
Model's own choices in it: log entries 28 and 30. -/
def Obligations.StoreResults : Prop := ∀ (s : State) (f : Fields),
  RunsAs (.st f) s f
    { sig := sigMem f (qmOk [0, 2] 5 false 0 true true f.q) (.data (isWide f.var))
      more := dataSource
      body := fun cx i l f v =>
        if l.helper then .done l []
        else storeOut s cx i l (memAddr f v) (typeWidth f.var) (srcVal cx i l f.dst (isWide f.var) 0) (srcPoison cx i l f.dst (isWide f.var))
          (f.dst.toByte.zeroExtend 64) (qmRel f.q) (qmScope f.q) (s.target cx.w i l (memAddr f v) (memAddr f v) .write) }
    (fun cx i l f v => accessOk l v.poison (memAddr f v) (typeWidth f.var) (storeFree s cx i l (memAddr f v) (qmRel f.q) (qmScope f.q)))
    clearCovered ∧
  RunsAs (.sts f) s f
    { sig := sigMem f (qmOk [0] 0 false 0 true true f.q) (.data (isWide f.var))
      more := dataSource
      body := fun cx i l f v =>
        if l.helper then .done l []
        else storeOut s cx i l (memAddr f v) (typeWidth f.var) (srcVal cx i l f.dst (isWide f.var) 0) (srcPoison cx i l f.dst (isWide f.var))
          (f.dst.toByte.zeroExtend 64) false 0 (s.stashTarget cx.w i l (memAddr f v) .write) }
    (fun cx i l f v => accessOk l v.poison (memAddr f v) (typeWidth f.var)
      (!s.ms.queueFull cx.w.core
        && stashFree s cx i l (memAddr f v) .write (tilesWait s cx (readOnly (sigSts f) dataSource) f .write (memAddr f))))
    clearCovered ∧
  RunsAs (.stl f) s f
    { sig := sigMem f (qmOk [0] 0 false 0 true false f.q) (.data (isWide f.var))
      more := dataSource
      body := fun cx i l f v =>
        let o := memAddr f v
        let pv := privateAddr (s.nodeOf cx.w) cx.w i
        let x := srcVal cx i l f.dst (isWide f.var) 0
        let word := fun (va : W64) (m : Nat) (x : W64) (l' : Lane) =>
          storeOut s cx i l' va m x (srcPoison cx i l f.dst (isWide f.var)) (f.dst.toByte.zeroExtend 64) false 0
            (s.target cx.w i l' va va .write)
        if l.helper then .done l []
        else if typeWidth f.var = 8 then (word (pv o) 4 (zx (lo32 x)) l).andThen l (word (pv (o + 4)) 4 (zx (hi32 x)))
        else word (pv o) (typeWidth f.var) x l }
    (fun cx i l f v => accessOk l v.poison (memAddr f v) (typeWidth f.var) (decide ((memAddr f v).toNat < (s.nodeOf cx.w).launch.priv.toNat)
      && storeFree s cx i l (privateAddr (s.nodeOf cx.w) cx.w i (memAddr f v)) false 0
      && (typeWidth f.var != 8 || storeFree s cx i l (privateAddr (s.nodeOf cx.w) cx.w i (memAddr f v + 4)) false 0)))
    clearCovered

/-- R331, R336, R337, R137: PREF brings a line into a cache and delivers nothing; FENCE releases, acquires, or both, at its
scope, once the accesses of the lane that it orders are performed (R134, R135); CMAINT begins its operation over the bytes it names.
R183, R299: WSPILL stores the sixteen registers of the lowest resident frame below the callee's to the lane's
private space, acquiring what a KACC left unread there (R452), and raises LO by one; WFILL loads those of the frame below LO back and lowers LO by one. In a helper LO alone
moves, and a filled frame becomes 0.
Model's own choices in it: log entries 29 and 30. -/
def Obligations.CacheWindowAndFenceResults : Prop :=
  (∀ (s : State) (f : Fields),
  RunsAs (.pref f) s f
    { sig := { sigMem f (qmOk [0] 0 false 0 true true f.q) .blank with var := decide (f.var.toNat < 2) }
      body := fun cx i l f v =>
        .done l (if l.helper || v.poison then [] else [.act fun s => s.prefetch cx.w i (memAddr f v) (f.var == 1)]) } ∧
  RunsAs (.fence f) s f
    { sig := { var := decide (f.var.toNat < 4), q := f.q &&& 0xC7F == 0 && decide (qmScope f.q ≤ 5), unit := 3 }
      body := fun cx _ l f _ => .done l (if l.helper then [] else [.act fun s =>
        let s := if f.var = 1 ∨ f.var = 2 ∨ f.var = 3 then s.release cx.w.core (qmScope f.q) else s
        if f.var = 0 ∨ f.var = 2 ∨ f.var = 3 then s.acquire cx.w.core (qmScope f.q) else s]) }
    (fun cx i l f _ => decide (f.var.toNat < 4) && (l.helper || !(s.ms.maintPending cx.w.id i
      || (s.ms.acc.any fun a => a.ofLane cx.w.id i && (a.isLoad || a.dst != .none || (f.var != 0 && qmScope f.q != 0)))
      || s.ms.acqPending cx.w.id i))) ∧
  (∀ op ins, (op, ins) ∈ [(0, Instr.cmaintClean f), (1, Instr.cmaintInv f), (2, Instr.cmaintClinv f)] → RunsAs ins s f
    { sig := { var := decide (bits f.var 1 0 = op) && decide (bits f.var 3 2 < 3), q := f.q == 0, a := .pr, b := .src false, unit := 3 }
      body := fun cx i l f v =>
        let hi := v.a.toNat + (lo32 v.b).toNat - 1
        .done l (if l.helper || lo32 v.b == 0 then [] else [.act fun t =>
        let t := t.maintRead cx.w v.a (hi / 65536 - v.a.toNat / 65536 + 1)
        { t.freshId with ms := { t.ms with maint := t.ms.maint ++
          [{ id := t.ck.nextId, batch := s.ck.nextId, wg := cx.w.id, lane := i, core := cx.w.core, asid := (t.space cx.w).asid, op := op
             level := bits f.var 3 2, lo := v.a, hi := BitVec.ofNat 64 hi }] } }]) }
    (fun cx i l _ v => l.helper || (!v.poison && (lo32 v.b == 0 ||
      (let hi := v.a.toNat + (lo32 v.b).toNat - 1
       !(s.ms.acqPending cx.w.id i || s.maintHolds cx.w i v.a.toNat hi)
        && (s.maintPages cx.w i l v.a (hi / 65536 - v.a.toNat / 65536 + 1)).placed)))))) ∧
  (∀ (s : State) (f : Fields),
  RunsAs (.wspill f) s f
    { sig := { var := f.var == 0, q := f.q == 0, unit := 3 }
      body := fun cx i l _ _ =>
        if l.helper then .done { l with lo := l.lo + 1 } []
        else match chain l ((List.range 16).map fun j => fun l' =>
            let r := l'.at (l.lo % 4 * 16 + j)
            let va := privateAddr (s.nodeOf cx.w) cx.w i (frameOffset (s.nodeOf cx.w) l.lo + BitVec.ofNat 64 (4 * j))
            storeOut s cx i l' va 4 (zx r.val) r.poison 0 false 0 (s.target cx.w i l' va va .write)) with
          | .done l' fx =>
            let m := (frameEntries l.lo).foldl (fun m e => m ||| 1#64 <<< e) (0 : BitVec 64)
            .done { l' with lo := l'.lo + 1, racq := l'.racq &&& ~~~ m } (.acquire (if l.racq &&& m = 0 then 0 else 4) :: fx)
          | o => o }
    (fun cx i l _ _ => decide (l.lo < l.d) && (l.helper || (decide (l.lo < (s.nodeOf cx.w).launch.frame.toNat)
      && (l.pulled (frameEntries l.lo)).isNone && (List.range 16).all fun j => (l.at (l.lo % 4 * 16 + j)).full && storeFree s cx i l
        (privateAddr (s.nodeOf cx.w) cx.w i (frameOffset (s.nodeOf cx.w) l.lo + BitVec.ofNat 64 (4 * j))) false 0)))
    clearCovered ∧
  RunsAs (.wfill f) s f
    { sig := { var := f.var == 0, q := f.q == 0, unit := 3 }
      body := fun cx i l _ _ =>
        if l.helper then .done ((frameEntries (l.lo - 1)).foldl (fun l e => l.put cx.free e {}) { l with lo := l.lo - 1 }) []
        else match chain l ((List.range 16).map fun j => fun l' =>
            let va := privateAddr (s.nodeOf cx.w) cx.w i (frameOffset (s.nodeOf cx.w) (l.lo - 1) + BitVec.ofNat 64 (4 * j))
            loadOut s cx i l' (.v [(l.lo - 1) % 4 * 16 + j]) va 4 false false 0 (s.target cx.w i l' va va .read)) with
          | .done l' fx => .done { l' with lo := l.lo - 1 } fx
          | o => o }
    (fun cx i l _ _ => l.lo != 0 && decide (l.d + 2 - l.lo ≤ 3) && (l.helper || (decide (l.lo - 1 < (s.nodeOf cx.w).launch.frame.toNat)
      && (List.range 16).all fun j => (l.at ((l.lo - 1) % 4 * 16 + j)).full && loadFree s cx i l
        (privateAddr (s.nodeOf cx.w) cx.w i (frameOffset (s.nodeOf cx.w) (l.lo - 1) + BitVec.ofNat 64 (4 * j))) 4))))

/-- R332 to R335: ATOM and ATOMCAS deliver the old element to their destination and update memory by their operation; RED
updates and delivers nothing; ATOMS updates a stash tile.
R72, R332, R333, Table 3-6: what an update leaves: a RED or ATOM writes the sum, minimum or maximum of the old element
and its operand in the element's type; a compare-and-swap writes C where the old element equals B, and nothing elsewhere.
Model's own choices in it: log entry 30. -/
def Obligations.AtomicUpdateResults : Prop :=
  (∀ (s : State) (f : Fields),
  RunsAs (.atom f) s f
    { sig := { var := varTA f.var, q := qmOk [0, 1, 2, 3] 5 true 2 true true f.q, dst := .dst (isWide f.var)
               a := .base (qmWb f.q), b := .src false, c := .src (isWide f.var), unit := 3 }
      body := fun cx i l f v =>
        if l.helper then write cx l f.dst (isWide f.var) 0 false 0
        else updateOut s cx i l f (destOf cx.w i l f.dst (isWide f.var)) (.atom (qmOp f.q) f.var.toNat (localScope f)) (atomAddr f v)
          (typeWidth f.var) v.c 0 v.pc (f.c.toByte.zeroExtend 64) (s.target cx.w i l (atomAddr f v) (atomAddr f v) .both) }
    (fun cx i l f v => accessOk l (v.pa || v.pb) (atomAddr f v) (typeWidth f.var) (updateFree s cx i l f (atomAddr f v))) ∧
  RunsAs (.atomcas f) s f
    { sig := { var := varTI f.var, q := qmOk [0, 1, 2, 3] 5 true 0 false true f.q, dst := .dst (isWide f.var)
               a := .base (qmWb f.q), b := .src (isWide f.var), c := .src (isWide f.var), unit := 3 }
      body := fun cx i l f v =>
        if l.helper then write cx l f.dst (isWide f.var) 0 false 0
        else updateOut s cx i l f (destOf cx.w i l f.dst (isWide f.var)) (.cas (localScope f)) (memBase f v) (typeWidth f.var) v.c v.b (v.pb || v.pc)
          ((if v.pb then f.b else f.c).toByte.zeroExtend 64) (s.target cx.w i l (memBase f v) (memBase f v) .both) }
    (fun cx i l f v => accessOk l v.pa (memBase f v) (typeWidth f.var) (updateFree s cx i l f (memBase f v))) ∧
  RunsAs (.red f) s f
    { sig := { sigMem f (qmOk [0, 2] 5 true 2 true true f.q) (.data (isWide f.var)) with var := varTA f.var }
      more := dataSource
      body := fun cx i l f v =>
        if l.helper then .done l []
        else updateOut s cx i l f .none (.red (qmOp f.q) f.var.toNat) (memAddr f v) (typeWidth f.var) (srcVal cx i l f.dst (isWide f.var) 0) 0
          (srcPoison cx i l f.dst (isWide f.var)) (f.dst.toByte.zeroExtend 64) (s.target cx.w i l (memAddr f v) (memAddr f v) .both) }
    (fun cx i l f v => accessOk l v.poison (memAddr f v) (typeWidth f.var)
      (!s.ms.queueFull cx.w.core && updateFree s cx i l f (memAddr f v))) ∧
  RunsAs (.atoms f) s f
    { sig := { var := varTA f.var, q := qmOk [0, 1, 2, 3] 2 true 2 true true f.q, dst := .dst (isWide f.var)
               a := .base (qmWb f.q), b := .src false, c := .src (isWide f.var), unit := 3 }
      body := fun cx i l f v =>
        if l.helper then write cx l f.dst (isWide f.var) 0 false 0
        else updateOut s cx i l f (destOf cx.w i l f.dst (isWide f.var)) (.atom (qmOp f.q) f.var.toNat false) (atomAddr f v)
          (typeWidth f.var) v.c 0 v.pc (f.c.toByte.zeroExtend 64) (s.stashTarget cx.w i l (atomAddr f v) .both) }
    (fun cx i l f v => accessOk l (v.pa || v.pb) (atomAddr f v) (typeWidth f.var)
      (!(qmRel f.q && s.ms.releaseWaits cx.w.id i (qmScope f.q)) && stashFree s cx i l (atomAddr f v) .both
        (tilesWait s cx (readOnly (sigAtoms f) fun _ => []) f .both (atomAddr f))))) ∧
  (∀ (x y data cmp : W64) (a b : BitVec 32),
  (∀ op ty loc n old, updated (.atom op ty loc) n old data cmp = updated (.red op ty) n old data cmp) ∧
  updated (.red 0 3) 8 x.toNat y cmp = some (x + y).toNat ∧ updated (.red 0 7) 8 x.toNat y cmp = some (x + y).toNat ∧
  updated (.red 1 3) 8 x.toNat y cmp = some (if y.toInt < x.toInt then y else x).toNat ∧
  updated (.red 2 7) 8 x.toNat y cmp = some (max x.toNat y.toNat) ∧
  updated (.red 0 2) 4 a.toNat (zx b) cmp = some (a + b).toNat ∧
  updated (.red 1 6) 4 a.toNat (zx b) cmp = some (min a.toNat b.toNat) ∧
  updated (.red 2 2) 4 a.toNat (zx b) cmp = some (if a.toInt < b.toInt then b else a).toNat ∧
  updated (.red 0 8) 4 a.toNat (zx b) cmp = some (fp32.addNum a.toNat b.toNat) ∧
  (∀ loc, updated (.cas loc) 8 cmp.toNat data cmp = some data.toNat) ∧
  (∀ loc, x ≠ cmp → updated (.cas loc) 8 x.toNat data cmp = none ∧ resulting (.cas loc) 8 x.toNat data cmp false = none ∧
    resulting (.cas loc) 8 x.toNat data cmp true = some x.toNat))

/-- R61, R129, R250, R69, R468: a load whose sector arrives fills its destination; the stores, REDs and home atomics of an
instruction to a sector are performed; the atomics that wait for ownership are performed in the L1; 50 µs after its issue a
load from an unreachable module delivers poison.
R50, R72, R129: a store that its home serves has written its bytes there when it is performed; an update has written
the updated element, and its destination receives the old one; the link controller performs the lanes' REDs of `.sys` with
the line out of its home slice before and after (R73).
Model's own choices in it: log entries 13, 31 and 74. -/
def Obligations.PendingAccessesArePerformed : Prop :=
  (∀ (s : State) (id : Nat) (a : Acc), s.acc? id = some a →
  (∀ sg loc w, a.kind = .load sg → a.loc = some loc → a.atPort = false → s.wg? a.wg = some w → s.behind a = false →
    s.tileAt w a.va = none → s.tileOn a.core loc = none → s.unreachable loc = false → s.ms.regPage loc = none →
    exec (.loadDataReturn id) s = .next (
      let s1 := s.used w a.va .read
      let s2 := if a.acq then s1.acquire a.core a.scope else s1
      let r := s2.lookMem a.asid a.va a.core loc a.width
      (r.1.dropAcc a.id).fillDest a.wg a.lane a.dst (loadVal sg r.2.1) r.2.2)) ∧
  (∀ loc, a.isLoad = false → a.isLocal = false → a.loc = some loc →
    exec (.writeAcknowledgement id) s = .next (State.clearBatch s a (s.performBatch a))) ∧
  (a.isLocal = true → a.atPort = false → exec (.ownershipGrant id) s = .next (s.performBatch a)) ∧
  (∀ loc, a.loc = some loc → s.unreachable loc = true → a.since + 50000 ≤ s.ck.now →
    exec (.fabricLoadTimeout id) s = .next (if a.isLoad then (s.dropAcc id).fillDest a.wg a.lane a.dst 0 true else s.lostWrite a))) ∧
  (∀ (s : State) (a : Acc) (w : Wg) (loc : Nat),
  s.wg? a.wg = some w → s.behind a = false → s.tileAt w a.va = none → s.tileOn a.core loc = none → a.loc = some loc →
  s.unreachable loc = false → s.ms.regPage loc = none → a.poison = false →
  let u := s.used w a.va .both
  let returns := fun (t : State) (old : Nat) (p : Bool) =>
    let t := (t.dropAcc a.id).fillDest a.wg a.lane a.dst (loadVal false (bytesLE a.width old)) p
    if a.acq then t.acquire a.core a.scope else t
  (a.kind = .store → locTgt loc ≠ 2 → (s.used w a.va .write).late a = false →
    s.performAcc a = ((s.used w a.va .write).storeMem a.core loc a.width a.data false a.rel a.scope).dropAcc a.id) ∧
  (∀ op ty t old p, a.kind = .red op ty → u.homeUpdate a.core loc a.width (.red op ty) a.data a.cmp false = (t, old, p) →
    (isOutside loc && p) = false → s.performAcc a = returns t old p) ∧
  (∀ op ty, a.kind = .red op ty → a.scope = 5 → isOutside loc = false →
    let s1 := s.evictL2 (lineOf loc)
    (s1.ms.l2.any fun x => x.line == lineOf loc) = false →
    s.performBatch a = State.evictL2 (((s1.ms.acc.filter (s1.sameBatch a)).foldl (fun l b => insertLane b l) []).foldl
      State.performLive s1) (lineOf loc)) ∧
  (∀ op ty t old p, a.kind = .atom op ty false → u.homeUpdate a.core loc a.width (.atom op ty false) a.data a.cmp false = (t, old, p) →
    (isOutside loc && p) = false → s.performAcc a = returns t old p))

/-- R31, R35: a completed walk fills the TLB and lets the quads that waited issue, and the oldest queued miss of the core
takes its place; a serviced fault writes the entry and drops the translations held of it; without memory, the nodes that
wait for the page fail with status 4.
R74, R75, R337: a CMAINT takes effect on the lines of every page that it and the overlapping lanes of its instruction name,
and is done once they are clean; a page fault holds it, and a violation traps its lane.
Model's own choices in it: log entries 29, 31, 99 and 101. -/
def Obligations.TranslationAndMaintenanceEvents : Prop :=
  (∀ (s : State),
  (∀ k m sp, s.ms.misses[k]? = some m → s.ms.walking k m.core = true → s.hub.space m.asid = some sp →
    exec (.translationMissComplete k) s = .next (
      let va : W64 := BitVec.ofNat 64 (m.page * 65536)
      let s1 := s.walkFor m.core sp va
      let s2 := m.lanes.foldl (fun s x => s.modWg x.1 (·.modLane x.2 fun l => { l with walked := l.walked ++ [m.page] })) s1
      s2.modMs fun ms => match ms.missq.find? (·.core == m.core) with
        | some q => { ms with misses := ms.misses.eraseIdx k ++ [q], missq := ms.missq.erase q }
        | none => { ms with misses := ms.misses.eraseIdx k })) ∧
  (∀ asid va : Nat, s.ms.faults.contains (BitVec.ofNat 16 asid, va / 65536) = true →
    let s1 := s.modMs fun ms => { ms with faults := ms.faults.filter (· != (BitVec.ofNat 16 asid, va / 65536)) }
    let s2 := { s1 with ex := { s1.ex with wgs := s1.ex.wgs.map fun w => if (s.space w).asid == BitVec.ofNat 16 asid then
      { w with tiles := w.tiles.map fun (t : Tile) => if t.vpage.toNat / 65536 = va / 65536 then { t with held := false } else t } else w } }
    (∀ lw sp a, s.hub.space (BitVec.ofNat 16 asid) = some sp → s.ms.entryLoc sp (BitVec.ofNat 64 va) lw.level = some a →
      exec (.pageFaultServiceComplete asid va (some lw)) s = .next ((s2.homeStore a 8 lw.entry.toNat false).modMs fun ms =>
        { ms with tlb := ms.tlb.filter fun e => !(e.asid == BitVec.ofNat 16 asid && e.entry == a) })) ∧
    exec (.pageFaultServiceComplete asid va none) s = .next (
      (s.faultNodes (BitVec.ofNat 16 asid) (va / 65536)).foldl (fun s n => s.failNode n 4)
        (s2.statusFails (BitVec.ofNat 16 asid) (va / 65536))))) ∧
  (∀ (s : State) (id : Nat) (m : Maint), s.ms.maint.find? (·.id == id) = some m →
  let all := s.ms.maint.filter fun x => x.batch == m.batch && x.wg == m.wg
  (∀ us : List (Maint × List (Nat × Nat)),
    (maintUnion all all.length [m]).map (fun x => (x, s.maintPagesOf x)) = us.map (fun u => (u.1, u.2.map fun r => .range r.1 r.2)) →
    exec (.cacheMaintenanceComplete id) s = .next (
      let t := us.foldl (fun s u => u.2.foldl (fun s r => s.maintRange u.1 r.1 r.2) s) (us.foldl (fun s u => s.maintTouch u.1) s)
      let done := us.filter fun u => u.2.all fun r => t.maintClean u.1 r.1 r.2
      t.modMs fun ms => { ms with maint := ms.maint.filter fun x => !done.any fun u => u.1.id == x.id })) ∧
  (∀ va, all = [m] → s.maintPagesOf m = [.fault va] →
    exec (.cacheMaintenanceComplete id) s = .next (s.modMs (·.faultNote m.asid va))) ∧
  (∀ c tv, all = [m] → s.maintPagesOf m = [.trap c tv] → exec (.cacheMaintenanceComplete id) s = .next (s.maintTrap m c tv)))

/-- R339 to R343: the six barrier instructions on a barrier the lane may name. BARINIT empties it; BARREG adds the lane to
it and to its counts; an arrival of a registered lane counts now, or once its writes are performed when it is a release;
BARWAIT makes the lane wait for the release at the instruction, with where it goes on after it, BARSYNC arrives and waits;
BARDROP leaves.
R116, R118, R119: a release arrival counts once the lane's writes are performed; at zero every wait in progress
completes and the barrier re-arms from its reload count; a local barrier and a tree barrier alike. -/
def Obligations.BarrierOperations : Prop :=
  (∀ (s : State) (f : Fields),
  let tree := fun (f : Fields) => f.var == 1
  let idx := fun (v : Vals) => (lo32 v.b).toNat
  let may := fun (cx : Cx) (l : Lane) (f : Fields) (v : Vals) (ok : Bool) =>
    l.helper || (!v.poison && barIndexOk s cx.w (tree f) (lo32 v.b).toNat && ok)
  let arrive := fun (cx : Cx) (i : Nat) (f : Fields) (v : Vals) => Fx.act fun t => t.modBar (tree f) cx.w.id (lo32 v.b).toNat fun b =>
    if qmRel f.q then { b with pend := barKey cx.w.id i :: b.pend, stalled := b.stalled.filter (· != barKey cx.w.id i) }
    else { b with remaining := b.remaining - 1, due := b.due || b.remaining == 1, outstanding := barKey cx.w.id i :: b.outstanding
                  stalled := b.stalled.filter (· != barKey cx.w.id i) }
  let wait := fun (cx : Cx) (i : Nat) (f : Fields) (v : Vals) => Fx.act fun t => t.modBar (tree f) cx.w.id (lo32 v.b).toNat fun b =>
    { b with waiting := insertNat (barKey cx.w.id i) b.waiting }
  RunsAs (.barinit f) s f
    { sig := sigBar f (f.q == 0)
      body := fun cx _ l f v => .done l (if l.helper then [] else [.act fun t => t.modBar (tree f) cx.w.id (idx v) fun _ => {}]) }
    (fun cx _ l f v => may cx l f v ((s.bar (tree f) cx.w.id (idx v)).waiting.isEmpty && (s.bar (tree f) cx.w.id (idx v)).stalled.isEmpty)) ∧
  RunsAs (.barreg f) s f
    { sig := sigBar f (f.q == 0)
      body := fun cx i l f v => .done l (if l.helper then [] else [.act fun t => t.modBar (tree f) cx.w.id (idx v) fun b =>
        { b with reload := b.reload + 1, remaining := b.remaining + 1, reg := barKey cx.w.id i :: b.reg }]) }
    (fun cx i l f v => let b := s.bar (tree f) cx.w.id (idx v)
      may cx l f v (!b.reg.contains (barKey cx.w.id i) && !b.due && !b.released)) ∧
  RunsAs (.bararr f) s f
    { sig := sigBar f (f.q == 0 || f.q == 0x800), body := fun cx i l f v => .done l (if l.helper then [] else [arrive cx i f v]) }
    (fun cx i l f v => may cx l f v ((s.bar (tree f) cx.w.id (idx v)).reg.contains (barKey cx.w.id i)
      && !(s.bar (tree f) cx.w.id (idx v)).stalls (barKey cx.w.id i))) ∧
  RunsAs (.barwait f) s f
    { sig := sigBar f (f.q == 0)
      body := fun cx i l f v => if l.helper then .done l []
        else .wait { l with wait := .barrier (tree f) (idx v) cx.g.next cx.g.nextClause cx.g.k } [wait cx i f v] }
    (fun cx _ l f v => may cx l f v true) ∧
  RunsAs (.barsync f) s f
    { sig := sigBar f (f.q == 0 || f.q == 0x800)
      body := fun cx i l f v => if l.helper then .done l []
        else .wait { l with wait := .barrier (tree f) (idx v) cx.g.next cx.g.nextClause cx.g.k } [arrive cx i f v, wait cx i f v] }
    (fun cx i l f v => may cx l f v ((s.bar (tree f) cx.w.id (idx v)).reg.contains (barKey cx.w.id i)
      && !(s.bar (tree f) cx.w.id (idx v)).stalls (barKey cx.w.id i))) ∧
  RunsAs (.bardrop f) s f
    { sig := sigBar f (f.q == 0)
      body := fun cx i l f v => .done l (if l.helper then [] else [.act fun t => t.modBar (tree f) cx.w.id (idx v) (·.drop (barKey cx.w.id i))]) }
    (fun cx i l f v => may cx l f v ((s.bar (tree f) cx.w.id (idx v)).reg.contains (barKey cx.w.id i)))) ∧
  (∀ (s : State) (wg idx lane : Nat) (tree : Bool),
  ((s.bar tree wg idx).pend.contains (barKey wg lane) = true → s.ms.releaseWaits wg lane (if tree then 4 else 2) = false →
    ∀ w, s.wg? wg = some w →
    exec (.barrierArrivalCount tree wg idx lane) s = .next ((s.release w.core (if tree then 4 else 2)).modBar tree wg idx fun b =>
      { b with pend := b.pend.filter (· != barKey wg lane), remaining := b.remaining - 1, due := b.due || b.remaining == 1
               outstanding := barKey wg lane :: b.outstanding, stalled := b.stalled.filter (· != barKey wg lane) })) ∧
  ((s.bar tree wg idx).due = true → (s.bar tree wg idx).released = false → (tree = true → wg = 0) →
    exec (if tree then Instr.treeBarrierRelease idx else Instr.localBarrierRelease wg idx) s = .next (s.releaseBar tree wg idx)) ∧
  ((s.bar tree wg idx).released = true → (tree = true → wg = 0) →
    exec (if tree then Instr.treeBarrierRearm idx else Instr.localBarrierRearm wg idx) s =
      .next (s.modBar tree wg idx fun b => { b with released := false, remaining := b.reload })))

/-- R116, R148: what a release does to a lane that waits: it waits at no barrier, and the barrier is between release and
re-arm with nobody waiting. -/
def Obligations.BarrierReleaseFreesTheWaiters : Prop := ∀ (s : State) (idx : Nat) (tree : Bool) (w : Wg),
  (tree = true → idx < s.net.trees.length) → (tree = false → s.wg? w.id = some w ∧ idx < w.bars.length) →
    let t := s.releaseBar tree w.id idx
    (t.bar tree w.id idx).waiting = [] ∧ (t.bar tree w.id idx).outstanding = [] ∧ (t.bar tree w.id idx).released = true ∧
    (t.bar tree w.id idx).due = false ∧ (t.bar tree w.id idx).reload = (s.bar tree w.id idx).reload ∧
    (∀ k ∈ (s.bar tree w.id idx).waiting, ∀ u, t.wg? (k / 1024) = some u → (u.lane (k % 1024)).helper = false →
      ∀ tr n a c r, (u.lane (k % 1024)).wait ≠ .barrier tr n a c r)

/-- R121, R124, R344, R345: QBIND binds a send register to a workgroup of the grid and a receive queue of it, below 4; QPOLL writes the number
of flits queued; a flit reaches the end of its receive queue. -/
def Obligations.CoreQueueResults : Prop := ∀ (s : State) (f : Fields),
  RunsAs (.qbind f) s f
    { sig := { var := f.var == 0, q := f.q == 0, dst := .qtx, a := .u, b := .u, unit := 3 }
      bad := fun cx i l f => (limitOf cx i l f.b).any (decide <| 3 < ·) || (limitOf cx i l f.a).any (decide <| (s.nodeOf cx.w).grid ≤ ·)
      body := fun cx _ l f v => .done l (match f.dst with
        | .qtx n => if l.helper then [] else [.act fun t => t.modWg cx.w.id fun w =>
            { w with qtx := w.qtx.set n.val (some ((lo32 v.a).toNat, (lo32 v.b).toNat)) }]
        | _ => []) }
    (fun _ _ _ _ v => !v.poison) ∧
  (∀ q : Fin 4, f.a = .qrx q → RunsAs (.qpoll f) s f
    { sig := { var := f.var == 0, q := f.q == 0, dst := .dst false, a := .qrx, ta := false, unit := 3 }
      body := fun cx _ l f _ => match f.a with
        | .qrx n => write cx l f.dst false (BitVec.ofNat 64 (cx.w.qrx.getD n.val []).length) false 0
        | _ => .done l [] }) ∧
  (∀ k x w c, s.net.flits[k]? = some x →
    ((s.net.flits.take k).any fun y => y.srcWg == x.srcWg && y.srcLane == x.srcLane && y.node == x.node && y.index == x.index
      && y.queue == x.queue) = false →
    (s.ex.wgs.find? fun w => w.node == x.node && w.index == x.index) = some w → w.place = .core c →
    exec (.queueFlitDelivery k) s = .next (State.modWg { s with net := { s.net with flits := s.net.flits.eraseIdx k } } w.id fun w =>
      { w with qrx := upd w.qrx x.queue fun q => q ++ [x.data] }))

/-- R346 to R351: TCLAIM drops the core's copies of the block and claims the tile EMPTY; TFILL and TDRAIN begin an operation
of the engine and take their place in the tile's order, TFREE takes its place; TSTAT writes the tile's entry, 0 for a tile
not claimed.
R53, R348, R349, R351: a FILLING tile whose block translates becomes READY with the block's bytes and completes its
TFILL; a DRAINING one writes its dirty sectors back, becomes clean, and completes its TDRAIN with their number; a freed
tile is released.
Model's own choices in it: log entries 12 and 16. -/
def Obligations.StashTileOperations : Prop :=
  (∀ (s : State) (f : Fields),
  let inRange := fun (cx : Cx) (v : Vals) => decide ((lo32 v.b).toNat < (s.nodeOf cx.w).launch.tiles)
  OnceAs (.tclaim f) s f
    { sig := { var := f.var == 0, q := f.q == 0, a := .pr, b := .u, unit := 3 }
      dec := fun _ _ _ _ _ => .ok
      act := fun cx _ _ _ v t => (t.dropBlock cx.w v.a).modWg cx.w.id fun w =>
        { w with tiles := w.tiles ++ [{ idx := (lo32 v.b).toNat, vpage := v.a }] } }
    (fun cx _ _ _ v => inRange cx v && (cx.w.tile? (lo32 v.b).toNat).isNone && v.a.toNat % 4096 == 0 && decide (v.a.toNat < 2 ^ 52)
      && !s.blockHeld cx.w (lo32 v.b).toNat v.a) ∧
  OnceAs (.tfill f) s f
    { sig := { var := f.var == 0, q := f.q == 0, dst := .handle, b := .u, unit := 3 }
      dec := fun _ _ _ _ _ => .ok
      own := fun _ _ l f _ => newHandle s.ck.nextId l f
      act := fun cx _ _ _ v t => (t.startOp t.ck.nextId cx.w (.tfill (lo32 v.b).toNat)).tileEnqueue cx.w.id (lo32 v.b).toNat 0 t.ck.nextId
        (slotVal cx.g 4) }
    (fun cx i _ _ v => inRange cx v && (cx.w.tile? (lo32 v.b).toNat).isSome && !issueHolds s cx i) ∧
  OnceAs (.tdrain f) s f
    { sig := { var := f.var == 0, q := f.q == 0, dst := .handle, b := .u, unit := 3 }
      dec := fun _ _ _ _ _ => .ok
      own := fun _ _ l f _ => newHandle s.ck.nextId l f
      act := fun cx _ _ _ v t => (t.startOp t.ck.nextId cx.w (.tdrain (lo32 v.b).toNat)).tileEnqueue cx.w.id (lo32 v.b).toNat 1 t.ck.nextId
        (slotVal cx.g 4) }
    (fun cx i _ _ v => inRange cx v && (cx.w.tile? (lo32 v.b).toNat).isSome && !issueHolds s cx i) ∧
  OnceAs (.tfree f) s f
    { sig := { var := f.var == 0, q := f.q == 0, b := .u, unit := 3 }
      dec := fun _ _ _ _ _ => .ok
      act := fun cx _ _ _ v t => t.tileEnqueue cx.w.id (lo32 v.b).toNat 2 0 0 }
    (fun cx _ _ _ v => inRange cx v && (cx.w.tile? (lo32 v.b).toNat).isSome) ∧
  RunsAs (.tstat f) s f
    { sig := { var := f.var == 0, q := f.q == 0, dst := .dst true, b := .src false, unit := 3 }
      bad := fun cx i l f => (limitOf cx i l f.b).any (decide <| (s.nodeOf cx.w).launch.tiles ≤ ·)
      body := fun cx _ l f v => write cx l f.dst true (match cx.w.tile? (lo32 v.b).toNat with
        | some t => tileEntry t
        | none => 0) false 0 }
    (fun _ _ _ _ v => !v.poison)) ∧
  (∀ (s : State) (core loc : Nat), s.ms.regPage loc = none →
    let s1 := (s.dropFrame core loc).recallBlock core loc
    s.readBlock core loc = (s1, s1.ms.blockBytes loc, s1.ms.blockPoison loc)) ∧
  (∀ (s : State) (wg idx : Nat) (w : Wg) (t : Tile), s.wg? wg = some w →
  (w.tile? idx = some t → t.state = .filling → ∀ loc s0, s.xlateBy (engineUnit w.core) (s.space w) t.vpage .read = (.ok loc, s0) →
    exec (.tileFillComplete wg idx) s = .next (
      let b := s0.readBlock w.core loc
      let s2 := b.1.modTile wg idx fun t => { t with
        state := .ready, held := false, data := b.2.1, poison := b.2.2
        dirty := [], owned := 0, wchecked := false, fillOp := 0, refill := false }
      (if t.fillOp = 0 then s2 else s2.completeOp wg t.fillOp 0 none 2).tileTurn wg idx 64)) ∧
  (w.tile? idx = some t → t.state = .draining → t.recalled = true → t.drainOp = 0 → t.refill = false →
    exec (.tileDrainComplete wg idx) s = .next ((s.modTile wg idx fun t => { t with state := .ready, recalled := false }).tileTurn wg idx 64)) ∧
  (w.tile? idx = some t → t.state = .draining → (t.recalled && decide (t.drainOp = 0) && !t.refill) = false → s.drainHeld w t = false →
    ∀ s1, s.drainTile w t = (s1, true) →
    exec (.tileDrainComplete wg idx) s = .next (
      let s2 := s1.modTile wg idx fun t => { t with
        dirty := [], owned := 0, state := if t.refill then .filling else .ready, drainOp := 0, recalled := false }
      (if t.drainOp = 0 then s2 else s2.completeOp wg t.drainOp (BitVec.ofNat 32 t.dirtySectors.length) none 4).tileTurn wg idx 64)) ∧
  ((w.tiles.find? fun t => t.idx == idx && t.freeing) = some t → s.drainHeld w t = false →
    exec (.tileRelease wg idx) s = .next ((s.drainTile w t).1.modWg wg fun w =>
      { w with tiles := w.tiles.filter fun t => !(t.idx == idx && t.freeing) })))

/-- R352 to R355: RBRES reserves the slot that became FREE first and RBTAKE takes the first published one, or they deliver
all ones; RBPUB publishes a RESERVED slot last, RBFREE frees a TAKEN one, each after a release at `.dev`; RBMETA delivers
token, expert and weight of a slot's latch. In a helper the destination receives all ones.
Model's own choices in it: log entries 34 and 36. -/
def Obligations.RoutedRingResults : Prop := ∀ (s : State) (f : Fields),
  let ok := fun (cx : Cx) (i : Nat) (l : Lane) (v : Vals) (rel : Bool) =>
    l.helper || (!v.poison && (s.ring (lo32 v.a).toNat).part == (s.space cx.w).part
      && !s.ms.acqPending cx.w.id i && !(rel && s.ms.releaseWaits cx.w.id i 4))
  let ones := fun (cx : Cx) (l : Lane) (f : Fields) (k : Nat) => match f.dst with
    | .v d => (List.range k).foldl (fun l j => l.put cx.free (l.entry (d.val + j)) { val := 0xFFFFFFFF }) l
    | .p d => l.setPred d.val true
    | _ => l
  RunsAs (.rbres f) s f
    { sig := { var := f.var == 0, q := f.q == 0, dst := .dst false, a := .u, unit := 3 }
      bad := badRing s false
      body := fun cx i l f v => if l.helper then .done (ones cx l f 1) [] else .done l [.act fun t =>
        match t.reserve (lo32 v.a).toNat with
        | (t, some n) => (t.fillDest cx.w.id i (destOf cx.w i l f.dst false) (BitVec.ofNat 64 n) false).acquire cx.w.core 4
        | (t, none) => t.fillDest cx.w.id i (destOf cx.w i l f.dst false) 0xFFFFFFFF false] }
    (fun cx i l _ v => ok cx i l v false) ∧
  RunsAs (.rbtake f) s f
    { sig := { var := f.var == 0, q := f.q == 0, dst := .dst false, a := .u, unit := 3 }
      bad := badRing s false
      body := fun cx i l f v => if l.helper then .done (ones cx l f 1) [] else .done l [.act fun t =>
        match (t.ring (lo32 v.a).toNat).published with
        | n :: rest => ((t.modRing (lo32 v.a).toNat fun r => { (r.setSlot n { r.slot n with state := .taken }) with published := rest }).fillDest
            cx.w.id i (destOf cx.w i l f.dst false) (BitVec.ofNat 64 n) false).acquire cx.w.core 4
        | [] => t.fillDest cx.w.id i (destOf cx.w i l f.dst false) 0xFFFFFFFF false] }
    (fun cx i l _ v => ok cx i l v false) ∧
  RunsAs (.rbpub f) s f
    { sig := { var := f.var == 0, q := f.q == 0, a := .u, b := .src false, unit := 3 }
      bad := badRing s true
      body := fun cx i l f v => if l.helper then .done (ones cx l f 0) [] else .done l [.act fun t =>
        if ((t.ring (lo32 v.a).toNat).slot (lo32 v.b).toNat).state != .reserved then t.trapAt cx.w.id i l 3 (slotVal cx.g 4)
        else (t.release cx.w.core 4).modRing (lo32 v.a).toNat fun r =>
          { (r.setSlot (lo32 v.b).toNat { r.slot (lo32 v.b).toNat with state := .published }) with
            published := r.published ++ [(lo32 v.b).toNat], ptail := r.ptail + 1 }] }
    (fun cx i l _ v => ok cx i l v true) ∧
  RunsAs (.rbfree f) s f
    { sig := { var := f.var == 0, q := f.q == 0, a := .u, b := .src false, unit := 3 }
      bad := badRing s true
      body := fun cx i l f v => if l.helper then .done (ones cx l f 0) [] else .done l [.act fun t =>
        if ((t.ring (lo32 v.a).toNat).slot (lo32 v.b).toNat).state != .taken then t.trapAt cx.w.id i l 3 (slotVal cx.g 4)
        else (t.release cx.w.core 4).modRing (lo32 v.a).toNat fun r =>
          { (r.setSlot (lo32 v.b).toNat {}) with freeOrder := r.freeOrder ++ [(lo32 v.b).toNat] }] }
    (fun cx i l _ v => ok cx i l v true) ∧
  RunsAs (.rbmeta f) s f
    { sig := { var := f.var == 0, q := f.q == 0, dst := .vrun 3, a := .u, b := .src false, unit := 3 }
      bad := fun cx i l f => badRing s true cx i l f ||
        match limitOf cx i l f.a, limitOf cx i l f.b with
        | some ring, some n => !l.helper && ((s.ring ring).slot n).state != .published && ((s.ring ring).slot n).state != .taken
        | _, _ => false
      body := fun cx _ l f v => if l.helper then .done (ones cx l f 3) []
        else match ((s.ring (lo32 v.a).toNat).slot (lo32 v.b).toNat).latch with
          | some m => .done (putMeta cx.free f.dst m l) [.act fun t => t.acquire cx.w.core 4]
          | none => .stay l }
    (fun cx i l _ v => ok cx i l v false && (l.helper || ((s.ring (lo32 v.a).toNat).slot (lo32 v.b).toNat).latch.isSome))

/-- R424 to R427, R429: a store to GLQ queues a token of a routed ring; the metadata index and RIDX move as written; an
access that the block ignores is counted; record MDLV is delivered once its sequence number matches; a ring is configured
with every slot FREE, and an illegal routed one is left unconfigured and reported.
R430: the co-processor pops the oldest token, reads its logits and chooses the K experts of the largest weight; what
is left of its work goes on at the next try.
Model's own choices in it: log entries 34 to 36 and 76. -/
def Obligations.RoutedRingEvents : Prop :=
  (∀ (s : State) (die ring : Nat) (value : W64) (c : RingCfg),
  let k := 64 * die + ring
  ((s.ring k).st = 2 → hi32 value = 0 → (s.rt.glq.getD (k / 64) []).length < 1024 →
    exec (.glq die ring value) s = .next (
      ({ s with rt := { s.rt with glq := upd s.rt.glq (k / 64) fun q => q ++ [(k, lo32 value)] } } : State).modRing k
        fun r => { r with glq := lo32 value })) ∧
  exec (.mres die ring) s = .next (s.modRing k fun r => { r with mres := r.mres + 1 }) ∧
  exec (.ridxWrite die ring value) s = .next (s.modRing k fun r => { r with ridx := value }) ∧
  exec (.controlBlockAccessIgnored die ring) s = .next { s with rt := { s.rt with ignored := s.rt.ignored + 1 } } ∧
  (∀ t u w1 w0 p q, (s.ring k).st ≠ 0 →
    s.agentRead hubUnit (spaceOr s (s.ring k).asid) ((s.ring k).recordAddr (s.ring k).mdlv + 8) 8 = (t, .val w1 p) →
    t.agentRead hubUnit (spaceOr s (s.ring k).asid) ((s.ring k).recordAddr (s.ring k).mdlv) 8 = (u, .val w0 q) →
    w1 / 2 ^ 16 % 2 ^ 16 = ((s.ring k).mdlv.toNat + 1) % 2 ^ 16 →
    exec (.metadataDelivery die ring) s = .next (u.latch k (BitVec.ofNat 64 w0) (BitVec.ofNat 64 w1))) ∧
  (c.st = 1 → ∃ t, exec (.ringConfiguration die ring c) s = .next t ∧
    (k < s.rt.rings.length → (t.ring k).st = 1 ∧ (t.ring k).part = c.part ∧ (t.ring k).freeOrder = List.range (c.slotsm1.toNat + 1) ∧
      (∀ n ≤ c.slotsm1.toNat, ((t.ring k).slot n).state = .free) ∧ (t.ring k).mres = 0 ∧ (t.ring k).ridx = 0)) ∧
  (c.st = 2 → c.em1.toNat < c.km1.toNat → ∃ t, exec (.ringConfiguration die ring c) s = .next t ∧
    (k < s.rt.rings.length → (t.ring k).st = 0) ∧ t.log = .ringRefused die ring :: s.log)) ∧
  (∀ (s : State) (die : Nat),
  (∀ k token rest xs t, s.rt.cop.getD die none = none → s.rt.glq.getD die [] = (k, token) :: rest →
    State.agentHalves { s with rt := { s.rt with glq := s.rt.glq.set die rest } } hubUnit (spaceOr s (s.ring k).asid)
      (BitVec.ofNat 64 ((s.ring k).lbase.toNat + token.toNat * (s.ring k).lstride.toNat)) ((s.ring k).em1.toNat + 1) = (t, .ok (xs, false)) →
    exec (.gateLogitPop die) s = .next ((t.setCop die (some
      { ring := k, token := token, left := topChoices ((s.ring k).km1.toNat + 1) (s.ring k).norm (softmax xs) })).copRun die 8)) ∧
  exec (.coprocessorReserveRetry die) s = .next (s.copRun die 8))

/-! ### Matrix, Drift, iterators -/

/-- R361, R366 to R368: MXLDW names the weights of its quarter and queues their load; MXMULT queues its chunks from tiles;
MXPROM queues the promotion of rows FIRST to LAST; MXZERO binds its slot, or gives it up when A is zero. Each is queued in
issue order and its handle is empty until the step is done.
Model's own choices in it: log entries 39, 40 and 44. -/
def Obligations.MatrixStepsAreQueued : Prop := ∀ (s : State) (f : Fields),
  OnceAs (.mxldw f) s f
    { sig := { var := decide (f.var.toNat < 2), q := bits f.q 11 1 == 0, dst := .handle
               a := if f.q.getLsbD 0 then .u else .pr, b := .pr, unit := 4 }
      dec := fun _ _ _ _ _ => .ok
      own := fun _ _ l f _ => newHandle s.ck.nextId l f
      act := fun cx i _ _ v t =>
        let d : WDesc := { tile := f.q.getLsbD 0, addr := if f.q.getLsbD 0 then zx (lo32 v.a) else v.a, west := f.var == 1, srec := v.b }
        let t := if d.tile then t.gangNamed cx (tilesFrom (lo32 v.a).toNat (blockTiles (recFmt v.b))) else t
        (t.modMx cx.w.id (i / 64 % 4) fun m => { m with wdesc := some d }).mxQueue cx.w.id (i / 64 % 4) (slotVal cx.g 4) (.ldw t.ck.nextId d) }
    (fun cx i l _ v => recordOk s.overcast v.b && !issueHolds s cx i &&
      (if f.q.getLsbD 0 then tilesNamed s cx.w (tilesFrom (lo32 v.a).toNat (blockTiles (recFmt v.b)))
          && (tilesReady s cx.w i l (tilesFrom (lo32 v.a).toNat (blockTiles (recFmt v.b)))).isOk
        else v.a.toNat % 128 == 0)) ∧
  OnceAs (.mxmult f) s f
    { sig := { var := f.var == 0, q := !f.q.getLsbD 0, dst := .handle, a := .u, b := .pr, c := .pr, unit := 4 }
      dec := fun _ _ _ _ _ => .ok
      own := fun _ _ l f _ => newHandle s.ck.nextId l f
      act := fun cx i _ _ v t => (t.gangNamed cx (chunkTiles (multTiles v).1 (multTiles v).2 0 v.b v.c)).mxQueue cx.w.id (i / 64 % 4)
        (slotVal cx.g 4) (MxStep.mult t.ck.nextId (multSlot f) (multRowq f) (multNb f) 0 (multNch f) (f.q.getLsbD 1) (multTiles v).1
          (multTiles v).2 v.b v.c 0 none) }
    (fun cx i l _ v => (cx.w.quarter (i / 64 % 4)).boundAt (multSlot f) && decide (multRowq f + multNb f ≤ 4) && recordOk s.overcast v.b
      && recordOk s.overcast v.c && pairOk (recFmt v.b) (recFmt v.c)
      && tilesNamed s cx.w ((List.range (multNch f)).flatMap fun c => chunkTiles (multTiles v).1 (multTiles v).2 c v.b v.c)
      && !issueHolds s cx i && !(cx.w.quarter (i / 64 % 4)).unloaded (multSlot f)
      && (tilesReady s cx.w i l (chunkTiles (multTiles v).1 (multTiles v).2 0 v.b v.c)).isOk) ∧
  OnceAs (.mxprom f) s f
    { sig := { var := f.var == 0, dst := .handle, b := .u, unit := 4 }
      dec := fun _ _ _ _ _ => .ok
      own := fun _ _ l f _ => newHandle s.ck.nextId l f
      act := fun cx i _ _ v t => t.mxQueue cx.w.id (i / 64 % 4) (slotVal cx.g 4)
        (.prom t.ck.nextId (lo32 v.b).toNat (bits f.q 11 6) (bits f.q 5 0)) }
    (fun cx i _ _ v => decide (bits f.q 11 6 ≤ bits f.q 5 0) && decide ((lo32 v.b).toNat < 4)
      && (cx.w.quarter (i / 64 % 4)).boundAt (lo32 v.b).toNat && !issueHolds s cx i
      && !(cx.w.quarter (i / 64 % 4)).unloaded (lo32 v.b).toNat) ∧
  OnceAs (.mxzero f) s f
    { sig := { var := f.var == 0, q := bits f.q 1 0 != 3, dst := .handle, a := .pr, b := .u, unit := 4 }
      dec := fun _ _ _ _ _ => .ok
      own := fun _ _ l f _ => newHandle s.ck.nextId l f
      act := fun cx i _ _ v t =>
        let q := i / 64 % 4
        let e := BitVec.ofNat 8 (bits f.q 11 4)
        let base := if f.a = .zero then none else some v.a
        let t := match base, (t.freePhys cx.w.core q).head? with
          | some b, some p =>
            let x := MxSlot.fresh p (bits f.q 1 0) e b (lo32 v.b)
            t.modMx cx.w.id q fun m => { m with since := none, slots := upd m.slots (bits f.q 3 2) (fun u => u.or (some x)) }
          | _, _ => t
        t.mxQueue cx.w.id q (slotVal cx.g 4) (.zero t.ck.nextId (bits f.q 3 2) (bits f.q 1 0) e base (lo32 v.b)) }
    (fun cx i _ _ v => !(cx.w.quarter (i / 64 % 4)).unloaded (bits f.q 3 2) && (f.a == .zero || (
      v.b.toNat % 4 == 0 && v.a.toNat % 4 == 0
      && ((cx.w.quarter (i / 64 % 4)).boundAt (bits f.q 3 2) || ((cx.w.quarter (i / 64 % 4)).slot? (bits f.q 3 2)).isSome
        || !(s.freePhys cx.w.core (i / 64 % 4)).isEmpty))))

/-- R179, R362 to R364: a lane that may sign an MXMUL, within the limits of R363, gets an empty handle of the operation, its operand registers are
undefined until that handle is read, and its signature is recorded; the last one queues the operation.
Model's own choices in it: log entries 3 and 71. -/
def Obligations.CollectedMultiplyIsSigned : Prop := ∀ (s : State) (f : Fields),
  RunsAs (.mxmul f) s f
    { sig := { var := f.var == 0, q := bits f.q 2 0 == 0, hold := true, dst := .handle, a := .vrange 1, b := .pr, unit := 4 }
      bad := mulBad s
      body := fun cx i l f v => if l.helper then .done l [] else
        let cv := cx.w.cv.getD (mulCv f) {}
        let op := (cv.pend.map (·.op)).getD s.ck.nextId
        let l := newHandle op l f
        let l := if ((cx.w.quarter (i / 64 % 4)).holdAt (mulSlot f)).isSome then l
          else l.holdRegs op (aReg f) (blockRegs (recFmt v.b) (mulNb f))
        .done l [.act fun t => t.signCv cx.w.id i (mulCv f) (bits cx.g.pc 33 2)
          { brec := v.b, slot := mulSlot f, rowq := mulRowq f, nb := mulNb f, areg := aReg f, hold := f.h, op, tval := slotVal cx.g 4, signers := [] }] }
    (fun cx i l f v => l.helper || (
      let mq := cx.w.quarter (i / 64 % 4)
      let cv := cx.w.cv.getD (mulCv f) {}
      !v.poison && decide (aReg f + blockRegs (recFmt v.b) (mulNb f) ≤ 32)
        && !mustNotSign cv i (bits cx.g.pc 33 2)
        && (match cv.pend with
            | some p => p.slot == mulSlot f && p.rowq == mulRowq f && p.nb == mulNb f && p.areg == aReg f
            | none => true)
        && !mq.unloaded (mulSlot f)
        && ((mq.holdAt (mulSlot f)).isSome
          || (l.pulled ((List.range (blockRegs (recFmt v.b) (mulNb f))).map fun k => l.entry (aReg f + k))).isNone)))

/-- R178, R369 to R372: MXRD marks its destination empty and queues the read of its accumulator; MXSTAT writes the status of
the slot as it stands; MXFENCE goes on once no vector register is pending; CVSET declares the live lanes of its mask; CVQRY
writes a word of the convergence register.
R210, R211, R358, R364, R366: an idle array takes its next step, and an MXMULT's next chunk; a weight load completes
with the weights in the cells; a collected operation completes with its spills and its status, at the scope of its slot; a step
whose residue check fails twice stays pending and its core is quarantined (R414, R456); a
need for a slot that has waited 10 µs, none having come free, asks the lowest class below it to save.
Model's own choices in it: log entries 37, 38, 41, 79 and 104. -/
def Obligations.MatrixQueriesAndArraySteps : Prop :=
  (∀ (s : State) (f : Fields),
  RunsAs (.mxrd f) s f
    { sig := { var := f.var == 0, q := bits f.q 11 1 == 0, dst := .dst false, a := .src false, b := .u, c := .src false, unit := 4 }
      bad := fun cx i l f => (limitOf cx i l f.b).any fun k => !slotNamed cx.w i k
      body := fun cx i l f v => if l.helper then write cx l f.dst false 0 false 0 else
        let m := markDest l (destOf cx.w i l f.dst false)
        .done m.1 (m.2 ++ [.act fun t => t.mxQueue cx.w.id (i / 64 % 4) 0 (.rd t.ck.nextId (lo32 v.b).toNat i
          (destOf cx.w i l f.dst false) ((lo32 v.a).toNat % 64) ((lo32 v.c).toNat % 64) (f.q.getLsbD 0))]) }
    (fun cx i l _ v => l.helper || (!v.poison && !(cx.w.quarter (i / 64 % 4)).unloaded (lo32 v.b).toNat)) ∧
  RunsAs (.mxstat f) s f
    { sig := { var := f.var == 0, q := f.q == 0, dst := .dst true, b := .u, unit := 4 }
      body := fun cx i l f v => write cx l f.dst true (match (cx.w.quarter (i / 64 % 4)).slot? (lo32 v.b).toNat with
        | some t => t.status
        | none => 0) false 0 }
    (fun cx i _ _ v => !v.poison && !(cx.w.quarter (i / 64 % 4)).unloaded (lo32 v.b).toNat) ∧
  RunsAs (.mxfence f) s f
    { sig := { var := f.var == 0, q := f.q == 0, unit := 4 }, body := fun _ _ l _ _ => .done { l with unfenced := 0 } [] }
    (fun _ _ l _ _ => l.v.all (·.full)) ∧
  OnceAs (.cvset f) s f
    { sig := { var := decide (f.var.toNat < 8), q := f.q == 0, c := .mask, unit := 4 }
      dec := fun _ _ _ _ _ => .ok
      act := fun cx i _ _ v t => t.modWg cx.w.id fun w =>
        let d := declared cx.w (cx.w.grpFirst (cx.w.grpOf i)) v.c
        if (w.cv.getD f.var.toNat {}).signed ≠ 0 then w
        else { w with cv := w.cv.set f.var.toNat (if d = 0 then {}
          else { decl := d, signed := 0, word2 := BitVec.ofNat 64 (2 ^ 63 + cx.w.grpFirst (cx.w.grpOf i)) }) } }
    (fun cx i _ _ v =>
      let r := cx.w.cv.getD f.var.toNat {}
      let base := cx.w.grpFirst (cx.w.grpOf i)
      !maskTooWide (cx.w.grpCount (cx.w.grpOf i)) v.c
        && (r.signed == 0 || (bits r.word2 9 0 == base && r.decl == declared cx.w base v.c))) ∧
  RunsAs (.cvqry f) s f
    { sig := { var := decide (f.var.toNat < 8), q := f.q == 0, dst := .dst true, b := .u, unit := 4 }
      bad := fun cx i l f => (limitOf cx i l f.b).any (2 < ·)
      body := fun cx _ l f v =>
        let r := cx.w.cv.getD f.var.toNat {}
        write cx l f.dst true (if lo32 v.b = 0 then r.decl else if lo32 v.b = 1 then r.signed else r.word2) false 0 }
    (fun _ _ _ _ v => !v.poison)) ∧
  (∀ (s : State) (core q : Nat),
  (∀ w x mult, (s.bindSlots core q).arrayBusy core q = false → ((s.bindSlots core q).core core).quarantined = false → (s.bindSlots core q).arrayNext core q = some (w, x) → x.step.isMult = mult →
    exec (if mult then Instr.mxmultChunk core q else Instr.arrayStep core q) s = .next ((s.bindSlots core q).modMx w.id q fun m =>
      { m with steps := m.steps.filter (·.seq != x.seq), cell := some x })) ∧
  (∀ w x, ((s.onArray core).find? fun w => (w.quarter q).cell.isSome) = some w → (w.quarter q).cell = some x →
    (∀ n, (s.core core).mismatch.getD 4 0 = n + 2 → exec (.arrayStepComplete core q) s = .next (s.blame w.id
      ((((s.modCore core fun c => { c with mismatch := c.mismatch.set 4 0, retries := c.retries + 1 }).modMx w.id q fun m =>
        { m with cell := none, steps := x :: m.steps }).note (.residue core 4 false)).quarantine core))) ∧
    ((s.core core).mismatch.getD 4 0 = 0 →
    (∀ op d s1 r, x.step = .ldw op d → (s.modMx w.id q fun m => { m with inForce := some d }).ownWeights w q d true = (s1, .ok r) →
      exec (.arrayStepComplete core q) s = .next (s.blame w.id ((s1.completeOp w.id op 0 none 0).cellDone w.id q))) ∧
    (∀ op k rowq nb areg hold brec latched elems t d s1 ws reload s2 n ovf e,
      x.step = .mul op k rowq nb areg hold brec latched elems → (w.quarter q).slot? k = some t → (w.quarter q).inForce = some d →
      s.ownWeights w q d false = (s1, .ok (ws, reload)) →
      let es := s1.blockOf w t op areg nb (recFmt brec) latched elems
      s1.applyOp w q k t d brec (16 * rowq) nb es ws reload (holdAfter hold areg nb (recFmt brec) es) = some (s2, n, ovf, e) →
      exec (.arrayStepComplete core q) s = .next (s.blame w.id ((s2.tickFree.completeOp w.id op
        (BitVec.ofNat 32 (min n 255 + if ovf then 2 ^ 31 else 0)) e (t.scope + 3)).cellDone w.id q))))) ∧
  (∀ u w, let t := s.bindSlots core q
    t.freePhys core q = [] → t.onArray core = [u, w] → (u.quarter q).since = some 0 → 10000 ≤ t.ck.now → (w.quarter q).since = none →
    w.cls < u.cls → w.ended = false → (w.quarter q).slots.any (fun t => t.any (·.phys != 4)) = true →
    exec (.arraySlotPreemption core q) s = .next (t.modWg w.id (·.ask .cls))))

/-- R225, R227: a chunk of finite exact sums is added to the accumulators of its row, each sum rounded once to the slot's
grid, when no accumulator leaves its range; the accumulators of other rows stay.
R178, R369 to R372, R210, R211, R358, R364, R366: the instructions that read an array run, and an array's steps begin and
complete, a chunk at a time.
Model's own choices in it: log entries 37, 38, 41 and 104. -/
def Obligations.ChunkIsAddedToTheRow : Prop :=
  (∀ (t : MxSlot) (fa fw i : Nat) (ra ws : List MxElem),
  let c := fun j => chunkTerm t.ebase.toInt (chunkSum fa fw ra (ws.filter (·.k == j))).1
  (∀ j < 64, (t.at i j).tag = 0 ∧ (c j).1 = 0 ∧ fitsFix ((t.at i j).fix.toInt + (c j).2) = true) →
  (∀ j < 64, ((t.applyRow fa fw i ra ws).1.at i j).fix = BitVec.ofInt 32 ((t.at i j).fix.toInt + (c j).2) ∧
    ((t.applyRow fa fw i ra ws).1.at i j).tag = 0) ∧
  (∀ k j, k ≠ i → (t.applyRow fa fw i ra ws).1.at k j = t.at k j) ∧ (t.applyRow fa fw i ra ws).2 = []) ∧
  (∀ (s : State) (f : Fields),
  RunsAs (.mxrd f) s f
    { sig := { var := f.var == 0, q := bits f.q 11 1 == 0, dst := .dst false, a := .src false, b := .u, c := .src false, unit := 4 }
      bad := fun cx i l f => (limitOf cx i l f.b).any fun k => !slotNamed cx.w i k
      body := fun cx i l f v => if l.helper then write cx l f.dst false 0 false 0 else
        let m := markDest l (destOf cx.w i l f.dst false)
        .done m.1 (m.2 ++ [.act fun t => t.mxQueue cx.w.id (i / 64 % 4) 0 (.rd t.ck.nextId (lo32 v.b).toNat i
          (destOf cx.w i l f.dst false) ((lo32 v.a).toNat % 64) ((lo32 v.c).toNat % 64) (f.q.getLsbD 0))]) }
    (fun cx i l _ v => l.helper || (!v.poison && !(cx.w.quarter (i / 64 % 4)).unloaded (lo32 v.b).toNat)) ∧
  RunsAs (.mxstat f) s f
    { sig := { var := f.var == 0, q := f.q == 0, dst := .dst true, b := .u, unit := 4 }
      body := fun cx i l f v => write cx l f.dst true (match (cx.w.quarter (i / 64 % 4)).slot? (lo32 v.b).toNat with
        | some t => t.status
        | none => 0) false 0 }
    (fun cx i _ _ v => !v.poison && !(cx.w.quarter (i / 64 % 4)).unloaded (lo32 v.b).toNat) ∧
  RunsAs (.mxfence f) s f
    { sig := { var := f.var == 0, q := f.q == 0, unit := 4 }, body := fun _ _ l _ _ => .done { l with unfenced := 0 } [] }
    (fun _ _ l _ _ => l.v.all (·.full)) ∧
  OnceAs (.cvset f) s f
    { sig := { var := decide (f.var.toNat < 8), q := f.q == 0, c := .mask, unit := 4 }
      dec := fun _ _ _ _ _ => .ok
      act := fun cx i _ _ v t => t.modWg cx.w.id fun w =>
        let d := declared cx.w (cx.w.grpFirst (cx.w.grpOf i)) v.c
        if (w.cv.getD f.var.toNat {}).signed ≠ 0 then w
        else { w with cv := w.cv.set f.var.toNat (if d = 0 then {}
          else { decl := d, signed := 0, word2 := BitVec.ofNat 64 (2 ^ 63 + cx.w.grpFirst (cx.w.grpOf i)) }) } }
    (fun cx i _ _ v =>
      let r := cx.w.cv.getD f.var.toNat {}
      let base := cx.w.grpFirst (cx.w.grpOf i)
      !maskTooWide (cx.w.grpCount (cx.w.grpOf i)) v.c
        && (r.signed == 0 || (bits r.word2 9 0 == base && r.decl == declared cx.w base v.c))) ∧
  RunsAs (.cvqry f) s f
    { sig := { var := decide (f.var.toNat < 8), q := f.q == 0, dst := .dst true, b := .u, unit := 4 }
      bad := fun cx i l f => (limitOf cx i l f.b).any (2 < ·)
      body := fun cx _ l f v =>
        let r := cx.w.cv.getD f.var.toNat {}
        write cx l f.dst true (if lo32 v.b = 0 then r.decl else if lo32 v.b = 1 then r.signed else r.word2) false 0 }
    (fun _ _ _ _ v => !v.poison)) ∧
  (∀ (s : State) (core q : Nat),
  (∀ w x mult, (s.bindSlots core q).arrayBusy core q = false → ((s.bindSlots core q).core core).quarantined = false → (s.bindSlots core q).arrayNext core q = some (w, x) → x.step.isMult = mult →
    exec (if mult then Instr.mxmultChunk core q else Instr.arrayStep core q) s = .next ((s.bindSlots core q).modMx w.id q fun m =>
      { m with steps := m.steps.filter (·.seq != x.seq), cell := some x })) ∧
  (∀ w x, ((s.onArray core).find? fun w => (w.quarter q).cell.isSome) = some w → (w.quarter q).cell = some x →
    (∀ n, (s.core core).mismatch.getD 4 0 = n + 2 → exec (.arrayStepComplete core q) s = .next (s.blame w.id
      ((((s.modCore core fun c => { c with mismatch := c.mismatch.set 4 0, retries := c.retries + 1 }).modMx w.id q fun m =>
        { m with cell := none, steps := x :: m.steps }).note (.residue core 4 false)).quarantine core))) ∧
    ((s.core core).mismatch.getD 4 0 = 0 →
    (∀ op d s1 r, x.step = .ldw op d → (s.modMx w.id q fun m => { m with inForce := some d }).ownWeights w q d true = (s1, .ok r) →
      exec (.arrayStepComplete core q) s = .next (s.blame w.id ((s1.completeOp w.id op 0 none 0).cellDone w.id q))) ∧
    (∀ op k rowq nb areg hold brec latched elems t d s1 ws reload s2 n ovf e,
      x.step = .mul op k rowq nb areg hold brec latched elems → (w.quarter q).slot? k = some t → (w.quarter q).inForce = some d →
      s.ownWeights w q d false = (s1, .ok (ws, reload)) →
      let es := s1.blockOf w t op areg nb (recFmt brec) latched elems
      s1.applyOp w q k t d brec (16 * rowq) nb es ws reload (holdAfter hold areg nb (recFmt brec) es) = some (s2, n, ovf, e) →
      exec (.arrayStepComplete core q) s = .next (s.blame w.id ((s2.tickFree.completeOp w.id op
        (BitVec.ofNat 32 (min n 255 + if ovf then 2 ^ 31 else 0)) e (t.scope + 3)).cellDone w.id q))))) ∧
  (∀ u w, let t := s.bindSlots core q
    t.freePhys core q = [] → t.onArray core = [u, w] → (u.quarter q).since = some 0 → 10000 ≤ t.ck.now → (w.quarter q).since = none →
    w.cls < u.cls → w.ended = false → (w.quarter q).slots.any (fun t => t.any (·.phys != 4)) = true →
    exec (.arraySlotPreemption core q) s = .next (t.modWg w.id (·.ask .cls))))

/-- R84 to R87, Table 4-5: a key that the table holds is combined with its entry, status 0; else it takes a free way of its
set, status 1; in a full set EVICT emits the oldest entry and takes its way, status 2, BYPASS emits the key's own record and
leaves the table as it is, status 3, and TRAP cannot place it. -/
def Obligations.DriftKeyIsPlaced : Prop := ∀ (t : DTable) (k : KeyVal),
  (∀ e, t.find k.key = some e → ∃ u, t.applyKey k = some (u, 0, []) ∧
    u.find k.key = some { e with val := combineVal t.kind e.val k.val, poison := e.poison || k.poison }) ∧
  (∀ w, t.find k.key = none → t.freeWay (t.setOf k.key) = some w → ∃ u, t.applyKey k = some (u, 1, []) ∧
    ((u.find k.key).map fun e => (e.way, e.val, e.poison)) = some (w, k.val, k.poison)) ∧
  (t.find k.key = none → t.freeWay (t.setOf k.key) = none →
    (∀ old, t.pol = 0 → ((t.inSet (t.setOf k.key)).find? (·.age == 0)) = some old → ∃ u, t.applyKey k = some (u, 2, [old.record]) ∧
      ((u.find k.key).map fun e => (e.way, e.val, e.poison)) = some (old.way, k.val, k.poison)) ∧
    (t.pol = 1 → ∃ u, t.applyKey k = some (u, 3, [(k.key, k.val, k.poison)]) ∧ u.entries = t.entries) ∧
    (t.pol = 2 → t.applyKey k = none))

/-- R87 to R92, R375: KACC combines the keys of its lanes and applies them in lane order; the records they emit are reserved
in the table's ring, and the destinations, empty until then, receive the statuses.
R94, R376, R378: KPROBE writes the value and the state word of the lane's key and whether the table holds it; KSTAT
writes a counter, 0 for indices 8 to 15 and for a table that is not configured; KCFG configures its table, empty; KCLEAR
empties it.
Model's own choices in it: log entries 19 and 42. -/
def Obligations.DriftInstructionResults : Prop :=
  (∀ (s : State) (f : Fields) (tb : DTable), s.namedTable f = some tb →
  RunsAs (.kacc f) s f
    { sig := { var := decide (f.var.toNat < 4), q := f.q == 0, dst := .dst false, a := .src tb.wideKey, b := .src (wideKind tb.kind), unit := 4 }
      use := fun _ _ => (true, true, false)
      body := fun cx i l f _ => if l.helper then .done l [] else
        let ls := kaccLanes cx (some tb) f
        let m := markDest l (destOf cx.w i l f.dst false)
        let ds := ls.map fun x => (x.1, destOf cx.w x.1 (cx.w.lane x.1) f.dst false, laneKey tb x.2)
        .done m.1 (m.2 ++ if (ls.getLast?.map (·.1)) == some i then [.act ((kaccPlan s cx.w tb (f.var.toNat % 4) ls).2 ds)] else []) }
    (fun cx _ l f v => l.helper || (!v.pa && (match (kaccPlan s cx.w tb (f.var.toNat % 4) (kaccLanes cx (some tb) f)).1 with | .ok => true | _ => false)))) ∧
  (∀ (s : State) (f : Fields),
  (∀ tb (n : Fin 32), s.namedTable f = some tb → f.dst = .v n → RunsAs (.kprobe f) s f
    { sig := { var := decide (f.var.toNat < 4), q := f.q == 0, dst := .vrun (if pairKind tb.kind then 3 else 2), a := .src tb.wideKey
               c := .pred, unit := 4 }
      use := fun _ _ => (true, false, false)
      body := fun cx _ l f v => match f.dst with
        | .v n => .done (probeWrite cx.free n.val (pairKind tb.kind) f.c (if l.helper then none else tb.find (laneKey tb v)) l) []
        | _ => .done l [] }
    (fun _ _ l f v => l.helper || (!v.poison && (match f.c with | .p k => !l.predBusy k.val | _ => true)))) ∧
  RunsAs (.kstat f) s f
    { sig := { var := decide (f.var.toNat < 4), q := f.q == 0, dst := .dst true, b := .u, unit := 4 }
      bad := fun cx i l f => (limitOf cx i l f.b).any (15 < ·)
      body := fun cx _ l f v => write cx l f.dst true (match cx.w.table (f.var.toNat % 4) with
        | some t => if (lo32 v.b).toNat = 0 then BitVec.ofNat 64 t.entries.length
          else if (lo32 v.b).toNat < 8 then t.counters.getD (lo32 v.b).toNat 0 else 0
        | none => 0) false 0 }
    (fun _ _ _ _ v => !v.poison) ∧
  OnceAs (.kcfg f) s f
    { sig := { var := decide (f.var.toNat < 4), q := f.q == 0, a := .pr, b := .pr, unit := 4 }
      bad := fun _ v => v.pa || (v.pb && bits v.a 31 30 != 2)
      dec := fun _ _ _ _ _ => .ok
      act := fun cx _ _ f v t => t.modWg cx.w.id fun w => { w with drift := w.drift.set (f.var.toNat % 4) (some { cfg := v.a, ring := v.b }) } }
    (fun cx _ _ f v => cfgOk v.a && (bits v.a 31 30 == 2 || (v.b != 0 && v.b.toNat % 64 == 0))
      && decide (requested cx.w (f.var.toNat % 4) { cfg := v.a, ring := v.b } ≤ (s.nodeOf cx.w).launch.drift)) ∧
  (∀ tb, s.namedTable f = some tb → OnceAs (.kclear f) s f
    { sig := { var := decide (f.var.toNat < 4), q := f.q == 0, unit := 4 }
      dec := fun _ _ _ _ _ => .ok
      act := fun cx _ _ f _ t => t.modTable cx.w.id (f.var.toNat % 4) fun t => { t with entries := [] } }))

/-- R94, R377 to R379: KDRAIN takes up to n entries in drain order, delivers their number and begins to write them out;
KFLUSH reserves a record for every entry, empties the table and completes when the ring has passed them; KMERGE begins to
read a block or a ring.
R93, R96, R97, R379: the oldest reservation of the ring's memory is written, then WIDX passes it and what waited for it
completes; a KMERGE ingests its records in batches of at most eight, and completes with their number; a ring's RIDX that
was held is written again.
R142: the issuing core's own copies of the records leave its L1.
Model's own choices in it: log entries 42, 43, 102 and 113. -/
def Obligations.DriftEngineOperations : Prop :=
  (∀ (s : State) (f : Fields) (tb : DTable), s.namedTable f = some tb →
  OnceAs (.kdrain f) s f
    { sig := { var := decide (f.var.toNat < 4), q := f.q &&& 0xC7F == 0 && decide (2 ≤ drainScope f.q) && decide (drainScope f.q ≤ 5)
               dst := .dst false, a := .pr, b := .u, c := .handle, unit := 4 }
      dec := fun _ _ _ _ _ => .ok
      own := fun _ _ l f _ => newHandle s.ck.nextId l { f with dst := f.c }
      out := fun cx l f v => write cx l f.dst false (BitVec.ofNat 64 (min (lo32 v.b).toNat tb.entries.length)) false 0
      act := fun cx _ _ f v t =>
        let es := tb.ordered.take (min (lo32 v.b).toNat tb.entries.length)
        let t := t.modTable cx.w.id (f.var.toNat % 4) fun x => (es.foldl DTable.drop x).bump 6 (min (lo32 v.b).toNat tb.entries.length)
        (t.startOp t.ck.nextId cx.w (.kdrain v.a (es.map fun e => (e.key, e.val, e.poison)) (drainScope f.q))).addDrained
          t.ck.nextId (t.space cx.w) v.a (recBytes (es.map fun e => (e.key, e.val, e.poison))) }
    (fun cx i l f v => v.a.toNat % 16 == 0 && !issueHolds s cx i && (match f.c with | .h n => (l.handle n.val).full | _ => true)) ∧
  (tb.entries = [] → OnceAs (.kflush f) s f
    { sig := { var := decide (f.var.toNat < 4), q := f.q == 0, dst := .handle, limit := tb.pol != 2, unit := 4 }
      dec := fun _ _ _ _ _ => .ok
      own := fun _ _ l f _ => newHandle s.ck.nextId l f
      act := fun cx _ _ f _ t =>
        let t1 := t.startOp t.ck.nextId cx.w (.kflush (f.var.toNat % 4))
        (t1.setTable cx.w.id (f.var.toNat % 4) (some ((t1.waited { tb with entries := [] }).bump 6 0))).completeOp cx.w.id t.ck.nextId 0 none 4 }
    (fun cx i _ _ _ => !issueHolds s cx i)) ∧
  OnceAs (.kmergeBlock f) s f
    { sig := { var := decide (f.var.toNat < 4), q := f.q == 0, dst := .handle, a := .pr, b := .u, unit := 4 }
      dec := fun _ _ _ _ _ => .ok
      own := fun _ _ l f _ => newHandle s.ck.nextId l f
      act := fun cx _ _ f v t =>
        let t1 := t.startOp t.ck.nextId cx.w (.kmerge (f.var.toNat % 4) false v.a (some (lo32 v.b).toNat) 0 0 false)
        if lo32 v.b = 0 then t1.completeOp cx.w.id t.ck.nextId 0 none 4 else t1 }
    (fun cx i _ _ v => v.a.toNat % 16 == 0 && !issueHolds s cx i) ∧
  OnceAs (.kmergeRing f) s f
    { sig := { var := decide (4 ≤ f.var.toNat) && decide (f.var.toNat < 8), q := f.q == 0, dst := .handle, a := .pr, unit := 4 }
      dec := fun _ _ _ _ _ => .ok
      own := fun _ _ l f _ => newHandle s.ck.nextId l f
      act := fun cx _ _ f v t => t.startOp t.ck.nextId cx.w (.kmerge (f.var.toNat % 4) true v.a none 0 0 false) }
    (fun cx i _ _ v => v.a != 0 && v.a.toNat % 64 == 0 && !issueHolds s cx i)) ∧
  (∀ (s : State),
  (∀ asid ring x y, (s.ex.ringWrites.find? fun x => x.asid.toNat == asid && x.ring.toNat == ring) = some y →
    (s.ex.ringWrites.find? fun x => x.wloc == y.wloc) = some x →
    (x.wloc :: x.locs).any s.ms.migrating = false →
    exec (.driftRingWrite asid ring) s = .next (
      let s1 := s.blame x.wg (((s.putRecords x.core (x.recs.zip x.locs)).evictSector x.core (sectorOf x.wloc)).homeStore x.wloc 8
        (x.first + x.recs.length) false)
      let s2 := { s1 with ex := { s1.ex with ringWrites := s1.ex.ringWrites.erase x } }
      let s3 := x.dests.foldl (fun s d => s.fillAcq x.wg d) s2
      if x.op = 0 then s3 else s3.completeOp x.wg x.op (BitVec.ofNat 32 x.count) none 4)) ∧
  (∀ op o n addr left done start w t, s.ex.ops.find? (·.id == op) = some o → o.kind = .kmerge n false addr (some left) done start false →
    s.wg? o.wg = some w → w.table n = some t →
    (left ≤ done → s.ex.ringWrites.any (·.merge == o.id) = false →
      exec (.kmergeBatch op) s = .next (s.blame o.wg (s.completeOp o.wg o.id (BitVec.ofNat 32 done) none 4))) ∧
    (∀ s1 rs, done < left → s.readRecords o.core (State.mergeBatch.spaceOf s o)
        ((List.range (min 8 (left - done))).map fun i => addr + BitVec.ofNat 64 ((start + done + i) % 2 ^ 64 * 16)) = (s1, .ok rs) →
      exec (.kmergeBatch op) s = .next (s.blame o.wg (s1.mergeBatch o t n false addr left done start rs)))) ∧
  (∀ op o n addr left done start, s.ex.ops.find? (·.id == op) = some o → o.kind = .kmerge n true addr (some left) done start true →
    exec (.kmergeBatch op) s = .next (s.blame o.wg (s.writeRidx o (State.mergeBatch.spaceOf s o) n addr left done start))))

/-- R233, R234, R382, R383: each push instruction appends its object to its slot, which becomes OPEN, or VALID with one
root, when the slot admits it.
R236, R241, R242, R384 to R387: ITRNEXT marks the destinations of its lanes empty and queues one pull for the gang;
ITRENOUGH, ITRSAVE and ITRLOAD take their place in the slot's order, the last two with a handle.
Model's own choices in it: log entry 45. -/
def Obligations.IteratorInstructionResults : Prop :=
  (∀ (s : State) (f : Fields),
  let push := fun (ins : Instr) (q : Bool) (a b c : SRole) (mk : Vals → ItrObj) =>
    OnceAs ins s f
      { sig := { var := f.var &&& 12 == 0, q := q, a := a, b := b, c := c, unit := 4 }
        dec := fun _ _ _ _ _ => .ok
        act := fun cx _ _ f v t => t.modItr cx.w.id (bits f.q 11 9) fun x => (x.push f.var (mk v)).getD x }
      (fun cx i _ f v =>
        let x := cx.w.itrSlot (bits f.q 11 9)
        (mk v).ok && x.queue.isEmpty && !x.unbound && (x.push f.var (mk v)).isSome
          && (x.bound || decide (s.itrHeld cx.w.core < 32)) && !issueHolds s cx i)
  push (.itrsrcRange f) (f.q &&& 0x070 == 0 && f.q &&& 0x00F == 0) .up .up .up
    (fun v => ⟨objHead (if bits f.q 8 7 = 0 then 0 else 1) false 0 0, v.a, v.b, v.c⟩) ∧
  push (.itrsrcList f) (f.q &&& 0x00F == 0) .up .up .blank (fun v => ⟨objHead 2 (f.q.getLsbD 4) 0 (bits f.q 6 5), v.a, v.b, 0⟩) ∧
  push (.itrsrcBitmap f) (f.q &&& 0x07F == 0) .up .up .blank (fun v => ⟨objHead 3 false 0 0, v.a, v.b, 0⟩) ∧
  push (.itrmapAffine f) (f.q &&& 0x08F == 0) .up .up .blank (fun v => ⟨objHead 4 (f.q.getLsbD 4) 0 (bits f.q 6 5), v.a, v.b, 0⟩) ∧
  push (.itrmapGather f) (f.q &&& 0x08F == 0) .up .up .blank (fun v => ⟨objHead 5 (f.q.getLsbD 4) 0 (bits f.q 6 5), v.a, v.b, 0⟩) ∧
  push (.itrfilt f) (f.q &&& 0x007 == 0) .up .up .up
    (fun v => ⟨objHead 6 (f.q.getLsbD 3) (bits f.q 8 6) (bits f.q 5 4), v.a, v.b, v.c⟩) ∧
  push (.itrzip f) (f.q &&& 0x1FF == 0) .blank .blank .blank (fun _ => ⟨objHead 8 false 0 0, 0, 0, 0⟩) ∧
  push (.itrchain f) (f.q &&& 0x1FF == 0) .blank .blank .blank (fun _ => ⟨objHead 9 false 0 0, 0, 0, 0⟩) ∧
  push (.itrflat f) (f.q &&& 0x09F == 0) .up .blank .blank (fun v => ⟨objHead 7 (f.q.getLsbD 8) 0 (bits f.q 6 5), v.a, 0, 0⟩)) ∧
  (∀ (s : State) (f : Fields),
  RunsAs (.itrnext f) s f
    { sig := sigItrnext f
      bad := slotBad
      body := fun cx i l f v =>
        let part := itrnextLanes cx f
        let recv := part.filter fun j => (cx.w.lane j).live
        let wd := (cx.w.itrSlot (lo32 v.b).toNat).width
        if recv.isEmpty then .done l []
        else .done (l.awaitPull (pullLane cx f wd i) (bits f.q 3 1)) (if recv.head? = some i then
          [.act fun t => t.modItr cx.w.id (lo32 v.b).toNat fun x => x.enqueue (.pull (recv.map (pullLane cx f wd))
            ((part.filter fun j => !(cx.w.lane j).live).map (pullLane cx f wd)) (bits f.q 3 1) f.dst.toByte
            (BitVec.ofNat 8 (bits f.q 11 4)))] else []) }
    (fun cx _ l f v => !v.poison && (itrnextDec cx l f v).isOk) ∧
  OnceAs (.itrenough f) s f
    { sig := { var := f.var == 0, q := f.q == 0, b := .u, unit := 4 }
      dec := fun _ _ _ _ _ => .ok
      act := fun cx _ _ _ v t => t.modItr cx.w.id (lo32 v.b).toNat fun x => x.enqueue .enough }
    (fun _ _ _ _ v => decide ((lo32 v.b).toNat ≤ 7)) ∧
  OnceAs (.itrsave f) s f
    { sig := { var := f.var == 0, q := f.q == 0, dst := .handle, a := .pr, b := .u, unit := 4 }
      dec := fun _ _ _ _ _ => .ok
      own := fun _ _ l f _ => newHandle s.ck.nextId l f
      act := fun cx _ _ _ v t => (t.startOp t.ck.nextId cx.w (.itr (lo32 v.b).toNat)).modItr cx.w.id (lo32 v.b).toNat fun x =>
        x.enqueue (.save v.a t.ck.nextId) }
    (fun cx i _ _ v => decide ((lo32 v.b).toNat ≤ 7) && v.a.toNat % 16 == 0 && !issueHolds s cx i) ∧
  OnceAs (.itrload f) s f
    { sig := { var := f.var == 0, q := f.q == 0, dst := .handle, a := .pr, b := .u, unit := 4 }
      dec := fun _ _ _ _ _ => .ok
      own := fun _ _ l f _ => newHandle s.ck.nextId l f
      act := fun cx _ _ _ v t =>
        (t.startOp t.ck.nextId cx.w (.itr (lo32 v.b).toNat)).modItr cx.w.id (lo32 v.b).toNat fun x =>
          ({ x with bound := x.bound || (loadOpens t cx.w v.a).getD false }).enqueue
            (.load v.a t.ck.nextId (slotVal cx.g 4) ((loadOpens t cx.w v.a).getD false)) }
    (fun cx i _ _ v => decide ((lo32 v.b).toNat ≤ 7) && v.a.toNat % 16 == 0 && !issueHolds s cx i
      && (loadOpens s cx.w v.a).any fun opens => !opens || (cx.w.itrSlot (lo32 v.b).toNat).bound || decide (s.itrHeld cx.w.core < 32)))

/-- R237 to R239: a pull that commits fills its lanes' destinations and predicates in lane order, counts what it delivered
and ends the stream at its end; a failed one ends the stream in error and leaves a trap for the first reader in every
receiving lane.
Model's own choices in it: log entry 47. -/
def Obligations.IteratorPullsCommit : Prop := ∀ (s : State) (wg slot core : Nat) (w : Wg) (recv help : List PullLane) (pred : Nat) (dst d2 : BitVec 8)
    (rest : List ItrOp),
  s.wg? wg = some w → w.id = wg → w.place = .core core → (w.itrSlot slot).unbound = false → (w.itrSlot slot).state = 2 →
  (w.itrSlot slot).queue = .pull recv help pred dst d2 :: rest →
  (∀ t es os ended, pullLanes core (s.space w) (w.itrSlot slot).bnd ((w.itrSlot slot).objs.length - 1) recv.length true none s (w.itrSlot slot).objs
      = (t, .ok es os ended) →
    exec (.iteratorPullCommit wg slot) s = .next (((t.fillPull wg pred recv es).fillPull wg pred help []).modItr wg slot fun x =>
      let x := { x with objs := os, deliv := x.deliv + BitVec.ofNat 64 es.length }
      (if ended then x.finish false else x).advance)) ∧
  (∀ t c tv, pullLanes core (s.space w) (w.itrSlot slot).bnd ((w.itrSlot slot).objs.length - 1) recv.length true none s (w.itrSlot slot).objs
      = (t, .fail c tv) →
    exec (.iteratorPullCommit wg slot) s = .next ((recv.foldl (fun s p => s.modWg wg (·.modLane p.lane fun l => l.markPull pred p c tv))
      ((t.fillPull wg pred recv []).fillPull wg pred help [])).modItr wg slot fun x => (x.finish true).advance))

/-- R235: the elements of the sources and of the affine map: RANGE delivers start + position × step until its end, LIST the
element it reads at its position, AFFINE the scaled element of its child; each moves its cursor by one.
R233, R234, R236, R241, R242, R382 to R387: the instructions that build such a stream, pull from it, end it, save it and load
it take their effect.
Model's own choices in it: log entry 45. -/
def Obligations.IteratorElementRules : Prop :=
  (∀ (core n i : Nat) (sp : Space) (c : Cursor),
  ((c.obj i).kind = 1 → nextElem core sp (n + 1) c i = match rangeAt (c.obj i) with
    | some v => (c.setObj i ((c.obj i).setPos ((c.obj i).pos + 1)), .one v false)
    | none => (c, .ended)) ∧
  ((c.obj i).kind = 1 → (c.obj i).pos < 2 ^ 32 - 1 → 0 < (c.obj i).w3.toInt →
    (c.obj i).w1.toInt + (c.obj i).pos * (c.obj i).w3.toInt < (c.obj i).w2.toInt →
    rangeAt (c.obj i) = some ((c.obj i).w1 + BitVec.ofNat 64 (c.obj i).pos * (c.obj i).w3)) ∧
  ((c.obj i).kind = 2 → (c.obj i).w2.toNat ≤ (c.obj i).pos → nextElem core sp (n + 1) c i = (c, .ended)) ∧
  (∀ d v p, (c.obj i).kind = 2 → (c.obj i).pos < (c.obj i).w2.toNat →
    c.read core sp ((c.obj i).w1 + BitVec.ofNat 64 ((c.obj i).pos * 2 ^ (c.obj i).lw)) (c.obj i).lw (c.obj i).fa false = (d, .one v p) →
    nextElem core sp (n + 1) c i = (d.setObj i ((c.obj i).setPos ((c.obj i).pos + 1)), .one v p)) ∧
  (∀ d e p, (c.obj i).kind = 4 → nextElem core sp n c (i - 1) = (d, .one e p) →
    nextElem core sp (n + 1) c i = (d, .one ((c.obj i).w1 * e + (c.obj i).w2) p))) ∧
  (∀ (s : State) (f : Fields),
  let push := fun (ins : Instr) (q : Bool) (a b c : SRole) (mk : Vals → ItrObj) =>
    OnceAs ins s f
      { sig := { var := f.var &&& 12 == 0, q := q, a := a, b := b, c := c, unit := 4 }
        dec := fun _ _ _ _ _ => .ok
        act := fun cx _ _ f v t => t.modItr cx.w.id (bits f.q 11 9) fun x => (x.push f.var (mk v)).getD x }
      (fun cx i _ f v =>
        let x := cx.w.itrSlot (bits f.q 11 9)
        (mk v).ok && x.queue.isEmpty && !x.unbound && (x.push f.var (mk v)).isSome
          && (x.bound || decide (s.itrHeld cx.w.core < 32)) && !issueHolds s cx i)
  push (.itrsrcRange f) (f.q &&& 0x070 == 0 && f.q &&& 0x00F == 0) .up .up .up
    (fun v => ⟨objHead (if bits f.q 8 7 = 0 then 0 else 1) false 0 0, v.a, v.b, v.c⟩) ∧
  push (.itrsrcList f) (f.q &&& 0x00F == 0) .up .up .blank (fun v => ⟨objHead 2 (f.q.getLsbD 4) 0 (bits f.q 6 5), v.a, v.b, 0⟩) ∧
  push (.itrsrcBitmap f) (f.q &&& 0x07F == 0) .up .up .blank (fun v => ⟨objHead 3 false 0 0, v.a, v.b, 0⟩) ∧
  push (.itrmapAffine f) (f.q &&& 0x08F == 0) .up .up .blank (fun v => ⟨objHead 4 (f.q.getLsbD 4) 0 (bits f.q 6 5), v.a, v.b, 0⟩) ∧
  push (.itrmapGather f) (f.q &&& 0x08F == 0) .up .up .blank (fun v => ⟨objHead 5 (f.q.getLsbD 4) 0 (bits f.q 6 5), v.a, v.b, 0⟩) ∧
  push (.itrfilt f) (f.q &&& 0x007 == 0) .up .up .up
    (fun v => ⟨objHead 6 (f.q.getLsbD 3) (bits f.q 8 6) (bits f.q 5 4), v.a, v.b, v.c⟩) ∧
  push (.itrzip f) (f.q &&& 0x1FF == 0) .blank .blank .blank (fun _ => ⟨objHead 8 false 0 0, 0, 0, 0⟩) ∧
  push (.itrchain f) (f.q &&& 0x1FF == 0) .blank .blank .blank (fun _ => ⟨objHead 9 false 0 0, 0, 0, 0⟩) ∧
  push (.itrflat f) (f.q &&& 0x09F == 0) .up .blank .blank (fun v => ⟨objHead 7 (f.q.getLsbD 8) 0 (bits f.q 6 5), v.a, 0, 0⟩)) ∧
  (∀ (s : State) (f : Fields),
  RunsAs (.itrnext f) s f
    { sig := sigItrnext f
      bad := slotBad
      body := fun cx i l f v =>
        let part := itrnextLanes cx f
        let recv := part.filter fun j => (cx.w.lane j).live
        let wd := (cx.w.itrSlot (lo32 v.b).toNat).width
        if recv.isEmpty then .done l []
        else .done (l.awaitPull (pullLane cx f wd i) (bits f.q 3 1)) (if recv.head? = some i then
          [.act fun t => t.modItr cx.w.id (lo32 v.b).toNat fun x => x.enqueue (.pull (recv.map (pullLane cx f wd))
            ((part.filter fun j => !(cx.w.lane j).live).map (pullLane cx f wd)) (bits f.q 3 1) f.dst.toByte
            (BitVec.ofNat 8 (bits f.q 11 4)))] else []) }
    (fun cx _ l f v => !v.poison && (itrnextDec cx l f v).isOk) ∧
  OnceAs (.itrenough f) s f
    { sig := { var := f.var == 0, q := f.q == 0, b := .u, unit := 4 }
      dec := fun _ _ _ _ _ => .ok
      act := fun cx _ _ _ v t => t.modItr cx.w.id (lo32 v.b).toNat fun x => x.enqueue .enough }
    (fun _ _ _ _ v => decide ((lo32 v.b).toNat ≤ 7)) ∧
  OnceAs (.itrsave f) s f
    { sig := { var := f.var == 0, q := f.q == 0, dst := .handle, a := .pr, b := .u, unit := 4 }
      dec := fun _ _ _ _ _ => .ok
      own := fun _ _ l f _ => newHandle s.ck.nextId l f
      act := fun cx _ _ _ v t => (t.startOp t.ck.nextId cx.w (.itr (lo32 v.b).toNat)).modItr cx.w.id (lo32 v.b).toNat fun x =>
        x.enqueue (.save v.a t.ck.nextId) }
    (fun cx i _ _ v => decide ((lo32 v.b).toNat ≤ 7) && v.a.toNat % 16 == 0 && !issueHolds s cx i) ∧
  OnceAs (.itrload f) s f
    { sig := { var := f.var == 0, q := f.q == 0, dst := .handle, a := .pr, b := .u, unit := 4 }
      dec := fun _ _ _ _ _ => .ok
      own := fun _ _ l f _ => newHandle s.ck.nextId l f
      act := fun cx _ _ _ v t =>
        (t.startOp t.ck.nextId cx.w (.itr (lo32 v.b).toNat)).modItr cx.w.id (lo32 v.b).toNat fun x =>
          ({ x with bound := x.bound || (loadOpens t cx.w v.a).getD false }).enqueue
            (.load v.a t.ck.nextId (slotVal cx.g 4) ((loadOpens t cx.w v.a).getD false)) }
    (fun cx i _ _ v => decide ((lo32 v.b).toNat ≤ 7) && v.a.toNat % 16 == 0 && !issueHolds s cx i
      && (loadOpens s cx.w v.a).any fun opens => !opens || (cx.w.itrSlot (lo32 v.b).toNat).bound || decide (s.itrHeld cx.w.core < 32)))

/-- R241, Table 11-1: an image holds a slot whole: a slot read from the image of an OPEN or VALID slot has its state, its
options, its count and its objects.
Model's own choices in it: log entry 46. -/
def Obligations.IteratorImageRoundTrip : Prop := ∀ (x : ItrSlot) (rs : List ItrObj), x.objs.length ≤ 8 → x.objs.all ItrObj.ok = true →
  rootsOf x.objs = some rs → x.nroot = rs.length → (x.state = 1 ∧ rs.length ≠ 1 ∨ x.state = 2 ∧ rs.length = 1) →
  ∃ y, slotOfImage x.image = some y ∧ y.state = x.state ∧ y.w64 = x.w64 ∧ y.bnd = x.bnd ∧ y.err = x.err ∧ y.deliv = x.deliv ∧ y.objs = x.objs

/-! ### Engines, links, system -/

/-- R142, R388, R389, R391 to R395: CPY and CPY2D begin a copy of the engine and give each executing lane its empty handle;
CPY2D takes row length, rows and strides from the scalars of C. VEER enters its link's queue and VEERQ writes the link's
report. FWAIT writes what a full handle holds; FTEST writes whether the handle is full and reads it if it is; FCANCEL writes
what a full handle holds and asks the engine to stop for an empty one. A copy goes on by the bytes of one destination
sector.
Model's own choices in it: log entries 32, 48, 60 and 75. -/
def Obligations.CopyLinkAndHandleResults : Prop := ∀ (s : State) (f : Fields),
  OnceAs (.cpy f) s f
    { sig := { var := f.var == 0, q := copyQ f.q, dst := .handle, a := .pr, b := .pr, c := .u, unit := 4 }
      dec := fun _ _ _ _ _ => .ok
      own := fun _ _ l f _ => newHandle s.ck.nextId l f
      act := fun cx _ _ f v t => t.startCopy cx.w v.a v.b (lo32 v.c).toNat 1 0 0 (bits f.q 11 9) }
    (fun cx i _ _ v => decide ((lo32 v.c).toNat < 2 ^ 31) && !issueHolds s cx i) ∧
  OnceAs (.cpy2d f) s f
    { sig := { var := f.var == 0, q := copyQ f.q, dst := .handle, a := .pr, b := .pr, c := .quad, unit := 4 }
      more := quadSrcs
      dec := fun _ _ _ _ _ => .ok
      own := fun _ _ l f _ => newHandle s.ck.nextId l f
      act := fun cx i _ f v t => t.startCopy cx.w v.a v.b (quadWord cx i f 0).toNat (quadWord cx i f 1).toNat
        (sx (quadWord cx i f 2)) (sx (quadWord cx i f 3)) (bits f.q 11 9) }
    (fun cx i _ f _ => !quadPoison cx i f && decide ((quadWord cx i f 0).toNat * (quadWord cx i f 1).toNat < 2 ^ 31)
      && !issueHolds s cx i) ∧
  OnceAs (.veer f) s f
    { sig := { var := f.var == 0, q := f.q &&& 3 == 0, dst := .handle, b := .u, limit := decide (bits f.q 11 8 < 10), unit := 4 }
      dec := fun _ _ _ _ _ => .ok
      bad := fun _ _ => false
      own := fun _ _ l f _ => newHandle s.ck.nextId l f
      act := fun cx _ _ f v t =>
        let link := bits f.q 11 8
        let op := t.ck.nextId
        let t := t.startOp op cx.w (.veer link)
        if (t.link link).out then t.completeOp cx.w.id op (veerValue false true 0) none 0
        else
          let r : VeerReq := { wg := cx.w.id, cls := cx.w.cls, up := f.q.getLsbD 7, greq := bits f.q 6 2, op := op, hold := min (lo32 v.b).toNat 100 * 1000, vsh := min (t.ms.parts.getD (t.space cx.w).part.toNat {}).vsh.toNat 24 }
          t.modLink link fun k => { k with reqs := insertReq r k.reqs } }
    (fun cx i _ f _ => ((s.link (bits f.q 11 8)).out || decide ((s.link (bits f.q 11 8)).reqs.length < 16)) && !issueHolds s cx i) ∧
  RunsAs (.veerq f) s f
    { sig := { var := f.var == 0, q := f.q &&& 0x07F == 0, dst := .vreg true, limit := decide (bits f.q 11 8 < 10), unit := 4 }
      body := fun cx _ l f _ => write cx l f.dst true (veerReport (s.link (bits f.q 11 8)) (f.q.getLsbD 7) s.ck.now) false 0 } ∧
  (∀ h : Fin 8, f.a = .h h →
    RunsAs (.fwait f) s f
      { sig := { var := f.var == 0, q := f.q == 0, dst := .vz false, a := .handle, ta := true, unit := 4 }
        more := fun f => [(f.a, false, f.ta)]
        body := fun cx _ l f _ => write cx l f.dst false (handleVal l f.a) false 0 } ∧
    RunsAs (.ftest f) s f
      { sig := { var := f.var == 0, q := f.q == 0, dst := .pred, a := .handle, unit := 4, ta := false }
        body := fun cx _ l f _ => if handleEmpty l f.a then write cx l f.dst false 0 false 0
          else (write cx (srcDone l f.a false) f.dst false 1 false 0).addFx
            (readAcq [{ i := 0, l := l, o := f.a, wide := false, trap := false, nth := 0 }] 0) }
      (fun _ _ l f _ => handleEmpty l f.a || (srcMark l f.a false).isNone) ∧
    RunsAs (.fcancel f) s f
      { sig := { var := f.var == 0, q := f.q == 0, dst := .vz false, a := .handle, unit := 4, ta := false }
        body := fun cx _ l f _ => (write cx (srcDone l f.a false) f.dst false (handleVal (srcDone l f.a false) f.a) false 0).addFx
            (readAcq [{ i := 0, l := l, o := f.a, wide := false, trap := false, nth := 0 }] 0) }
      (fun _ _ l f _ => !handleEmpty l f.a && (srcMark l f.a false).isNone)) ∧
  (∀ o dst src len rows ds ss scope done, s.ex.ops.find? (·.id == o.id) = some o → o.kind = .cpy dst src len rows ds ss scope done →
    exec (.engineOperationComplete o.id) s = .next (s.blame o.wg (s.copyStep o dst src len rows ds ss scope done)))

/-- R106, R107, R109 to R111, R113 to R115, R473: a request is served when the hold and the class allow it; a group that a
request needs begins its turn once rested and with two others left, and ends it 18 ns later; a hold ends; an idle link
turns the group that has rested longest, once rested; a group retires and its direction, short of two, takes one of the
other along, then or when a later turn ends; recalibration takes one group out and brings it back; a link with fewer than
four groups leaves service; a retired group returns, toward a direction that is short of two.
Model's own choices in it: log entries 60, 92 and 93. -/
def Obligations.LinkEvents : Prop := ∀ (s : State) (link grp : Nat) (g : LaneGroup), (s.link link).group? grp = some g →
  let k := s.link link
  (∀ r rest, k.reqs = r :: rest → k.serving = none → 4 ≤ k.size - k.retired → k.mayServe r = true →
    let t := min (veerClamp k.size r.vsh r.greq) (k.avail - 2)
    let v : VeerServe := { req := r, target := t, cl := t != r.greq }
    exec (.veerRequestServe link) s = .next ((s.modLink link fun k => { k with reqs := rest, hold := none, serving := some v }).finishServe link)) ∧
  (grp ∈ k.picks → g.rested s.ck.now = true → 3 ≤ k.toward g.up →
    exec (.laneGroupTurnStart link grp) s = .next (s.modLink link fun k => k.modGroup grp fun g => { g with up := !g.up, turning := some (s.ck.now + 18) })) ∧
  (∀ t, g.turning = some t → t ≤ s.ck.now →
    exec (.laneGroupTurnComplete link grp) s = .next ((s.modLink link fun k =>
      (k.modGroup grp fun g => { g with turning := none, lastTurn := s.ck.now, turned := true }).refill s.ck.now).finishServe link)) ∧
  (∀ wg cls t, k.hold = some (wg, cls, t) → t ≤ s.ck.now →
    exec (.veerHoldExpiry link) s = .next (s.modLink link fun k => { k with hold := none })) ∧
  (k.hold = none → k.serving = none → k.out = false → (k.byRest g.up).head? = some grp → g.rested s.ck.now = true → 3 ≤ k.toward g.up →
    exec (.adaptiveTurn link grp) s = .next (s.modLink link fun k => k.modGroup grp fun g => { g with up := !g.up, turning := some (s.ck.now + 18) })) ∧
  (g.retired = false → exec (.laneGroupRetire link grp) s = .next (((s.modLink link fun k =>
      (k.modGroup grp fun g => { g with retired := true, turning := none, recal := false }).replace s.ck.now g.up).note
        (.groupRetired link grp)).finishServe link)) ∧
  (k.recaling = 0 → g.points g.up = true → 3 ≤ k.toward g.up →
    exec (.recalibrationStart link grp) s = .next (s.modLink link fun k =>
      { (k.modGroup grp fun g => { g with recal := true }) with recalStart := s.ck.now })) ∧
  (k.serving = none → ((List.range k.size).find? fun i => ((k.groups[i]?).map fun g => g.recal && !g.retired).getD false) = some grp →
    exec (.recalibrationEnd link) s = .next (((s.modLink link fun k => k.modGroup grp fun g => { g with recal := false }).modLink link
      fun k => k.refill s.ck.now).finishServe link)) ∧
  (k.out = false → link < 10 → k.size - k.retired < 4 →
    exec (.linkOutOfService link) s = .next ((k.reqs ++ (k.serving.map (·.req)).toList).foldl
      (fun s r => s.completeOp r.wg r.op (veerValue false true 0) none 0)
      ((s.modLink link fun k => { k with out := true, reqs := [], serving := none, hold := none }).note (.linkOut link)))) ∧
  (g.retired = true →
    let up := if k.committed (!g.up) < 2 && 2 ≤ k.committed g.up then !g.up else g.up
    exec (.linkRestore link grp) s = .next (
      ((s.modLink link fun k => (k.modGroup grp fun g => { g with up := up, retired := false, turning := none, recal := false }).refill
        s.ck.now).modLink link fun k => { k with out := k.out && decide (k.size - k.retired < 4) }).finishServe link))

/-- R397, R398, R413: TRAP and BKPT take the trap of cause 12 and 11 with their code as its value, in every lane that is no
helper; TRET, where a trap is held, returns from it.
Model's own choices in it: log entries 9 and 18. -/
def Obligations.TrapInstructions : Prop := ∀ (s : State) (f : Fields),
  RunsAs (.trapOp f) s f
    { sig := { var := f.var == 0, unit := 5 }
      body := fun _ _ l f _ => if l.helper then .done l [] else .trap l 12 (f.q.zeroExtend 64) false } ∧
  RunsAs (.bkpt f) s f
    { sig := { var := f.var == 0, unit := 5 }
      body := fun _ _ l f _ => if l.helper then .done l [] else .trap l 11 (f.q.zeroExtend 64) false } ∧
  RunsAs (.tret f) s f
    { sig := { var := f.var == 0, q := f.q == 0, fixed := true, unit := 5 }
      body := fun cx _ l _ _ => if l.helper then .done l []
        else .go { l with tstatus := l.tstatus &&& 0x7FFFFFFFFFFFFFFF, pc := l.tpc, clause := s.retClause (s.space cx.w) l
                          rep := bits l.tstatus 60 57 } [] }
    (fun _ _ l _ _ => l.helper || l.tstatus.getLsbD 63)

/-- R399, R400, R410, R462: CSRR delivers the register that its number names; CSRW writes `tsave`, a register of the
module OS, `tpc` or `tbase` (an aligned address below 2^52), the REPR field of `tstatus`, and in a test context
`errseed`, whose zero loads 1, and `errrate`.
Model's own choices in it: log entries 9 and 49 to 51. -/
def Obligations.ControlRegisterResults : Prop := ∀ (s : State) (f : Fields),
  let sig := fun (q test : Bool) => ({ var := f.var == 0, q := q, priv := csrOs f.q.toNat, test := test, a := .vpr, unit := 5 } : Sig)
  RunsAs (.csrr f) s f
    { sig := { var := f.var == 0, q := csrKnown f.q.toNat, priv := csrOs f.q.toNat, dst := .vreg true, unit := 5 }
      body := fun cx _ l f _ => write cx l f.dst true (csrValue s cx.w l f.q.toNat) false 0 } ∧
  (∀ (w : Wg) (l : Lane) (n : Nat), csrValue s w l 0 = l.tcause ∧ csrValue s w l 1 = l.tval ∧ csrValue s w l 2 = l.tpc ∧
    csrValue s w l 3 = l.tstatus ∧ csrValue s w l 4 = l.tbase ∧ csrValue s w l 5 = l.tsave ∧
    csrValue s w l 0x10 = zx (s.core w.core).errseed ∧ csrValue s w l 0x11 = zx (s.core w.core).errrate ∧
    csrValue s w l (0x100 + n) = s.hub.osCsr.getD n 0) ∧
  RunsAs (.csrw f) s f
    { sig := sig (f.q.toNat == 5 || csrOs f.q.toNat) false
      body := fun _ _ l f v => if l.helper then .done l []
        else if f.q = 5 then .done { l with tsave := v.a } []
        else .done l [.act fun t => { t with hub := { t.hub with osCsr := t.hub.osCsr.set (f.q.toNat - 0x100) v.a } }] } ∧
  RunsAs (.csrwTpcTbase f) s f
    { sig := sig (f.q == 2 || f.q == 4) false
      body := fun _ _ l f v => .done (if l.helper then l else if f.q = 2 then { l with tpc := v.a, tset := true } else { l with tbase := v.a }) [] }
    (fun _ _ l f v => l.helper || (decide (v.a.toNat < 2 ^ 52) && v.a.toNat % (if f.q = 2 then 8 else 512) == 0)) ∧
  RunsAs (.csrwTstatus f) s f
    { sig := sig (f.q == 3) false
      body := fun _ _ l _ v => .done (if l.helper then l else { l with tstatus := setBits l.tstatus 57 4 (bits v.a 60 57) }) [] } ∧
  RunsAs (.csrwErrseed f) s f
    { sig := sig (f.q == 0x10) true
      body := fun cx _ l _ v => .done l (if l.helper then [] else [.act fun t => t.modCore cx.w.core fun c =>
        { c with errseed := if lo32 v.a = 0 then 1 else lo32 v.a, x := if lo32 v.a = 0 then 1 else lo32 v.a }]) } ∧
  RunsAs (.csrwErrrate f) s f
    { sig := sig (f.q == 0x11) true
      body := fun cx _ l _ v => .done l (if l.helper then [] else [.act fun t => t.modCore cx.w.core fun c => { c with errrate := lo32 v.a }]) }

/-- R401 to R406, R464: TLBINV drops every matching entry, once no access that it translated is pending; TLBPROBE delivers
the entry that a walk finds; NOPRE.BEGIN and NOPRE.END move the lane's depth, and the first one starts the region; ERRINJ
poisons a register or a sector or prepares mismatches; CKPT queues an increment; HALT ends every lane of the issuing
workgroup, stops the core and asks its residents to move.
R464: an increment job that is the first of its context begins, or writes its next page.
Model's own choices in it: log entries 52 to 54, 109 and 110. -/
def Obligations.SystemInstructionResults : Prop :=
  (∀ (s : State) (f : Fields),
  let inv := fun (var : Nat) (a b : SRole) (m : Vals → TlbEntry → Bool) => ({
      sig := { var := f.var.toNat == var, q := f.q == 0, priv := true, a := a, b := b, unit := 5 }
      dec := fun _ _ _ _ _ => .ok
      act := fun _ _ _ _ v t => ((List.range 64).foldl (fun s c => s.cleanCore c false) t).modMs fun ms =>
        { ms with tlb := ms.tlb.filter fun e => !m v e } } : Once)
  let inj := fun (tgt : Nat) (d : DRole) (a : SRole) =>
    ({ var := f.var == 0, q := bits f.q 11 8 == tgt && bits f.q 7 0 == 0, test := true, dst := d, a := a, unit := 5 } : Sig)
  let page := fun (v : Vals) (e : TlbEntry) => e.asid == v.b.extractLsb' 0 16 && e.vpn == v.a.toNat / 2 ^ pageBits e.level
  let space := fun (v : Vals) (e : TlbEntry) => e.asid == v.b.extractLsb' 0 16
  OnceAs (.tlbinvPage f) s f (inv 0 .pr .u page)
    (fun _ _ _ _ v => !s.underEntry fun asid va => asid == v.b.extractLsb' 0 16 && va.toNat / 2 ^ 30 == v.a.toNat / 2 ^ 30) ∧
  OnceAs (.tlbinvAs f) s f (inv 1 .blank .u space) (fun _ _ _ _ v => !s.underEntry fun asid _ => asid == v.b.extractLsb' 0 16) ∧
  OnceAs (.tlbinvAll f) s f (inv 2 .blank .blank fun _ _ => true) (fun _ _ _ _ _ => !s.underEntry fun _ _ => true) ∧
  RunsAs (.tlbprobe f) s f
    { sig := { var := f.var == 0, q := f.q == 0, priv := true, dst := .vreg true, a := .pr, b := .u, unit := 5 }
      body := fun cx _ l f v =>
        let r := probeWord (s.settleProbe cx.w.core (v.b.extractLsb' 0 16) v.a) (v.b.extractLsb' 0 16) v.a
        (write cx l f.dst true r.1 r.2 0).addFx [.act fun t => t.settleProbe cx.w.core (v.b.extractLsb' 0 16) v.a] }
    (fun _ _ _ _ v => !v.poison) ∧
  RunsAs (.nopreBegin f) s f
    { sig := { var := f.var.toNat == 0, q := f.q == 0, fixed := true, unit := 5 }
      body := fun cx _ l _ _ => if l.helper then .done l [] else .done { l with nopre := l.nopre + 1 }
        (if cx.w.inRegion then [] else [.act fun t => t.modWg cx.w.id fun w => { w with regionSince := some t.ck.now, overran := false }]) }
    (fun _ _ l _ _ => l.helper || l.nopre != 15) ∧
  RunsAs (.nopreEnd f) s f
    { sig := { var := f.var.toNat == 1, q := f.q == 0, fixed := true, unit := 5 }
      body := fun _ _ l _ _ => .done (if l.helper then l else { l with nopre := l.nopre - 1 }) [] } ∧
  RunsAs (.errinjReg f) s f
    { sig := inj 0 .vs .blank
      body := fun cx i l f _ => if l.helper then .done l []
        else match f.dst with
          | .v n => .done { l with v := l.v.set (l.entry n.val) { l.reg n.val with poison := true } } []
          | .s n => .done l [.scal n.val { cx.scalar i n.val with poison := true }]
          | _ => .done l [] } ∧
  RunsAs (.errinjOnce f) s f
    { sig := inj 1 .blank .blank, body := fun _ _ l _ _ => .done (if l.helper then l else { l with inject := 1 }) [] } ∧
  RunsAs (.errinjTwice f) s f
    { sig := inj 2 .blank .blank, body := fun _ _ l _ _ => .done (if l.helper then l else { l with inject := 2 }) [] } ∧
  (let go := fun (cx : Cx) (v : Vals) (t : State) => t.agent (engineUnit cx.w.core) (t.space cx.w) v.a .write fun t loc => (t.poisonSector cx.w.core loc, .val 0 false)
   RunsAs (.errinjSector f) s f
    { sig := inj 3 .blank .pr, body := fun cx _ l _ v => .done l (if l.helper then [] else [.act fun t => (go cx v t).1]) }
    (fun cx _ l _ v => l.helper || (!v.poison && (go cx v s).2 == .val 0 false))) ∧
  OnceAs (.ckpt f) s f
    { sig := { var := f.var == 0, q := f.q == 0, dst := .handle, a := .pr, unit := 4 }
      dec := fun _ _ _ _ _ => .ok
      own := fun _ _ l f _ => newHandle s.ck.nextId l f
      act := fun cx _ _ _ v t =>
        let u := t.startOp t.ck.nextId cx.w .ckpt
        let j : CkptJob := { op := t.ck.nextId, wg := cx.w.id, queue := none, asid := (u.space cx.w).asid, addr := v.a }
        { u with cp := { u.cp with ckpts := u.cp.ckpts ++ [j] } } }
    (fun cx i _ _ v => v.a.toNat % 64 == 0 && !issueHolds s cx i) ∧
  (∀ g w, s.ex.gang = some g → s.wg? g.wg = some w → f.gn = false →
    check (s.checkCtx w) { var := f.var == 0, q := f.q == 0, fixed := true, priv := true, unit := 5 } f = none →
    exec (.halt f) s = .next (
      let s1 := (List.range w.lanes.length).foldl (fun s i => if (w.lane i).live then s.exitLane w.id i else s) s
      ((s1.modCore w.core fun c => { c with halted := true, inService := false }).evacuate w.core .os).reportHalted w.core))) ∧
  (∀ (s : State) (k : Nat) (j : CkptJob), s.cp.ckpts[k]? = some j → s.ckptFirst k j = true →
  (j.run = none → exec (.ckptIncrement k) s = .next (s.ckptBegin k j)) ∧
  (∀ r, j.run = some r → exec (.ckptIncrement k) s = .next (s.ckptPage k j r)))

/-! ### Command processors and the device -/

/-- R195, R205, R206, R207: at a queue that parses, NOP passes; FENCE holds the queue; a LOOP whose body lies inside the
enclosing one and fewer than four deep opens, or is skipped for a count of 0; IF passes when its comparison holds and skips
else; CKPT queues its increment once every earlier node has completed; SEGMENT-BEGIN opens a step, SEGMENT-END stores its
words and REPLAY runs the stored ones, after which what it interrupted goes on.
R206: a SIGNAL, once every earlier node has completed where it asks for that, makes its access as a release at `.sys`
and sends its interrupt.
Model's own choices in it: log entries 20, 54 and 57. -/
def Obligations.ControlPackets : Prop :=
  (∀ (s : State) (q : Nat) (x : Queue), s.queue? q = some x → x.parses = true →
  (∀ n, exec (.nopPacket q n) s = .next (s.passPacket q n)) ∧
  (∀ cs, exec (.fencePacket q cs) s = .next (s.modQueue q fun x =>
    { x with hold := .fence (cs.map fun c => { c := c, done := false }) (s.ck.dcount.getD 4 0) })) ∧
  (∀ body word, x.loops.length < 4 → x.splits (x.here + 2 + body.toNat) = false → body ≠ 0 → lo32 word ≠ 0 →
    exec (.loopPacket q false body word) s = .next ((s.modQueue q fun y => { y with
      loops := { start := x.here + 2, body := body.toNat, left := (lo32 word).toNat, header := y.here } :: y.loops }).passPacket q 2)) ∧
  (∀ body word, x.loops.length < 4 → x.splits (x.here + 2 + body.toNat) = false → body = 0 ∨ lo32 word = 0 →
    exec (.loopPacket q false body word) s = .next ((s.modQueue q fun y => { y with skipTo := x.here + 2 + body.toNat }).passPacket q 2)) ∧
  (∀ body word t m p, x.loops.length < 4 → x.splits (x.here + 2 + body.toNat) = false →
    s.agentRead hubUnit (s.spaceAt x.asid) word 4 = (t, .val m p) →
    (body ≠ 0 → m ≠ 0 → exec (.loopPacket q true body word) s = .next ((t.modQueue q fun y => { y with
      loops := { start := x.here + 2, body := body.toNat, left := m, header := y.here } :: y.loops }).passPacket q 2)) ∧
    (body = 0 ∨ m = 0 → exec (.loopPacket q true body word) s = .next
      ((t.modQueue q fun y => { y with skipTo := x.here + 2 + body.toNat }).passPacket q 2))) ∧
  (∀ (w64 : Bool) cmp skip addr value t m p,
    s.agentRead hubUnit (s.spaceAt x.asid) addr (if w64 then 8 else 4) = (t, .val m p) →
    (memCmp w64 cmp m value = true → exec (.ifPacket q w64 cmp skip addr value) s = .next (t.passPacket q 3)) ∧
    (memCmp w64 cmp m value = false → x.splits (x.here + 3 + skip.toNat) = false →
      exec (.ifPacket q w64 cmp skip addr value) s = .next ((t.modQueue q fun x => { x with skipTo := x.here + 3 + skip.toNat }).passPacket q 3))) ∧
  (∀ wait addr, s.earlierDone x = true →
    let j : CkptJob := { op := 0, wg := 0, queue := some q, asid := x.asid, addr := addr }
    let t : State := { s with cp := { s.cp with ckpts := s.cp.ckpts ++ [j] } }
    exec (.ckptPacket q wait addr) s = .next (if wait then t.modQueue q fun x => { x with hold := .ckpt } else t.passPacket q 2)) ∧
  (∀ seg retry, x.seg = none → exec (.segmentBegin q seg retry) s = .next ((s.modQueue q fun x => { x with
      seg := some { seg := seg.toNat, retry := retry.toNat, header := x.pos, start := x.pos + 1, depth := x.loops.length } }).passPacket q 1)) ∧
  (∀ seg g, x.seg = some g → g.seg = seg.toNat → g.pos = none →
    exec (.segmentEnd q seg) s = .next (
      let t := s.modQueue q fun x => { x with stores := (g.seg, g.words, g.retry) :: x.stores.filter fun t => t.1 != g.seg }
      (t.modQueue q fun x => { (x.endStep t.nodeDone) with loops := x.loops }).passPacket q 1)) ∧
  (∀ seg words retry, (x.stores.find? fun t => t.1 == seg.toNat) = some (seg.toNat, words, retry) → words ≠ [] →
    exec (.replay q seg) s = .next (s.modQueue q fun x => { x with
      seg := some { seg := seg.toNat, retry := retry, header := x.pos, depth := x.loops.length, words := words, pos := some 0 }
      under := x.seg.toList ++ x.under, skipTo := 0 }))) ∧
  (∀ (s : State) (q : Nat) (x : Queue) (p : SignalPkt), s.queue? q = some x → x.parses = true →
  (p.allprev = true → s.earlierDone x = true) →
  let fenced := s.modMs fun ms => ms.cleanHosts
  let sp := s.spaceAt x.asid
  let after := fun (t : State) =>
    let t := t.modMs fun ms => ms.cleanHosts
    (if p.irq then ({ t with cp := { t.cp with irqs := t.cp.irqs ++ [p.vec] } } : State) else t).passPacket q 3
  (∀ t v e, fenced.agentWrite hubUnit sp p.addr 8 p.value.toNat false = (t, .val v e) → exec (.signalWrite64 q p) s = .next (after t)) ∧
  (∀ t v e, fenced.agentAdd hubUnit sp p.addr p.value.toNat = (t, .val v e) → exec (.signalRedAdd q p) s = .next (after t)) ∧
  (∀ t v e, fenced.agentWrite hubUnit sp p.addr 4 (lo32 p.value).toNat false = (t, .val v e) → exec (.signalWrite32 q p) s = .next (after t)))

/-- R197 to R200, R202: a launch that is not rejected enters the pool as a node with the predecessors of its tags (or every
earlier node), its tree barriers and its grid, and the queue goes on; a rejected one writes CODE 3 and halts the queue.
Model's own choices in it: log entries 7 and 26. -/
def Obligations.LaunchPackets : Prop := ∀ (s : State) (q : Nat) (x : Queue) (p : LaunchPkt), s.queue? q = some x → x.parses = true →
  s.poolSize < 4096 →
  let direct := s.affLegal (s.tenant x.asid) p.aff (p.gridm1.toNat + 1)
  let indirect := s.affParse (s.tenant x.asid) p.aff
  let n := p.gridm1.toNat + 1
  (s.rejects x p direct n = none → exec (.launch q p) s = .next ((s.addNode q x p false).passPacket q (launchLen false p))) ∧
  (s.rejects x p indirect 0 = none → exec (.indirectLaunch q p) s = .next ((s.addNode q x p true).passPacket q (launchLen true p))) ∧
  (∀ c t, s.rejects x p direct n = some c → s.writeStatus q p.tag x.asid p.staddr 3 0 = (t, true) → exec (.launch q p) s = .next (t.haltHere q c)) ∧
  (∀ c t, s.rejects x p indirect 0 = some c → s.writeStatus q p.tag x.asid p.staddr 3 0 = (t, true) →
    exec (.indirectLaunch q p) s = .next (t.haltHere q c)) ∧
  (∀ ind, ∃ n, (s.addNode q x p ind).ex.nodes = s.ex.nodes ++ [n] ∧ n.id = s.ck.nextId ∧ n.launch = p ∧ n.state = .waiting ∧
    n.grid = (if ind then 0 else p.gridm1.toNat + 1) ∧ n.trees = s.freeTrees.take p.ntree ∧ ∀ m ∈ n.preds, m ∈ x.nodes ∧ s.nodeDone m = false)

/-- R193 to R196, R205: a poll or a doorbell reads WIDX; a queue resumes and is halted by the module OS through its
descriptor; it is bound from its descriptor; a FENCE goes on when each counter has been satisfied once before its deadline,
and past one the step fails or the queue halts with cause 4.
Model's own choices in it: log entries 55, 58 and 61. -/
def Obligations.QueueEvents : Prop := ∀ (s : State) (q : Nat) (x : Queue),
  let late := fun (cs : List FenceWait) (since : W64) => cs.any fun c => !c.done && c.c.deadline != 0 &&
    decide (c.c.deadline.toNat < (s.ck.dcount.getD 4 0 - since).toNat)
  (s.queue? q = some x →
    (∀ t, x.state = 0 →
      (∀ v p, s.agentRead hubUnit (s.spaceAt x.asid) (x.desc + 16) 8 = (t, .val v p) →
        exec (.widxPoll q) s = .next (t.modQueue q fun x => { x with widx := v, lastPoll := t.ck.now })) ∧
      (s.agentRead hubUnit (s.spaceAt x.asid) (x.desc + 16) 8 = (t, .viol) → exec (.widxPoll q) s = .next (t.haltQueue q 8 x.pktHere))) ∧
    (∀ cp k, x.state = 0 → k < 16 → (s.cp.queues.find? fun y => y.2.cp == cp && y.2.index == k) = some (q, x) →
      exec (.doorbell cp (4 * k) 4) s = exec (.widxPoll q) s) ∧
    (∀ t g, s.agentWrite hubUnit (s.spaceAt x.asid) (x.desc + 32) 8 0 false = (t, g) → g ≠ .wait →
      exec (.queueResume q) s = .next (t.modQueue q fun x => { x with state := 0, cause := 0, pkt := 0, stateOwed := false })) ∧
    (∀ t g, s.agentWrite hubUnit (s.spaceAt x.asid) (x.desc + 32) 8 (2 ^ 63) false = (t, g) → g ≠ .wait →
      exec (.queueHaltedByModuleOs q) s = .next (t.modQueue q fun x => { x with state := 2, cause := 0, pkt := 0, stateOwed := false })) ∧
    (∀ cs since t cs', x.hold = .fence cs since → x.state = 0 → x.steps.any (·.failed) = false → late cs since = false →
      s.readCounters q x cs = (t, some cs') →
      exec (.fenceCounterPoll q) s = .next (if cs'.all (·.done)
        then (t.modQueue q fun x => { x with hold := .none }).passPacket q (1 + 3 * cs'.length)
        else t.modQueue q fun x => { x with hold := .fence cs' since })) ∧
    (∀ cs since, x.hold = .fence cs since → x.state = 0 → late cs since = true →
      let t := if x.seg.isSome then s.modQueue q fun x => { x with hold := .none, seg := x.seg.map fun g => { g with failed := true } }
        else s.haltHere q 4
      exec (.fenceDeadline q) s = .next t ∧
      (x.steps.any (·.failed) = false → exec (.fenceCounterPoll q) s = .next t))) ∧
  (∀ cp off width, width ≠ 4 ∨ off % 4 ≠ 0 ∨ 64 ≤ off →
    exec (.doorbell cp off width) s = .next { s with cp := { s.cp with ignored := s.cp.ignored + 1 } }) ∧
  (∀ asid desc t ws p, q < 64 → s.queue? q = none → (s.hub.space (BitVec.ofNat 16 asid)).isSome = true →
    s.agentWords hubUnit (s.spaceAt (BitVec.ofNat 16 asid)) desc 5 = (t, .ok (ws, p)) →
    ∃ y : Queue, exec (.queueBinding q asid desc) s = .next { t with cp := { t.cp with queues := t.cp.queues ++ [(q, y)] } } ∧
      y.asid = BitVec.ofNat 16 asid ∧ y.desc = desc ∧ y.base = ws.getD 0 0 ∧ y.capw = (lo32 (ws.getD 1 0)).toNat ∧
      y.widx = (ws.getD 2 0).toNat ∧ y.ridx = (ws.getD 3 0).toNat ∧ y.state = bits (ws.getD 4 0) 63 62)

/-- R202 to R204, R207 to R209: a waiting node whose predecessors are done becomes ready; a ready one that no other goes
before is placed; a running one whose workgroups have ended and performed their work, once their cores' sectors are clean,
writes its status and is done; a
failed step is retried; and after 20 µs without room a lower class whose leaving makes it is asked to be saved.
Model's own choices in it: log entries 56, 59, 72, 73, 105 and 111. -/
def Obligations.NodeEvents : Prop := ∀ (s : State) (n : Nat) (x : Node), s.node? n = some x →
  (x.state = .waiting → x.preds.all s.nodeDone = true → x.indirect = false →
    exec (.nodeReady n) s = .next (s.modNode n fun x => { x with state := .ready, readyAt := s.ck.now, since := none })) ∧
  (∀ t v p, x.state = .waiting → x.preds.all s.nodeDone = true → x.indirect = true →
    s.agentRead hubUnit (s.spaceAt x.asid) x.launch.gaddr 4 = (t, .val v p) → 0 < v → v ≤ 2 ^ 24 →
    affNonempty (affClip x.launch.aff v) v = true →
    exec (.nodeReady n) s = .next (t.modNode n fun y => { y with
      grid := v, launch := { y.launch with aff := affClip x.launch.aff v }, state := .ready, readyAt := t.ck.now, since := none })) ∧
  (∀ places t, x.state = .ready → (x.map = [] → s.affLegal (s.tenant x.asid) x.launch.aff x.grid = true ∧
      s.within (s.tenant x.asid) x.launch = true ∧ s.fits x.launch.aff x.grid = true) →
    s.ex.nodes.any (fun m => m.id != n && m.before x && s.couldPlace m) = false → (x.launch.ntree ≠ 0 → places.length = x.grid) →
    s.placeAll n places = some t →
    exec (.nodeDispatch n places) s = .next (t.modNode n fun x => if x.map.length = x.grid then { x with state := .running } else x)) ∧
  (∀ t, x.state = .running → x.grid ≤ x.map.length →
    (∀ w ∈ s.ex.wgs, w.node = n → w.ended = true ∧ s.busyWg w = false) →
    ((s.ex.wgs.filter fun w => w.node == n).foldl (fun s w => s.cleanCore w.core true) s).writeStatus x.queue x.launch.tag x.asid
      x.launch.staddr (if x.code = 0 then 1 else x.code) x.killed = (t, true) →
    exec (.nodeComplete n) s = .next (t.finishNode x (if x.code = 0 then 1 else x.code))) ∧
  (∀ q y g, s.queue? q = some y → y.seg = some g → g.failed = true → exec (.segmentRetry q) s = .next (s.retryStep q g false)) ∧
  (∀ core wgi w m since, let t := s.placedAhead x
    x.state = .ready → x.since = some since → since + 20000 ≤ s.ck.now → roomAsked t x wgi core = false → t.node? n = some m → m.map.length = wgi → wgi < m.grid →
    s.coreTakes core = true → affPermits x.launch.aff wgi core = true → (List.range 64).any (fun c => t.canPlace x wgi c) = false →
    s.residents core = [w] → w.cls < x.launch.cls.toNat → (t.without core []).room core x.launch (t.tenant x.asid) = false →
    (t.without core [w.id]).room core x.launch (t.tenant x.asid) = true →
    exec (.classPreemption n wgi core) s = .next (s.modWg w.id (·.ask .cls)))

/-- R232, R406, R414 to R417, R419, R421: a save that was asked for and is not deferred happens once the workgroup's lanes
are settled and its work is done; a saved workgroup goes on where its affinity and the room allow; a region past its bound
lets the save through, or the test of its core is skipped; a due test empties the core, whose result returns or quarantines
it; a halted core returns once it is empty; a workgroup short of an iterator slot is asked to move.
R173, R191, R293, R459: the wait at a JOIN's target ends for a quad whose 64 clocks are over, a DOZE ends at 0, and a
group that has not issued for 256 clocks leaves the active set; nothing else of a workgroup changes. An uncorrectable error
poisons the register, sector, record or accumulator it hits, or fails the node of what has no poison.
Model's own choices in it: log entries 21 to 23, 70, 72 and 106. -/
def Obligations.SaveAndWaitEvents : Prop :=
  (∀ (s : State) (wg core : Nat) (w : Wg), s.wg? wg = some w →
  (∀ why u, w.place = .core w.core → w.saveAsked = some why → w.defers = false → w.lanes.all Lane.settled = true →
    (why = .quarantine → s.permitted w ≠ [w.core]) → (s.settleOps wg).wg? wg = some u → (s.settleOps wg).quietWg u = true →
    (s.settleOps wg).tileFault u = none → exec (.workgroupSave wg why) s = .next ((s.settleOps wg).writeSave u)) ∧
  (w.place = .core w.core → w.saveAsked = some .quarantine → w.defers = false → w.lanes.all Lane.settled = true →
    s.permitted w = [w.core] → exec (.workgroupSave wg .quarantine) s = .next (s.failNode w.node 5)) ∧
  (∀ t v, w.place = .saved → s.coreTakes core = true → affPermits (s.launch w).aff w.index core = true →
    s.room core (s.launch w) (s.space w).part.toNat = true → s.tilesFit w core = true → (w.forSlot = true → s.itrHeld core < 32) →
    (v ≠ 0 → s.readArea w = (t, .val v false) → exec (.workgroupRestore wg core) s = .next (t.restoreWg w core)) ∧
    (s.readArea w = (t, .val v true) ∨ s.readArea w = (t, .viol) →
      exec (.workgroupRestore wg core) s = .next ((t.note (.saveFailed w.id)).failNode w.node 5))) ∧
  (∀ t why, w.regionSince = some t → w.saveAsked = some why → w.inRegion = true → w.place = .core w.core →
    t + s.hub.regionBound ≤ s.ck.now →
    let u := if (s.core w.core).testing then s.skipTest w.core else s
    exec (.nopreBoundExpiry wg) s = .next (if why = .test ∨ w.overran = true then u
      else (u.modWg wg fun w => { w with overran := true }).note (.overrun wg))) ∧
  (core < 64 → (s.core core).testing = false → (s.core core).halted = false →
    exec (.infieldTestDue core) s = .next (if (s.residents core).any (fun w => s.permitted w == [core]) then s.note (.testSkipped core)
      else (s.modCore core fun c => { c with testing := true }).evacuate core .test)) ∧
  (∀ pass, (s.core core).testing = true → s.residents core = [] →
    exec (.infieldTestResult core pass) s = .next (if pass then s.modCore core Core.returned
      else (s.modCore core fun c => { c with testing := false, quarantined := true }).note (.coreFailed core))) ∧
  ((s.core core).halted = true → s.residents core = [] → exec (.haltedCoreReturn core) s = .next (s.modCore core fun c =>
    { c with testing := false, quarantined := false, halted := false, inService := true, errrate := 0, errseed := 1, x := 1 })) ∧
  (∀ c, w.place = .core c → 32 ≤ s.itrHeld c → s.itrHeld core < 32 → s.coreTakes core = true →
    affPermits (s.launch w).aff w.index core = true →
    (w.lanes.any fun l => l.live && l.slotFrom.any fun t => decide (t + 20000 ≤ s.ck.now)) = true →
    exec (.iteratorSlotMove wg core) s = .next (s.modWg wg (·.ask .iter)))) ∧
  (∀ (s : State) (wg n : Nat),
  let offer := fun (i : Nat) (l : Lane) => match l.wait with
    | .join _ 0 => if i / 4 == n then { l with wait := .none } else l
    | _ => l
  let wake := fun (l : Lane) => match l.wait with
    | .doze 0 => { l with wait := .none }
    | _ => l
  let sink := fun (g : Group) => if 256 ≤ s.clocks (s.ck.now - g.lastIssue) then { g with doldrums := true } else g
  let bad := fun (r : Reg) => { r with poison := true }
  let hit := fun (set way : Nat) (e : DEntry) => if e.set == set && e.way == way then { e with poison := true } else e
  exec (.joinTimeout wg n) s = .next (s.modWg wg fun w => { w with lanes := mapLanes offer 0 w.lanes }) ∧
  exec (.dozeExpiry wg n) s = .next (s.modWg wg fun w => w.modLane n wake) ∧
  exec (.doldrumsEntry wg n) s = .next (s.modWg wg fun w => { w with groups := upd w.groups n sink }) ∧
  (∀ e, exec (.uncorrectableSramError (.vreg wg n e)) s = .next (s.modWg wg fun w => w.modLane n fun l => { l with v := upd l.v e bad })) ∧
  (∀ k, exec (.uncorrectableSramError (.sreg wg n k)) s = .next (s.modWg wg fun w => { w with groups := upd w.groups n fun g => { g with s := upd g.s k bad } })) ∧
  (∀ a, exec (.uncorrectableSramError (.sector a)) s = .next (s.modMs fun ms => (ms.l2Fill (sectorOf a)).setPoison a true)) ∧
  (∀ k a, exec (.uncorrectableSramError (.l1 k a)) s = .next (s.modMs fun ms => { ms with
    l1 := ms.l1.map fun x => if x.core == k && x.loc == sectorOf a then { x with poison := true } else x })) ∧
  (∀ off, exec (.uncorrectableSramError (.tile wg n off)) s =
    .next (s.modTile wg n fun t => { t with poison := t.poison ||| (1#128 <<< (off / 32)) })) ∧
  (∀ set way, exec (.uncorrectableSramError (.drift wg n set way)) s = .next (s.modTable wg n fun t => { t with entries := t.entries.map (hit set way) })) ∧
  (∀ q row col, exec (.uncorrectableSramError (.accum wg q n row col)) s = .next (s.modMx wg q fun m => { m with slots := upd m.slots n fun t => t.map fun t => t.put { t.at row col with poison := true } })) ∧
  (∀ w, s.wg? wg = some w → exec (.uncorrectableSramError (.unmarked wg)) s = .next
    ((if w.place = .saved ∨ w.saveAsked.isSome = true ∧ w.defers = false then s.note (.saveFailed wg) else s).failNode w.node 5)))

/-- R38 to R42: an epoch of 100 µs turns a die's records into candidates; a wanted region that may move is marked and its
lines recalled; its copy by a copy engine ends with the bytes and the tables at the new frame, the entries naming it and no
translation of the old one, within 40 µs; later the migration is abandoned. A stick is drained and, once empty, replaced; a failed link loses its stick; a replay
is counted.
R45, R46: a stick's compressed state is set up while no page of it is compressed; a slot supplied goes to the oldest
page that waits, whose writes then reach the stick, else it is free; a page that fits again leaves overflow with its bytes as they are.
Model's own choices in it: log entries 24, 25, 62, 63, 95 and 108. -/
def Obligations.MigrationAndStickEvents : Prop :=
  (∀ (s : State) (region frame stick die : Nat),
  (s.ms.epochs.getD die 0 + 100000 ≤ s.ck.now → exec (.migrationEpoch die) s = .next (s.modMs fun ms => { ms with
    epochs := ms.epochs.set die (ms.epochs.getD die 0 + (s.ck.now - ms.epochs.getD die 0) / 100000 * 100000)
    heat := ms.heat.filter fun h => !(regionDie h.region == die)
    cands := ms.cands.filter (fun c => regionDie c.1 != die)
      ++ (ms.heat.filter fun h => regionDie h.region == die).flatMap (candidates s.ms.policy.1 s.ms.policy.2.1) })) ∧
  (let m := s.migration region frame;
    (s.joined region = (region, region + 1) → m = { region := region, frame := frame, start := s.ck.now, span := 1 } ∧
      (s.movable region = true → s.freeRegion frame = true → s.writesPending region = false →
        (∀ x ∈ s.ms.migs, x.takes (region * 2 ^ 21) = false) → s.canMigrate m = true)) ∧
    (s.wanted region frame = true → region - m.region ≤ frame → s.canMigrate m = true → exec (.migrationStart region frame) s = .next (
      let t := s.modMs fun ms => { ms with migs := ms.migs ++ [m] }
      let t := (t.ownedLines m.takes).foldl (fun t line => t.recall line none) t
      ((t.ms.l2.filter fun x => m.takes x.line && x.dirty != 0).foldl (fun t x => t.modMs fun ms => ms.l2Clean x.line) t).giveEngines))) ∧
  (∀ m, s.ms.migs.find? (·.region == region) = some m → s.ck.now ≤ m.start + 40000 → s.hub.copyEngines.contains (some region) = true →
    exec (.migrationCopyComplete region) s = .next (
      let ls := s.leaves.1.filter fun l => (List.range m.span).any fun k => l.maps (m.region + k)
      let t := ls.foldl (fun t l => t.modMs fun ms => { ms with
        mem := ms.mem.writeBytes (m.to l.ent) (bytesLE 8 (m.entry l).toNat)
        tlb := ms.tlb.filter fun e => e.entry != l.ent }) (s.modMs fun ms => ms.moveBytes m)
      let t := t.moveTables m s.pointers
      (t.modMs fun ms => ({ ms with
        migs := ms.migs.filter fun x => x.region != m.region
        migrated := ((List.range m.span).map fun k => (m.frame + k, t.ck.now)) ++ ms.migrated.filter fun x =>
          !m.takes (x.1 * 2 ^ 21) && !m.fills (x.1 * 2 ^ 21) } : MemSys).movePages m ls).giveEngines)) ∧
  (∀ m, s.ms.migs.find? (·.region == region) = some m → m.start + 40000 ≤ s.ck.now →
    exec (.migrationAbandon region) s = .next (s.modMs fun ms => { ms with migs := ms.migs.filter fun x => x.region != region }).giveEngines) ∧
  (stick < 24 → s.ms.lost.contains stick = false → exec (.stickDrain stick) s = .next (s.drain stick)) ∧
  ((s.ms.draining.contains stick || s.ms.lost.contains stick) = true → s.stickEmpty stick = true →
    ∃ t, exec (.stickReplacement stick) s = .next t ∧ t.ms.draining = s.ms.draining.filter (· != stick) ∧
      t.ms.lost = s.ms.lost.filter (· != stick) ∧ (∀ c ∈ t.ms.mem, onStick stick c.1 = false) ∧
      t.ms.mem = s.ms.mem.filter fun c => !onStick stick c.1) ∧
  (stick < 24 → s.ms.lost.contains stick = false → ∃ t, exec (.memoryLinkRetrainFail stick) s = .next t ∧
    t.ms.lost = s.ms.lost ++ [stick] ∧ t.ms.mem = s.ms.mem ∧ t.log = .stickLost stick :: s.log) ∧
  exec (.memoryLinkCrcReplay stick) s = .next (s.modMs fun ms => { ms with crcReplays := upd ms.crcReplays stick (· + 1) })) ∧
  (∀ (s : State) (stick slot : Nat) (base pool overflow : W64),
  (stick < 24 → (s.leaves.1.any fun l => l.module && l.entry.getLsbD 57 && l.frame / 2 ^ 37 == stick) = false →
    exec (.compressedStateSetup stick base pool overflow) s = .next (s.modMs fun ms => { ms with
      setup := { stick := stick, base := base, pool := pool, overflow := overflow, slots := [] } :: ms.setup.filter fun x => x.stick != stick
      overflow := ms.overflow.filter fun o => locStick (3 * 2 ^ 48 + o.page * 65536) != stick })) ∧
  (∀ st o, s.ms.setup.find? (·.stick == stick) = some st → st.slots.contains slot = false →
    (s.ms.overflow.any fun o => o.slot == some slot && locStick (3 * 2 ^ 48 + o.page * 65536) == stick) = false →
    (s.ms.overflow.find? fun o => o.slot.isNone && locStick (3 * 2 ^ 48 + o.page * 65536) == stick) = some o →
    exec (.overflowSlotSupplied stick slot) s = .next (s.modMs fun ms => (({ ms with
      overflow := ms.overflow.map fun x => if x.page == o.page then { x with slot := some slot } else x } : MemSys).setSize st o.page
        (sizeEntry (some slot) 0)).cleanPage o.page)) ∧
  (∀ st, s.ms.setup.find? (·.stick == stick) = some st → st.slots.contains slot = false →
    (s.ms.overflow.any fun o => o.slot == some slot && locStick (3 * 2 ^ 48 + o.page * 65536) == stick) = false →
    (s.ms.overflow.find? fun o => o.slot.isNone && locStick (3 * 2 ^ 48 + o.page * 65536) == stick) = none →
    exec (.overflowSlotSupplied stick slot) s = .next (s.modMs fun ms => { ms with
      setup := ms.setup.map fun x => if x.stick == stick then { x with slots := x.slots ++ [slot] } else x })) ∧
  (∀ page o st, s.ms.overflow.find? (·.page == page) = some o →
    s.ms.setup.find? (·.stick == locStick (3 * 2 ^ 48 + page * 65536)) = some st →
    Config.compressedSectors (s.ms.mem.readBytes (3 * 2 ^ 48 + page * 65536) 65536) ≤ 1024 →
    exec (.compressedPageRepack page) s = .next (s.modMs fun ms => ({ ms with
      setup := ms.setup.map fun x => if x.stick == st.stick then { x with slots := x.slots ++ o.slot.toList } else x
      overflow := ms.overflow.filter fun x => x.page != page } : MemSys).setSize st page
        (sizeEntry none (max 1 (Config.compressedSectors (s.ms.mem.readBytes (3 * 2 ^ 48 + page * 65536) 65536)))))))

/-- R23, R65, R467, R468, R470 to R473: an address space is registered once and withdrawn when no workgroup of it is left;
a partition entry is written; a domain is assigned; power comes on with one die and Overcast service ends with the dies and
links in service; a die goes offline with its cores quarantined and its sticks drained; a port is retired and a module
becomes unreachable.
R150, R466, R467: an access from outside the cores, naturally aligned and of this module's memory, takes place at the
home once ownership is recalled; a snoop hands L2's copy of a host line back.
R64: the host's own store to its memory, over plain PCIe, leaves L2's copy as it was.
Model's own choices in it: log entries 15, 64, 67 and 112. -/
def Obligations.ServiceAndOutsideEvents : Prop :=
  (∀ (s : State) (asid : BitVec 16) (d : SpaceDesc) (idx : BitVec 4) (entry version : W32) (die : Nat),
  (s.hub.space asid = none → exec (.asidRegistration asid (some d)) s = .next { s with hub := { s.hub with
    spaces := s.hub.spaces ++ [{ asid := asid, root := d.root, t := d.t, part := d.part, rlim := d.rlim, privileged := d.privileged }] } }) ∧
  ((∀ w ∈ s.ex.wgs, (s.space w).asid = asid → w.ended = true) → exec (.asidRegistration asid none) s = .next { s with hub := { s.hub with
    spaces := s.hub.spaces.filter fun x => x.asid != asid } }) ∧
  exec (.partitionTableWrite idx entry) s = .next (s.modMs fun ms => { ms with parts := upd ms.parts idx.toNat fun p =>
    { p with k := if bits entry 31 29 ≤ 4 then entry.extractLsb' 29 3 else p.k, xw := entry.extractLsb' 20 4, vsh := entry.extractLsb' 12 6 } }) ∧
  (∀ m : BitVec 6, s.hub.phase ≠ .off → exec (.domainIdAssign m) s = .next (s.modMs fun ms => { ms with domain := some m })) ∧
  (s.hub.phase = .off → die < 4 → s.hub.rollback.toNat ≤ version.toNat →
    exec (.powerOn version true die) s = .next { s with hub := { s.hub with
      patch := version, phase := .overcast, first := die, dies := (List.range 4).map fun d => d == die } }) ∧
  (∀ dies, s.hub.phase = .overcast → dies.contains s.hub.first = true → ∃ t, exec (.overcastEnd dies []) s = .next t ∧
    t.hub.phase = .service ∧ t.hub.dies = (List.range 4).map (fun d => dies.contains d) ∧
    t.ms.lost = (List.range 24).filter (fun k => !dies.contains (k / 6))) ∧
  (die < 4 → s.hub.dies.getD die false = true → exec (.dieOffline die) s = .next (
    let t := (List.range 16).foldl (fun s c => s.quarantine (16 * die + c)) s
    let t : State := { t with hub := { t.hub with dies := t.hub.dies.set die false } }
    ((List.range 6).foldl (fun s k => s.drain (6 * die + k)) t).note (.dieRetired die))) ∧
  (∀ port, port < 8 → s.net.portsRetired.contains port = false → exec (.fabricPortRetire port) s = .next (
    ({ s with net := { s.net with portsRetired := s.net.portsRetired ++ [port] } } : State).note (.portRetired port))) ∧
  (∀ m : BitVec 6, s.net.unreachable.contains m = false → exec (.fabricModuleUnreachable m) s = .next
    { s with net := { s.net with unreachable := s.net.unreachable ++ [m] } })) ∧
  (∀ (s : State) (a : OutsideAccess),
  (outsideAligned a = true → a.kind ≠ .fence → s.hub.phase = .service → locTgt a.addr = 1 →
    exec (.hostMemoryAccess a) s = .next (s.hostOwn a) ∧
    (a.kind = .store → s.hub.cxl = false → exec (.hostMemoryAccess a) s = .next (s.modMs fun ms => { ms with
      mem := ms.mem.writeBytes a.addr (bytesLE a.width a.data.toNat) }))) ∧
  (outsideAligned a = true → moduleAddr a.addr = true → a.kind ≠ .fence → s.hub.phase = .service →
  exec (.hostMemoryAccess a) s = .next (if s.hub.cxl = true ∨ (∃ w ∈ s.hub.windows, w.1 ≤ a.addr ∧ a.addr + a.width ≤ w.1 + w.2)
    then s.outside a.addr a else s) ∧
  (s.net.portsRetired.length < 8 → exec (.fabricRemoteAccess a) s = .next (s.outside a.addr a)) ∧
  (locTgt a.addr = 0 → exec (.hubCoreMemoryAccess a) s = .next (s.outside a.addr a)) ∧
  (s.hub.cxl = true → ∃ t, exec (.hostSnoop a.addr) s = .next t ∧
    ∀ e ∈ t.ms.l2host, ∀ k, k < 4 → e.1 ≠ lineOf (2 ^ 48 + a.addr % 2 ^ 48) + 32 * k)))

/-- R472, R474 to R476: a signed patch of a version that is not older is loaded; a report commits its leaf, and none is
made past 32,768; power evaluation moves the withheld sixteenths by the rule; telemetry and health words are published;
power loss keeps what flash holds and skips at most one leaf.
Model's own choices in it: log entries 65, 66, 68 and 69. -/
def Obligations.FirmwareAndPowerEvents : Prop := ∀ (s : State) (version : W32) (w : W64),
  (s.hub.phase ≠ .off → s.hub.rollback.toNat ≤ version.toNat →
    exec (.livePatch version true) s = .next { s with hub := { s.hub with patch := version } }) ∧
  (s.hub.phase ≠ .off → exec (.livePatch version false) s = .next (s.note (.patchRefused version))) ∧
  (s.hub.phase ≠ .off → exec (.attestationReport w) s = .next (if s.hub.leaf < 32768
    then { s with hub := { s.hub with leaf := s.hub.leaf + 1, reports := (w, s.hub.leaf) :: s.hub.reports } } else s.note .attestRefused)) ∧
  (∀ die power flux, exec (.powerCapEvaluation die power flux) s = .next { s with hub := { s.hub with
    withheld := upd s.hub.withheld die (withhold s.hub.fluxLimit power flux) } }) ∧
  (∀ limit power flux k, k ≤ 12 → withhold limit power flux k ≤ 12 ∧
    (720 < power ∨ limit < flux + 20 → withhold limit power flux k = min 12 (k + 1)) ∧
    (power < 720 → flux + 40 < limit → withhold limit power flux k = k - 1)) ∧
  (∀ power, exec (.inputPowerLimitExpiry power) s = .next (if power ≤ 3400 then s
    else { s with hub := { s.hub with withheld := s.hub.withheld.map fun k => min 12 (k + 1) } })) ∧
  (∀ stage, exec (.telemetryPublish stage w) s = .next { s with hub := { s.hub with telemetry := s.hub.telemetry.set stage w } }) ∧
  (∀ c : BitVec 8, ∃ t x, exec (.connectorHealthReport c w) s = .next t ∧ t.hub.health.head? = some (c, x) ∧
    x.extractLsb' 56 8 = c ∧ (∀ y ∈ t.hub.health.tail, y.1 ≠ c)) ∧
  (∃ t, exec .powerLoss s = .next t ∧ t.hub.phase = .off ∧ t.hub.rollback = s.hub.rollback ∧
    (t.hub.leaf = s.hub.leaf ∨ t.hub.leaf = s.hub.leaf + 1) ∧ t.hub.reports = s.hub.reports ∧ t.ex.wgs = [] ∧
    (∀ c ∈ t.ms.mem, locTgt c.1 = 1 ∨ locTgt c.1 = 2))
end

