-- ==== Sys2Proof/Laws/Memory.lean ====
section
/-! SUPPORT. The canonical form of memory: every operation on it keeps the form, a byte reads as it was last written, and a
write leaves every other byte alone. -/
namespace Sys2Proof.Machine

/-! ### The form -/

/-- A lower bound that an address passes. -/
def Memory.above (lo : Option Nat) (a : Nat) : Prop := ∀ l, lo = some l → l < a

theorem Memory.wfFrom_cons (lo : Option Nat) (k : Nat) (c : Byte) (m : Memory) :
    Memory.wfFrom lo ((k, c) :: m) = true ↔ Memory.above lo k ∧ c ≠ unlistedByte k ∧ Memory.wfFrom (some k) m = true := by
  cases lo <;> simp [Memory.wfFrom, Memory.above, and_assoc]

theorem Memory.above_mono {lo hi : Option Nat} (h : ∀ l, lo = some l → ∃ k, hi = some k ∧ l ≤ k) {a : Nat}
    (ha : Memory.above hi a) : Memory.above lo a := by
  intro l hl
  obtain ⟨k, hk, hlk⟩ := h l hl
  exact Nat.lt_of_le_of_lt hlk (ha k hk)

theorem Memory.wfFrom_weaken {lo hi : Option Nat} (h : ∀ l, lo = some l → ∃ k, hi = some k ∧ l ≤ k) (m : Memory)
    (hm : Memory.wfFrom hi m = true) : Memory.wfFrom lo m = true := by
  cases m with
  | nil => rfl
  | cons x m =>
    obtain ⟨k, c⟩ := x
    rw [Memory.wfFrom_cons] at hm ⊢
    exact ⟨Memory.above_mono h hm.1, hm.2⟩

/-- The rest of a memory in the form, from any lower bound of its first address. -/
theorem Memory.wfFrom_tail {lo : Option Nat} {k : Nat} {m : Memory} (hk : Memory.above lo k) (hm : Memory.wfFrom (some k) m = true) :
    Memory.wfFrom lo m = true :=
  Memory.wfFrom_weaken (fun l hl => ⟨k, rfl, Nat.le_of_lt (hk l hl)⟩) m hm

theorem Memory.wfFrom_write (m : Memory) (a : Nat) (b : Byte) :
    ∀ lo, Memory.wfFrom lo m = true → Memory.above lo a → Memory.wfFrom lo (m.write a b) = true := by
  induction m with
  | nil =>
    intro lo _ ha
    unfold Memory.write
    split
    · rfl
    · rw [Memory.wfFrom_cons]; exact ⟨ha, ‹_›, rfl⟩
  | cons x m ih =>
    obtain ⟨k, c⟩ := x
    intro lo hm ha
    obtain ⟨hk, hc, ht⟩ := (Memory.wfFrom_cons lo k c m).mp hm
    unfold Memory.write
    by_cases hak : a = k
    · subst hak
      rw [if_pos rfl]
      split
      · exact Memory.wfFrom_tail hk ht
      · rw [Memory.wfFrom_cons]; exact ⟨hk, ‹_›, ht⟩
    · rw [if_neg hak]
      by_cases hlt : a < k
      · rw [if_pos hlt]
        split
        · exact hm
        · rw [Memory.wfFrom_cons]
          refine ⟨ha, ‹_›, ?_⟩
          rw [Memory.wfFrom_cons]
          refine ⟨?_, hc, ht⟩
          intro l hl
          cases hl
          exact hlt
      · rw [if_neg hlt, Memory.wfFrom_cons]
        refine ⟨hk, hc, ih (some k) ht ?_⟩
        intro l hl
        cases hl
        omega

theorem Memory.wf_write {m : Memory} (h : m.wf = true) (a : Nat) (b : Byte) : (m.write a b).wf = true :=
  Memory.wfFrom_write m a b none h (fun _ hl => nomatch hl)

theorem Memory.wf_writeBytes (bs : List Byte) : ∀ {m : Memory}, m.wf = true → ∀ a, (m.writeBytes a bs).wf = true := by
  induction bs with
  | nil => exact fun h _ => h
  | cons b bs ih => exact fun h a => ih (Memory.wf_write h a b) (a + 1)

theorem Memory.wf_writeMasked (mask : BitVec 32) (a : Nat) (bs : List Byte) :
    ∀ {m : Memory}, m.wf = true → ∀ i, (m.writeMasked a mask i bs).wf = true := by
  induction bs with
  | nil => exact fun h _ => h
  | cons b bs ih =>
    intro m h i
    unfold Memory.writeMasked
    refine ih ?_ (i + 1)
    split
    · exact Memory.wf_write h _ _
    · exact h

theorem Memory.wfFrom_filter (p : Host.Cell → Bool) (m : Memory) :
    ∀ lo, Memory.wfFrom lo m = true → Memory.wfFrom lo (m.filter p) = true := by
  induction m with
  | nil => exact fun _ h => h
  | cons x m ih =>
    obtain ⟨k, c⟩ := x
    intro lo h
    obtain ⟨hk, hc, ht⟩ := (Memory.wfFrom_cons lo k c m).mp h
    rw [List.filter_cons]
    split
    · exact (Memory.wfFrom_cons lo k c _).mpr ⟨hk, hc, ih _ ht⟩
    · exact ih _ (Memory.wfFrom_tail hk ht)

theorem Memory.wf_filter {m : Memory} (h : m.wf = true) (p : Host.Cell → Bool) : Memory.wf (m.filter p) = true :=
  Memory.wfFrom_filter p m none h

/-- Writes in any order keep the form. -/
theorem Memory.wf_foldl_write {α : Type} (f : α → Nat) (g : α → Byte) (l : List α) :
    ∀ {m : Memory}, m.wf = true → Memory.wf (l.foldl (fun (m : Memory) x => m.write (f x) (g x)) m) = true := by
  induction l with
  | nil => exact fun h => h
  | cons x l ih => exact fun h => ih (Memory.wf_write h _ _)

/-! ### Reading -/

theorem Memory.read_above (m : Memory) : ∀ {lo a : Nat}, Memory.wfFrom (some lo) m = true → a ≤ lo → m.read a = unlistedByte a := by
  cases m with
  | nil => exact fun _ _ => rfl
  | cons x m =>
    obtain ⟨k, c⟩ := x
    intro lo a h ha
    have hk := ((Memory.wfFrom_cons (some lo) k c m).mp h).1 lo rfl
    unfold Memory.read
    rw [if_neg (by omega), if_pos (by omega)]

theorem Memory.read_nil (x : Nat) : Memory.read [] x = unlistedByte x := rfl

theorem Memory.read_cons (k : Nat) (c : Byte) (m : Memory) (x : Nat) :
    Memory.read ((k, c) :: m) x = if x = k then c else if x < k then unlistedByte x else m.read x := rfl

theorem Memory.readFrom_write (m : Memory) (a x : Nat) (b : Byte) :
    ∀ lo, Memory.wfFrom lo m = true → (m.write a b).read x = if x = a then b else m.read x := by
  induction m with
  | nil =>
    intro lo _
    unfold Memory.write
    by_cases hb : b = unlistedByte a
    · rw [if_pos hb]; split
      · rename_i hx; rw [hx, hb]; rfl
      · rfl
    · rw [if_neg hb, Memory.read_cons, Memory.read_nil]
      split
      · rfl
      · exact ite_self _
  | cons y m ih =>
    obtain ⟨k, c⟩ := y
    intro lo hm
    obtain ⟨hk, hc, ht⟩ := (Memory.wfFrom_cons lo k c m).mp hm
    unfold Memory.write
    by_cases hak : a = k
    · subst hak
      rw [if_pos rfl, Memory.read_cons]
      by_cases hb : b = unlistedByte a
      · rw [if_pos hb]
        by_cases hx : x = a
        · rw [if_pos hx, hb, hx]; exact Memory.read_above m ht (Nat.le_refl _)
        · rw [if_neg hx, if_neg hx]
          split
          · exact Memory.read_above m ht (by omega)
          · rfl
      · rw [if_neg hb, Memory.read_cons]
        by_cases hx : x = a
        · rw [if_pos hx, if_pos hx]
        · rw [if_neg hx, if_neg hx, if_neg hx]
    · rw [if_neg hak]
      by_cases hlt : a < k
      · rw [if_pos hlt]
        by_cases hb : b = unlistedByte a
        · rw [if_pos hb]
          by_cases hx : x = a
          · rw [if_pos hx, hx, Memory.read_cons, if_neg hak, if_pos hlt, hb]
          · rw [if_neg hx]
        · rw [if_neg hb, Memory.read_cons]
          by_cases hx : x = a
          · rw [if_pos hx, if_pos hx]
          · rw [if_neg hx, if_neg hx]
            split
            · rw [Memory.read_cons, if_neg (by omega), if_pos (by omega)]
            · rfl
      · rw [if_neg hlt, Memory.read_cons, Memory.read_cons]
        by_cases hxk : x = k
        · rw [if_pos hxk, if_neg (by omega), if_pos hxk]
        · rw [if_neg hxk, if_neg hxk, ih _ ht]
          by_cases hxa : x = a
          · rw [if_pos hxa, if_pos hxa, if_neg (by omega)]
          · rw [if_neg hxa, if_neg hxa]

/-- A BYTE READS AS IT WAS WRITTEN, AND A WRITE LEAVES EVERY OTHER BYTE ALONE. -/
theorem Memory.read_write {m : Memory} (h : m.wf = true) (a x : Nat) (b : Byte) :
    (m.write a b).read x = if x = a then b else m.read x := Memory.readFrom_write m a x b none h

/-- Masked bytes of a sector read as they were written; the rest of memory reads as before. -/
theorem Memory.read_writeMasked (mask : BitVec 32) (a x : Nat) (bs : List Byte) :
    ∀ {m : Memory}, m.wf = true → ∀ i, (m.writeMasked a mask i bs).read x =
      if a + i ≤ x ∧ x < a + i + bs.length ∧ mask.getLsbD (x - a) = true then bs.getD (x - a - i) 0 else m.read x := by
  induction bs with
  | nil =>
    intro m _ i
    rw [if_neg (by simp only [List.length_nil]; omega)]
    rfl
  | cons b bs ih =>
    intro m h i
    unfold Memory.writeMasked
    have hw : (if mask.getLsbD i then m.write (a + i) b else m).wf = true := by
      split
      · exact Memory.wf_write h _ _
      · exact h
    rw [ih hw (i + 1)]
    have hr : (if mask.getLsbD i then m.write (a + i) b else m).read x =
        if x = a + i ∧ mask.getLsbD i = true then b else m.read x := by
      by_cases hm : mask.getLsbD i = true
      · rw [if_pos hm, Memory.read_write h]; simp only [hm, and_true]
      · rw [if_neg hm, if_neg (fun hh => hm hh.2)]
    rw [hr]
    by_cases hx : x = a + i
    · have e : x - a = i := by omega
      rw [if_neg (c := _ ∧ _ ∧ _) (fun hh => absurd hh.1 (by omega))]
      by_cases hm : mask.getLsbD i = true
      · rw [if_pos (c := _ ∧ _) ⟨hx, hm⟩, if_pos (c := _ ∧ _ ∧ _) ⟨by omega, by simp only [List.length_cons]; omega, by rw [e]; exact hm⟩,
          e, Nat.sub_self]; rfl
      · rw [if_neg (c := _ ∧ _) (fun hh => hm hh.2), if_neg (c := _ ∧ _ ∧ _) (fun hh => hm (e ▸ hh.2.2))]
    · rw [if_neg (c := x = a + i ∧ _) (fun hh => hx hh.1)]
      by_cases hin : a + i ≤ x ∧ x < a + i + (b :: bs).length ∧ mask.getLsbD (x - a) = true
      · obtain ⟨h1, h2, h3⟩ := hin
        simp only [List.length_cons] at h2
        rw [if_pos (c := _ ∧ _ ∧ _) ⟨by omega, by omega, h3⟩,
          if_pos (c := _ ∧ _ ∧ _) ⟨h1, by simp only [List.length_cons]; omega, h3⟩]
        have : x - a - i = (x - a - (i + 1)) + 1 := by omega
        rw [this]; rfl
      · rw [if_neg hin, if_neg]
        rintro ⟨h1, h2, h3⟩
        exact hin ⟨by omega, by simp only [List.length_cons]; omega, h3⟩

/-- Both branches keep the form. -/
theorem MemSys.wf_ite {c : Prop} [Decidable c] {a b : MemSys} (ha : a.mem.wf = true) (hb : b.mem.wf = true) :
    (if c then a else b).mem.wf = true := by
  split
  · exact ha
  · exact hb

/-! ### Operations of the memory system keep the form -/

theorem MemSys.wf_setSize {ms : MemSys} (h : ms.mem.wf = true) (st : StickSetup) (page e : Nat) : (ms.setSize st page e).mem.wf = true :=
  Memory.wf_writeBytes _ h _

theorem MemSys.wf_overflowPage {ms : MemSys} (h : ms.mem.wf = true) (st : StickSetup) (page : Nat) :
    (ms.overflowPage st page).mem.wf = true := by
  unfold MemSys.overflowPage
  split
  · exact MemSys.wf_setSize (ms := { ms with setup := _, overflow := _ }) h _ _ _
  · exact h

theorem MemSys.wf_recompress {ms : MemSys} (h : ms.mem.wf = true) (loc : Nat) : (ms.recompress loc).mem.wf = true := by
  unfold MemSys.recompress
  simp only []
  split
  · exact h
  · split
    · exact h
    · split
      · exact MemSys.wf_setSize h _ _ _
      · exact MemSys.wf_overflowPage h _ _

theorem MemSys.mem_l2Merge (ms : MemSys) (loc : Nat) (d : BitVec 4) : (ms.l2Merge loc d).mem = ms.mem := by
  unfold MemSys.l2Merge; split <;> rfl

theorem MemSys.mem_l2Read (ms : MemSys) (loc : Nat) : (ms.l2Read loc).mem = ms.mem := by
  unfold MemSys.l2Read
  split
  · exact MemSys.mem_l2Merge ms loc 0
  · rfl

theorem MemSys.mem_l2Fill (ms : MemSys) (sec : Nat) : (ms.l2Fill sec).mem = ms.mem := by
  unfold MemSys.l2Fill
  split
  · rfl
  · simp only []
    rw [MemSys.mem_l2Read]
    split <;> rfl

theorem MemSys.mem_setPoison (ms : MemSys) (loc : Nat) (p : Bool) : (ms.setPoison loc p).mem = ms.mem := by
  unfold MemSys.setPoison; split <;> rfl

/-- What `f` does for a partition keeps the form when `f` does. -/
theorem MemSys.wf_tagged {ms : MemSys} (h : ms.mem.wf = true) (p : BitVec 4) (f : MemSys → MemSys)
    (hf : ∀ ms : MemSys, ms.mem.wf = true → (f ms).mem.wf = true) : (ms.tagged p f).mem.wf = true := hf _ h

theorem MemSys.wf_homeWrite {ms : MemSys} (h : ms.mem.wf = true) (sec : Nat) (mask : BitVec 32) (bs : List Byte) (p : Bool) :
    (ms.homeWrite sec mask bs p).mem.wf = true := by
  unfold MemSys.homeWrite
  refine MemSys.wf_ite h ?_
  simp only []
  have h2 : ∀ ms : MemSys, ms.mem.wf = true →
      (let ms := ms.l2Merge sec (sectorBit sec)
       if p then ms.setPoison sec true else if mask = fullMask then ms.setPoison sec false else ms).mem.wf = true := by
    intro ms h
    have h1 : (ms.l2Merge sec (sectorBit sec)).mem.wf = true := by rw [MemSys.mem_l2Merge]; exact h
    exact MemSys.wf_ite (by rw [MemSys.mem_setPoison]; exact h1) (MemSys.wf_ite (by rw [MemSys.mem_setPoison]; exact h1) h1)
  refine h2 _ (MemSys.wf_ite ?_ (Memory.wf_writeMasked _ _ _ h _))
  show (if _ then _ else ms : MemSys).mem.wf = true
  exact MemSys.wf_ite h h

theorem MemSys.wf_cleanHost {ms : MemSys} (h : ms.mem.wf = true) (sec : Nat) : (ms.cleanHost sec).mem.wf = true := by
  unfold MemSys.cleanHost
  split
  · exact Memory.wf_writeMasked _ _ _ h _
  · exact h

/-- A fold keeps the form when each of its steps does. -/
theorem MemSys.wf_foldl {α : Type} (f : MemSys → α → MemSys) (hf : ∀ ms a, ms.mem.wf = true → (f ms a).mem.wf = true) (l : List α) :
    ∀ {ms : MemSys}, ms.mem.wf = true → (l.foldl f ms).mem.wf = true := by
  induction l with
  | nil => exact fun h => h
  | cons a l ih => exact fun h => ih (hf _ a h)

theorem MemSys.wf_cleanHosts {ms : MemSys} (h : ms.mem.wf = true) : ms.cleanHosts.mem.wf = true :=
  MemSys.wf_foldl _ (fun _ x h => MemSys.wf_cleanHost h x) _ h

theorem MemSys.wf_l2Clean {ms : MemSys} (h : ms.mem.wf = true) (line : Nat) : (ms.l2Clean line).mem.wf = true := by
  unfold MemSys.l2Clean
  refine MemSys.wf_ite h ?_
  have h1 : (if locTgt line = 3 then ms.recompress line else ms).mem.wf = true := MemSys.wf_ite (MemSys.wf_recompress h _) h
  refine MemSys.wf_ite h1 ?_
  exact MemSys.wf_ite (MemSys.wf_foldl _ (fun _ k h => MemSys.wf_cleanHost h _) _ h1) h1

theorem MemSys.wf_l2Drop {ms : MemSys} (h : ms.mem.wf = true) (line : Nat) : (ms.l2Drop line).mem.wf = true :=
  MemSys.wf_l2Clean h line

theorem MemSys.mem_heatAdd (ms : MemSys) (sec die n : Nat) : (ms.heatAdd sec die n).mem = ms.mem := by
  unfold MemSys.heatAdd
  split
  · rfl
  · simp only []
    split <;> rfl

theorem MemSys.wf_writeRaw {ms : MemSys} (h : ms.mem.wf = true) (x : L1Sector) : (ms.writeRaw x).mem.wf = true := by
  unfold MemSys.writeRaw
  split
  · exact h
  · show (MemSys.heatAdd _ _ _).mem.wf = true
    rw [MemSys.mem_heatAdd]
    exact MemSys.wf_tagged h _ _ fun _ h => MemSys.wf_homeWrite h _ _ _ _

theorem MemSys.wf_giveUp {ms : MemSys} (h : ms.mem.wf = true) (core sec : Nat) : (ms.giveUp core sec).mem.wf = true := by
  unfold MemSys.giveUp
  split
  · exact MemSys.wf_writeRaw h _
  · exact h

theorem MemSys.wf_recallL1 {ms : MemSys} (h : ms.mem.wf = true) (line : Nat) (keep : Option Nat) : (ms.recallL1 line keep).mem.wf = true :=
  MemSys.wf_foldl _ (fun _ _ h => MemSys.wf_giveUp h _ _) _ h

theorem MemSys.mem_l1Fill (ms : MemSys) (core sec : Nat) (own : Bool) : (ms.l1Fill core sec own).mem = ms.mem := by
  unfold MemSys.l1Fill
  simp only []
  split
  · show ((ms.l2Fill sec).heatAdd _ _).mem = _
    rw [MemSys.mem_heatAdd, MemSys.mem_l2Fill]
  · show ((ms.l2Fill sec).heatAdd _ _).mem = _
    rw [MemSys.mem_heatAdd, MemSys.mem_l2Fill]

theorem MemSys.mem_l1Write (ms : MemSys) (core loc : Nat) (bs : List Byte) (p : Bool) : (ms.l1Write core loc bs p).mem = ms.mem := by
  unfold MemSys.l1Write
  simp only []
  split <;> rfl

theorem MemSys.wf_setAD {ms : MemSys} (h : ms.mem.wf = true) (t : TlbEntry) (k : Access) : (ms.setAD t k).mem.wf = true :=
  MemSys.wf_homeWrite h _ _ _ _

theorem MemSys.mem_tlbAdd (ms : MemSys) (t : TlbEntry) : (ms.tlbAdd t).mem = ms.mem := by
  unfold MemSys.tlbAdd
  simp only []
  split
  · split <;> rfl
  · rfl

theorem MemSys.mem_tlbHold (ms : MemSys) (t : TlbEntry) : (ms.tlbHold t).mem = ms.mem := by
  unfold MemSys.tlbHold
  split
  · rw [MemSys.mem_tlbAdd, MemSys.mem_tlbAdd]
  · exact MemSys.mem_tlbAdd ms t

theorem MemSys.mem_tlbFill (ms : MemSys) (unit : Nat) (sp : Space) (va : W64) : (ms.tlbFill unit sp va).mem = ms.mem := by
  unfold MemSys.tlbFill
  split
  · rfl
  · split
    · exact MemSys.mem_tlbHold ms _
    · rfl

theorem MemSys.mem_tlbKeep (ms : MemSys) (unit : Nat) (asid : BitVec 16) (va : W64) : (ms.tlbKeep unit asid va).mem = ms.mem := by
  unfold MemSys.tlbKeep
  split
  · exact MemSys.mem_tlbAdd ms _
  · rfl

theorem MemSys.wf_tileWrite {ms : MemSys} (h : ms.mem.wf = true) (core : Nat) (part : BitVec 4) (t : Tile) (loc : Nat) :
    (ms.tileWrite core part t loc).mem.wf = true := by
  unfold MemSys.tileWrite
  refine MemSys.wf_ite h ?_
  refine MemSys.wf_tagged h _ _ fun _ h => MemSys.wf_foldl _ (fun ms k h => ?_) _ h
  show (MemSys.heatAdd _ _ _).mem.wf = true
  rw [MemSys.mem_heatAdd]
  exact MemSys.wf_homeWrite (MemSys.wf_recallL1 h _ _) _ _ _ _

end Sys2Proof.Machine
end

