-- ==== Sys2Proof/Laws/MemOk.lean ====
section
/-! SUPPORT. The canonical form of memory under the shared operations of the state: recalls, write-backs, fills, and the
accesses of agents and lanes. -/
namespace Sys2Proof.Machine

variable {s : State}

theorem State.memOk_modMs (h : s.memOk) (f : MemSys → MemSys) (hf : ∀ ms : MemSys, ms.mem.wf = true → (f ms).mem.wf = true) :
    (s.modMs f).memOk := hf s.ms h

theorem State.memOk_modWg (h : s.memOk) (id : Nat) (f : Wg → Wg) : (s.modWg id f).memOk := h

theorem State.memOk_setWg (h : s.memOk) (w : Wg) : (s.setWg w).memOk := h

theorem State.memOk_modNode (h : s.memOk) (id : Nat) (f : Node → Node) : (s.modNode id f).memOk := h

theorem State.memOk_modCore (h : s.memOk) (c : Nat) (f : Core → Core) : (s.modCore c f).memOk := h

theorem State.memOk_note (h : s.memOk) (x : Log) : (s.note x).memOk := h

/-- A fold keeps what each of its steps keeps. -/
theorem State.memOk_foldl {α : Type} (f : State → α → State) (l : List α) (hf : ∀ s a, s.memOk → (f s a).memOk) :
    ∀ {s : State}, s.memOk → (l.foldl f s).memOk := by
  induction l with
  | nil => exact fun h => h
  | cons a l ih => exact fun h => ih (hf _ a h)

theorem State.memOk_ite {c : Prop} [Decidable c] {a b : State} (ha : a.memOk) (hb : b.memOk) : (if c then a else b).memOk := by
  split
  · exact ha
  · exact hb

theorem MemSys.mem_faultNote (ms : MemSys) (asid : BitVec 16) (va : W64) : (ms.faultNote asid va).mem = ms.mem := by
  unfold MemSys.faultNote; split <;> rfl

theorem MemSys.mem_l1Put (ms : MemSys) (x : L1Sector) : (ms.l1Put x).mem = ms.mem := rfl

theorem MemSys.mem_l1Del (ms : MemSys) (core sec : Nat) : (ms.l1Del core sec).mem = ms.mem := rfl

theorem State.memOk_tickFree (h : s.memOk) : s.tickFree.memOk := h

theorem State.memOk_recallTiles (h : s.memOk) (line : Nat) : (s.recallTiles line).memOk := by
  refine State.memOk_foldl _ _ (fun s w h => State.memOk_foldl _ _ (fun s t h => ?_) h) h
  split
  · exact h
  · exact MemSys.wf_tileWrite h _ _ _ _

theorem State.memOk_recallRaw (h : s.memOk) (line : Nat) (keep : Option Nat) : (s.recallRaw line keep).memOk :=
  MemSys.wf_recallL1 (State.memOk_recallTiles h line) line keep

theorem State.memOk_modTile (h : s.memOk) (wg idx : Nat) (f : Tile → Tile) : (s.modTile wg idx f).memOk := h

theorem State.memOk_regTouch (h : s.memOk) (g : RegPage) (off : Nat) (bell : Bool) : (s.regTouch g off bell).memOk :=
  State.memOk_ite h (State.memOk_ite h h)

theorem State.memOk_tileTouch (h : s.memOk) (t : Tile) (loc : Nat) : (s.tileTouch t loc).memOk := by
  unfold State.tileTouch
  split
  · exact State.memOk_foldl _ _ (fun _ _ h => State.memOk_regTouch h _ _ _) h
  · exact h

theorem State.memOk_faultNote (h : s.memOk) (asid : BitVec 16) (va : W64) : (s.modMs (·.faultNote asid va)).memOk := by
  show (MemSys.faultNote _ _ _).mem.wf = true
  rw [MemSys.mem_faultNote]; exact h

/-! ### Translation, and serving a line -/

/-- Serving a line keeps the form. -/
def Serve.Keeps (srv : Serve) : Prop := ∀ (s : State) (line : Nat) (keep : Option Nat), s.memOk → (srv s line keep).memOk

theorem State.memOk_l2Fill (h : s.memOk) (sec : Nat) : (s.modMs (·.l2Fill sec)).memOk := by
  show (MemSys.l2Fill _ _).mem.wf = true
  rw [MemSys.mem_l2Fill]; exact h

theorem State.memOk_openWalkBy {srv : Serve} (hs : srv.Keeps) (h : s.memOk) (sp : Space) (va : W64) : (s.openWalkBy srv sp va).memOk :=
  State.memOk_foldl _ _ (fun _ _ h => State.memOk_l2Fill (hs _ _ _ h) _) h

theorem State.memOk_noteWalk (h : s.memOk) (sp : Space) (va : W64) : (s.noteWalk sp va).memOk := by
  unfold State.noteWalk; split <;> exact h

theorem State.memOk_walkBy {srv : Serve} (hs : srv.Keeps) (h : s.memOk) (unit : Nat) (sp : Space) (va : W64) :
    (s.walkBy srv unit sp va).memOk := by
  unfold State.walkBy
  refine State.memOk_ite h ?_
  show (MemSys.tlbFill _ _ _ _).mem.wf = true
  rw [MemSys.mem_tlbFill]
  exact State.memOk_noteWalk (State.memOk_openWalkBy hs h _ _) _ _

theorem State.memOk_touchBy {srv : Serve} (hs : srv.Keeps) (h : s.memOk) (unit : Nat) (sp : Space) (va : W64) (k : Access) :
    (s.touchBy srv unit sp va k).memOk := by
  unfold State.touchBy
  split
  · exact State.memOk_ite h (MemSys.wf_setAD (hs _ _ _ h) _ _)
  · exact h

/-- Translation keeps the form, whatever it sets and logs. -/
theorem State.memOk_xlateWith {srv : Serve} (hs : srv.Keeps) (h : s.memOk) (unit : Nat) (sp : Space) (va : W64) (k : Access) :
    (s.xlateWith srv unit sp va k).2.memOk := by
  have h1 : ∀ s : State, s.memOk →
      (if (s.ms.tlbLookup unit sp.asid va).isSome then s.modMs (·.tlbKeep unit sp.asid va) else s.walkBy srv unit sp va).memOk := by
    intro s h
    refine State.memOk_ite ?_ (State.memOk_walkBy hs h _ _ _)
    show (MemSys.tlbKeep _ _ _ _).mem.wf = true
    rw [MemSys.mem_tlbKeep]; exact h
  have h2 := h1 (s.modMs fun ms => { ms with tag := sp.part }) h
  unfold State.xlateWith
  simp only []
  split
  · exact State.memOk_touchBy hs h2 _ _ _ _
  · exact h2

theorem State.memOk_recallTile {srv : Serve} (hs : srv.Keeps) (h : s.memOk) (w : Wg) (t : Tile) (line k : Nat) :
    (s.recallTile srv w t line k).memOk := by
  have hx : ((s.xlateWith srv w.core (s.space w) t.vpage .write).2.modMs fun ms => { ms with tag := s.ms.tag }).memOk :=
    State.memOk_xlateWith hs h w.core (s.space w) t.vpage .write
  unfold State.recallTile
  simp only []
  split
  · exact MemSys.wf_tileWrite (State.memOk_tileTouch hx _ _) _ _ _ _
  · exact State.memOk_faultNote hx _ _
  · exact hx

theorem State.memOk_recallBy {srv : Serve} (hs : srv.Keeps) (h : s.memOk) (line : Nat) (keep : Option Nat) :
    (s.recallBy srv line keep).memOk := by
  refine MemSys.wf_recallL1 (State.memOk_foldl _ _ (fun s w h => State.memOk_foldl _ _ (fun s t h => ?_) h) h) line keep
  split
  · exact h
  · exact State.memOk_recallTile hs h _ _ _ _

theorem State.memOk_roomBy {srv : Serve} (hs : srv.Keeps) (h : s.memOk) (line : Nat) : (s.roomBy srv line).memOk := by
  unfold State.roomBy
  refine State.memOk_ite h ?_
  exact State.memOk_foldl _ _ (fun s x h => State.memOk_ite h
    (State.memOk_modMs (State.memOk_recallBy hs h _ _) _ fun _ hm => MemSys.wf_l2Drop hm _)) h

/-- THE SERVING OF A LINE KEEPS THE FORM, however deep the recalls stand. -/
theorem State.serveN_keeps (n : Nat) : Serve.Keeps (State.serveN n) := by
  induction n with
  | zero => exact fun s line keep h => State.memOk_recallRaw h line keep
  | succ n ih => exact fun s line keep h => State.memOk_recallBy ih (State.memOk_roomBy ih h line) line keep

theorem State.memOk_recall (h : s.memOk) (line : Nat) (keep : Option Nat) : (s.recall line keep).memOk :=
  State.serveN_keeps _ s line keep h

theorem State.recall_keeps : Serve.Keeps State.recall := fun _ line keep h => State.memOk_recall h line keep

theorem State.memOk_walkFor (h : s.memOk) (unit : Nat) (sp : Space) (va : W64) : (s.walkFor unit sp va).memOk :=
  State.memOk_walkBy State.recall_keeps h unit sp va

theorem State.memOk_xlateBy (h : s.memOk) (unit : Nat) (sp : Space) (va : W64) (k : Access) : (s.xlateBy unit sp va k).2.memOk :=
  State.memOk_xlateWith State.recall_keeps h unit sp va k

theorem State.memOk_used (h : s.memOk) (w : Wg) (va : W64) (k : Access) : (s.used w va k).memOk := State.memOk_xlateBy h _ _ _ _

theorem State.memOk_recallOwned (h : s.memOk) (line : Nat) (keep : Option Nat) : (s.recallOwned line keep).memOk :=
  State.memOk_recallBy State.recall_keeps h line keep

theorem State.memOk_evictL2 (h : s.memOk) (line : Nat) : (s.evictL2 line).memOk :=
  MemSys.wf_l2Drop (State.memOk_recallOwned h line none) line

theorem State.memOk_l2Room (h : s.memOk) (line : Nat) : (s.l2Room line).memOk := State.memOk_roomBy State.recall_keeps h line

theorem State.memOk_openHome (h : s.memOk) (loc : Nat) : (s.openHome loc).memOk :=
  State.memOk_l2Fill (State.memOk_recall h _ _) _

/-- What `f` does for a partition keeps the form when `f` does. -/
theorem State.memOk_forPart (h : s.memOk) (p : BitVec 4) (f : State → State) (hf : ∀ s : State, s.memOk → (f s).memOk) :
    (s.forPart p f).memOk := hf _ h

theorem State.memOk_writeBack (h : s.memOk) (x : L1Sector) : (s.writeBack x).memOk :=
  State.memOk_forPart h x.part _ fun _ h => MemSys.wf_writeRaw (State.memOk_recall h _ _) x

theorem State.memOk_evictSector (h : s.memOk) (core sec : Nat) : (s.evictSector core sec).memOk := by
  unfold State.evictSector
  split
  · exact State.memOk_writeBack h _
  · exact h

theorem State.memOk_evictLine (h : s.memOk) (core line : Nat) : (s.evictLine core line).memOk :=
  State.memOk_foldl _ _ (fun _ _ h => State.memOk_evictSector h _ _) h

theorem State.memOk_l1Room (h : s.memOk) (core line : Nat) : (s.l1Room core line).memOk := by
  unfold State.l1Room
  refine State.memOk_ite h ?_
  split
  · exact State.memOk_evictLine (s := s.modMs fun ms => { ms with replaced := ms.replaced + 1 }) h _ _
  · exact h

theorem State.memOk_cleanCore (h : s.memOk) (core : Nat) (owned : Bool) : (s.cleanCore core owned).memOk :=
  State.memOk_foldl _ _ (fun _ x h => State.memOk_writeBack h x) h

theorem State.memOk_fillSector (h : s.memOk) (core sec : Nat) (own : Bool) : (s.fillSector core sec own).memOk := by
  show (MemSys.l1Fill _ _ _ _).mem.wf = true
  rw [MemSys.mem_l1Fill]
  exact State.memOk_recall (State.memOk_l1Room h _ _) _ _

theorem State.memOk_shedSector (h : s.memOk) (core sec : Nat) : (s.shedSector core sec).memOk := by
  unfold State.shedSector
  split
  · exact State.memOk_ite h (State.memOk_evictSector h _ _)
  · exact h

theorem State.memOk_grant (h : s.memOk) (core line : Nat) (stash : Bool) : (s.grant core line stash).memOk := by
  have h1 : ∀ t : State, t.memOk → (t.ms.l2Merge line 0).mem.wf = true := by
    intro t ht; rw [MemSys.mem_l2Merge]; exact ht
  unfold State.grant
  simp only []
  refine State.memOk_ite h (h1 _ ?_)
  split
  · exact State.memOk_ite h (State.memOk_recallOwned h _ _)
  · exact h

theorem State.memOk_dropWrite (h : s.memOk) : s.dropWrite.memOk := h

/-! ### Accesses of agents -/

theorem State.memOk_homeRead (h : s.memOk) (loc n : Nat) : (s.homeRead loc n).1.memOk := by
  unfold State.homeRead
  split
  · exact h
  · split
    · exact State.memOk_regTouch h _ _ _
    · exact State.memOk_openHome h _

theorem State.memOk_homeStore (h : s.memOk) (loc n v : Nat) (p : Bool) : (s.homeStore loc n v p).memOk := by
  unfold State.homeStore
  refine State.memOk_ite (State.memOk_dropWrite h) ?_
  split
  · exact State.memOk_regTouch h _ _ _
  · exact State.memOk_modMs (State.memOk_openHome h loc) _ fun _ hm => MemSys.wf_homeWrite hm _ _ _ _

theorem State.memOk_engineSector (h : s.memOk) (core loc : Nat) : (s.engineSector core loc).1.memOk := by
  unfold State.engineSector
  split
  · exact h
  · split
    · exact State.memOk_regTouch h _ _ _
    · simp only []
      split
      · exact State.memOk_openHome h _
      · exact State.memOk_openHome h _

/-- An access keeps the form when what it does at the location keeps it. -/
theorem State.memOk_agent (h : s.memOk) (unit : Nat) (sp : Space) (va : W64) (a : Access) (k : State → Nat → State × Got)
    (hk : ∀ s loc, s.memOk → (k s loc).1.memOk) : (s.agent unit sp va a k).1.memOk := by
  have hx := State.memOk_xlateBy h unit sp va a
  unfold State.agent
  simp only []
  split
  · split
    · exact hx
    · exact hk _ _ hx
  · exact State.memOk_faultNote hx _ _
  · exact hx
  · exact hx

theorem State.memOk_agentRead (h : s.memOk) (unit : Nat) (sp : Space) (va : W64) (n : Nat) : (s.agentRead unit sp va n).1.memOk :=
  State.memOk_agent h unit sp va .read _ fun _ loc h => State.memOk_homeRead h loc n

theorem State.memOk_agentWrite (h : s.memOk) (unit : Nat) (sp : Space) (va : W64) (n v : Nat) (p : Bool) :
    (s.agentWrite unit sp va n v p).1.memOk :=
  State.memOk_agent h unit sp va .write _ fun _ loc h => State.memOk_homeStore h loc n v p

theorem State.memOk_engineRead (h : s.memOk) (core unit : Nat) (sp : Space) (va : W64) (n : Nat) :
    (s.engineRead core unit sp va n).1.memOk := by
  refine State.memOk_agent h _ sp va .read _ fun t loc h => ?_
  have h1 : (if t.ms.engineMisses core loc then t.modMs (·.engineTakes core unit) else t).memOk := State.memOk_ite h h
  revert h1
  simp only []
  generalize (if t.ms.engineMisses core loc then t.modMs (·.engineTakes core unit) else t) = u
  intro h1
  have h2 := State.memOk_engineSector h1 core loc
  split
  · exact h
  · split
    · exact h2
    · exact h2

theorem State.memOk_engineWrite (h : s.memOk) (core : Nat) (sp : Space) (va : W64) (n v : Nat) (p : Bool) :
    (s.engineWrite core sp va n v p).1.memOk :=
  State.memOk_agent h _ sp va .write _ fun _ _ h => State.memOk_homeStore (State.memOk_evictSector h _ _) _ _ _ _

theorem State.memOk_agentWords (unit : Nat) (sp : Space) (n : Nat) :
    ∀ {s : State} (va : W64), s.memOk → (s.agentWords unit sp va n).1.memOk := by
  induction n with
  | zero => exact fun _ h => h
  | succ n ih =>
    intro s va h
    have h1 := State.memOk_agentRead h unit sp va 8
    unfold State.agentWords
    split
    · rename_i s1 v p e
      rw [e] at h1
      have h2 := ih (va + 8) h1
      split
      · rename_i e2; rw [e2] at h2; exact h2
      · exact h2
    · rename_i e; rw [e] at h1; exact h1

/-- Words written one after another keep the form when each write does. -/
theorem memOk_putWords (wr : State → W64 → Nat → Nat → Bool → State × Got)
    (hw : ∀ s a n v p, s.memOk → (wr s a n v p).1.memOk) (ws : List (W64 × Bool)) :
    ∀ {s : State} (va : W64), s.memOk → (putWords wr s va ws).1.memOk := by
  have hh : ∀ (s : State) a n v p t g, s.memOk → wr s a n v p = (t, g) → t.memOk := fun s a n v p t g h e => by
    have := hw s a n v p h
    rw [e] at this; exact this
  intro s va h
  fun_induction putWords wr s va ws
  all_goals first
    | exact h
    | (rename_i e ih; exact ih (hh _ _ _ _ _ _ _ h e))
    | (rename_i e; exact hh _ _ _ _ _ _ _ h e)

theorem State.memOk_agentPuts (h : s.memOk) (unit : Nat) (sp : Space) (va : W64) (ws : List (W64 × Bool)) :
    (s.agentPuts unit sp va ws).1.memOk := memOk_putWords _ (fun _ _ _ _ _ h => State.memOk_agentWrite h _ _ _ _ _ _) ws va h

theorem State.memOk_enginePuts (h : s.memOk) (core : Nat) (sp : Space) (va : W64) (ws : List (W64 × Bool)) :
    (s.enginePuts core sp va ws).1.memOk := memOk_putWords _ (fun _ _ _ _ _ h => State.memOk_engineWrite h _ _ _ _ _ _) ws va h

/-! ### Accesses of lanes -/

theorem State.memOk_release (h : s.memOk) (core scope : Nat) : (s.release core scope).memOk := by
  unfold State.release
  refine State.memOk_ite h (State.memOk_ite (MemSys.wf_cleanHosts (State.memOk_cleanCore h core false)) (State.memOk_cleanCore h core false))

theorem State.memOk_acquire (h : s.memOk) (core scope : Nat) : (s.acquire core scope).memOk := State.memOk_ite h h

theorem State.memOk_addAcc (h : s.memOk) (a : Acc) : (s.addAcc a).memOk := h

theorem State.memOk_adderCheck (h : s.memOk) (sec : Nat) (k : AccKind) : (s.adderCheck sec k).1.memOk := by
  unfold State.adderCheck
  split
  · exact State.memOk_ite h h
  · exact State.memOk_ite h h
  · exact h

theorem State.memOk_homeUpdate (h : s.memOk) (core loc n : Nat) (k : AccKind) (data cmp : W64) (p : Bool) :
    (s.homeUpdate core loc n k data cmp p).1.memOk := by
  have h1 : (((s.recall (lineOf loc) none).shedSector core (sectorOf loc)).modMs fun ms =>
      (ms.l2Fill (sectorOf loc)).l2Merge (sectorOf loc) 0).memOk := by
    show (MemSys.l2Merge _ _ _).mem.wf = true
    rw [MemSys.mem_l2Merge, MemSys.mem_l2Fill]
    exact State.memOk_shedSector (State.memOk_recall h (lineOf loc) none) core (sectorOf loc)
  unfold State.homeUpdate
  split
  · exact h
  · simp only []
    split
    · exact h1
    · show (MemSys.heatAdd _ _ _ _).mem.wf = true
      rw [MemSys.mem_heatAdd]
      exact MemSys.wf_homeWrite (State.memOk_adderCheck h1 _ _) _ _ _ _

theorem State.memOk_agentAdd (h : s.memOk) (unit : Nat) (sp : Space) (va : W64) (v : Nat) : (s.agentAdd unit sp va v).1.memOk := by
  refine State.memOk_agent h unit sp va .both _ fun s loc h => ?_
  split
  · exact State.memOk_regTouch h _ _ _
  · exact State.memOk_homeUpdate h _ _ _ _ _ _ _

/-- What the link controller does keeps the form when the updates do. -/
theorem State.memOk_atController (h : s.memOk) (loc : Nat) (k : State → State) (hk : ∀ s : State, s.memOk → (k s).memOk) (t : State)
    (ht : s.atController loc k = some t) : t.memOk := by
  have h1 := State.memOk_evictL2 h (lineOf loc)
  unfold State.atController at ht
  rw [Option.ite_none_left_eq_some] at ht
  rw [← Option.some.inj ht.2]
  exact State.memOk_evictL2 (hk _ h1) _

theorem State.memOk_ownLine (h : s.memOk) (core line : Nat) : (s.ownLine core line).memOk := by
  unfold State.ownLine
  split
  · exact h
  · exact State.memOk_modMs (State.memOk_grant (State.memOk_recall (State.memOk_l1Room h core line) line (some core)) core line false) _
      fun _ hm => hm

theorem State.memOk_localUpdate (h : s.memOk) (core loc n : Nat) (k : AccKind) (data cmp : W64) (p : Bool) :
    (s.localUpdate core loc n k data cmp p).1.memOk := by
  have h1 := State.memOk_ownLine h core (lineOf loc)
  have h2 : ∀ t : State, t.memOk → (if t.ms.l1Has core loc n then t else t.fillSector core (sectorOf loc) true).memOk :=
    fun t ht => State.memOk_ite ht (State.memOk_fillSector ht _ _ _)
  have h3 := h2 _ h1
  unfold State.localUpdate
  simp only []
  split
  · exact h3
  · show (MemSys.l1Write _ _ _ _ _).mem.wf = true
    rw [MemSys.mem_l1Write]
    exact h3

theorem State.memOk_ownTile (h : s.memOk) (w : Wg) (t : Tile) (off : Nat) : (s.ownTile w t off).memOk := by
  unfold State.ownTile
  refine State.memOk_ite h ?_
  split
  · exact State.memOk_forPart h _ _ fun _ h => State.memOk_grant (State.memOk_recall (State.memOk_evictLine h _ _) _ _) _ _ _
  · exact h

theorem State.memOk_tileStore (h : s.memOk) (wg idx off : Nat) (bs : List Byte) (p : Bool) : (s.tileStore wg idx off bs p).memOk := by
  unfold State.tileStore
  split
  · exact h
  · split
    · exact h
    · exact State.memOk_ownTile h _ _ _

theorem State.memOk_tileUpdate (h : s.memOk) (wg idx off n : Nat) (k : AccKind) (data cmp : W64) (p : Bool) :
    (s.tileUpdate wg idx off n k data cmp p).1.memOk := by
  unfold State.tileUpdate
  split
  · exact h
  · split
    · exact h
    · exact State.memOk_tileStore h _ _ _ _ _
    · have h1 := fun (w : Wg) t => State.memOk_ownTile h w t off
      simp only []
      split
      · exact h1 _ _
      · exact h1 _ _

theorem State.memOk_storeMem (h : s.memOk) (core loc n : Nat) (data : W64) (p rel : Bool) (scope : Nat) :
    (s.storeMem core loc n data p rel scope).memOk := by
  unfold State.storeMem
  refine State.memOk_ite (State.memOk_homeUpdate h _ _ _ _ _ _ _) ?_
  show (MemSys.l1Write _ _ _ _ _).mem.wf = true
  rw [MemSys.mem_l1Write]
  exact State.memOk_l1Room h _ _

theorem State.memOk_loadMem (h : s.memOk) (core loc n : Nat) : (s.loadMem core loc n).1.memOk := by
  show State.memOk (if _ then _ else _)
  exact State.memOk_ite h (State.memOk_fillSector h _ _ _)

theorem State.memOk_lookMem (h : s.memOk) (asid : BitVec 16) (va : W64) (core loc n : Nat) :
    (s.lookMem asid va core loc n).1.memOk := by
  have h1 := State.memOk_loadMem h core loc n
  unfold State.lookMem
  simp only []
  split
  · exact h1
  · exact h1

theorem State.memOk_grantEntries (h : s.memOk) : s.grantEntries.memOk := State.memOk_ite h h

/-! ### Ends of threads and traps -/

theorem State.memOk_blame {s0 t : State} (h : t.memOk) (wg : Nat) : (s0.blame wg t).memOk := by
  unfold State.blame
  simp only []
  split
  · split
    · exact h
    · exact h
  · exact h

theorem State.memOk_drainTile (h : s.memOk) (w : Wg) (t : Tile) : (s.drainTile w t).1.memOk := by
  have hx := State.memOk_xlateBy h (engineUnit w.core) (s.space w) t.vpage .write
  unfold State.drainTile
  split
  · exact h
  · simp only []
    split
    · split
      · exact State.memOk_blame (State.memOk_dropWrite hx) _
      · exact State.memOk_foldl _ _ (fun _ _ h => State.memOk_modMs (State.memOk_l2Room h _) _ fun _ hm =>
          MemSys.wf_tileWrite hm _ _ _ _) (State.memOk_tileTouch hx _ _)
    · exact hx

theorem State.memOk_reportHalted (h : s.memOk) (core : Nat) : (s.reportHalted core).memOk := State.memOk_ite h h

theorem State.memOk_endWg (h : s.memOk) (id : Nat) : (s.endWg id).memOk := by
  unfold State.endWg
  split
  · exact h
  · rename_i w _
    have h1 := State.memOk_cleanCore
      (State.memOk_foldl (fun (t : State) x => if t.drainHeld w x then t else (t.drainTile w x).1) w.tiles
        (fun _ t h => State.memOk_ite h (State.memOk_drainTile h w t)) h) w.core true
    simp only []
    refine State.memOk_reportHalted ?_ _
    exact h1

theorem State.memOk_exitLane (h : s.memOk) (id i : Nat) : (s.exitLane id i).memOk := by
  unfold State.exitLane
  split
  · exact h
  · split
    · exact h
    · simp only []
      split
      · exact h
      · split
        · exact h
        · refine State.memOk_endWg ?_ _
          exact h

theorem State.memOk_kill (h : s.memOk) (id i cause : Nat) (tval : W64) : (s.kill id i cause tval).memOk := by
  unfold State.kill
  split
  · exact h
  · split
    · exact h
    · exact State.memOk_exitLane (State.memOk_modNode h _ _) _ _

/-- A trap keeps the form, whether it is delivered or goes to the module OS. -/
theorem State.memOk_takeTrap (h : s.memOk) (id i cause : Nat) (tval : W64) (clt eng : Bool) :
    (s.takeTrap id i cause tval clt eng).memOk := by
  unfold State.takeTrap
  split
  · exact h
  · exact State.memOk_ite h (State.memOk_ite (State.memOk_kill (s := s.modWg id (·.giveBack i)) h _ _ _ _) h)

end Sys2Proof.Machine
end

