-- ==== Sys2Proof/Laws/PerInstr.lean ====
section
/-! SUPPORT. Laws of an instruction as syntax, one lemma for each constructor. -/
namespace Sys2Proof.Laws.OpcodeOfWord

/-- The first word of an encoded instruction holds its opcode in bits 63 to 56 (R248). -/
def Statement (i : Instr) : Prop :=
  ∀ (o : BitVec 8) (f : Fields) (off : BitVec 24), i.code = some (o, f, off) →
    ∃ (w : W64) (ls : List W64), encode i = w :: ls ∧ w.extractLsb' 56 8 = o

/-- The opcode of a word. -/
theorem opc_toWord (r : RawWord) : r.toWord.extractLsb' 56 8 = r.opc := by
  apply BitVec.eq_of_getLsbD_eq
  intro i hi
  simp only [RawWord.toWord, BitVec.getLsbD_extractLsb', BitVec.getLsbD_append, hi]
  rw [if_neg (by omega)]
  rw [decide_true, Bool.true_and]
  exact congrArg r.opc.getLsbD (by omega)

/-- The statement of any instruction. -/
theorem all (i : Instr) : Statement i := by
  intro o f off h
  unfold encode
  rw [h]
  simp only []
  split
  · exact ⟨_, _, rfl, opc_toWord _⟩
  · exact ⟨_, _, rfl, opc_toWord _⟩

theorem nop : ∀ f, Statement (.nop f) := fun _ => all _
theorem mov : ∀ f, Statement (.mov f) := fun _ => all _
theorem sel : ∀ f, Statement (.sel f) := fun _ => all _
theorem rdspec : ∀ f, Statement (.rdspec f) := fun _ => all _
theorem iadd : ∀ f, Statement (.iadd f) := fun _ => all _
theorem isub : ∀ f, Statement (.isub f) := fun _ => all _
theorem imul : ∀ f, Statement (.imul f) := fun _ => all _
theorem imulhi : ∀ f, Statement (.imulhi f) := fun _ => all _
theorem imad : ∀ f, Statement (.imad f) := fun _ => all _
theorem imin : ∀ f, Statement (.imin f) := fun _ => all _
theorem imax : ∀ f, Statement (.imax f) := fun _ => all _
theorem iabs : ∀ f, Statement (.iabs f) := fun _ => all _
theorem iaddc : ∀ f, Statement (.iaddc f) := fun _ => all _
theorem lea : ∀ f, Statement (.lea f) := fun _ => all _
theorem icmp : ∀ f, Statement (.icmp f) := fun _ => all _
theorem clamp : ∀ f, Statement (.clamp f) := fun _ => all _
theorem land : ∀ f, Statement (.land f) := fun _ => all _
theorem lor : ∀ f, Statement (.lor f) := fun _ => all _
theorem lxor : ∀ f, Statement (.lxor f) := fun _ => all _
theorem ltab : ∀ f, Statement (.ltab f) := fun _ => all _
theorem shl : ∀ f, Statement (.shl f) := fun _ => all _
theorem shr : ∀ f, Statement (.shr f) := fun _ => all _
theorem sar : ∀ f, Statement (.sar f) := fun _ => all _
theorem rot : ∀ f, Statement (.rot f) := fun _ => all _
theorem bfe : ∀ f, Statement (.bfe f) := fun _ => all _
theorem bfi : ∀ f, Statement (.bfi f) := fun _ => all _
theorem popc : ∀ f, Statement (.popc f) := fun _ => all _
theorem clz : ∀ f, Statement (.clz f) := fun _ => all _
theorem brev : ∀ f, Statement (.brev f) := fun _ => all _
theorem permb : ∀ f, Statement (.permb f) := fun _ => all _
theorem plop : ∀ f, Statement (.plop f) := fun _ => all _
theorem pmovToPredicate : ∀ f, Statement (.pmovToPredicate f) := fun _ => all _
theorem pmovFromPredicate : ∀ f, Statement (.pmovFromPredicate f) := fun _ => all _
theorem bra : ∀ f off, Statement (.bra f off) := fun _ _ => all _
theorem brx : ∀ f, Statement (.brx f) := fun _ => all _
theorem call : ∀ f off, Statement (.call f off) := fun _ _ => all _
theorem callx : ∀ f, Statement (.callx f) := fun _ => all _
theorem ret : ∀ f, Statement (.ret f) := fun _ => all _
theorem join : ∀ f off, Statement (.join f off) := fun _ _ => all _
theorem exitOp : ∀ f, Statement (.exitOp f) := fun _ => all _
theorem yield : ∀ f, Statement (.yield f) := fun _ => all _
theorem doze : ∀ f, Statement (.doze f) := fun _ => all _
theorem repOp : ∀ f, Statement (.repOp f) := fun _ => all _
theorem gshape : ∀ f, Statement (.gshape f) := fun _ => all _
theorem elect : ∀ f, Statement (.elect f) := fun _ => all _
theorem voteAll : ∀ f, Statement (.voteAll f) := fun _ => all _
theorem voteAny : ∀ f, Statement (.voteAny f) := fun _ => all _
theorem voteBallot : ∀ f, Statement (.voteBallot f) := fun _ => all _
theorem voteCount : ∀ f, Statement (.voteCount f) := fun _ => all _
theorem matchOp : ∀ f, Statement (.matchOp f) := fun _ => all _
theorem wspill : ∀ f, Statement (.wspill f) := fun _ => all _
theorem wfill : ∀ f, Statement (.wfill f) := fun _ => all _
theorem fadd : ∀ f, Statement (.fadd f) := fun _ => all _
theorem fsub : ∀ f, Statement (.fsub f) := fun _ => all _
theorem fmul : ∀ f, Statement (.fmul f) := fun _ => all _
theorem ffma : ∀ f, Statement (.ffma f) := fun _ => all _
theorem fmin : ∀ f, Statement (.fmin f) := fun _ => all _
theorem fmax : ∀ f, Statement (.fmax f) := fun _ => all _
theorem fabs : ∀ f, Statement (.fabs f) := fun _ => all _
theorem fneg : ∀ f, Statement (.fneg f) := fun _ => all _
theorem fcmp : ∀ f, Statement (.fcmp f) := fun _ => all _
theorem fclass : ∀ f, Statement (.fclass f) := fun _ => all _
theorem fround : ∀ f, Statement (.fround f) := fun _ => all _
theorem fscale : ∀ f, Statement (.fscale f) := fun _ => all _
theorem frcp : ∀ f, Statement (.frcp f) := fun _ => all _
theorem frsq : ∀ f, Statement (.frsq f) := fun _ => all _
theorem fexp2 : ∀ f, Statement (.fexp2 f) := fun _ => all _
theorem flog2 : ∀ f, Statement (.flog2 f) := fun _ => all _
theorem ftanh : ∀ f, Statement (.ftanh f) := fun _ => all _
theorem cvtf : ∀ f, Statement (.cvtf f) := fun _ => all _
theorem cvtfi : ∀ f, Statement (.cvtfi f) := fun _ => all _
theorem cvtif : ∀ f, Statement (.cvtif f) := fun _ => all _
theorem pack8 : ∀ f, Statement (.pack8 f) := fun _ => all _
theorem pack4 : ∀ f, Statement (.pack4 f) := fun _ => all _
theorem unpk8 : ∀ f, Statement (.unpk8 f) := fun _ => all _
theorem unpk4 : ∀ f, Statement (.unpk4 f) := fun _ => all _
theorem dot4 : ∀ f, Statement (.dot4 f) := fun _ => all _
theorem dot8 : ∀ f, Statement (.dot8 f) := fun _ => all _
theorem idot4 : ∀ f, Statement (.idot4 f) := fun _ => all _
theorem idot8 : ∀ f, Statement (.idot8 f) := fun _ => all _
theorem pfma : ∀ f, Statement (.pfma f) := fun _ => all _
theorem lshfl : ∀ f, Statement (.lshfl f) := fun _ => all _
theorem lperm : ∀ f, Statement (.lperm f) := fun _ => all _
theorem qswap : ∀ f, Statement (.qswap f) := fun _ => all _
theorem qbcast : ∀ f, Statement (.qbcast f) := fun _ => all _
theorem gred : ∀ f, Statement (.gred f) := fun _ => all _
theorem gscan : ∀ f, Statement (.gscan f) := fun _ => all _
theorem v2s : ∀ f, Statement (.v2s f) := fun _ => all _
theorem ld : ∀ f, Statement (.ld f) := fun _ => all _
theorem st : ∀ f, Statement (.st f) := fun _ => all _
theorem lds : ∀ f, Statement (.lds f) := fun _ => all _
theorem sts : ∀ f, Statement (.sts f) := fun _ => all _
theorem ldu : ∀ f, Statement (.ldu f) := fun _ => all _
theorem ldl : ∀ f, Statement (.ldl f) := fun _ => all _
theorem stl : ∀ f, Statement (.stl f) := fun _ => all _
theorem pref : ∀ f, Statement (.pref f) := fun _ => all _
theorem atom : ∀ f, Statement (.atom f) := fun _ => all _
theorem atomcas : ∀ f, Statement (.atomcas f) := fun _ => all _
theorem red : ∀ f, Statement (.red f) := fun _ => all _
theorem atoms : ∀ f, Statement (.atoms f) := fun _ => all _
theorem fence : ∀ f, Statement (.fence f) := fun _ => all _
theorem cmaintClean : ∀ f, Statement (.cmaintClean f) := fun _ => all _
theorem cmaintInv : ∀ f, Statement (.cmaintInv f) := fun _ => all _
theorem cmaintClinv : ∀ f, Statement (.cmaintClinv f) := fun _ => all _
theorem barinit : ∀ f, Statement (.barinit f) := fun _ => all _
theorem barreg : ∀ f, Statement (.barreg f) := fun _ => all _
theorem bararr : ∀ f, Statement (.bararr f) := fun _ => all _
theorem barwait : ∀ f, Statement (.barwait f) := fun _ => all _
theorem barsync : ∀ f, Statement (.barsync f) := fun _ => all _
theorem bardrop : ∀ f, Statement (.bardrop f) := fun _ => all _
theorem qbind : ∀ f, Statement (.qbind f) := fun _ => all _
theorem qpoll : ∀ f, Statement (.qpoll f) := fun _ => all _
theorem tclaim : ∀ f, Statement (.tclaim f) := fun _ => all _
theorem tfill : ∀ f, Statement (.tfill f) := fun _ => all _
theorem tdrain : ∀ f, Statement (.tdrain f) := fun _ => all _
theorem tstat : ∀ f, Statement (.tstat f) := fun _ => all _
theorem tfree : ∀ f, Statement (.tfree f) := fun _ => all _
theorem rbres : ∀ f, Statement (.rbres f) := fun _ => all _
theorem rbpub : ∀ f, Statement (.rbpub f) := fun _ => all _
theorem rbtake : ∀ f, Statement (.rbtake f) := fun _ => all _
theorem rbfree : ∀ f, Statement (.rbfree f) := fun _ => all _
theorem rbmeta : ∀ f, Statement (.rbmeta f) := fun _ => all _
theorem mxldw : ∀ f, Statement (.mxldw f) := fun _ => all _
theorem mxmul : ∀ f, Statement (.mxmul f) := fun _ => all _
theorem mxmult : ∀ f, Statement (.mxmult f) := fun _ => all _
theorem mxprom : ∀ f, Statement (.mxprom f) := fun _ => all _
theorem mxzero : ∀ f, Statement (.mxzero f) := fun _ => all _
theorem mxrd : ∀ f, Statement (.mxrd f) := fun _ => all _
theorem mxstat : ∀ f, Statement (.mxstat f) := fun _ => all _
theorem mxfence : ∀ f, Statement (.mxfence f) := fun _ => all _
theorem cvset : ∀ f, Statement (.cvset f) := fun _ => all _
theorem cvqry : ∀ f, Statement (.cvqry f) := fun _ => all _
theorem kacc : ∀ f, Statement (.kacc f) := fun _ => all _
theorem kprobe : ∀ f, Statement (.kprobe f) := fun _ => all _
theorem kdrain : ∀ f, Statement (.kdrain f) := fun _ => all _
theorem kcfg : ∀ f, Statement (.kcfg f) := fun _ => all _
theorem kstat : ∀ f, Statement (.kstat f) := fun _ => all _
theorem kflush : ∀ f, Statement (.kflush f) := fun _ => all _
theorem kmergeBlock : ∀ f, Statement (.kmergeBlock f) := fun _ => all _
theorem kmergeRing : ∀ f, Statement (.kmergeRing f) := fun _ => all _
theorem kclear : ∀ f, Statement (.kclear f) := fun _ => all _
theorem itrsrcRange : ∀ f, Statement (.itrsrcRange f) := fun _ => all _
theorem itrsrcList : ∀ f, Statement (.itrsrcList f) := fun _ => all _
theorem itrsrcBitmap : ∀ f, Statement (.itrsrcBitmap f) := fun _ => all _
theorem itrmapAffine : ∀ f, Statement (.itrmapAffine f) := fun _ => all _
theorem itrmapGather : ∀ f, Statement (.itrmapGather f) := fun _ => all _
theorem itrfilt : ∀ f, Statement (.itrfilt f) := fun _ => all _
theorem itrzip : ∀ f, Statement (.itrzip f) := fun _ => all _
theorem itrchain : ∀ f, Statement (.itrchain f) := fun _ => all _
theorem itrflat : ∀ f, Statement (.itrflat f) := fun _ => all _
theorem itrnext : ∀ f, Statement (.itrnext f) := fun _ => all _
theorem itrenough : ∀ f, Statement (.itrenough f) := fun _ => all _
theorem itrsave : ∀ f, Statement (.itrsave f) := fun _ => all _
theorem itrload : ∀ f, Statement (.itrload f) := fun _ => all _
theorem cpy : ∀ f, Statement (.cpy f) := fun _ => all _
theorem cpy2d : ∀ f, Statement (.cpy2d f) := fun _ => all _
theorem veer : ∀ f, Statement (.veer f) := fun _ => all _
theorem veerq : ∀ f, Statement (.veerq f) := fun _ => all _
theorem fwait : ∀ f, Statement (.fwait f) := fun _ => all _
theorem ftest : ∀ f, Statement (.ftest f) := fun _ => all _
theorem fcancel : ∀ f, Statement (.fcancel f) := fun _ => all _
theorem trapOp : ∀ f, Statement (.trapOp f) := fun _ => all _
theorem tret : ∀ f, Statement (.tret f) := fun _ => all _
theorem csrr : ∀ f, Statement (.csrr f) := fun _ => all _
theorem csrw : ∀ f, Statement (.csrw f) := fun _ => all _
theorem csrwTpcTbase : ∀ f, Statement (.csrwTpcTbase f) := fun _ => all _
theorem csrwTstatus : ∀ f, Statement (.csrwTstatus f) := fun _ => all _
theorem csrwErrseed : ∀ f, Statement (.csrwErrseed f) := fun _ => all _
theorem csrwErrrate : ∀ f, Statement (.csrwErrrate f) := fun _ => all _
theorem tlbinvPage : ∀ f, Statement (.tlbinvPage f) := fun _ => all _
theorem tlbinvAs : ∀ f, Statement (.tlbinvAs f) := fun _ => all _
theorem tlbinvAll : ∀ f, Statement (.tlbinvAll f) := fun _ => all _
theorem tlbprobe : ∀ f, Statement (.tlbprobe f) := fun _ => all _
theorem nopreBegin : ∀ f, Statement (.nopreBegin f) := fun _ => all _
theorem nopreEnd : ∀ f, Statement (.nopreEnd f) := fun _ => all _
theorem bkpt : ∀ f, Statement (.bkpt f) := fun _ => all _
theorem errinjReg : ∀ f, Statement (.errinjReg f) := fun _ => all _
theorem errinjOnce : ∀ f, Statement (.errinjOnce f) := fun _ => all _
theorem errinjTwice : ∀ f, Statement (.errinjTwice f) := fun _ => all _
theorem errinjSector : ∀ f, Statement (.errinjSector f) := fun _ => all _
theorem ckpt : ∀ f, Statement (.ckpt f) := fun _ => all _
theorem halt : ∀ f, Statement (.halt f) := fun _ => all _
theorem nopPacket : ∀ q len, Statement (.nopPacket q len) := fun _ _ => all _
theorem launch : ∀ q p, Statement (.launch q p) := fun _ _ => all _
theorem indirectLaunch : ∀ q p, Statement (.indirectLaunch q p) := fun _ _ => all _
theorem fencePacket : ∀ q cs, Statement (.fencePacket q cs) := fun _ _ => all _
theorem loopPacket : ∀ q mem body word, Statement (.loopPacket q mem body word) := fun _ _ _ _ => all _
theorem ifPacket : ∀ q w64 cmp skip addr value, Statement (.ifPacket q w64 cmp skip addr value) := fun _ _ _ _ _ _ => all _
theorem segmentBegin : ∀ q seg retry, Statement (.segmentBegin q seg retry) := fun _ _ _ => all _
theorem segmentEnd : ∀ q seg, Statement (.segmentEnd q seg) := fun _ _ => all _
theorem replay : ∀ q seg, Statement (.replay q seg) := fun _ _ => all _
theorem ckptPacket : ∀ q wait addr, Statement (.ckptPacket q wait addr) := fun _ _ _ => all _
theorem signalWrite64 : ∀ q p, Statement (.signalWrite64 q p) := fun _ _ => all _
theorem signalRedAdd : ∀ q p, Statement (.signalRedAdd q p) := fun _ _ => all _
theorem signalWrite32 : ∀ q p, Statement (.signalWrite32 q p) := fun _ _ => all _
theorem doorbell : ∀ cp off width, Statement (.doorbell cp off width) := fun _ _ _ => all _
theorem widxPoll : ∀ q, Statement (.widxPoll q) := fun _ => all _
theorem queueResume : ∀ q, Statement (.queueResume q) := fun _ => all _
theorem fenceCounterPoll : ∀ q, Statement (.fenceCounterPoll q) := fun _ => all _
theorem fenceDeadline : ∀ q, Statement (.fenceDeadline q) := fun _ => all _
theorem nodeReady : ∀ n, Statement (.nodeReady n) := fun _ => all _
theorem nodeDispatch : ∀ n places, Statement (.nodeDispatch n places) := fun _ _ => all _
theorem nodeComplete : ∀ n, Statement (.nodeComplete n) := fun _ => all _
theorem segmentRetry : ∀ q, Statement (.segmentRetry q) := fun _ => all _
theorem classPreemption : ∀ n wgi core, Statement (.classPreemption n wgi core) := fun _ _ _ => all _
theorem arrayStep : ∀ core quarter, Statement (.arrayStep core quarter) := fun _ _ => all _
theorem arrayStepComplete : ∀ core quarter, Statement (.arrayStepComplete core quarter) := fun _ _ => all _
theorem arraySlotPreemption : ∀ core quarter, Statement (.arraySlotPreemption core quarter) := fun _ _ => all _
theorem mxmultChunk : ∀ core quarter, Statement (.mxmultChunk core quarter) := fun _ _ => all _
theorem joinTimeout : ∀ wg quad, Statement (.joinTimeout wg quad) := fun _ _ => all _
theorem dozeExpiry : ∀ wg lane, Statement (.dozeExpiry wg lane) := fun _ _ => all _
theorem translationMissComplete : ∀ k, Statement (.translationMissComplete k) := fun _ => all _
theorem pageFaultServiceComplete : ∀ asid va leaf, Statement (.pageFaultServiceComplete asid va leaf) := fun _ _ _ => all _
theorem loadDataReturn : ∀ id, Statement (.loadDataReturn id) := fun _ => all _
theorem tileFillComplete : ∀ wg idx, Statement (.tileFillComplete wg idx) := fun _ _ => all _
theorem tileDrainComplete : ∀ wg idx, Statement (.tileDrainComplete wg idx) := fun _ _ => all _
theorem tileRelease : ∀ wg idx, Statement (.tileRelease wg idx) := fun _ _ => all _
theorem migrationEpoch : ∀ die, Statement (.migrationEpoch die) := fun _ => all _
theorem migrationStart : ∀ region frame, Statement (.migrationStart region frame) := fun _ _ => all _
theorem migrationCopyComplete : ∀ region, Statement (.migrationCopyComplete region) := fun _ => all _
theorem migrationAbandon : ∀ region, Statement (.migrationAbandon region) := fun _ => all _
theorem stickDrain : ∀ stick, Statement (.stickDrain stick) := fun _ => all _
theorem overflowSlotSupplied : ∀ stick slot, Statement (.overflowSlotSupplied stick slot) := fun _ _ => all _
theorem memoryLinkRetrainFail : ∀ stick, Statement (.memoryLinkRetrainFail stick) := fun _ => all _
theorem driftRingWrite : ∀ asid ring, Statement (.driftRingWrite asid ring) := fun _ _ => all _
theorem kmergeBatch : ∀ op, Statement (.kmergeBatch op) := fun _ => all _
theorem engineOperationComplete : ∀ op, Statement (.engineOperationComplete op) := fun _ => all _
theorem iteratorPullCommit : ∀ wg slot, Statement (.iteratorPullCommit wg slot) := fun _ _ => all _
theorem iteratorSlotMove : ∀ wg core, Statement (.iteratorSlotMove wg core) := fun _ _ => all _
theorem veerRequestServe : ∀ link, Statement (.veerRequestServe link) := fun _ => all _
theorem laneGroupTurnStart : ∀ link grp, Statement (.laneGroupTurnStart link grp) := fun _ _ => all _
theorem laneGroupTurnComplete : ∀ link grp, Statement (.laneGroupTurnComplete link grp) := fun _ _ => all _
theorem veerHoldExpiry : ∀ link, Statement (.veerHoldExpiry link) := fun _ => all _
theorem adaptiveTurn : ∀ link grp, Statement (.adaptiveTurn link grp) := fun _ _ => all _
theorem laneGroupRetire : ∀ link grp, Statement (.laneGroupRetire link grp) := fun _ _ => all _
theorem recalibrationStart : ∀ link grp, Statement (.recalibrationStart link grp) := fun _ _ => all _
theorem recalibrationEnd : ∀ link, Statement (.recalibrationEnd link) := fun _ => all _
theorem linkOutOfService : ∀ link, Statement (.linkOutOfService link) := fun _ => all _
theorem linkRestore : ∀ link grp, Statement (.linkRestore link grp) := fun _ _ => all _
theorem barrierArrivalCount : ∀ tree wg idx lane, Statement (.barrierArrivalCount tree wg idx lane) := fun _ _ _ _ => all _
theorem treeBarrierRelease : ∀ idx, Statement (.treeBarrierRelease idx) := fun _ => all _
theorem treeBarrierRearm : ∀ idx, Statement (.treeBarrierRearm idx) := fun _ => all _
theorem localBarrierRelease : ∀ wg idx, Statement (.localBarrierRelease wg idx) := fun _ _ => all _
theorem localBarrierRearm : ∀ wg idx, Statement (.localBarrierRearm wg idx) := fun _ _ => all _
theorem queueFlitDelivery : ∀ k, Statement (.queueFlitDelivery k) := fun _ => all _
theorem workgroupSave : ∀ wg why, Statement (.workgroupSave wg why) := fun _ _ => all _
theorem workgroupRestore : ∀ wg core, Statement (.workgroupRestore wg core) := fun _ _ => all _
theorem nopreBoundExpiry : ∀ wg, Statement (.nopreBoundExpiry wg) := fun _ => all _
theorem infieldTestDue : ∀ core, Statement (.infieldTestDue core) := fun _ => all _
theorem infieldTestResult : ∀ core pass, Statement (.infieldTestResult core pass) := fun _ _ => all _
theorem ckptIncrement : ∀ k, Statement (.ckptIncrement k) := fun _ => all _
theorem glq : ∀ die ring value, Statement (.glq die ring value) := fun _ _ _ => all _
theorem mres : ∀ die ring, Statement (.mres die ring) := fun _ _ => all _
theorem ridxWrite : ∀ die ring value, Statement (.ridxWrite die ring value) := fun _ _ _ => all _
theorem controlBlockAccessIgnored : ∀ die ring, Statement (.controlBlockAccessIgnored die ring) := fun _ _ => all _
theorem metadataDelivery : ∀ die ring, Statement (.metadataDelivery die ring) := fun _ _ => all _
theorem gateLogitPop : ∀ die, Statement (.gateLogitPop die) := fun _ => all _
theorem coprocessorReserveRetry : ∀ die, Statement (.coprocessorReserveRetry die) := fun _ => all _
theorem ringConfiguration : ∀ die ring cfg, Statement (.ringConfiguration die ring cfg) := fun _ _ _ => all _
theorem asidRegistration : ∀ asid desc, Statement (.asidRegistration asid desc) := fun _ _ => all _
theorem partitionTableWrite : ∀ idx entry, Statement (.partitionTableWrite idx entry) := fun _ _ => all _
theorem hostSnoop : ∀ addr, Statement (.hostSnoop addr) := fun _ => all _
theorem hostMemoryAccess : ∀ acc, Statement (.hostMemoryAccess acc) := fun _ => all _
theorem fabricPortRetire : ∀ port, Statement (.fabricPortRetire port) := fun _ => all _
theorem fabricLoadTimeout : ∀ id, Statement (.fabricLoadTimeout id) := fun _ => all _
theorem domainIdAssign : ∀ id, Statement (.domainIdAssign id) := fun _ => all _
theorem powerOn : ∀ patch signed die, Statement (.powerOn patch signed die) := fun _ _ _ => all _
theorem overcastEnd : ∀ dies retired, Statement (.overcastEnd dies retired) := fun _ _ => all _
theorem livePatch : ∀ version signed, Statement (.livePatch version signed) := fun _ _ => all _
theorem attestationReport : ∀ challenge, Statement (.attestationReport challenge) := fun _ => all _
theorem dieOffline : ∀ die, Statement (.dieOffline die) := fun _ => all _
theorem stickReplacement : ∀ stick, Statement (.stickReplacement stick) := fun _ => all _
theorem powerCapEvaluation : ∀ die power flux, Statement (.powerCapEvaluation die power flux) := fun _ _ _ => all _
theorem inputPowerLimitExpiry : ∀ power, Statement (.inputPowerLimitExpiry power) := fun _ => all _
theorem telemetryPublish : ∀ stage word, Statement (.telemetryPublish stage word) := fun _ _ => all _
theorem connectorHealthReport : ∀ conn word, Statement (.connectorHealthReport conn word) := fun _ _ => all _
theorem writeAcknowledgement : ∀ id, Statement (.writeAcknowledgement id) := fun _ => all _
theorem ownershipGrant : ∀ id, Statement (.ownershipGrant id) := fun _ => all _
theorem cacheMaintenanceComplete : ∀ id, Statement (.cacheMaintenanceComplete id) := fun _ => all _
theorem memoryLinkCrcReplay : ∀ stick, Statement (.memoryLinkCrcReplay stick) := fun _ => all _
theorem uncorrectableSramError : ∀ g, Statement (.uncorrectableSramError g) := fun _ => all _
theorem doldrumsEntry : ∀ wg grp, Statement (.doldrumsEntry wg grp) := fun _ _ => all _
theorem fabricRemoteAccess : ∀ acc, Statement (.fabricRemoteAccess acc) := fun _ => all _
theorem fabricModuleUnreachable : ∀ m, Statement (.fabricModuleUnreachable m) := fun _ => all _
theorem hubCoreMemoryAccess : ∀ acc, Statement (.hubCoreMemoryAccess acc) := fun _ => all _
theorem compressedStateSetup : ∀ stick base pool overflow, Statement (.compressedStateSetup stick base pool overflow) := fun _ _ _ _ => all _
theorem compressedPageRepack : ∀ page, Statement (.compressedPageRepack page) := fun _ => all _
theorem queueBinding : ∀ q asid desc, Statement (.queueBinding q asid desc) := fun _ _ _ => all _
theorem queueHaltedByModuleOs : ∀ q, Statement (.queueHaltedByModuleOs q) := fun _ => all _
theorem haltedCoreReturn : ∀ core, Statement (.haltedCoreReturn core) := fun _ => all _
theorem powerLoss : Statement .powerLoss := all _

end Sys2Proof.Laws.OpcodeOfWord
end

