-- ==== Sys2Proof/Laws/Run.lean ====
section
/-! SUPPORT. One gang instance: two lane functions that agree on the gang give one state, and an instruction that nothing
holds up has the effect of its body (`RunsAs`). -/
namespace Sys2Proof.Machine

theorem mapLanes_congr (f g : Nat → Lane → Lane) (k : Nat) (ls : List Lane)
    (h : ∀ j (hj : j < ls.length), f (k + j) ls[j] = g (k + j) ls[j]) : mapLanes f k ls = mapLanes g k ls := by
  induction ls generalizing k with
  | nil => rfl
  | cons l ls ih =>
    have h0 := h 0 (by simp)
    simp only [Nat.add_zero, List.getElem_cons_zero] at h0
    simp only [mapLanes, h0, List.cons.injEq, true_and]
    apply ih
    intro j hj
    have := h (j + 1) (by simpa using hj)
    simpa [Nat.add_assoc, Nat.add_comm, Nat.add_left_comm] using this

theorem lane_getElem (w : Wg) (i : Nat) (h : i < w.lanes.length) : w.lane i = w.lanes[i] := by
  simp [Wg.lane, List.getD_eq_getElem?_getD, h]

theorem any_congr' {α : Type} {l : List α} {p q : α → Bool} (h : ∀ a ∈ l, p a = q a) : l.any p = l.any q := by
  induction l with
  | nil => rfl
  | cons a l ih =>
    simp only [List.any_cons, h a (by simp), ih fun b hb => h b (by simp [hb])]

theorem quadStays_congr (g : Gang) (w : Wg) (o1 o2 : Nat → Lane → LOut)
    (h : ∀ i ∈ g.lanes, o1 i (w.lane i) = o2 i (w.lane i)) (q : Nat) : quadStays g w o1 q = quadStays g w o2 q := by
  unfold quadStays
  exact any_congr' fun i hi => by rw [h i hi]

theorem foldl_congr' {α β : Type} {l : List α} {p q : β → α → β} (h : ∀ a ∈ l, ∀ b, p b a = q b a) (b : β) :
    l.foldl p b = l.foldl q b := by
  induction l generalizing b with
  | nil => rfl
  | cons a l ih =>
    simp only [List.foldl_cons, h a (by simp)]
    exact ih (fun c hc => h c (by simp [hc])) _

theorem flatMap_congr' {α β : Type} {l : List α} {p q : α → List β} (h : ∀ a ∈ l, p a = q a) :
    l.flatMap p = l.flatMap q := by
  induction l with
  | nil => rfl
  | cons a l ih => simp only [List.flatMap_cons, h a (by simp), ih fun b hb => h b (by simp [hb])]

theorem laneFx_congr (g : Gang) (w : Wg) (o1 o2 : Nat → Lane → LOut)
    (h : ∀ i ∈ g.lanes, o1 i (w.lane i) = o2 i (w.lane i)) : g.lanes.flatMap (laneFx g w o1) = g.lanes.flatMap (laneFx g w o2) := by
  apply flatMap_congr'
  intro i hi
  unfold laneFx
  rw [quadStays_congr g w o1 o2 h, h i hi]

theorem foldr_congr' {α β : Type} {l : List α} {p q : α → β → β} (h : ∀ a ∈ l, ∀ b, p a b = q a b) (b : β) :
    l.foldr p b = l.foldr q b := by
  induction l with
  | nil => rfl
  | cons a l ih => simp only [List.foldr_cons, ih fun c hc => h c (by simp [hc]), h a (by simp)]

theorem giveBacks_congr (g : Gang) (w : Wg) (o1 o2 : Nat → Lane → LOut)
    (h : ∀ i ∈ g.lanes, o1 i (w.lane i) = o2 i (w.lane i)) (w1 : Wg) : giveBacks g w o1 w1 = giveBacks g w o2 w1 := by
  unfold giveBacks
  apply foldr_congr'
  intro i hi b
  rw [quadStays_congr g w o1 o2 h, h i hi]

/-- Two lane functions that agree on the lanes of the gang give one state. -/
theorem runLanes_congr (s : State) (g : Gang) (w : Wg) (o1 o2 : Nat → Lane → LOut)
    (h : ∀ i ∈ g.lanes, o1 i (w.lane i) = o2 i (w.lane i)) : s.runLanes g w o1 = s.runLanes g w o2 := by
  have hq := quadStays_congr g w o1 o2 h
  have hm : mapLanes (laneAfter g w s.ck.now o1) 0 w.lanes = mapLanes (laneAfter g w s.ck.now o2) 0 w.lanes := by
    apply mapLanes_congr
    intro j hj
    unfold laneAfter
    by_cases hc : (0 + j) ∈ g.lanes
    · have := h _ hc
      simp only [Nat.zero_add] at this hc ⊢
      rw [lane_getElem w j hj] at this
      rw [this, hq]
    · simp only [Nat.zero_add] at hc ⊢
      simp [hc]
  unfold State.runLanes
  simp only [hm, laneFx_congr g w o1 o2 h, giveBacks_congr g w o1 o2 h]
  apply foldl_congr'
  intro i hi b
  unfold laneEnd
  rw [hq, h i hi]

/-- Nothing stops a lane that is ready and whose guard is true. -/
theorem laneStop_ready (cx : Cx) (sp : LaneSpec) (f : Fields) (i : Nat) (l : Lane) (h1 : limitStop cx sp f i l = none)
    (h2 : stopOf cx i (sources cx sp f i l) = none) (h3 : (awayQuads cx sp.sig f).contains (i / 4) = false)
    (h4 : (sp.sig.dst == .qtx || !creditStop cx f i l) = true) (h5 : dstBusy cx i l sp.sig.dst f.dst = false) :
    laneStop cx sp f i l (sources cx sp f i l) = none := by
  have h4' : (sp.sig.dst != .qtx && creditStop cx f i l) = false := by
    cases hd : sp.sig.dst == .qtx <;> simp_all [bne]
  unfold laneStop
  simp only [h1, h2, h3, h4', h5, Bool.or_self, Bool.false_eq_true, if_false]

/-- A lane that is not held up does its body. -/
theorem laneOut_ready (cx : Cx) (sp : LaneSpec) (f : Fields) (i : Nat) (h : laneReady cx sp f i = true) :
    laneOut cx sp f i (cx.w.lane i) = laneRuns cx sp f i (cx.w.lane i) := by
  unfold laneReady at h
  simp only [Bool.and_eq_true, Bool.not_eq_true', Option.isNone_iff_eq_none] at h
  obtain ⟨⟨hp, hg⟩, hr⟩ := h
  unfold laneOut laneRuns
  simp only [hp, hg, Bool.false_eq_true, if_false]
  congr 1
  by_cases hgu : Lane.guard (cx.w.lane i) (repFields sp.sig f (cx.w.lane i).rep) = true
  · simp only [hgu, Bool.not_true, Bool.false_or, Bool.and_eq_true, Bool.not_eq_true', Option.isNone_iff_eq_none] at hr
    obtain ⟨⟨⟨⟨h1, h2⟩, h3⟩, h4⟩, h5⟩ := hr
    simp only [hgu, Bool.not_true, Bool.false_eq_true, if_false, laneBody,
      laneStop_ready cx sp _ i _ h1 h2 h3 h4 h5]
  · simp [hgu]

/-- The roles that reading the fields depends on. -/
structure LaneSpec.SameRoles (a b : LaneSpec) : Prop where
  sig : a.sig = b.sig
  use : a.use = b.use
  more : a.more = b.more
  giver : a.giver = b.giver
  bad : a.bad = b.bad

theorem sources_roles {a b : LaneSpec} (h : a.SameRoles b) (cx : Cx) (f : Fields) (i : Nat) (l : Lane) :
    sources cx a f i l = sources cx b f i l := by
  unfold sources
  rw [h.sig, h.use, h.more, h.giver]

theorem valsOf_roles {a b : LaneSpec} (h : a.SameRoles b) (cx : Cx) (f : Fields) (i : Nat) (l : Lane) :
    valsOf cx a f i l = valsOf cx b f i l := by
  unfold valsOf
  rw [h.sig, h.use, h.giver]

theorem limitStop_roles {a b : LaneSpec} (h : a.SameRoles b) (cx : Cx) (f : Fields) (i : Nat) (l : Lane) :
    limitStop cx a f i l = limitStop cx b f i l := by
  unfold limitStop
  rw [h.sig, h.bad]

theorem popFlits_roles {a b : LaneSpec} (h : a.SameRoles b) (g : Gang) (f : Fields) (w : Wg) :
    popFlits g a f w = popFlits g b f w := by
  have hq : popQueues a = popQueues b := by
    unfold popQueues
    rw [h.sig, h.use]
  have ht : ∀ cx f i, popTraps cx a f i = popTraps cx b f i := by
    intro cx f i
    unfold popTraps
    rw [sources_roles h, limitStop_roles h]
  unfold popFlits
  simp only [hq, ht, h.sig]

theorem laneReady_roles {a b : LaneSpec} (h : a.SameRoles b) (cx : Cx) (f : Fields) (i : Nat) :
    laneReady cx a f i = laneReady cx b f i := by
  simp only [laneReady, h.sig, sources_roles h, limitStop_roles h]

/-- Two bodies that agree where the lanes meet `ok` do the same. -/
theorem laneRuns_roles {a b : LaneSpec} (h : a.SameRoles b) (cx : Cx) (f : Fields) (i : Nat)
    (ok : Cx → Nat → Lane → Fields → Vals → Bool)
    (hb : ∀ l f v, ok cx i l f v = true → a.body cx i l f v = b.body cx i l f v) (hi : i ∈ cx.g.lanes)
    (hok : lanesMeet cx b f ok = true) :
    laneRuns cx a f i (cx.w.lane i) = laneRuns cx b f i (cx.w.lane i) := by
  have := List.all_eq_true.mp hok i hi
  simp only [Bool.or_eq_true, Bool.not_eq_true'] at this
  simp only [laneRuns, h.sig, sources_roles h, valsOf_roles h]
  by_cases hg : Lane.guard (cx.w.lane i) (repFields b.sig f (cx.w.lane i).rep) = true
  · simp only [hg, Bool.true_eq_false, false_or] at this
    rw [hb _ _ _ this]
  · simp [hg]

/-- An injector at rate 0 injects nothing. -/
theorem draws_zero (n : Nat) (x : W32) : (draws 0 n x).2 = false := by
  induction n generalizing x with
  | zero => rfl
  | succ n ih =>
    simp only [draws, ih, Bool.false_or, decide_eq_false_iff_not]
    exact Nat.not_lt_zero _

/-- No mismatch has been injected for lanes that hold none. -/
theorem injected_none (g : Gang) (w : Wg) (unit : Nat) (execs : List Nat) (hx : ∀ i ∈ execs, i ∈ g.lanes)
    (h : (unit != 0 || g.lanes.all fun i => (w.lane i).inject == 0) = true) : w.injected unit execs = 0 := by
  unfold Wg.injected
  split
  · rename_i hu
    subst hu
    simp only [bne_self_eq_false, Bool.false_or] at h
    have hz : ∀ l : List Nat, (∀ i ∈ l, i ∈ g.lanes) → l.foldl (fun m i => max m (w.lane i).inject) 0 = 0 := by
      intro l
      induction l with
      | nil => intro _; rfl
      | cons a l ih =>
        intro hl
        have ha := List.all_eq_true.mp h a (hl a (by simp))
        simp only [beq_iff_eq] at ha
        simp only [List.foldl_cons, ha, Nat.max_self]
        exact ih fun i hi => hl i (by simp [hi])
    exact hz _ hx
  · rfl

/-- THE SPEC LEMMA OF `State.residue`: when no mismatch arises, the operation goes on once the injector has drawn for it. -/
theorem residue_quiet (s : State) (g : Gang) (w : Wg) (unit : Nat) (f : Fields) (out : Nat → Lane → LOut)
    (execs : List Nat) (k : State → Wg → Out) (he : execs = execLanes g w f out) (hx : ∀ i ∈ execs, i ∈ g.lanes)
    (h : residueQuiet s g w unit = true) : s.residue g w unit execs k = k (checked s g w unit f out) w := by
  subst he
  unfold residueQuiet at h
  unfold State.residue checked
  by_cases h5 : unit = 5
  · simp [h5]
  · have h5' : (unit == 5) = false := by simpa using h5
    simp only [h5', Bool.false_or, Bool.and_eq_true] at h
    obtain ⟨⟨hi, hm⟩, ht⟩ := h
    have hinj := injected_none g w unit (execLanes g w f out) hx hi
    have hm' : (if (execLanes g w f out).isEmpty then 0 else (s.core w.core).mismatch.getD unit 0) = 0 := by
      rw [beq_iff_eq.mp hm, ite_self]
    have hd : (draws (s.core w.core).errrate (s.drawCount w (execLanes g w f out)) (s.core w.core).x).2 = false := by
      simp only [Bool.or_eq_true, Bool.not_eq_true', beq_iff_eq] at ht
      rcases ht with ht | ht
      · simp [State.drawCount, ht, draws]
      · rw [ht]
        exact draws_zero _ _
    simp only [if_neg h5, h5', hinj, hm', hd, Bool.false_eq_true, if_false, decide_true, Bool.not_false, Bool.and_self, if_true]

/-- What a lane sees does not depend on the injector. -/
theorem cxOf_checked (s : State) (g g' : Gang) (w w' : Wg) (unit : Nat) (f : Fields) (out : Nat → Lane → LOut) :
    (checked s g w unit f out).cxOf g' w' f = s.cxOf g' w' f := by
  unfold checked State.drawn
  split
  · rfl
  · split
    · rfl
    · rfl

theorem execLanes_congr (g : Gang) (w : Wg) (f : Fields) (o1 o2 : Nat → Lane → LOut)
    (h : ∀ i ∈ g.lanes, o1 i (w.lane i) = o2 i (w.lane i)) : execLanes g w f o1 = execLanes g w f o2 := by
  unfold execLanes
  simp only [quadStays_congr g w o1 o2 h]

theorem execLanes_mem (g : Gang) (w : Wg) (f : Fields) (out : Nat → Lane → LOut) :
    ∀ i ∈ execLanes g w f out, i ∈ g.lanes := by
  intro i hi
  exact (List.mem_filter.mp hi).1

/-- THE SPEC LEMMA OF `laneExecWith`: with nothing held up and no mismatch, the lanes do the bodies of `b`, a spec with the
same roles that does the same in every lane of the gang. -/
theorem laneExecWith_same (a b : LaneSpec) (f : Fields) (post : Nat → List Fx → State → State) (s : State)
    (h : a.SameRoles b) (g : Gang) (w : Wg) (hg : s.ex.gang = some g) (hw : s.wg? g.wg = some w)
    (hr : gangReady s g w b f = true)
    (hsame : ∀ i ∈ g.lanes, laneRuns (s.cxOf g (poppedWg g b f w) f) a f i ((poppedWg g b f w).lane i)
      = laneRuns (s.cxOf g (poppedWg g b f w) f) b f i ((poppedWg g b f w).lane i)) :
    laneExecWith a f post s = .next (afterGang s g w b f post) := by
  unfold gangReady at hr
  simp only [Bool.and_eq_true, Option.isNone_iff_eq_none] at hr
  obtain ⟨⟨hc, hq⟩, hl⟩ := hr
  have hout : ∀ i ∈ g.lanes, laneOut (s.cxOf g (poppedWg g b f w) f) a f i ((poppedWg g b f w).lane i)
      = laneRuns (s.cxOf g (poppedWg g b f w) f) b f i ((poppedWg g b f w).lane i) := by
    intro i hi
    have h1 := List.all_eq_true.mp hl i hi
    rw [← laneReady_roles h] at h1
    exact (laneOut_ready (s.cxOf g (poppedWg g b f w) f) a f i h1).trans (hsame i hi)
  unfold laneExecWith State.withGang
  rw [hg]
  simp only [hw, h.sig, hc, popFlits_roles h]
  change s.residue g (poppedWg g b f w) (unitOf b f) _ _ = _
  refine (residue_quiet s g (poppedWg g b f w) (unitOf b f) f (laneRuns (s.cxOf g (poppedWg g b f w) f) b f) _ _
    (execLanes_congr g _ f _ _ hout) (execLanes_mem g _ f _) hq).trans ?_
  unfold afterGang
  simp only [cxOf_checked]
  rw [runLanes_congr _ g (poppedWg g b f w) _ _ hout, laneFx_congr g (poppedWg g b f w) _ _ hout]

theorem laneExecWith_runs (a b : LaneSpec) (f : Fields) (post : Nat → List Fx → State → State) (s : State)
    (ok : Cx → Nat → Lane → Fields → Vals → Bool) (h : a.SameRoles b)
    (hb : ∀ cx i l f v, ok cx i l f v = true → a.body cx i l f v = b.body cx i l f v) (g : Gang) (w : Wg)
    (hg : s.ex.gang = some g) (hw : s.wg? g.wg = some w) (hr : gangReady s g w b f = true)
    (hok : lanesMeet (s.cxOf g (poppedWg g b f w) f) b f ok = true) :
    laneExecWith a f post s = .next (afterGang s g w b f post) :=
  laneExecWith_same a b f post s h g w hg hw hr fun i hi =>
    laneRuns_roles h (s.cxOf g (poppedWg g b f w) f) f i ok (fun _ _ _ => hb _ _ _ _ _) hi hok

theorem laneExec_runs (a b : LaneSpec) (f : Fields) (s : State) (ok : Cx → Nat → Lane → Fields → Vals → Bool)
    (h : a.SameRoles b) (hb : ∀ cx i l f v, ok cx i l f v = true → a.body cx i l f v = b.body cx i l f v) (g : Gang) (w : Wg)
    (hg : s.ex.gang = some g) (hw : s.wg? g.wg = some w) (hr : gangReady s g w b f = true)
    (hok : lanesMeet (s.cxOf g (poppedWg g b f w) f) b f ok = true) :
    laneExec a f s = .next (afterGang s g w b f) :=
  laneExecWith_runs a b f _ s ok h hb g w hg hw hr hok

/-- A meaning that is `laneExec` of a spec has the effect of any spec that is the same where the lanes meet `ok`. -/
theorem runsAs_of (ins : Instr) (a b : LaneSpec) (f : Fields) (s : State) (ok : Cx → Nat → Lane → Fields → Vals → Bool)
    (he : exec ins s = laneExec a f s) (h : a.SameRoles b)
    (hb : ∀ cx i l f v, ok cx i l f v = true → a.body cx i l f v = b.body cx i l f v) : RunsAs ins s f b ok := by
  intro g w hg hw hr hok
  rw [he]
  exact laneExec_runs a b f s ok h hb g w hg hw hr hok

/-- The same for a meaning whose lanes decide something together. -/
theorem runsAsWith_of (ins : Instr) (a b : LaneSpec) (f : Fields) (post : Nat → List Fx → State → State) (s : State)
    (ok : Cx → Nat → Lane → Fields → Vals → Bool) (he : exec ins s = laneExecWith a f post s) (h : a.SameRoles b)
    (hb : ∀ cx i l f v, ok cx i l f v = true → a.body cx i l f v = b.body cx i l f v) : RunsAs ins s f b ok post := by
  intro g w hg hw hr hok
  rw [he]
  exact laneExecWith_runs a b f post s ok h hb g w hg hw hr hok

/-! ### Instructions that act once -/

theorem find_congr' {α : Type} {l : List α} {p q : α → Bool} (h : ∀ a ∈ l, p a = q a) : l.find? p = l.find? q := by
  induction l with
  | nil => rfl
  | cons a l ih => simp only [List.find?_cons, h a (by simp), ih fun b hb => h b (by simp [hb])]

/-- A ready lane arrives. -/
theorem arrivalStop_ready (cx : Cx) (sp : LaneSpec) (f : Fields) (j : Nat) (h : laneReady cx sp f j = true)
    (h0 : (cx.w.lane j).rep = 0) : arrivalStop cx sp f j (cx.w.lane j) = none := by
  unfold laneReady at h
  simp only [h0, repFields, if_true, Bool.and_eq_true, Bool.not_eq_true', Option.isNone_iff_eq_none] at h
  obtain ⟨⟨_, hg⟩, hb⟩ := h
  unfold arrivalStop
  split
  · rfl
  · simp only [hg]
    by_cases hgu : (cx.w.lane j).guard f = true
    · simp only [hgu, Bool.not_true, Bool.false_or, Bool.and_eq_true, Bool.not_eq_true', Option.isNone_iff_eq_none] at hb
      simp only [hgu, Bool.not_true, Bool.false_eq_true, if_false, hb.1.1.1.1, hb.1.1.1.2, hb.2]
    · simp [hgu]

/-- The lanes of the gang are ready and none is in a repetition. -/
structure OnceReady (o : Once) (cx : Cx) (f : Fields) : Prop where
  ready : ∀ i ∈ cx.g.lanes, laneReady cx o.read f i = true
  rep : ∀ i ∈ cx.g.lanes, (cx.w.lane i).rep = 0

theorem OnceReady.able {o : Once} {cx : Cx} {f : Fields} (h : OnceReady o cx f) {j : Nat} (hj : j ∈ cx.g.lanes) :
    o.able cx f j = ((cx.w.lane j).live && (cx.w.lane j).guard f) := by
  unfold Once.able
  simp [arrivalStop_ready cx o.read f j (h.ready j hj) (h.rep j hj)]

theorem OnceReady.quadLead {o : Once} {cx : Cx} {f : Fields} (h : OnceReady o cx f) (q : Nat) :
    o.quadLead cx f q = quadElect cx f q := by
  unfold Once.quadLead quadElect
  exact find_congr' fun j hj => by rw [h.able hj]

/-- When the lanes go on under their quads' values, no quad drops out. -/
theorem OnceReady.holds {o : Once} {cx : Cx} {f : Fields} (h : OnceReady o cx f)
    (hl : ∀ i ∈ cx.g.lanes, (cx.w.lane i).live = true → (cx.w.lane i).guard f = true →
      ∃ l' fx, o.lane cx i (cx.w.lane i) f (o.electVals true cx f i) = .done l' fx) (q : Nat) : o.holds cx f q = false := by
  unfold Once.holds
  rw [Bool.or_eq_false_iff]
  constructor
  · unfold quadUnready
    rw [Bool.eq_false_iff]
    intro hc
    obtain ⟨j, hj, hjj⟩ := List.any_eq_true.mp hc
    simp [arrivalStop_ready cx o.read f j (h.ready j hj) (h.rep j hj)] at hjj
  · rw [h.quadLead q]
    cases hq : quadElect cx f q with
    | none => rfl
    | some j =>
      simp only [Option.any_some]
      rw [Bool.eq_false_iff]
      intro hc
      obtain ⟨k, hk, hkk⟩ := List.any_eq_true.mp hc
      simp only [Bool.and_eq_true, beq_iff_eq, h.able hk] at hkk
      obtain ⟨⟨hkq, hkl, hkg⟩, hs⟩ := hkk
      obtain ⟨l', fx, hd⟩ := hl k hk hkl hkg
      have hv : o.electVals true cx f k = o.valsAt cx f j := by
        unfold Once.electVals
        simp [hkq, hq]
      rw [hv] at hd
      rw [hd] at hs
      exact absurd hs (by simp [LOut.stays])

/-- The lane that acts is the lowest that executes, and every lane meets its values. -/
theorem OnceReady.lead {o : Once} {cx : Cx} {f : Fields} (h : OnceReady o cx f)
    (hl : ∀ i ∈ cx.g.lanes, (cx.w.lane i).live = true → (cx.w.lane i).guard f = true →
      ∃ l' fx, o.lane cx i (cx.w.lane i) f (o.electVals true cx f i) = .done l' fx) :
    o.lead cx f = electLane cx f ∧ ∀ i, o.used cx f i = o.electVals false cx f i := by
  have hlead : o.lead cx f = electLane cx f := by
    unfold Once.lead electLane
    exact find_congr' fun j hj => by rw [h.able hj, h.holds hl]; simp
  refine ⟨hlead, fun i => ?_⟩
  unfold Once.used Once.electVals
  rw [hlead, h.quadLead]
  rfl

theorem srcDone_helper (l : Lane) (o : Operand) (wide : Bool) : (srcDone l o wide).helper = l.helper := by
  unfold srcDone
  repeat' split
  all_goals rfl

theorem afterRead_helper (xs : List Src) (i : Nat) (l : Lane) : (afterRead xs i l).helper = l.helper := by
  unfold afterRead
  induction xs generalizing l with
  | nil => rfl
  | cons x xs ih =>
    simp only [List.foldl_cons]
    rw [ih]
    split
    · exact srcDone_helper _ _ _
    · rfl

theorem electLane_live (cx : Cx) (f : Fields) (i : Nat) (h : (electLane cx f == some i) = true) : (cx.w.lane i).helper = false := by
  simp only [beq_iff_eq] at h
  have := List.find?_some h
  simp only [Bool.and_eq_true, Lane.live, Bool.not_eq_true'] at this
  exact this.1.2

/-- The body of an instruction that acts once, in a lane whose values meet `ok`, once the acting lane is known. -/
theorem once_body (a b : Once) (cx : Cx) (i : Nat) (l : Lane) (f : Fields) (v : Vals)
    (hlead : a.lead cx f = electLane cx f) (hv : a.used cx f i = b.electVals false cx f i)
    (hh : l.helper = (cx.w.lane i).helper)
    (hl : l.helper = false → a.lane cx i l f (b.electVals false cx f i) = b.out cx (b.own cx i l f (b.electVals false cx f i)) f
        (b.electVals false cx f i) ∧ ∃ l' fx, a.lane cx i l f (b.electVals false cx f i) = .done l' fx)
    (hact : a.act cx i l f (b.electVals false cx f i) = b.act cx i l f (b.electVals false cx f i)) :
    a.spec.body cx i l f v = b.effect.body cx i l f v := by
  have hne : l.helper = true → (electLane cx f == some i) = false := by
    intro hx
    rw [Bool.eq_false_iff]
    intro hc
    rw [hh, electLane_live cx f i hc] at hx
    exact absurd hx (by simp)
  unfold Once.spec Once.effect
  simp only [hlead, hv]
  by_cases hx : l.helper = true
  · have : a.lane cx i l f (b.electVals false cx f i) = .done l [] := by
      unfold Once.lane
      simp [hx]
    simp [this, hx, hne hx]
  · have hx' : l.helper = false := by simpa using hx
    obtain ⟨h1, l', fx, h2⟩ := hl hx'
    rw [← h1, h2, ← hact]
    simp only [hx', Bool.false_eq_true, if_false]
    split <;> simp

theorem once_roles (a b : Once) (hsig : a.sig = b.sig) (hmore : a.more = b.more) : a.spec.SameRoles b.effect :=
  ⟨hsig, rfl, hmore, by
    show (fun cx f i l => aSource cx a.sig.am (awayQuads cx a.sig f) f i l) = (fun cx f i l => aSource cx b.sig.am (awayQuads cx b.sig f) f i l)
    rw [hsig], rfl⟩

theorem once_readRoles (a b : Once) (hsig : a.sig = b.sig) (hmore : a.more = b.more) : a.read.SameRoles b.effect :=
  ⟨hsig, rfl, hmore, by
    show (fun cx f i l => aSource cx a.sig.am (awayQuads cx a.sig f) f i l) = (fun cx f i l => aSource cx b.sig.am (awayQuads cx b.sig f) f i l)
    rw [hsig], rfl⟩

/-- The values that the lanes meet depend on the roles only. -/
theorem electVals_roles (a b : Once) (hsig : a.sig = b.sig) (hmore : a.more = b.more) (q : Bool) (cx : Cx) (f : Fields) (i : Nat) :
    a.electVals q cx f i = b.electVals q cx f i := by
  unfold Once.electVals Once.valsAt
  rw [valsOf_roles (once_readRoles a b hsig hmore), valsOf_roles (once_readRoles b b rfl rfl)]

/-- What `onceMeet` says of a lane. -/
theorem onceMeet_at (cx : Cx) (o : Once) (f : Fields) (ok : Cx → Nat → Lane → Fields → Vals → Bool) (h : onceMeet cx o f ok = true)
    (i : Nat) (hi : i ∈ cx.g.lanes) (hg : (cx.w.lane i).guard f = true) (q : Bool) :
    o.bad f (o.electVals q cx f i) = false ∧ ok cx i (cx.w.lane i) f (o.electVals q cx f i) = true ∧
      ok cx i (afterRead (sources cx o.effect f i (cx.w.lane i)) i (cx.w.lane i)) f (o.electVals q cx f i) = true := by
  have := List.all_eq_true.mp h i hi
  simp only [hg, Bool.not_true, Bool.false_or] at this
  have := List.all_eq_true.mp this q (by cases q <;> simp)
  simp only [Bool.and_eq_true, Bool.not_eq_true'] at this
  exact ⟨this.1.1, this.1.2, this.2⟩

/-- THE SPEC LEMMA OF `onceExec`. -/
theorem onceAs_of (ins : Instr) (a b : Once) (f : Fields) (s : State) (ok : Cx → Nat → Lane → Fields → Vals → Bool)
    (he : exec ins s = onceExec a f s) (hsig : a.sig = b.sig) (hmore : a.more = b.more)
    (hl : ∀ cx i l f v, l.helper = false → b.bad f v = false → ok cx i l f v = true →
      a.lane cx i l f v = b.out cx (b.own cx i l f v) f v ∧ ∃ l' fx, a.lane cx i l f v = .done l' fx)
    (hact : ∀ cx i l f v, b.bad f v = false → ok cx i l f v = true → a.act cx i l f v = b.act cx i l f v) :
    OnceAs ins s f b ok := by
  intro g w hg hw hr h0 hok
  rw [he]
  unfold onceExec
  have hroles := once_roles a b hsig hmore
  have hready : OnceReady a (s.cxOf g (poppedWg g b.effect f w) f) f := by
    constructor
    · intro i hi
      rw [laneReady_roles (once_readRoles a b hsig hmore)]
      unfold gangReady at hr
      simp only [Bool.and_eq_true] at hr
      exact List.all_eq_true.mp hr.2 i hi
    · intro i hi
      exact beq_iff_eq.mp (List.all_eq_true.mp h0 i hi)
  have hm := onceMeet_at _ _ _ _ hok
  obtain ⟨hlead, hused⟩ := hready.lead fun i hi hlive hgu => by
    obtain ⟨h1, h2, _⟩ := hm i hi hgu true
    rw [electVals_roles a b hsig hmore]
    exact (hl _ _ _ _ _ (by simp only [Lane.live, Bool.and_eq_true, Bool.not_eq_true'] at hlive; exact hlive.2) h1 h2).2
  refine laneExecWith_same a.spec b.effect f _ s hroles g w hg hw hr ?_
  intro i hi
  have hz : ((poppedWg g b.effect f w).lane i).rep = 0 := hready.rep i hi
  unfold laneRuns
  rw [hz]
  simp only [repFields, if_true, sources_roles hroles, valsOf_roles hroles, hroles.sig]
  by_cases hgu : ((poppedWg g b.effect f w).lane i).guard f = true
  · obtain ⟨h1, _, h3⟩ := hm i hi hgu false
    have hbody := once_body a b _ i _ f (valsOf (s.cxOf g (poppedWg g b.effect f w) f) b.effect f i ((poppedWg g b.effect f w).lane i))
      hlead ((hused i).trans (electVals_roles a b hsig hmore _ _ _ _)) (afterRead_helper _ _ _)
      (fun hh => hl _ _ _ _ _ hh h1 h3) (hact _ _ _ _ _ h1 h3)
    congr 3
    exact congrArg (fun o => LOut.addFx _ (LOut.unread _ o)) hbody
  · simp [hgu]

/-- What a lane does at an instruction that acts once, when its operands come to nothing else. -/
theorem Once.lane_ok (o : Once) (cx : Cx) (i : Nat) (l : Lane) (f : Fields) (v : Vals) (hh : l.helper = false)
    (hb : o.bad f v = false) (hd : o.dec cx i l f v = .ok) : o.lane cx i l f v = o.out cx (o.own cx i l f v) f v := by
  unfold Once.lane
  simp [hh, hb, hd]

/-- THE SPEC LEMMA OF `onceExec`, by the parts of the two operations. -/
theorem onceRuns_of (ins : Instr) (a b : Once) (f : Fields) (s : State) (ok : Cx → Nat → Lane → Fields → Vals → Bool)
    (he : exec ins s = onceExec a f s) (hsig : a.sig = b.sig) (hmore : a.more = b.more)
    (hbad : ∀ f v, b.bad f v = false → a.bad f v = false)
    (hdec : ∀ cx i l f v, l.helper = false → b.bad f v = false → ok cx i l f v = true → a.dec cx i l f v = .ok)
    (hout : ∀ cx i l f v, ok cx i l f v = true → a.out cx (a.own cx i l f v) f v = b.out cx (b.own cx i l f v) f v)
    (hdone : ∀ cx l f v, ∃ l' fx, a.out cx l f v = .done l' fx)
    (hact : ∀ cx i l f v, b.bad f v = false → ok cx i l f v = true → a.act cx i l f v = b.act cx i l f v) :
    OnceAs ins s f b ok :=
  onceAs_of ins a b f s ok he hsig hmore (fun cx i l f v hh hp ho => by
    rw [Once.lane_ok a cx i l f v hh (hbad f v hp) (hdec cx i l f v hh hp ho)]
    exact ⟨hout cx i l f v ho, hdone cx _ f v⟩) hact

/-! ### Group-wide instructions -/

theorem groupOut_ready (cx : Cx) (sp : GroupSpec) (f : Fields) (i : Nat) (h : groupLaneReady cx sp f i = true) :
    groupOut cx sp f i (cx.w.lane i) = groupRuns cx sp f i (cx.w.lane i) := by
  unfold groupLaneReady at h
  simp only [Bool.and_eq_true, Bool.not_eq_true', Option.isNone_iff_eq_none] at h
  obtain ⟨⟨⟨⟨⟨⟨⟨hp, ha⟩, hw⟩, hs⟩, hm⟩, hn⟩, hc⟩, hb⟩ := h
  unfold groupOut groupRuns groupDone
  simp only [hp, Bool.false_eq_true, if_false, ha, hb, hm, hn, hc, hs, Bool.and_false, Bool.not_true, if_true]
  cases hx : (cx.w.lane i).wait <;> first
    | rfl
    | simp [Lane.hasResult, hx] at hw

/-- THE SPEC LEMMA OF `groupExec`. -/
theorem groupAs_of (ins : Instr) (sp : GroupSpec) (f : Fields) (s : State) (he : exec ins s = groupExec sp f s) :
    GroupAs ins s f sp := by
  intro g0 w0 hg hw w g hc hin hq hr
  rw [he]
  unfold groupExec State.withGang
  rw [hg]
  simp only [hw, Option.isNone_iff_eq_none.mp hc]
  have hrun : ∀ i ∈ g.lanes, groupOut (s.cxOf g w f) sp f i (w.lane i) = groupRuns (s.cxOf g w f) sp f i (w.lane i) :=
    fun i hi => groupOut_ready (s.cxOf g w f) sp f i (List.all_eq_true.mp hr i hi)
  rw [residue_quiet s g0 _ _ f (groupRuns (s.cxOf g w f) sp f) _ _
    (execLanes_congr g0 _ f _ _ fun i hi => hrun i (List.contains_iff_mem.mp (List.all_eq_true.mp hin i hi))) (execLanes_mem g0 _ f _) hq]
  congr 2
  rw [cxOf_checked]
  exact runLanes_congr _ g w _ _ hrun

/-! ### Every per-lane instruction goes on -/

/-- Once a gang is issued to a workgroup that exists, `withGang` is its continuation. -/
theorem withGang_eq {s : State} {g : Gang} {w : Wg} (hg : s.ex.gang = some g) (hw : s.wg? g.wg = some w) (k : Gang → Wg → Out) :
    s.withGang k = k g w := by
  unfold State.withGang
  rw [hg]
  simp only [hw]

/-- The residue check goes on when what follows it does. -/
theorem residue_next (s : State) (g : Gang) (w : Wg) (unit : Nat) (execs : List Nat) (k : State → Wg → Out)
    (hk : ∀ s w, ∃ t, k s w = .next t) : ∃ t, s.residue g w unit execs k = .next t := by
  unfold State.residue
  simp only []
  repeat' split
  all_goals first
    | exact hk _ _
    | exact ⟨_, rfl⟩

/-- A per-lane instruction goes on, whatever its lanes meet: traps and waits are states. -/
theorem laneExecWith_next (sp : LaneSpec) (f : Fields) (post : Nat → List Fx → State → State) {s : State} {g : Gang} {w : Wg}
    (hg : s.ex.gang = some g) (hw : s.wg? g.wg = some w) : ∃ t, laneExecWith sp f post s = .next t := by
  unfold laneExecWith
  rw [withGang_eq hg hw]
  simp only []
  split
  · exact ⟨_, rfl⟩
  · exact residue_next _ _ _ _ _ _ fun _ _ => ⟨_, rfl⟩

theorem laneExec_next (sp : LaneSpec) (f : Fields) {s : State} {g : Gang} {w : Wg} (hg : s.ex.gang = some g)
    (hw : s.wg? g.wg = some w) : ∃ t, laneExec sp f s = .next t := laneExecWith_next sp f _ hg hw

theorem onceExec_next (o : Once) (f : Fields) {s : State} {g : Gang} {w : Wg} (hg : s.ex.gang = some g)
    (hw : s.wg? g.wg = some w) : ∃ t, onceExec o f s = .next t := laneExec_next o.spec f hg hw

theorem groupExec_next (sp : GroupSpec) (f : Fields) {s : State} {g : Gang} {w : Wg} (hg : s.ex.gang = some g)
    (hw : s.wg? g.wg = some w) : ∃ t, groupExec sp f s = .next t := by
  unfold groupExec
  rw [withGang_eq hg hw]
  simp only []
  split
  · exact ⟨_, rfl⟩
  · exact residue_next _ _ _ _ _ _ fun _ _ => ⟨_, rfl⟩

end Sys2Proof.Machine
end

