-- ==== Sys2Proof/Laws/State.lean ====
section
/-! SUPPORT. One lemma for each field under each update of the state, and what one workgroup reads after an update of
another. -/
namespace Sys2Proof.Machine
namespace State

variable (s : State)


@[simp] theorem modMs_ck (f : MemSys → MemSys) : (s.modMs f).ck = s.ck := rfl
@[simp] theorem modMs_ms (f : MemSys → MemSys) : (s.modMs f).ms = f s.ms := rfl
@[simp] theorem modMs_net (f : MemSys → MemSys) : (s.modMs f).net = s.net := rfl
@[simp] theorem modMs_rt (f : MemSys → MemSys) : (s.modMs f).rt = s.rt := rfl
@[simp] theorem modMs_cp (f : MemSys → MemSys) : (s.modMs f).cp = s.cp := rfl
@[simp] theorem modMs_hub (f : MemSys → MemSys) : (s.modMs f).hub = s.hub := rfl
@[simp] theorem modMs_log (f : MemSys → MemSys) : (s.modMs f).log = s.log := rfl
@[simp] theorem modMs_gang (f : MemSys → MemSys) : (s.modMs f).ex.gang = s.ex.gang := rfl
@[simp] theorem modMs_agenda (f : MemSys → MemSys) : (s.modMs f).ex.agenda = s.ex.agenda := rfl
@[simp] theorem modMs_wgs (f : MemSys → MemSys) : (s.modMs f).ex.wgs = s.ex.wgs := rfl
@[simp] theorem modMs_nodes (f : MemSys → MemSys) : (s.modMs f).ex.nodes = s.ex.nodes := rfl
@[simp] theorem modMs_cores (f : MemSys → MemSys) : (s.modMs f).ex.cores = s.ex.cores := rfl
@[simp] theorem modMs_ops (f : MemSys → MemSys) : (s.modMs f).ex.ops = s.ex.ops := rfl
@[simp] theorem modMs_ringWrites (f : MemSys → MemSys) : (s.modMs f).ex.ringWrites = s.ex.ringWrites := rfl
@[simp] theorem modMs_drained (f : MemSys → MemSys) : (s.modMs f).ex.drained = s.ex.drained := rfl

@[simp] theorem modWg_ck (id : Nat) (f : Wg → Wg) : (s.modWg id f).ck = s.ck := rfl
@[simp] theorem modWg_ms (id : Nat) (f : Wg → Wg) : (s.modWg id f).ms = s.ms := rfl
@[simp] theorem modWg_net (id : Nat) (f : Wg → Wg) : (s.modWg id f).net = s.net := rfl
@[simp] theorem modWg_rt (id : Nat) (f : Wg → Wg) : (s.modWg id f).rt = s.rt := rfl
@[simp] theorem modWg_cp (id : Nat) (f : Wg → Wg) : (s.modWg id f).cp = s.cp := rfl
@[simp] theorem modWg_hub (id : Nat) (f : Wg → Wg) : (s.modWg id f).hub = s.hub := rfl
@[simp] theorem modWg_log (id : Nat) (f : Wg → Wg) : (s.modWg id f).log = s.log := rfl
@[simp] theorem modWg_gang (id : Nat) (f : Wg → Wg) : (s.modWg id f).ex.gang = s.ex.gang := rfl
@[simp] theorem modWg_agenda (id : Nat) (f : Wg → Wg) : (s.modWg id f).ex.agenda = s.ex.agenda := rfl
@[simp] theorem modWg_wgs (id : Nat) (f : Wg → Wg) : (s.modWg id f).ex.wgs = s.ex.wgs.map fun x => if x.id == id then f x else x := rfl
@[simp] theorem modWg_nodes (id : Nat) (f : Wg → Wg) : (s.modWg id f).ex.nodes = s.ex.nodes := rfl
@[simp] theorem modWg_cores (id : Nat) (f : Wg → Wg) : (s.modWg id f).ex.cores = s.ex.cores := rfl
@[simp] theorem modWg_ops (id : Nat) (f : Wg → Wg) : (s.modWg id f).ex.ops = s.ex.ops := rfl
@[simp] theorem modWg_ringWrites (id : Nat) (f : Wg → Wg) : (s.modWg id f).ex.ringWrites = s.ex.ringWrites := rfl
@[simp] theorem modWg_drained (id : Nat) (f : Wg → Wg) : (s.modWg id f).ex.drained = s.ex.drained := rfl

@[simp] theorem setWg_ck (w : Wg) : (s.setWg w).ck = s.ck := rfl
@[simp] theorem setWg_ms (w : Wg) : (s.setWg w).ms = s.ms := rfl
@[simp] theorem setWg_net (w : Wg) : (s.setWg w).net = s.net := rfl
@[simp] theorem setWg_rt (w : Wg) : (s.setWg w).rt = s.rt := rfl
@[simp] theorem setWg_cp (w : Wg) : (s.setWg w).cp = s.cp := rfl
@[simp] theorem setWg_hub (w : Wg) : (s.setWg w).hub = s.hub := rfl
@[simp] theorem setWg_log (w : Wg) : (s.setWg w).log = s.log := rfl
@[simp] theorem setWg_gang (w : Wg) : (s.setWg w).ex.gang = s.ex.gang := rfl
@[simp] theorem setWg_agenda (w : Wg) : (s.setWg w).ex.agenda = s.ex.agenda := rfl
@[simp] theorem setWg_wgs (w : Wg) : (s.setWg w).ex.wgs = s.ex.wgs.map fun x => if x.id == w.id then w else x := rfl
@[simp] theorem setWg_nodes (w : Wg) : (s.setWg w).ex.nodes = s.ex.nodes := rfl
@[simp] theorem setWg_cores (w : Wg) : (s.setWg w).ex.cores = s.ex.cores := rfl
@[simp] theorem setWg_ops (w : Wg) : (s.setWg w).ex.ops = s.ex.ops := rfl
@[simp] theorem setWg_ringWrites (w : Wg) : (s.setWg w).ex.ringWrites = s.ex.ringWrites := rfl
@[simp] theorem setWg_drained (w : Wg) : (s.setWg w).ex.drained = s.ex.drained := rfl

@[simp] theorem modNode_ck (id : Nat) (f : Node → Node) : (s.modNode id f).ck = s.ck := rfl
@[simp] theorem modNode_ms (id : Nat) (f : Node → Node) : (s.modNode id f).ms = s.ms := rfl
@[simp] theorem modNode_net (id : Nat) (f : Node → Node) : (s.modNode id f).net = s.net := rfl
@[simp] theorem modNode_rt (id : Nat) (f : Node → Node) : (s.modNode id f).rt = s.rt := rfl
@[simp] theorem modNode_cp (id : Nat) (f : Node → Node) : (s.modNode id f).cp = s.cp := rfl
@[simp] theorem modNode_hub (id : Nat) (f : Node → Node) : (s.modNode id f).hub = s.hub := rfl
@[simp] theorem modNode_log (id : Nat) (f : Node → Node) : (s.modNode id f).log = s.log := rfl
@[simp] theorem modNode_gang (id : Nat) (f : Node → Node) : (s.modNode id f).ex.gang = s.ex.gang := rfl
@[simp] theorem modNode_agenda (id : Nat) (f : Node → Node) : (s.modNode id f).ex.agenda = s.ex.agenda := rfl
@[simp] theorem modNode_wgs (id : Nat) (f : Node → Node) : (s.modNode id f).ex.wgs = s.ex.wgs := rfl
@[simp] theorem modNode_nodes (id : Nat) (f : Node → Node) : (s.modNode id f).ex.nodes = s.ex.nodes.map fun x => if x.id == id then f x else x := rfl
@[simp] theorem modNode_cores (id : Nat) (f : Node → Node) : (s.modNode id f).ex.cores = s.ex.cores := rfl
@[simp] theorem modNode_ops (id : Nat) (f : Node → Node) : (s.modNode id f).ex.ops = s.ex.ops := rfl
@[simp] theorem modNode_ringWrites (id : Nat) (f : Node → Node) : (s.modNode id f).ex.ringWrites = s.ex.ringWrites := rfl
@[simp] theorem modNode_drained (id : Nat) (f : Node → Node) : (s.modNode id f).ex.drained = s.ex.drained := rfl

@[simp] theorem modCore_ck (c : Nat) (f : Core → Core) : (s.modCore c f).ck = s.ck := rfl
@[simp] theorem modCore_ms (c : Nat) (f : Core → Core) : (s.modCore c f).ms = s.ms := rfl
@[simp] theorem modCore_net (c : Nat) (f : Core → Core) : (s.modCore c f).net = s.net := rfl
@[simp] theorem modCore_rt (c : Nat) (f : Core → Core) : (s.modCore c f).rt = s.rt := rfl
@[simp] theorem modCore_cp (c : Nat) (f : Core → Core) : (s.modCore c f).cp = s.cp := rfl
@[simp] theorem modCore_hub (c : Nat) (f : Core → Core) : (s.modCore c f).hub = s.hub := rfl
@[simp] theorem modCore_log (c : Nat) (f : Core → Core) : (s.modCore c f).log = s.log := rfl
@[simp] theorem modCore_gang (c : Nat) (f : Core → Core) : (s.modCore c f).ex.gang = s.ex.gang := rfl
@[simp] theorem modCore_agenda (c : Nat) (f : Core → Core) : (s.modCore c f).ex.agenda = s.ex.agenda := rfl
@[simp] theorem modCore_wgs (c : Nat) (f : Core → Core) : (s.modCore c f).ex.wgs = s.ex.wgs := rfl
@[simp] theorem modCore_nodes (c : Nat) (f : Core → Core) : (s.modCore c f).ex.nodes = s.ex.nodes := rfl
@[simp] theorem modCore_cores (c : Nat) (f : Core → Core) : (s.modCore c f).ex.cores = upd s.ex.cores c f := rfl
@[simp] theorem modCore_ops (c : Nat) (f : Core → Core) : (s.modCore c f).ex.ops = s.ex.ops := rfl
@[simp] theorem modCore_ringWrites (c : Nat) (f : Core → Core) : (s.modCore c f).ex.ringWrites = s.ex.ringWrites := rfl
@[simp] theorem modCore_drained (c : Nat) (f : Core → Core) : (s.modCore c f).ex.drained = s.ex.drained := rfl

@[simp] theorem note_ck (x : Log) : (s.note x).ck = s.ck := rfl
@[simp] theorem note_ms (x : Log) : (s.note x).ms = s.ms := rfl
@[simp] theorem note_net (x : Log) : (s.note x).net = s.net := rfl
@[simp] theorem note_rt (x : Log) : (s.note x).rt = s.rt := rfl
@[simp] theorem note_cp (x : Log) : (s.note x).cp = s.cp := rfl
@[simp] theorem note_hub (x : Log) : (s.note x).hub = s.hub := rfl
@[simp] theorem note_log (x : Log) : (s.note x).log = x :: s.log := rfl
@[simp] theorem note_gang (x : Log) : (s.note x).ex.gang = s.ex.gang := rfl
@[simp] theorem note_agenda (x : Log) : (s.note x).ex.agenda = s.ex.agenda := rfl
@[simp] theorem note_wgs (x : Log) : (s.note x).ex.wgs = s.ex.wgs := rfl
@[simp] theorem note_nodes (x : Log) : (s.note x).ex.nodes = s.ex.nodes := rfl
@[simp] theorem note_cores (x : Log) : (s.note x).ex.cores = s.ex.cores := rfl
@[simp] theorem note_ops (x : Log) : (s.note x).ex.ops = s.ex.ops := rfl
@[simp] theorem note_ringWrites (x : Log) : (s.note x).ex.ringWrites = s.ex.ringWrites := rfl
@[simp] theorem note_drained (x : Log) : (s.note x).ex.drained = s.ex.drained := rfl

@[simp] theorem freshId_ck : (s.freshId).ck = { s.ck with nextId := s.ck.nextId + 1 } := rfl
@[simp] theorem freshId_ms : (s.freshId).ms = s.ms := rfl
@[simp] theorem freshId_net : (s.freshId).net = s.net := rfl
@[simp] theorem freshId_rt : (s.freshId).rt = s.rt := rfl
@[simp] theorem freshId_cp : (s.freshId).cp = s.cp := rfl
@[simp] theorem freshId_hub : (s.freshId).hub = s.hub := rfl
@[simp] theorem freshId_log : (s.freshId).log = s.log := rfl
@[simp] theorem freshId_gang : (s.freshId).ex.gang = s.ex.gang := rfl
@[simp] theorem freshId_agenda : (s.freshId).ex.agenda = s.ex.agenda := rfl
@[simp] theorem freshId_wgs : (s.freshId).ex.wgs = s.ex.wgs := rfl
@[simp] theorem freshId_nodes : (s.freshId).ex.nodes = s.ex.nodes := rfl
@[simp] theorem freshId_cores : (s.freshId).ex.cores = s.ex.cores := rfl
@[simp] theorem freshId_ops : (s.freshId).ex.ops = s.ex.ops := rfl
@[simp] theorem freshId_ringWrites : (s.freshId).ex.ringWrites = s.ex.ringWrites := rfl
@[simp] theorem freshId_drained : (s.freshId).ex.drained = s.ex.drained := rfl

@[simp] theorem tickFree_ck : (s.tickFree).ck = { s.ck with free := s.ck.free + 1 } := rfl
@[simp] theorem tickFree_ms : (s.tickFree).ms = s.ms := rfl
@[simp] theorem tickFree_net : (s.tickFree).net = s.net := rfl
@[simp] theorem tickFree_rt : (s.tickFree).rt = s.rt := rfl
@[simp] theorem tickFree_cp : (s.tickFree).cp = s.cp := rfl
@[simp] theorem tickFree_hub : (s.tickFree).hub = s.hub := rfl
@[simp] theorem tickFree_log : (s.tickFree).log = s.log := rfl
@[simp] theorem tickFree_gang : (s.tickFree).ex.gang = s.ex.gang := rfl
@[simp] theorem tickFree_agenda : (s.tickFree).ex.agenda = s.ex.agenda := rfl
@[simp] theorem tickFree_wgs : (s.tickFree).ex.wgs = s.ex.wgs := rfl
@[simp] theorem tickFree_nodes : (s.tickFree).ex.nodes = s.ex.nodes := rfl
@[simp] theorem tickFree_cores : (s.tickFree).ex.cores = s.ex.cores := rfl
@[simp] theorem tickFree_ops : (s.tickFree).ex.ops = s.ex.ops := rfl
@[simp] theorem tickFree_ringWrites : (s.tickFree).ex.ringWrites = s.ex.ringWrites := rfl
@[simp] theorem tickFree_drained : (s.tickFree).ex.drained = s.ex.drained := rfl

end State

/-! ### Reading a workgroup or a node after an update -/

theorem find_map_id {α : Type} (g : α → Nat) (f : α → α) (l : List α) (id k : Nat) (hf : ∀ x, g (f x) = g x) :
    (l.map fun x => if g x == id then f x else x).find? (fun x => g x == k) =
      (l.find? (fun x => g x == k)).map fun x => if g x == id then f x else x := by
  induction l with
  | nil => rfl
  | cons x l ih =>
    have hx : (g (if (g x == id) = true then f x else x) == k) = (g x == k) := by
      split
      · rw [hf]
      · rfl
    rw [List.map_cons, List.find?_cons, List.find?_cons, hx]
    split
    · rfl
    · exact ih

/-- What a workgroup is after an update that keeps its number. -/
theorem State.wg_modWg (s : State) (id k : Nat) (f : Wg → Wg) (hf : ∀ x, (f x).id = x.id) :
    (s.modWg id f).wg? k = (s.wg? k).map fun w => if w.id == id then f w else w :=
  find_map_id Wg.id f s.ex.wgs id k hf

/-- A workgroup that is updated. -/
theorem State.wg_modWg_self {s : State} {w : Wg} {id : Nat} (h : s.wg? id = some w) (f : Wg → Wg) (hf : ∀ x, (f x).id = x.id) :
    (s.modWg id f).wg? id = some (f w) := by
  have hid : (w.id == id) = true := by simpa using List.find?_some h
  rw [State.wg_modWg s id id f hf, h, Option.map_some, if_pos hid]

/-- A workgroup that is not updated. -/
theorem State.wg_modWg_other (s : State) (id k : Nat) (f : Wg → Wg) (hf : ∀ x, (f x).id = x.id) (hk : k ≠ id) :
    (s.modWg id f).wg? k = s.wg? k := by
  rw [State.wg_modWg s id k f hf]
  cases h : s.wg? k with
  | none => rfl
  | some w =>
    have hw : w.id = k := by simpa using List.find?_some h
    rw [Option.map_some, if_neg (by simp [hw, hk])]

/-- What a node is after an update that keeps its number. -/
theorem State.node_modNode (s : State) (id k : Nat) (f : Node → Node) (hf : ∀ x, (f x).id = x.id) :
    (s.modNode id f).node? k = (s.node? k).map fun w => if w.id == id then f w else w :=
  find_map_id Node.id f s.ex.nodes id k hf

@[simp] theorem State.node_modWg (s : State) (id k : Nat) (f : Wg → Wg) : (s.modWg id f).node? k = s.node? k := rfl
@[simp] theorem State.node_setWg (s : State) (w : Wg) (k : Nat) : (s.setWg w).node? k = s.node? k := rfl
@[simp] theorem State.wg_modNode (s : State) (id k : Nat) (f : Node → Node) : (s.modNode id f).wg? k = s.wg? k := rfl
@[simp] theorem State.wg_modMs (s : State) (f : MemSys → MemSys) (k : Nat) : (s.modMs f).wg? k = s.wg? k := rfl
@[simp] theorem State.wg_modCore (s : State) (c k : Nat) (f : Core → Core) : (s.modCore c f).wg? k = s.wg? k := rfl
@[simp] theorem State.wg_note (s : State) (x : Log) (k : Nat) : (s.note x).wg? k = s.wg? k := rfl

@[simp] theorem upd_length {α : Type} (l : List α) (i : Nat) (f : α → α) : (upd l i f).length = l.length := by
  induction l generalizing i with
  | nil => rfl
  | cons a l ih => cases i with
    | zero => rfl
    | succ i => exact congrArg (· + 1) (ih i)

/-- What an entry of a list is after an update. -/
theorem upd_getD {α : Type} (l : List α) (i k : Nat) (f : α → α) (d : α) (h : i < l.length) :
    (upd l i f).getD k d = if k = i then f (l.getD k d) else l.getD k d := by
  induction l generalizing i k with
  | nil => exact absurd h (Nat.not_lt_zero i)
  | cons a l ih =>
    cases i with
    | zero => cases k <;> simp [upd]
    | succ i =>
      cases k with
      | zero => simp [upd]
      | succ k =>
        have := ih i k (by simpa using h)
        simpa [upd] using this

/-- A core reads as it was updated. -/
theorem State.core_modCore (s : State) (c k : Nat) (f : Core → Core) (h : c < s.ex.cores.length) :
    (s.modCore c f).core k = if k = c then f (s.core k) else s.core k := upd_getD s.ex.cores c k f {} h

/-- A lane reads as it was updated. -/
theorem Wg.lane_modLane (w : Wg) (i k : Nat) (f : Lane → Lane) (h : i < w.lanes.length) :
    (w.modLane i f).lane k = if k = i then f (w.lane k) else w.lane k := upd_getD w.lanes i k f {} h

@[simp] theorem Wg.modLane_id (w : Wg) (i : Nat) (f : Lane → Lane) : (w.modLane i f).id = w.id := rfl

/-! ### Taking a trap and returning from one -/

/-- All that a trap can do (R411, R412): nothing for a helper or an exited lane, a kill when it goes to the module OS,
and else a delivery to the lane, which its helpers follow (R168); the flits the lane's instruction took go back first. -/
theorem State.takeTrap_cases (s : State) (id i cause : Nat) (tval : W64) (clt eng : Bool) :
    s.takeTrap id i cause tval clt eng = s ∨
    (∃ w, s.wg? id = some w ∧ (w.lane i).toOs cause = true ∧
      s.takeTrap id i cause tval clt eng = (s.modWg id (·.giveBack i)).kill id i cause tval) ∨
    (∃ w, s.wg? id = some w ∧ (w.lane i).toOs cause = false ∧
      s.takeTrap id i cause tval clt eng =
        (s.modWg id (·.giveBack i)).modWg id fun w => (w.modLane i fun l => l.deliver cause tval clt eng).syncHelpers) := by
  unfold State.takeTrap
  cases h : s.wg? id with
  | none => exact .inl rfl
  | some w =>
    simp only
    split
    · exact .inl rfl
    · by_cases ho : (w.lane i).toOs cause = true
      · rw [if_pos ho]; exact .inr (.inl ⟨w, rfl, ho, rfl⟩)
      · rw [if_neg ho]; exact .inr (.inr ⟨w, rfl, Bool.eq_false_iff.mpr ho, rfl⟩)

/-- What a delivery leaves of a lane. -/
theorem Lane.deliver_keeps (l : Lane) (cause : Nat) (tval : W64) (clt eng : Bool) :
    let t := l.deliver cause tval clt eng
    t.v = l.unowe.v ∧ t.p = l.p ∧ t.h = l.h ∧ t.d = l.d ∧ t.lo = l.lo ∧ t.tbase = l.tbase ∧ t.tsave = l.tsave ∧ t.nopre = l.nopre ∧
      t.exited = l.exited ∧ t.helper = l.helper := ⟨rfl, rfl, rfl, rfl, rfl, rfl, rfl, rfl, rfl, rfl⟩

/-- What a return from a trap leaves of a lane. -/
theorem Lane.retTrap_keeps (l : Lane) (c : W64) :
    let t := l.retTrap c
    t.v = l.v ∧ t.p = l.p ∧ t.h = l.h ∧ t.d = l.d ∧ t.lo = l.lo ∧ t.tcause = l.tcause ∧ t.tval = l.tval ∧ t.tbase = l.tbase ∧
      t.tsave = l.tsave ∧ t.nopre = l.nopre := ⟨rfl, rfl, rfl, rfl, rfl, rfl, rfl, rfl, rfl, rfl⟩

end Sys2Proof.Machine
end

