-- ==== Sys2Proof/Tests/Slice0.lean ====
section
/-! SUPPORT. The model's own tests. A theorem `witness_<Statement>` applies that statement to concrete states and operands:
its proof discharges every hypothesis of each clause there by evaluation. The expected values of `test_…` come from the
manual. -/
namespace Sys2Proof.Machine

set_option maxRecDepth 100000
set_option Elab.async false

/-! ### A small machine -/

/-- An instruction completes. -/
def Goes (i : Instr) (s : State) : Prop := ∃ t, exec i s = .next t

theorem goes_of {i : Instr} {s t : State} (h : exec i s = .next t) : Goes i s := ⟨t, h⟩

theorem goes_ex {i : Instr} {s : State} {P : State → Prop} (h : ∃ t, exec i s = .next t ∧ P t) : Goes i s := let ⟨t, e, _⟩ := h; ⟨t, e⟩

theorem goes_ex2 {α : Type} {i : Instr} {s : State} {P : State → α → Prop} (h : ∃ t u, exec i s = .next t ∧ P t u) : Goes i s :=
  let ⟨t, _, e, _⟩ := h; ⟨t, e⟩

theorem RunsAs.met {ins : Instr} {s : State} {f : Fields} {sp : LaneSpec} {ok : Cx → Nat → Lane → Fields → Vals → Bool}
    {post : Nat → List Fx → State → State} (h : RunsAs ins s f sp ok post) {g : Gang} {w : Wg} (hg : s.ex.gang = some g)
    (hw : s.wg? g.wg = some w) (hr : gangReady s g w sp f = true ∧ lanesMeet (s.cxOf g (poppedWg g sp f w) f) sp f ok = true) : Goes ins s :=
  ⟨_, h g w hg hw hr.1 hr.2⟩

theorem OnceAs.met {ins : Instr} {s : State} {f : Fields} {o : Once} {ok : Cx → Nat → Lane → Fields → Vals → Bool}
    (h : OnceAs ins s f o ok) {g : Gang} {w : Wg} (hg : s.ex.gang = some g) (hw : s.wg? g.wg = some w)
    (hr : gangReady s g w o.effect f = true ∧ (g.lanes.all fun i => ((poppedWg g o.effect f w).lane i).rep == 0) = true ∧
      onceMeet (s.cxOf g (poppedWg g o.effect f w) f) o f ok = true) : Goes ins s := ⟨_, h g w hg hw hr.1 hr.2.1 hr.2.2⟩

theorem GroupAs.met {ins : Instr} {s : State} {f : Fields} {sp : GroupSpec} (h : GroupAs ins s f sp) {g : Gang} {w : Wg}
    (hg : s.ex.gang = some g) (hw : s.wg? g.wg = some w) (hr : (check (s.checkCtx w) sp.sig f).isNone = true ∧
      (g.lanes.all fun i => (withWaiting g (popFlits g sp.lane f w)).lanes.contains i) = true ∧
      residueQuiet s g (popFlits g sp.lane f w) sp.sig.unit = true ∧ ((withWaiting g (popFlits g sp.lane f w)).lanes.all
      (groupLaneReady (s.cxOf (withWaiting g (popFlits g sp.lane f w)) (popFlits g sp.lane f w) f) sp f)) = true) :
    Goes ins s := ⟨_, h g w hg hw hr.1 hr.2.1 hr.2.2.1 hr.2.2.2⟩

theorem pair_fst {α β : Type} {p : α × β} {a : α} (h : p.1 = a) : p = (a, p.2) := by rw [← h]

theorem pair_of {α β : Type} {p : α × β} {b : β} (h : p.2 = b) : p = (p.1, b) := by rw [← h]

/-- A result is this one. -/
def okIs {α β ε : Type} [DecidableEq β] (r : α × Except ε β) (b : β) : Bool :=
  match r.2 with
  | .ok x => decide (x = b)
  | _ => false

theorem ok_of {α β ε : Type} [DecidableEq β] {r : α × Except ε β} {b : β} (h : okIs r b = true) : r = (r.1, .ok b) := by
  unfold okIs at h
  obtain ⟨s, e⟩ := r
  cases e with
  | ok x => simp only [decide_eq_true_eq] at h; rw [h]
  | error g => simp at h

theorem some4_of {α β γ δ : Type} {o : Option (α × β × γ × δ)} (h : o.isSome = true) : ∃ a b c d, o = some (a, b, c, d) := by
  obtain ⟨⟨a, b, c, d⟩, e⟩ := Option.isSome_iff_exists.mp h
  exact ⟨a, b, c, d, e⟩

/-- Four lanes of one workgroup on core 0, its translation held, issuing the first slot of the clause at 0x1000. -/
def lane0 : Lane := { pc := 0x1008, clause := 0x1000 }

def gang0 : Gang :=
  { wg := 2, lanes := [0, 1, 2, 3], pc := 0x1008, clause := 0x1000, slot := 0, next := 0x1080, nextClause := 0x1080, after := 0x1080 }

def launch0 : LaunchPkt := { entry := 0x1000, scal := 192, drift := 4096, tiles := 4, priv := 0x1000, frame := 4 }

def wg0 : Wg := { loneWg 2 1 with lanes := List.replicate 4 lane0 }

/-- The translation of the leaf, in the core's own TLB. -/
def loneTlb : TlbEntry := { unit := 0, asid := 1, level := 0, vpn := 0, leaf := loneLeaf, entry := 0x20000000 }

/-- A machine in service with that gang: one space, a 1 GiB leaf at address 0. -/
def st : State :=
  { State.reset with
    ck := { now := 100000, nextId := 3 }
    hub := { State.reset.hub with phase := .service, dies := [true, true, true, true], spaces := [loneSpace] }
    ms := { State.reset.ms with mem := Memory.writeBytes [] 0x20000000 (bytesOfWord loneLeaf), tlb := [loneTlb] }
    ex := { State.reset.ex with gang := some gang0, nodes := [{ loneNode 1 with launch := launch0 }], wgs := [wg0] } }

/-- `st` with its workgroup as `f` makes it. -/
def stWg (f : Wg → Wg) : State := st.modWg 2 f

/-- `st` with its lanes as `f` makes them. -/
def stLane (f : Lane → Lane) : State := stWg fun w => { w with lanes := w.lanes.map f }

/-- Unsigned 32-bit forms. -/
theorem witness_IntegerArithmeticResults (h : Obligations.IntegerArithmeticResults) :
    Goes (.iadd ({ dst := .v 1, a := .v 2, b := .v 3, c := .zero, var := 6 })) st ∧
    Goes (.isub ({ dst := .v 1, a := .v 2, b := .v 3, c := .zero, var := 6 })) st ∧
    Goes (.imul ({ dst := .v 1, a := .v 2, b := .v 3, c := .zero, var := 6 })) st ∧
    Goes (.imulhi ({ dst := .v 1, a := .v 2, b := .v 3, c := .zero, var := 6 })) st ∧
    Goes (.imad ({ dst := .v 1, a := .v 2, b := .v 3, c := .v 4, var := 6 })) st ∧
    Goes (.imin ({ dst := .v 1, a := .v 2, b := .v 3, c := .zero, var := 6 })) st ∧
    Goes (.imax ({ dst := .v 1, a := .v 2, b := .v 3, c := .zero, var := 6 })) st ∧
    Goes (.iabs ({ dst := .v 1, a := .v 2, b := .zero, c := .zero, var := 2 })) st ∧
    Goes (.lea ({ dst := .v 6, a := .v 2, b := .v 5, c := .zero, var := 3 })) st ∧
    Goes (.clamp ({ dst := .v 1, a := .v 2, b := .v 3, c := .v 4, var := 6 })) st ∧
    Goes (.iaddc ({ dst := .v 1, a := .v 2, b := .v 3, c := .p 1, var := 6 })) st :=
  ⟨RunsAs.met (h st { dst := .v 1, a := .v 2, b := .v 3, c := .zero, var := 6 }).1 rfl rfl (by decide +kernel),
   RunsAs.met (h st { dst := .v 1, a := .v 2, b := .v 3, c := .zero, var := 6 }).2.1 rfl rfl (by decide +kernel),
   RunsAs.met (h st { dst := .v 1, a := .v 2, b := .v 3, c := .zero, var := 6 }).2.2.1 rfl rfl (by decide +kernel),
   RunsAs.met (h st { dst := .v 1, a := .v 2, b := .v 3, c := .zero, var := 6 }).2.2.2.1 rfl rfl (by decide +kernel),
   RunsAs.met (h st { dst := .v 1, a := .v 2, b := .v 3, c := .v 4, var := 6 }).2.2.2.2.1 rfl rfl (by decide +kernel),
   RunsAs.met (h st { dst := .v 1, a := .v 2, b := .v 3, c := .zero, var := 6 }).2.2.2.2.2.1 rfl rfl (by decide +kernel),
   RunsAs.met (h st { dst := .v 1, a := .v 2, b := .v 3, c := .zero, var := 6 }).2.2.2.2.2.2.1 rfl rfl (by decide +kernel),
   RunsAs.met (h st { dst := .v 1, a := .v 2, b := .zero, c := .zero, var := 2 }).2.2.2.2.2.2.2.1 rfl rfl (by decide +kernel),
   RunsAs.met (h st { dst := .v 6, a := .v 2, b := .v 5, c := .zero, var := 3 }).2.2.2.2.2.2.2.2.1 rfl rfl (by decide +kernel),
   RunsAs.met (h st { dst := .v 1, a := .v 2, b := .v 3, c := .v 4, var := 6 }).2.2.2.2.2.2.2.2.2.1 rfl rfl (by decide +kernel),
   RunsAs.met (h st { dst := .v 1, a := .v 2, b := .v 3, c := .p 1, var := 6 }).2.2.2.2.2.2.2.2.2.2 rfl rfl (by decide +kernel)⟩

/-- A register move, a handle move, a selection, LANEID, a comparison. -/
theorem witness_MoveSelectAndCompareResults (h : Obligations.MoveSelectAndCompareResults) :
    Goes (.nop ({})) (st) ∧
    Goes (.mov ({ dst := .v 1, a := .v 2, b := .zero, c := .zero, var := 6 })) (st) ∧
    Goes (.mov ({ dst := .h 1, a := .h 2, b := .zero, c := .zero, var := 6 })) (st) ∧
    Goes (.mov ({ dst := .v 1, a := .h 2, b := .zero, c := .zero, var := 6 })) (st) ∧
    Goes (.sel ({ dst := .v 1, a := .v 2, b := .v 3, c := .p 1, var := 6 })) (st) ∧
    Goes (.rdspec ({ dst := .v 1, a := .zero, b := .zero, c := .zero, var := 0 })) (st) ∧
    Goes (.icmp ({ dst := .p 2, a := .v 2, b := .v 3, c := .zero, var := 4 })) (st) :=
  ⟨RunsAs.met (h (st) ({})).1 rfl rfl (by decide +kernel),
   RunsAs.met ((h (st) ({ dst := .v 1, a := .v 2, b := .zero, c := .zero, var := 6 })).2.1 rfl rfl) rfl rfl (by decide +kernel),
   RunsAs.met ((h (st) ({ dst := .h 1, a := .h 2, b := .zero, c := .zero, var := 6 })).2.2.2.1 1 2 rfl rfl) rfl rfl (by decide +kernel),
   RunsAs.met ((h (st) ({ dst := .v 1, a := .h 2, b := .zero, c := .zero, var := 6 })).2.2.1 2 rfl rfl) rfl rfl (by decide +kernel),
   RunsAs.met (h (st) ({ dst := .v 1, a := .v 2, b := .v 3, c := .p 1, var := 6 })).2.2.2.2.1 rfl rfl (by decide +kernel),
   RunsAs.met ((h (st) ({ dst := .v 1, a := .zero, b := .zero, c := .zero, var := 0 })).2.2.2.2.2.1 _ rfl) rfl rfl (by decide +kernel),
   RunsAs.met (h (st) ({ dst := .p 2, a := .v 2, b := .v 3, c := .zero, var := 4 })).2.2.2.2.2.2 rfl rfl (by decide +kernel)⟩

/-- Two registers, and a field of 8 bits at position 4. -/
theorem witness_LogicAndPredicateResults (h : Obligations.LogicAndPredicateResults) :
    Goes (.land ({ dst := .v 1, a := .v 2, b := .v 3, c := .zero, var := 6 })) (st) ∧
    Goes (.lor ({ dst := .v 1, a := .v 2, b := .v 3, c := .zero, var := 6 })) (st) ∧
    Goes (.lxor ({ dst := .v 1, a := .v 2, b := .v 3, c := .zero, var := 6 })) (st) ∧
    Goes (.ltab ({ dst := .v 1, a := .v 2, b := .v 3, c := .v 4, q := 150, var := 6 })) (st) ∧
    Goes (.shl ({ dst := .v 1, a := .v 2, b := .v 3, c := .zero, var := 6 })) (st) ∧
    Goes (.shr ({ dst := .v 1, a := .v 2, b := .v 3, c := .zero, var := 6 })) (st) ∧
    Goes (.sar ({ dst := .v 1, a := .v 2, b := .v 3, c := .zero, var := 6 })) (st) ∧
    Goes (.rot ({ dst := .v 1, a := .v 2, b := .v 3, c := .zero, var := 6 })) (st) ∧
    Goes (.bfe ({ dst := .v 1, a := .v 2, b := .lit 4, c := .v 3, var := 6 })) (st) ∧
    Goes (.bfi ({ dst := .v 1, a := .v 2, b := .lit 0x804, c := .v 3, var := 6 })) (st) ∧
    Goes (.popc ({ dst := .v 1, a := .v 2, b := .zero, c := .zero, var := 7 })) (st) ∧
    Goes (.clz ({ dst := .v 1, a := .v 2, b := .zero, c := .zero, var := 6 })) (st) ∧
    Goes (.brev ({ dst := .v 1, a := .v 2, b := .zero, c := .zero, var := 7 })) (st) ∧
    Goes (.permb ({ dst := .v 1, a := .v 2, b := .v 3, c := .lit 0x3210, var := 6 })) (st) ∧
    Goes (.plop ({ dst := .p 1, a := .p 2, b := .p 3, c := .p 4, q := 128 })) (st) ∧
    Goes (.pmovToPredicate ({ dst := .p 1, a := .v 2, b := .zero, c := .zero })) (st) ∧
    Goes (.pmovFromPredicate ({ dst := .v 1, a := .p 2, b := .zero, c := .zero, var := 1 })) (st) ∧
    Goes (.elect ({ dst := .p 1, a := .zero, b := .zero, c := .zero })) (st) :=
  ⟨RunsAs.met (h.1 (st) ({ dst := .v 1, a := .v 2, b := .v 3, c := .zero, var := 6 })).1 rfl rfl (by decide +kernel),
   RunsAs.met (h.1 (st) ({ dst := .v 1, a := .v 2, b := .v 3, c := .zero, var := 6 })).2.1 rfl rfl (by decide +kernel),
   RunsAs.met (h.1 (st) ({ dst := .v 1, a := .v 2, b := .v 3, c := .zero, var := 6 })).2.2.1 rfl rfl (by decide +kernel),
   RunsAs.met (h.1 (st) ({ dst := .v 1, a := .v 2, b := .v 3, c := .v 4, q := 150, var := 6 })).2.2.2.1 rfl rfl (by decide +kernel),
   RunsAs.met (h.1 (st) ({ dst := .v 1, a := .v 2, b := .v 3, c := .zero, var := 6 })).2.2.2.2.1 rfl rfl (by decide +kernel),
   RunsAs.met (h.1 (st) ({ dst := .v 1, a := .v 2, b := .v 3, c := .zero, var := 6 })).2.2.2.2.2.1 rfl rfl (by decide +kernel),
   RunsAs.met (h.1 (st) ({ dst := .v 1, a := .v 2, b := .v 3, c := .zero, var := 6 })).2.2.2.2.2.2.1 rfl rfl (by decide +kernel),
   RunsAs.met (h.1 (st) ({ dst := .v 1, a := .v 2, b := .v 3, c := .zero, var := 6 })).2.2.2.2.2.2.2.1 rfl rfl (by decide +kernel),
   RunsAs.met (h.1 (st) ({ dst := .v 1, a := .v 2, b := .lit 4, c := .v 3, var := 6 })).2.2.2.2.2.2.2.2.1 rfl rfl (by decide +kernel),
   RunsAs.met (h.1 (st) ({ dst := .v 1, a := .v 2, b := .lit 0x804, c := .v 3, var := 6 })).2.2.2.2.2.2.2.2.2.1 rfl rfl (by decide +kernel),
   RunsAs.met (h.1 (st) ({ dst := .v 1, a := .v 2, b := .zero, c := .zero, var := 7 })).2.2.2.2.2.2.2.2.2.2.1 rfl rfl (by decide +kernel),
   RunsAs.met (h.1 (st) ({ dst := .v 1, a := .v 2, b := .zero, c := .zero, var := 6 })).2.2.2.2.2.2.2.2.2.2.2.1 rfl rfl (by decide +kernel),
   RunsAs.met (h.1 (st) ({ dst := .v 1, a := .v 2, b := .zero, c := .zero, var := 7 })).2.2.2.2.2.2.2.2.2.2.2.2.1 rfl rfl (by decide +kernel),
   RunsAs.met (h.1 (st) ({ dst := .v 1, a := .v 2, b := .v 3, c := .lit 0x3210, var := 6 })).2.2.2.2.2.2.2.2.2.2.2.2.2 rfl rfl (by decide +kernel),
   RunsAs.met (h.2 (st) ({ dst := .p 1, a := .p 2, b := .p 3, c := .p 4, q := 128 })).1 rfl rfl (by decide +kernel),
   RunsAs.met (h.2 (st) ({ dst := .p 1, a := .v 2, b := .zero, c := .zero })).2.1 rfl rfl (by decide +kernel),
   RunsAs.met (h.2 (st) ({ dst := .v 1, a := .p 2, b := .zero, c := .zero, var := 1 })).2.2.1 rfl rfl (by decide +kernel),
   RunsAs.met (h.2 (st) ({ dst := .p 1, a := .zero, b := .zero, c := .zero })).2.2.2 rfl rfl (by decide +kernel)⟩

/-- Transfers to the clause 0x80 words on; a call at depth 0; a return at depth 1 to 0x1000. -/
theorem witness_ControlTransfersAndWaits (h : Obligations.ControlTransfersAndWaits) :
    Goes (.bra ({}) 16) (st) ∧
    Goes (.brx ({ dst := .zero, a := .lit 0x2000, b := .zero, c := .zero })) (st) ∧
    Goes (.call ({}) 16) (st) ∧
    Goes (.callx ({ dst := .zero, a := .lit 0x2000, b := .zero, c := .zero })) (st) ∧
    Goes (.ret ({})) (stLane fun l => { l with d := 1 }) ∧
    Goes (.join ({}) 16) (st) ∧
    Goes (.exitOp ({})) (st) ∧
    Goes (.yield ({})) (st) ∧
    Goes (.doze ({ dst := .zero, a := .lit 5, b := .zero, c := .zero })) (st) ∧
    Goes (.repOp ({ dst := .zero, a := .zero, b := .zero, c := .zero, var := 3 })) (st) :=
  ⟨RunsAs.met (h.1 (st) ({}) 16).1 rfl rfl (by decide +kernel),
   RunsAs.met (h.1 (st) ({ dst := .zero, a := .lit 0x2000, b := .zero, c := .zero }) 16).2.1 rfl rfl (by decide +kernel),
   RunsAs.met (h.1 (st) ({}) 16).2.2.1 rfl rfl (by decide +kernel),
   RunsAs.met (h.1 (st) ({ dst := .zero, a := .lit 0x2000, b := .zero, c := .zero }) 16).2.2.2.1 rfl rfl (by decide +kernel),
   RunsAs.met (h.1 (stLane fun l => { l with d := 1 }) ({}) 16).2.2.2.2.1 rfl rfl (by decide +kernel),
   RunsAs.met (h.1 (st) ({}) 16).2.2.2.2.2 rfl rfl (by decide +kernel),
   RunsAs.met (h.2 (st) ({})).1 rfl rfl (by decide +kernel),
   RunsAs.met (h.2 (st) ({})).2.1 rfl rfl (by decide +kernel),
   RunsAs.met (h.2 (st) ({ dst := .zero, a := .lit 5, b := .zero, c := .zero })).2.2.1 rfl rfl (by decide +kernel),
   RunsAs.met (h.2 (st) ({ dst := .zero, a := .zero, b := .zero, c := .zero, var := 3 })).2.2.2 rfl rfl (by decide +kernel)⟩

/-- A shape of width 8 asked for by every live lane; and the guard that is always false. -/
theorem witness_ShapeChangesAtTheMeeting (h : Obligations.ShapeChangesAtTheMeeting) :
    Goes (.gshape ({ gn := true })) (st) ∧
    Goes (.gshape ({})) (st) :=
  ⟨goes_of ((h (st) ({ gn := true }) gang0 wg0 rfl rfl (by decide +kernel)).1 rfl),
   goes_ex2 ((h (st) ({}) gang0 wg0 rfl rfl (by decide +kernel)).2 rfl rfl (by decide +kernel) (by decide +kernel))⟩

/-- All four lanes vote. -/
theorem witness_VoteAndMatchResults (h : Obligations.VoteAndMatchResults) :
    Goes (.voteAll ({ dst := .p 1, a := .p 2, b := .zero, c := .lit 15 })) (st) ∧
    Goes (.voteAny ({ dst := .p 1, a := .p 2, b := .zero, c := .lit 15, var := 1 })) (st) ∧
    Goes (.voteBallot ({ dst := .s 40, a := .p 2, b := .zero, c := .lit 15, var := 2 })) (st) ∧
    Goes (.voteCount ({ dst := .s 40, a := .p 2, b := .zero, c := .lit 15, var := 3 })) (st) ∧
    Goes (.matchOp ({ dst := .v 6, a := .v 2, b := .zero, c := .lit 15, var := 6 })) (st) :=
  ⟨GroupAs.met (h (st) ({ dst := .p 1, a := .p 2, b := .zero, c := .lit 15 })).1 rfl rfl (by decide +kernel),
   GroupAs.met (h (st) ({ dst := .p 1, a := .p 2, b := .zero, c := .lit 15, var := 1 })).2.1 rfl rfl (by decide +kernel),
   GroupAs.met (h (st) ({ dst := .s 40, a := .p 2, b := .zero, c := .lit 15, var := 2 })).2.2.1 rfl rfl (by decide +kernel),
   GroupAs.met (h (st) ({ dst := .s 40, a := .p 2, b := .zero, c := .lit 15, var := 3 })).2.2.2.1 rfl rfl (by decide +kernel),
   GroupAs.met (h (st) ({ dst := .v 6, a := .v 2, b := .zero, c := .lit 15, var := 6 })).2.2.2.2 rfl rfl (by decide +kernel)⟩

/-- Register operands. -/
theorem witness_FloatingArithmeticResults (h : Obligations.FloatingArithmeticResults) :
    Goes (.fadd ({ dst := .v 1, a := .v 2, b := .v 3, c := .zero, var := 8 })) (st) ∧
    Goes (.fsub ({ dst := .v 1, a := .v 2, b := .v 3, c := .zero, var := 8 })) (st) ∧
    Goes (.fmul ({ dst := .v 1, a := .v 2, b := .v 3, c := .zero, var := 8 })) (st) ∧
    Goes (.ffma ({ dst := .v 1, a := .v 2, b := .v 3, c := .v 4, var := 8 })) (st) ∧
    Goes (.fmin ({ dst := .v 1, a := .v 2, b := .v 3, c := .zero, var := 8 })) (st) ∧
    Goes (.fmax ({ dst := .v 1, a := .v 2, b := .v 3, c := .zero, var := 8 })) (st) ∧
    Goes (.fabs ({ dst := .v 1, a := .v 2, b := .zero, c := .zero, var := 8 })) (st) ∧
    Goes (.fneg ({ dst := .v 1, a := .v 2, b := .zero, c := .zero, var := 8 })) (st) ∧
    Goes (.fcmp ({ dst := .p 1, a := .v 2, b := .v 3, c := .zero, var := 2 })) (st) ∧
    Goes (.fclass ({ dst := .v 1, a := .v 2, b := .zero, c := .zero, var := 8 })) (st) ∧
    Goes (.fround ({ dst := .v 1, a := .v 2, b := .zero, c := .zero, var := 1 })) (st) ∧
    Goes (.fscale ({ dst := .v 1, a := .v 2, b := .v 3, c := .zero, var := 8 })) (st) :=
  ⟨RunsAs.met (h (st) ({ dst := .v 1, a := .v 2, b := .v 3, c := .zero, var := 8 })).1 rfl rfl (by decide +kernel),
   RunsAs.met (h (st) ({ dst := .v 1, a := .v 2, b := .v 3, c := .zero, var := 8 })).2.1 rfl rfl (by decide +kernel),
   RunsAs.met (h (st) ({ dst := .v 1, a := .v 2, b := .v 3, c := .zero, var := 8 })).2.2.1 rfl rfl (by decide +kernel),
   RunsAs.met (h (st) ({ dst := .v 1, a := .v 2, b := .v 3, c := .v 4, var := 8 })).2.2.2.1 rfl rfl (by decide +kernel),
   RunsAs.met (h (st) ({ dst := .v 1, a := .v 2, b := .v 3, c := .zero, var := 8 })).2.2.2.2.1 rfl rfl (by decide +kernel),
   RunsAs.met (h (st) ({ dst := .v 1, a := .v 2, b := .v 3, c := .zero, var := 8 })).2.2.2.2.2.1 rfl rfl (by decide +kernel),
   RunsAs.met (h (st) ({ dst := .v 1, a := .v 2, b := .zero, c := .zero, var := 8 })).2.2.2.2.2.2.1 rfl rfl (by decide +kernel),
   RunsAs.met (h (st) ({ dst := .v 1, a := .v 2, b := .zero, c := .zero, var := 8 })).2.2.2.2.2.2.2.1 rfl rfl (by decide +kernel),
   RunsAs.met (h (st) ({ dst := .p 1, a := .v 2, b := .v 3, c := .zero, var := 2 })).2.2.2.2.2.2.2.2.1 rfl rfl (by decide +kernel),
   RunsAs.met (h (st) ({ dst := .v 1, a := .v 2, b := .zero, c := .zero, var := 8 })).2.2.2.2.2.2.2.2.2.1 rfl rfl (by decide +kernel),
   RunsAs.met (h (st) ({ dst := .v 1, a := .v 2, b := .zero, c := .zero, var := 1 })).2.2.2.2.2.2.2.2.2.2.1 rfl rfl (by decide +kernel),
   RunsAs.met (h (st) ({ dst := .v 1, a := .v 2, b := .v 3, c := .zero, var := 8 })).2.2.2.2.2.2.2.2.2.2.2 rfl rfl (by decide +kernel)⟩

/-- A register operand. -/
theorem witness_SpecialFunctionResults (h : Obligations.SpecialFunctionResults) :
    Goes (.frcp ({ dst := .v 1, a := .v 2, b := .zero, c := .zero, var := 8 })) (st) ∧
    Goes (.frsq ({ dst := .v 1, a := .v 2, b := .zero, c := .zero, var := 8 })) (st) ∧
    Goes (.fexp2 ({ dst := .v 1, a := .v 2, b := .zero, c := .zero, var := 8 })) (st) ∧
    Goes (.flog2 ({ dst := .v 1, a := .v 2, b := .zero, c := .zero, var := 8 })) (st) ∧
    Goes (.ftanh ({ dst := .v 1, a := .v 2, b := .zero, c := .zero, var := 8 })) (st) :=
  ⟨RunsAs.met (h.1 (st) ({ dst := .v 1, a := .v 2, b := .zero, c := .zero, var := 8 })).1 rfl rfl (by decide +kernel),
   RunsAs.met (h.1 (st) ({ dst := .v 1, a := .v 2, b := .zero, c := .zero, var := 8 })).2.1 rfl rfl (by decide +kernel),
   RunsAs.met (h.1 (st) ({ dst := .v 1, a := .v 2, b := .zero, c := .zero, var := 8 })).2.2.1 rfl rfl (by decide +kernel),
   RunsAs.met (h.1 (st) ({ dst := .v 1, a := .v 2, b := .zero, c := .zero, var := 8 })).2.2.2.1 rfl rfl (by decide +kernel),
   RunsAs.met (h.1 (st) ({ dst := .v 1, a := .v 2, b := .zero, c := .zero, var := 8 })).2.2.2.2 rfl rfl (by decide +kernel)⟩

/-- FP16 of an FP32, a signed integer of an FP32, a BF16 of an unsigned integer; the special functions. -/
theorem witness_ConversionResults (h : Obligations.ConversionResults) :
    Goes (.cvtf ({ dst := .v 1, a := .v 2, b := .zero, c := .zero, q := 0x700 })) (st) ∧
    Goes (.cvtfi ({ dst := .v 1, a := .v 2, b := .zero, c := .zero, q := 0x0, var := 2 })) (st) ∧
    Goes (.cvtif ({ dst := .v 1, a := .v 2, b := .zero, c := .zero, q := 0x600, var := 6 })) (st) ∧
    Goes (.frcp ({ dst := .v 1, a := .v 2, b := .zero, c := .zero, var := 8 })) (st) ∧
    Goes (.frsq ({ dst := .v 1, a := .v 2, b := .zero, c := .zero, var := 8 })) (st) ∧
    Goes (.fexp2 ({ dst := .v 1, a := .v 2, b := .zero, c := .zero, var := 8 })) (st) ∧
    Goes (.flog2 ({ dst := .v 1, a := .v 2, b := .zero, c := .zero, var := 8 })) (st) ∧
    Goes (.ftanh ({ dst := .v 1, a := .v 2, b := .zero, c := .zero, var := 8 })) (st) :=
  ⟨RunsAs.met (h (st) ({ dst := .v 1, a := .v 2, b := .zero, c := .zero, q := 0x700 })).1 rfl rfl (by decide +kernel),
   RunsAs.met (h (st) ({ dst := .v 1, a := .v 2, b := .zero, c := .zero, q := 0x0, var := 2 })).2.1 rfl rfl (by decide +kernel),
   RunsAs.met (h (st) ({ dst := .v 1, a := .v 2, b := .zero, c := .zero, q := 0x600, var := 6 })).2.2.1 rfl rfl (by decide +kernel),
   RunsAs.met (h (st) ({ dst := .v 1, a := .v 2, b := .zero, c := .zero, var := 8 })).2.2.2.1 rfl rfl (by decide +kernel),
   RunsAs.met (h (st) ({ dst := .v 1, a := .v 2, b := .zero, c := .zero, var := 8 })).2.2.2.2.1 rfl rfl (by decide +kernel),
   RunsAs.met (h (st) ({ dst := .v 1, a := .v 2, b := .zero, c := .zero, var := 8 })).2.2.2.2.2.1 rfl rfl (by decide +kernel),
   RunsAs.met (h (st) ({ dst := .v 1, a := .v 2, b := .zero, c := .zero, var := 8 })).2.2.2.2.2.2.1 rfl rfl (by decide +kernel),
   RunsAs.met (h (st) ({ dst := .v 1, a := .v 2, b := .zero, c := .zero, var := 8 })).2.2.2.2.2.2.2 rfl rfl (by decide +kernel)⟩

/-- E4M3 and E2M1 elements with the scale in v3; dot products. -/
theorem witness_PackedFormatResults (h : Obligations.PackedFormatResults) :
    Goes (.pack8 ({ dst := .v 12, a := .v 2, b := .v 3, c := .zero, q := 0x100 })) (st) ∧
    Goes (.pack4 ({ dst := .v 20, a := .v 2, b := .v 3, c := .zero, q := 0x300 })) (st) ∧
    Goes (.unpk8 ({ dst := .v 12, a := .v 2, b := .v 3, c := .zero, q := 0x10 })) (st) ∧
    Goes (.unpk4 ({ dst := .v 20, a := .v 2, b := .v 3, c := .zero, q := 0x30 })) (st) ∧
    Goes (.dot4 ({ dst := .v 1, a := .v 2, b := .v 3, c := .v 4 })) (st) ∧
    Goes (.dot8 ({ dst := .v 1, a := .v 2, b := .v 3, c := .v 4 })) (st) ∧
    Goes (.idot4 ({ dst := .v 1, a := .v 2, b := .v 3, c := .v 4, var := 1 })) (st) ∧
    Goes (.idot8 ({ dst := .v 1, a := .v 2, b := .v 3, c := .v 4 })) (st) ∧
    Goes (.pfma ({ dst := .v 1, a := .v 2, b := .v 3, c := .v 4, var := 9 })) (st) :=
  ⟨RunsAs.met (h.1 (st) ({ dst := .v 12, a := .v 2, b := .v 3, c := .zero, q := 0x100 })).1 rfl rfl (by decide +kernel),
   RunsAs.met (h.1 (st) ({ dst := .v 20, a := .v 2, b := .v 3, c := .zero, q := 0x300 })).2.1 rfl rfl (by decide +kernel),
   RunsAs.met (h.1 (st) ({ dst := .v 12, a := .v 2, b := .v 3, c := .zero, q := 0x10 })).2.2.1 rfl rfl (by decide +kernel),
   RunsAs.met (h.1 (st) ({ dst := .v 20, a := .v 2, b := .v 3, c := .zero, q := 0x30 })).2.2.2 rfl rfl (by decide +kernel),
   RunsAs.met (h.2 (st) ({ dst := .v 1, a := .v 2, b := .v 3, c := .v 4 })).1 rfl rfl (by decide +kernel),
   RunsAs.met (h.2 (st) ({ dst := .v 1, a := .v 2, b := .v 3, c := .v 4 })).2.1 rfl rfl (by decide +kernel),
   RunsAs.met (h.2 (st) ({ dst := .v 1, a := .v 2, b := .v 3, c := .v 4, var := 1 })).2.2.1 rfl rfl (by decide +kernel),
   RunsAs.met (h.2 (st) ({ dst := .v 1, a := .v 2, b := .v 3, c := .v 4 })).2.2.2.1 rfl rfl (by decide +kernel),
   RunsAs.met (h.2 (st) ({ dst := .v 1, a := .v 2, b := .v 3, c := .v 4, var := 9 })).2.2.2.2 rfl rfl (by decide +kernel)⟩

/-- Four lanes exchange v2. -/
theorem witness_LaneExchangeResults (h : Obligations.LaneExchangeResults) :
    Goes (.lshfl ({ dst := .v 1, a := .v 2, b := .v 3, c := .lit 15, var := 6 })) (st) ∧
    Goes (.lperm ({ dst := .v 1, a := .v 2, b := .v 3, c := .zero, var := 6 })) (st) ∧
    Goes (.qswap ({ dst := .v 1, a := .v 2, b := .zero, c := .zero, var := 0 })) (st) ∧
    Goes (.qbcast ({ dst := .v 1, a := .v 2, b := .zero, c := .zero, var := 2 })) (st) ∧
    Goes (.gred ({ dst := .v 1, a := .v 2, b := .zero, c := .lit 15, var := 6 })) (st) ∧
    Goes (.gscan ({ dst := .v 1, a := .v 2, b := .zero, c := .lit 15, q := 16, var := 6 })) (st) ∧
    Goes (.v2s ({ dst := .s 40, a := .v 2, b := .zero, c := .lit 15, var := 6 })) (st) :=
  ⟨GroupAs.met (h (st) ({ dst := .v 1, a := .v 2, b := .v 3, c := .lit 15, var := 6 })).1 rfl rfl (by decide +kernel),
   RunsAs.met (h (st) ({ dst := .v 1, a := .v 2, b := .v 3, c := .zero, var := 6 })).2.1 rfl rfl (by decide +kernel),
   RunsAs.met (h (st) ({ dst := .v 1, a := .v 2, b := .zero, c := .zero, var := 0 })).2.2.1 rfl rfl (by decide +kernel),
   RunsAs.met (h (st) ({ dst := .v 1, a := .v 2, b := .zero, c := .zero, var := 2 })).2.2.2.1 rfl rfl (by decide +kernel),
   GroupAs.met (h (st) ({ dst := .v 1, a := .v 2, b := .zero, c := .lit 15, var := 6 })).2.2.2.2.1 rfl rfl (by decide +kernel),
   GroupAs.met (h (st) ({ dst := .v 1, a := .v 2, b := .zero, c := .lit 15, q := 16, var := 6 })).2.2.2.2.2.1 rfl rfl (by decide +kernel),
   GroupAs.met (h (st) ({ dst := .s 40, a := .v 2, b := .zero, c := .lit 15, var := 6 })).2.2.2.2.2.2 rfl rfl (by decide +kernel)⟩

/-- Words at 0x100, of a READY tile, of the private space. -/
theorem witness_LoadResults (h : Obligations.LoadResults) :
    Goes (.ld ({ dst := .v 6, a := .lit 0x100, b := .zero, c := .zero, var := 6 })) (st) ∧
    Goes (.lds ({ dst := .v 6, a := .lit 0x100, b := .zero, c := .zero, var := 6 })) (stWg fun w => { w with tiles := [{ idx := 0, state := .ready, vpage := 0x3000, owned := 1, wchecked := true }] }) ∧
    Goes (.ldu ({ dst := .s 40, a := .lit 0x100, b := .zero, c := .zero, var := 6 })) (st) ∧
    Goes (.ldl ({ dst := .v 6, a := .lit 0x100, b := .zero, c := .zero, var := 7 })) (st) :=
  ⟨RunsAs.met (h (st) ({ dst := .v 6, a := .lit 0x100, b := .zero, c := .zero, var := 6 })).1 rfl rfl (by decide +kernel),
   RunsAs.met (h (stWg fun w => { w with tiles := [{ idx := 0, state := .ready, vpage := 0x3000, owned := 1, wchecked := true }] }) ({ dst := .v 6, a := .lit 0x100, b := .zero, c := .zero, var := 6 })).2.1 rfl rfl (by decide +kernel),
   RunsAs.met (h (st) ({ dst := .s 40, a := .lit 0x100, b := .zero, c := .zero, var := 6 })).2.2.1 rfl rfl (by decide +kernel),
   RunsAs.met (h (st) ({ dst := .v 6, a := .lit 0x100, b := .zero, c := .zero, var := 7 })).2.2.2 rfl rfl (by decide +kernel)⟩

/-- Words at 0x100, of a READY tile, of the private space. -/
theorem witness_StoreResults (h : Obligations.StoreResults) :
    Goes (.st ({ dst := .v 6, a := .lit 0x100, b := .zero, c := .zero, var := 6 })) (st) ∧
    Goes (.sts ({ dst := .v 6, a := .lit 0x100, b := .zero, c := .zero, var := 6 })) (stWg fun w => { w with tiles := [{ idx := 0, state := .ready, vpage := 0x3000, owned := 1, wchecked := true }] }) ∧
    Goes (.stl ({ dst := .v 6, a := .lit 0x100, b := .zero, c := .zero, var := 7 })) (st) :=
  ⟨RunsAs.met (h (st) ({ dst := .v 6, a := .lit 0x100, b := .zero, c := .zero, var := 6 })).1 rfl rfl (by decide +kernel),
   RunsAs.met (h (stWg fun w => { w with tiles := [{ idx := 0, state := .ready, vpage := 0x3000, owned := 1, wchecked := true }] }) ({ dst := .v 6, a := .lit 0x100, b := .zero, c := .zero, var := 6 })).2.1 rfl rfl (by decide +kernel),
   RunsAs.met (h (st) ({ dst := .v 6, a := .lit 0x100, b := .zero, c := .zero, var := 7 })).2.2 rfl rfl (by decide +kernel)⟩

/-- A line at 0x100; a fence at `.sys`; spilling at depth 1 and filling a spilled frame. -/
theorem witness_CacheWindowAndFenceResults (h : Obligations.CacheWindowAndFenceResults) :
    Goes (.pref ({ dst := .zero, a := .lit 0x100, b := .zero, c := .zero, var := 0 })) (st) ∧
    Goes (.fence ({ dst := .zero, a := .zero, b := .zero, c := .zero, q := 640, var := 2 })) (st) ∧
    Goes (.cmaintClean ({ dst := .zero, a := .lit 0x100, b := .lit 0x80, c := .zero, var := 0 })) (st) ∧
    Goes (.cmaintInv ({ dst := .zero, a := .lit 0x100, b := .lit 0x80, c := .zero, var := 1 })) (st) ∧
    Goes (.cmaintClinv ({ dst := .zero, a := .lit 0x100, b := .lit 0x80, c := .zero, var := 2 })) (st) ∧
    Goes (.wspill ({})) (stLane fun l => { l with d := 1, lo := 0 }) ∧
    Goes (.wfill ({})) (stLane fun l => { l with d := 2, lo := 1 }) :=
  ⟨RunsAs.met (h.1 (st) ({ dst := .zero, a := .lit 0x100, b := .zero, c := .zero, var := 0 })).1 rfl rfl (by decide +kernel),
   RunsAs.met (h.1 (st) ({ dst := .zero, a := .zero, b := .zero, c := .zero, q := 640, var := 2 })).2.1 rfl rfl (by decide +kernel),
   RunsAs.met ((h.1 (st) ({ dst := .zero, a := .lit 0x100, b := .lit 0x80, c := .zero, var := 0 })).2.2 0 _ (by simp)) rfl rfl (by decide +kernel),
   RunsAs.met ((h.1 (st) ({ dst := .zero, a := .lit 0x100, b := .lit 0x80, c := .zero, var := 1 })).2.2 1 _ (by simp)) rfl rfl (by decide +kernel),
   RunsAs.met ((h.1 (st) ({ dst := .zero, a := .lit 0x100, b := .lit 0x80, c := .zero, var := 2 })).2.2 2 _ (by simp)) rfl rfl (by decide +kernel),
   RunsAs.met (h.2 (stLane fun l => { l with d := 1, lo := 0 }) ({})).1 rfl rfl (by decide +kernel),
   RunsAs.met (h.2 (stLane fun l => { l with d := 2, lo := 1 }) ({})).2 rfl rfl (by decide +kernel)⟩

/-- A sum at 0x100, a compare and swap, a RED, a tile update. -/
theorem witness_AtomicUpdateResults (h : Obligations.AtomicUpdateResults) :
    Goes (.atom ({ dst := .v 6, a := .lit 0x100, b := .zero, c := .v 3, var := 6 })) (st) ∧
    Goes (.atomcas ({ dst := .v 6, a := .lit 0x100, b := .v 3, c := .v 4, var := 6 })) (st) ∧
    Goes (.red ({ dst := .v 6, a := .lit 0x100, b := .zero, c := .zero, var := 6 })) (st) ∧
    Goes (.atoms ({ dst := .v 6, a := .lit 0, b := .zero, c := .v 3, var := 6 })) (stWg fun w => { w with tiles := [{ idx := 0, state := .ready, vpage := 0x3000, owned := 1, wchecked := true }] }) ∧
    updated (.cas true) 8 1 3 4 = none :=
  ⟨RunsAs.met (h.1 (st) ({ dst := .v 6, a := .lit 0x100, b := .zero, c := .v 3, var := 6 })).1 rfl rfl (by decide +kernel),
   RunsAs.met (h.1 (st) ({ dst := .v 6, a := .lit 0x100, b := .v 3, c := .v 4, var := 6 })).2.1 rfl rfl (by decide +kernel),
   RunsAs.met (h.1 (st) ({ dst := .v 6, a := .lit 0x100, b := .zero, c := .zero, var := 6 })).2.2.1 rfl rfl (by decide +kernel),
   RunsAs.met (h.1 (stWg fun w => { w with tiles := [{ idx := 0, state := .ready, vpage := 0x3000, owned := 1, wchecked := true }] }) ({ dst := .v 6, a := .lit 0, b := .zero, c := .v 3, var := 6 })).2.2.2 rfl rfl (by decide +kernel),
   ((h.2 1 2 3 4 5 6).2.2.2.2.2.2.2.2.2.2 true (by decide)).1⟩

def acc0 : Acc := { id := 7, batch := 7, wg := 2, lane := 0, core := 0, asid := 1, kind := .load false, va := 0x100, width := 4, loc := some 0x100 }

/-- `st` with one pending access. -/
def stAcc (a : Acc) : State := st.modMs fun ms => { ms with acc := [a] }

/-- A RED, a RED at system scope, and an atomic that its home serves. -/
def accRed : Acc := { acc0 with kind := .red 0 6 }
def accFar : Acc := { acc0 with kind := .red 0 6, scope := 5 }
def accAtom : Acc := { acc0 with kind := .atom 0 6 false, dst := .v [6] }

/-- `st` with a module that cannot be reached and a load from it. -/
def stFar : State :=
  let s := stAcc { acc0 with loc := some (2 * 2 ^ 48 + 2 ^ 42), dst := .v [0] }
  { s with net := { s.net with unreachable := [1] } }

/-- A load, a store and an atomic under ownership at 0x100; a load from an unreachable module. -/
theorem witness_PendingAccessesArePerformed (h : Obligations.PendingAccessesArePerformed) :
    Goes (.loadDataReturn 7) (stAcc acc0) ∧
    Goes (.writeAcknowledgement 7) (stAcc { acc0 with kind := .store }) ∧
    Goes (.ownershipGrant 7) (stAcc { acc0 with kind := .cas true }) ∧
    Goes (.fabricLoadTimeout 7) (stFar) ∧
    (stAcc { acc0 with kind := .store }).performAcc { acc0 with kind := .store } =
      (((stAcc { acc0 with kind := .store }).used wg0 0x100 .write).storeMem 0 0x100 4 0 false false 0).dropAcc 7 ∧
    (∃ r, ((stAcc accRed).used wg0 0x100 .both).homeUpdate 0 0x100 4 (.red 0 6) 0 0 false = r ∧
      (stAcc accRed).performAcc accRed = (r.1.dropAcc 7).fillDest 2 0 .none (loadVal false (bytesLE 4 r.2.1)) r.2.2) ∧
    (let s1 := (stAcc accFar).evictL2 0x100
     (stAcc accFar).performBatch accFar = State.evictL2 (((s1.ms.acc.filter (s1.sameBatch accFar)).foldl
       (fun l b => insertLane b l) []).foldl State.performLive s1) 0x100) ∧
    (∃ r, ((stAcc accAtom).used wg0 0x100 .both).homeUpdate 0 0x100 4 (.atom 0 6 false) 0 0 false = r ∧
      (stAcc accAtom).performAcc accAtom = (r.1.dropAcc 7).fillDest 2 0 (.v [6]) (loadVal false (bytesLE 4 r.2.1)) r.2.2) :=
  ⟨goes_of ((h.1 (stAcc acc0) 7 acc0 rfl).1 false 0x100 wg0 rfl rfl rfl rfl (by decide +kernel) (by decide +kernel) (by decide +kernel) (by decide +kernel) (by decide +kernel)),
   goes_of ((h.1 (stAcc { acc0 with kind := .store }) 7 { acc0 with kind := .store } rfl).2.1 0x100 rfl rfl rfl),
   goes_of ((h.1 (stAcc { acc0 with kind := .cas true }) 7 { acc0 with kind := .cas true } rfl).2.2.1 rfl rfl),
   goes_of ((h.1 stFar 7 { acc0 with loc := some (2 * 2 ^ 48 + 2 ^ 42), dst := .v [0] } rfl).2.2.2 _ rfl (by decide +kernel) (by decide +kernel)),
   (h.2 (stAcc { acc0 with kind := .store }) { acc0 with kind := .store } wg0 0x100 rfl (by decide +kernel) (by decide +kernel) (by decide +kernel) rfl (by decide +kernel) (by decide +kernel) rfl).1 rfl (by decide +kernel) (by decide +kernel),
   ⟨_, rfl, (h.2 (stAcc accRed) accRed wg0 0x100 rfl (by decide +kernel) (by decide +kernel) (by decide +kernel) rfl (by decide +kernel) (by decide +kernel) rfl).2.1 0 6 _ _ _ rfl rfl (by decide +kernel)⟩,
   (h.2 (stAcc accFar) accFar wg0 0x100 rfl (by decide +kernel) (by decide +kernel) (by decide +kernel) rfl (by decide +kernel) (by decide +kernel) rfl).2.2.1 0 6 rfl rfl (by decide +kernel) (by decide +kernel),
   ⟨_, rfl, (h.2 (stAcc accAtom) accAtom wg0 0x100 rfl (by decide +kernel) (by decide +kernel) (by decide +kernel) rfl (by decide +kernel) (by decide +kernel) rfl).2.2.2 0 6 _ _ _ rfl rfl (by decide +kernel)⟩⟩

def maint0 : Maint := { id := 9, wg := 2, lane := 0, core := 0, asid := 1, op := 0, level := 0, lo := 0x100, hi := 0x17F }

def stMiss : State := st.modMs fun ms => { ms with misses := [{ core := 0, asid := 1, page := 0, lanes := [(2, 0)] }], faults := [(1, 0)],
                                                       maint := [maint0] }

/-- The same operation on a page that has no translation, and on one above the address space. -/
def maintAbsent : Maint := { maint0 with lo := 0x40000000, hi := 0x4000007F }
def maintBeyond : Maint := { maint0 with lo := 0x10000000000000, hi := 0x1000000000007F }
def stMaint (m : Maint) : State := st.modMs fun ms => { ms with maint := [m] }

/-- A miss and a fault of page 0 of space 1; a clean of the line at 0x100. -/
theorem witness_TranslationAndMaintenanceEvents (h : Obligations.TranslationAndMaintenanceEvents) :
    Goes (.translationMissComplete 0) (stMiss) ∧
    Goes (.pageFaultServiceComplete 1 0 (some { level := 0, entry := loneLeaf })) stMiss ∧
    Goes (.pageFaultServiceComplete 1 0 none) stMiss ∧
    Goes (.cacheMaintenanceComplete 9) (stMiss) ∧
    Goes (.cacheMaintenanceComplete 9) (stMaint maintAbsent) ∧
    Goes (.cacheMaintenanceComplete 9) (stMaint maintBeyond) :=
  ⟨goes_of ((h.1 stMiss).1 0 _ loneSpace rfl (by decide +kernel) (by decide +kernel)),
   goes_of (((h.1 stMiss).2 1 0 (by decide +kernel)).1 { level := 0, entry := loneLeaf } loneSpace 0x20000000 (by decide +kernel) (by decide +kernel)),
   goes_of ((h.1 stMiss).2 1 0 (by decide +kernel)).2,
   goes_of ((h.2 stMiss 9 maint0 rfl).1 [(maint0, [(0x100, 0x180)])] (by decide +kernel)),
   goes_of ((h.2 (stMaint maintAbsent) 9 maintAbsent rfl).2.1 0x40000000 (by decide +kernel) (by decide +kernel)),
   goes_of ((h.2 (stMaint maintBeyond) 9 maintBeyond rfl).2.2 8 0x10000000000000 (by decide +kernel) (by decide +kernel))⟩

/-- `st` with a local barrier 0. -/
def stBar (b : Barrier) : State := stWg fun w => { w with bars := w.bars.set 0 b }

/-- The four lanes' keys. -/
def keys0 : List Nat := [barKey 2 0, barKey 2 1, barKey 2 2, barKey 2 3]

/-- Local barrier 0 with four registered lanes; a release arrival, a release that is due, a re-arm; and tree barrier 0. -/
theorem witness_BarrierOperations (h : Obligations.BarrierOperations) :
    Goes (.barinit ({ dst := .zero, a := .zero, b := .zero, c := .zero })) (st) ∧
    Goes (.barreg ({ dst := .zero, a := .zero, b := .zero, c := .zero })) (st) ∧
    Goes (.bararr ({ dst := .zero, a := .zero, b := .zero, c := .zero })) (stBar { reg := keys0, remaining := 4, reload := 4 }) ∧
    Goes (.barwait ({ dst := .zero, a := .zero, b := .zero, c := .zero })) (stBar { reg := keys0, remaining := 4, reload := 4 }) ∧
    Goes (.barsync ({ dst := .zero, a := .zero, b := .zero, c := .zero })) (stBar { reg := keys0, remaining := 4, reload := 4 }) ∧
    Goes (.bardrop ({ dst := .zero, a := .zero, b := .zero, c := .zero })) (stBar { reg := keys0, remaining := 4, reload := 4 }) ∧
    Goes (.barrierArrivalCount false 2 0 1) (stBar { pend := [barKey 2 1], remaining := 1 }) ∧
    Goes (.localBarrierRelease 2 0) (stBar { due := true }) ∧
    Goes (.localBarrierRearm 2 0) (stBar { released := true }) ∧
    Goes (.treeBarrierRelease 0) ({ st with net := { st.net with trees := [{ due := true }] } }) ∧
    Goes (.treeBarrierRearm 0) ({ st with net := { st.net with trees := [{ released := true }] } }) :=
  ⟨RunsAs.met (h.1 (st) ({ dst := .zero, a := .zero, b := .zero, c := .zero })).1 rfl rfl (by decide +kernel),
   RunsAs.met (h.1 (st) ({ dst := .zero, a := .zero, b := .zero, c := .zero })).2.1 rfl rfl (by decide +kernel),
   RunsAs.met (h.1 (stBar { reg := keys0, remaining := 4, reload := 4 }) ({ dst := .zero, a := .zero, b := .zero, c := .zero })).2.2.1 rfl rfl (by decide +kernel),
   RunsAs.met (h.1 (stBar { reg := keys0, remaining := 4, reload := 4 }) ({ dst := .zero, a := .zero, b := .zero, c := .zero })).2.2.2.1 rfl rfl (by decide +kernel),
   RunsAs.met (h.1 (stBar { reg := keys0, remaining := 4, reload := 4 }) ({ dst := .zero, a := .zero, b := .zero, c := .zero })).2.2.2.2.1 rfl rfl (by decide +kernel),
   RunsAs.met (h.1 (stBar { reg := keys0, remaining := 4, reload := 4 }) ({ dst := .zero, a := .zero, b := .zero, c := .zero })).2.2.2.2.2 rfl rfl (by decide +kernel),
   goes_of ((h.2 (stBar { pend := [barKey 2 1], remaining := 1 }) 2 0 1 false).1 (by decide +kernel) (by decide +kernel) _ rfl),
   goes_of ((h.2 (stBar { due := true }) 2 0 1 false).2.1 rfl rfl nofun),
   goes_of ((h.2 (stBar { released := true }) 2 0 1 false).2.2 rfl nofun),
   goes_of ((h.2 { st with net := { st.net with trees := [{ due := true }] } } 0 0 1 true).2.1 rfl rfl (fun _ => rfl)),
   goes_of ((h.2 { st with net := { st.net with trees := [{ released := true }] } } 0 0 1 true).2.2 rfl (fun _ => rfl))⟩

/-- A local barrier with a waiter, and a tree barrier. -/
theorem witness_BarrierReleaseFreesTheWaiters (h : Obligations.BarrierReleaseFreesTheWaiters) :
    (((stBar { waiting := keys0, due := true }).releaseBar false 2 0).bar false 2 0).waiting = [] ∧
      ((st.releaseBar true 2 0).bar true 2 0).waiting = [] :=
  ⟨(h (stBar { waiting := keys0, due := true }) 0 false { wg0 with bars := wg0.bars.set 0 { waiting := keys0, due := true } } nofun
      fun _ => ⟨rfl, by decide⟩).1, (h st 0 true wg0 (fun _ => by decide) nofun).1⟩

def stFlit : State := { st with net := { st.net with flits := [{ srcWg := 2, srcLane := 1, node := 1, index := 0, queue := 3, data := 5 }] } }

/-- q0 bound to queue 0 of workgroup 0; a flit in flight. -/
theorem witness_CoreQueueResults (h : Obligations.CoreQueueResults) :
    Goes (.qbind ({ dst := .qtx 1, a := .zero, b := .zero, c := .zero })) (st) ∧
    Goes (.qpoll ({ dst := .v 1, a := .qrx 2, b := .zero, c := .zero })) (st) ∧
    Goes (.queueFlitDelivery 0) (stFlit) :=
  ⟨RunsAs.met (h (st) ({ dst := .qtx 1, a := .zero, b := .zero, c := .zero })).1 rfl rfl (by decide +kernel),
   RunsAs.met ((h (st) ({ dst := .v 1, a := .qrx 2, b := .zero, c := .zero })).2.1 2 rfl) rfl rfl (by decide +kernel),
   goes_of ((h stFlit {}).2.2 0 _ _ 0 rfl rfl rfl rfl)⟩

/-- `st` with one tile, of block 0x3000. -/
def stTile (t : Tile) : State := stWg fun w => { w with tiles := [t] }
def tile0 : Tile := { idx := 0, vpage := 0x3000 }

/-- A claim of block 0x3000; operations on tile 0 in each state. -/
theorem witness_StashTileOperations (h : Obligations.StashTileOperations) :
    Goes (.tclaim ({ dst := .zero, a := .lit 0x3000, b := .zero, c := .zero })) (st) ∧
    Goes (.tfill ({ dst := .h 1, a := .zero, b := .zero, c := .zero })) (stTile tile0) ∧
    Goes (.tdrain ({ dst := .h 1, a := .zero, b := .zero, c := .zero })) (stTile { tile0 with state := .ready }) ∧
    Goes (.tfree ({ dst := .zero, a := .zero, b := .zero, c := .zero })) (stTile tile0) ∧
    Goes (.tstat ({ dst := .v 6, a := .zero, b := .zero, c := .zero })) (stTile tile0) ∧
    Goes (.tileFillComplete 2 0) (stTile { tile0 with state := .filling }) ∧
    Goes (.tileDrainComplete 2 0) (stTile { tile0 with state := .draining, recalled := true }) ∧
    Goes (.tileDrainComplete 2 0) (stTile { tile0 with state := .draining, dirty := [4] }) ∧
    Goes (.tileRelease 2 0) (stTile { tile0 with freeing := true }) :=
  ⟨OnceAs.met (h.1 (st) ({ dst := .zero, a := .lit 0x3000, b := .zero, c := .zero })).1 rfl rfl (by decide +kernel),
   OnceAs.met (h.1 (stTile tile0) ({ dst := .h 1, a := .zero, b := .zero, c := .zero })).2.1 rfl rfl (by decide +kernel),
   OnceAs.met (h.1 (stTile { tile0 with state := .ready }) ({ dst := .h 1, a := .zero, b := .zero, c := .zero })).2.2.1 rfl rfl (by decide +kernel),
   OnceAs.met (h.1 (stTile tile0) ({ dst := .zero, a := .zero, b := .zero, c := .zero })).2.2.2.1 rfl rfl (by decide +kernel),
   RunsAs.met (h.1 (stTile tile0) ({ dst := .v 6, a := .zero, b := .zero, c := .zero })).2.2.2.2 rfl rfl (by decide +kernel),
   goes_of ((h.2.2 (stTile { tile0 with state := .filling }) 2 0 { wg0 with tiles := [{ tile0 with state := .filling }] } { tile0 with state := .filling } rfl).1 rfl rfl 0x3000 _ (pair_fst (by decide +kernel))),
   goes_of ((h.2.2 (stTile { tile0 with state := .draining, recalled := true }) 2 0 { wg0 with tiles := [{ tile0 with state := .draining, recalled := true }] } { tile0 with state := .draining, recalled := true } rfl).2.1 rfl rfl rfl rfl rfl),
   goes_of ((h.2.2 (stTile { tile0 with state := .draining, dirty := [4] }) 2 0 { wg0 with tiles := [{ tile0 with state := .draining, dirty := [4] }] } { tile0 with state := .draining, dirty := [4] } rfl).2.2.1 rfl rfl (by decide +kernel) (by decide +kernel) _ (pair_of (by decide +kernel))),
   goes_of ((h.2.2 (stTile { tile0 with freeing := true }) 2 0 { wg0 with tiles := [{ tile0 with freeing := true }] } { tile0 with freeing := true } rfl).2.2.2 rfl (by decide +kernel))⟩

/-- `st` with ring 0 of die 0. -/
def stRing (r : Ring) : State := { st with rt := { st.rt with rings := st.rt.rings.set 0 r } }
def ring0 : Ring := { st := 1, slots := [{}, {}], freeOrder := [0, 1] }

/-- Ring 0 of die 0 with two slots, in each state. -/
theorem witness_RoutedRingResults (h : Obligations.RoutedRingResults) :
    Goes (.rbres ({ dst := .v 6, a := .zero, b := .zero, c := .zero })) (stRing ring0) ∧
    Goes (.rbtake ({ dst := .v 6, a := .zero, b := .zero, c := .zero })) (stRing { ring0 with published := [1] }) ∧
    Goes (.rbpub ({ dst := .zero, a := .zero, b := .zero, c := .zero })) (stRing { ring0 with slots := [{ state := .reserved }, {}] }) ∧
    Goes (.rbfree ({ dst := .zero, a := .zero, b := .zero, c := .zero })) (stRing { ring0 with slots := [{ state := .taken }, {}] }) ∧
    Goes (.rbmeta ({ dst := .v 6, a := .zero, b := .zero, c := .zero })) (stRing { ring0 with slots := [{ state := .taken, latch := some (0, 0, 0) }, {}] }) :=
  ⟨RunsAs.met (h (stRing ring0) ({ dst := .v 6, a := .zero, b := .zero, c := .zero })).1 rfl rfl (by decide +kernel),
   RunsAs.met (h (stRing { ring0 with published := [1] }) ({ dst := .v 6, a := .zero, b := .zero, c := .zero })).2.1 rfl rfl (by decide +kernel),
   RunsAs.met (h (stRing { ring0 with slots := [{ state := .reserved }, {}] }) ({ dst := .zero, a := .zero, b := .zero, c := .zero })).2.2.1 rfl rfl (by decide +kernel),
   RunsAs.met (h (stRing { ring0 with slots := [{ state := .taken }, {}] }) ({ dst := .zero, a := .zero, b := .zero, c := .zero })).2.2.2.1 rfl rfl (by decide +kernel),
   RunsAs.met (h (stRing { ring0 with slots := [{ state := .taken, latch := some (0, 0, 0) }, {}] }) ({ dst := .v 6, a := .zero, b := .zero, c := .zero })).2.2.2.2 rfl rfl (by decide +kernel)⟩

def cfg0 : RingCfg := { st := 1, part := 0, sbase := 0, slotsm1 := 1, slines := 1, mbase := 0, mcapm1 := 0, lbase := 0, em1 := 3, km1 := 1, norm := false, lstride := 8, asid := 1 }
def cfgBad : RingCfg := { cfg0 with st := 2, em1 := 0 }

/-- Ring 0 routed, with a token in the queue of die 0 and a metadata record whose sequence number matches in memory. -/
def stRouted : State :=
  let s := stRing { ring0 with st := 2, em1 := 3, km1 := 1, lbase := 0x7000, mbase := 0x8000, asid := 1 }
  { s with rt := { s.rt with glq := [[(0, 0)], [], [], []] }
           ms := { s.ms with mem := s.ms.mem.writeBytes 0x800A (bytesLE 2 1) } }

/-- Ring 0 of die 0, bound or routed. -/
theorem witness_RoutedRingEvents (h : Obligations.RoutedRingEvents) :
    Goes (.glq 0 0 5) (stRouted) ∧
    Goes (.metadataDelivery 0 0) (stRouted) ∧
    Goes (.ringConfiguration 0 0 cfg0) (stRouted) ∧
    Goes (.ringConfiguration 0 0 cfgBad) (stRouted) ∧
    Goes (.gateLogitPop 0) (stRouted) :=
  ⟨goes_of ((h.1 stRouted 0 0 5 cfg0).1 rfl rfl (by decide +kernel)),
   goes_of ((h.1 stRouted 0 0 5 cfg0).2.2.2.2.1 _ _ 65536 0 false false (by decide +kernel) (pair_of (by decide +kernel)) (pair_of (by decide +kernel)) (by decide +kernel)),
   goes_ex ((h.1 stRouted 0 0 5 cfg0).2.2.2.2.2.1 rfl),
   goes_ex ((h.1 stRouted 0 0 5 cfgBad).2.2.2.2.2.2 rfl (by decide +kernel)),
   goes_of ((h.2 stRouted 0).1 0 0 [] _ _ rfl rfl (ok_of (b := ([(0#32), 0, 0, 0], false)) (by decide +kernel)))⟩

/-- A record of E2M1 elements with scale 0. -/
def rec0 : W64 := 0x0300060000000000
def slot0 : MxSlot := { phys := 0, scope := 0, ebase := 0, base := 0x9000, stride := 256 }
def wdesc0 : WDesc := { tile := true, addr := 0, west := false, srec := rec0 }

/-- `st` with the matrix state of quarter 0. -/
def stMx (q : MxQuarter) : State := stWg fun w => { w with mx := w.mx.set 0 q }

/-- Slot 0 bound, and two READY tiles of weights and activations. -/
def stMult : State := (stMx { slots := [some slot0, none, none, none] }).modWg 2 fun w =>
  { w with tiles := [{ idx := 0, state := .ready, vpage := 0x3000 }, { idx := 1, state := .ready, vpage := 0x4000 }] }

/-- Weights in memory; a chunk of two tiles; the promotion of rows 0 to 3; a slot bound. -/
theorem witness_MatrixStepsAreQueued (h : Obligations.MatrixStepsAreQueued) :
    Goes (.mxldw ({ dst := .h 1, a := .lit 0x4000, b := .lit 0x0300060000000000, c := .zero })) (st) ∧
    Goes (.mxmult ({ dst := .h 1, a := .lit 0x100, b := .lit 0x0300060000000000, c := .lit 0x0300060000000000 })) (stMult) ∧
    Goes (.mxprom ({ dst := .h 1, a := .zero, b := .zero, c := .zero, q := 3 })) (stMult) ∧
    Goes (.mxzero ({ dst := .h 1, a := .lit 0x9000, b := .lit 256, c := .zero, q := 0 })) (st) :=
  ⟨OnceAs.met (h (st) ({ dst := .h 1, a := .lit 0x4000, b := .lit 0x0300060000000000, c := .zero })).1 rfl rfl (by decide +kernel),
   OnceAs.met (h (stMult) ({ dst := .h 1, a := .lit 0x100, b := .lit 0x0300060000000000, c := .lit 0x0300060000000000 })).2.1 rfl rfl (by decide +kernel),
   OnceAs.met (h (stMult) ({ dst := .h 1, a := .zero, b := .zero, c := .zero, q := 3 })).2.2.1 rfl rfl (by decide +kernel),
   OnceAs.met (h (st) ({ dst := .h 1, a := .lit 0x9000, b := .lit 256, c := .zero, q := 0 })).2.2.2 rfl rfl (by decide +kernel)⟩

/-- Convergence register 0 with the four lanes declared. -/
def stCv : State := (stMx { slots := [some slot0, none, none, none], wdesc := some wdesc0 }).modWg 2 fun w =>
  { w with cv := w.cv.set 0 { decl := 15, word2 := 0x8000000000000000 } }

/-- Four declared lanes sign. -/
theorem witness_CollectedMultiplyIsSigned (h : Obligations.CollectedMultiplyIsSigned) :
    Goes (.mxmul ({ dst := .h 1, a := .v 8, b := .lit 0x0300060000000000, c := .zero })) (stCv) :=
  RunsAs.met (h (stCv) ({ dst := .h 1, a := .v 8, b := .lit 0x0300060000000000, c := .zero })) rfl rfl (by decide +kernel)

def stQueued : State := stMx { slots := [some slot0, none, none, none], steps := [⟨5, 0, .ldw 9 wdesc0⟩] }
def stChunk : State := stMult.modMx 2 0 fun m => { m with steps := [⟨5, 0, .mult 9 0 0 1 0 1 false 0 1 rec0 rec0 0 none⟩] }
def stLdw : State := stMult.modMx 2 0 fun _ => { cell := some ⟨5, 0, .ldw 9 wdesc0⟩ }
/-- A step that meets a second mismatch. -/
def stLdwBad : State := stLdw.meetMismatch 0 4 true
def stMul : State := (stMx { slots := [some slot0, none, none, none], inForce := some wdesc0, cell := some ⟨5, 0, .mul 9 0 0 1 8 false rec0 false []⟩ }).modCore 0 fun c => { c with weights := [some (2, wdesc0, []), none, none, none] }

/-- Two workgroups on core 0: one of class 1 whose need for a slot waits, and one of class 0 that holds the four slots. -/
def wgWaits : Wg := { wg0 with cls := 1, mx := wg0.mx.set 0 { since := some 0 } }
def wgHolds : Wg := { wg0 with id := 3, mx := wg0.mx.set 0 { slots := (List.range 4).map fun p => some { slot0 with phys := p } } }
def stTwo : State := { st with ex := { st.ex with wgs := [wgWaits, wgHolds] } }

def wgMul : Wg := (stMul.wg? 2).getD wg0

/-- The slot once the scale pair is latched. -/
def slot1 : MxSlot := { slot0 with latch := some (3, 0, 3, 0) }

theorem row_idle (i : Nat) : slot1.applyRow 3 3 i [] [] = (slot1, []) := by
  have hc : chunkTerm slot1.ebase.toInt (chunkSum 3 3 [] []).1 = (0, 0) := by decide +kernel
  have hp : (chunkSum 3 3 [] []).2 = false := rfl
  have hh : ∀ l : List Nat, (l.map fun j => (j, ((0, 0) : Nat × Int), false)).any
      (fun x => (slot1.at i x.1).tag == 0 && x.2.1.1 == 0 && !fitsFix ((slot1.at i x.1).fix.toInt + x.2.1.2)) = false := by
    intro l
    induction l with
    | nil => rfl
    | cons a l ih => simp only [List.map_cons, List.any_cons, ih]; rfl
  unfold MxSlot.applyRow
  simp only [List.filter_nil, hc, hp, hh]
  generalize List.range 64 = l
  induction l with
  | nil => rfl
  | cons a l ih => exact ih

theorem rows_idle (l : List Nat) :
    l.foldl (fun (x : MxSlot × List Promo) i =>
      let y := x.1.applyRow 3 3 (0 + i) (([] : List MxElem).filter (·.row == i)) []
      (y.1, x.2 ++ y.2)) (slot1, []) = (slot1, []) := by
  induction l with
  | nil => rfl
  | cons a l ih =>
    rw [List.foldl_cons]
    simp only [List.filter_nil, row_idle, List.append_nil]
    simp only [List.filter_nil] at ih
    exact ih

theorem applyOp_some (s : State) (w : Wg) (q k : Nat) (t : MxSlot) (d : WDesc) (arec : W64) (org nb : Nat) (as' ws : List MxElem)
    (reload : Bool) (after : MxSlot → MxSlot) (x y : Nat × Nat) (hx : (recFmt d.srec, recScale d.srec) = x)
    (hy : (recFmt arec, recScale arec) = y) (h : (t.apply x y org nb as' ws).2.1 = []) :
    (s.applyOp w q k t d arec org nb as' ws reload after).isSome = true := by
  unfold State.applyOp
  rw [hx, hy]
  simp only [h]
  rfl

/-- The A block of the multiply: no element. -/
def blockMul : List MxElem := (stMul.ownWeights wgMul 0 wdesc0 false).1.blockOf wgMul slot0 9 8 1 (recFmt rec0) false []

theorem blockMul_eq : blockMul = [] := rfl

theorem mul_applies : ((stMul.ownWeights wgMul 0 wdesc0 false).1.applyOp wgMul 0 0 slot0 wdesc0 rec0 0 1 blockMul [] false
    (holdAfter false 8 1 (recFmt rec0) blockMul)).isSome = true := by
  have h : slot0.apply (3, 0) (3, 0) 0 1 [] [] = (slot1, [], 0) := by
    unfold MxSlot.apply
    rw [show slot0.latch = none from rfl]
    simp only [List.filter_nil]
    rw [show ({ slot0 with latch := some (3, 0, 3, 0) } : MxSlot) = slot1 from rfl]
    have e := rows_idle (List.range (16 * 1))
    simp only [List.filter_nil] at e
    rw [e]
    rfl
  exact applyOp_some _ wgMul 0 0 slot0 wdesc0 rec0 0 1 _ [] false _ (3, 0) (3, 0) rfl rfl (by rw [blockMul_eq]; exact congrArg (·.2.1) h)

/-- Slot 0 bound; a queued weight load, a chunk, a weight load and a multiply on the array; two workgroups. -/
theorem witness_MatrixQueriesAndArraySteps (h : Obligations.MatrixQueriesAndArraySteps) :
    Goes (.mxrd ({ dst := .v 6, a := .v 2, b := .zero, c := .v 3 })) (stMult) ∧
    Goes (.mxstat ({ dst := .v 6, a := .zero, b := .zero, c := .zero })) (stMult) ∧
    Goes (.mxfence ({})) (st) ∧
    Goes (.cvset ({ dst := .zero, a := .zero, b := .zero, c := .lit 15 })) (st) ∧
    Goes (.cvqry ({ dst := .v 6, a := .zero, b := .zero, c := .zero })) (st) ∧
    Goes (.arrayStep 0 0) (stQueued) ∧
    Goes (.mxmultChunk 0 0) (stChunk) ∧
    Goes (.arrayStepComplete 0 0) stLdw ∧
    Goes (.arrayStepComplete 0 0) stLdwBad ∧
    Goes (.arrayStepComplete 0 0) stMul ∧
    Goes (.arraySlotPreemption 0 0) (stTwo) :=
  ⟨RunsAs.met (h.1 (stMult) ({ dst := .v 6, a := .v 2, b := .zero, c := .v 3 })).1 rfl rfl (by decide +kernel),
   RunsAs.met (h.1 (stMult) ({ dst := .v 6, a := .zero, b := .zero, c := .zero })).2.1 rfl rfl (by decide +kernel),
   RunsAs.met (h.1 (st) ({})).2.2.1 rfl rfl (by decide +kernel),
   OnceAs.met (h.1 (st) ({ dst := .zero, a := .zero, b := .zero, c := .lit 15 })).2.2.2.1 rfl rfl (by decide +kernel),
   RunsAs.met (h.1 (st) ({ dst := .v 6, a := .zero, b := .zero, c := .zero })).2.2.2.2 rfl rfl (by decide +kernel),
   goes_of ((h.2 stQueued 0 0).1 ((stQueued.wg? 2).getD wg0) ⟨5, 0, .ldw 9 wdesc0⟩ false (by decide +kernel) rfl (by decide +kernel) rfl),
   goes_of ((h.2 stChunk 0 0).1 ((stChunk.wg? 2).getD wg0) ⟨5, 0, .mult 9 0 0 1 0 1 false 0 1 rec0 rec0 0 none⟩ true (by decide +kernel) rfl (by decide +kernel) rfl),
   goes_of ((((h.2 stLdw 0 0).2.1) ((stLdw.wg? 2).getD wg0) ⟨5, 0, .ldw 9 wdesc0⟩ (by decide +kernel) rfl).2 rfl |>.1 9 wdesc0 _ ([], true) rfl (ok_of (by decide +kernel))),
   goes_of (((h.2 stLdwBad 0 0).2.1 ((stLdw.wg? 2).getD wg0) ⟨5, 0, .ldw 9 wdesc0⟩ (by decide +kernel) rfl).1 0 rfl),
   let ⟨_, _, _, _, e⟩ := some4_of mul_applies; goes_of ((((h.2 stMul 0 0).2.1) wgMul ⟨5, 0, .mul 9 0 0 1 8 false rec0 false []⟩ (by decide +kernel) rfl).2 rfl |>.2 9 0 0 1 8 false rec0 false [] slot0 wdesc0 _ [] false _ _ _ _ rfl rfl rfl (ok_of (b := ([], false)) (by decide +kernel)) e),
   goes_of ((h.2 stTwo 0 0).2.2 wgWaits wgHolds (by decide +kernel) (by decide +kernel) rfl (by decide +kernel) rfl (by decide +kernel) rfl (by decide +kernel))⟩

/-- A product of two E4M3 ones in column 0 of row 0, added to an empty slot. -/
theorem witness_ChunkIsAddedToTheRow (h : Obligations.ChunkIsAddedToTheRow) :
    (slot0.applyRow 1 1 0 [⟨0, 0, 0x38, false⟩] [⟨0, 0, 0x38, false⟩]).2 = [] ∧ Goes (.mxrd ({ dst := .v 6, a := .v 2, b := .zero, c := .v 3 })) (stMult) :=
  ⟨(h.1 slot0 1 1 0 [⟨0, 0, 0x38, false⟩] [⟨0, 0, 0x38, false⟩] (by decide +kernel)).2.2, (witness_MatrixQueriesAndArraySteps h.2).1⟩

/-- Tables of one set and one way: a 32-bit sum under EVICT, BYPASS and TRAP. -/
def tbl (pol : Nat) : DTable := { cfg := BitVec.ofNat 64 (2 ^ 32 + pol * 2 ^ 30), ring := 0x5000 }
def entry0 : DEntry := { set := 0, way := 0, key := 5, val := 7, poison := false, age := 0 }
def full0 (pol : Nat) : DTable := { tbl pol with entries := [entry0] }

/-- `st` with table 0. -/
def stTbl (t : DTable) : State := stWg fun w => { w with drift := [some t, none, none, none] }

/-- A key held, a free way, and a full set under each policy. -/
theorem witness_DriftKeyIsPlaced (h : Obligations.DriftKeyIsPlaced) :
    (∃ u, (full0 0).applyKey ⟨5, 1, false⟩ = some (u, 0, [])) ∧ (∃ u, (tbl 0).applyKey ⟨5, 1, false⟩ = some (u, 1, [])) ∧
    (∃ u, (full0 0).applyKey ⟨6, 1, false⟩ = some (u, 2, [entry0.record])) ∧
    (∃ u, (full0 1).applyKey ⟨6, 1, false⟩ = some (u, 3, [(6, 1, false)])) ∧ (full0 2).applyKey ⟨6, 1, false⟩ = none :=
  ⟨let ⟨u, e, _⟩ := (h (full0 0) ⟨5, 1, false⟩).1 entry0 rfl; ⟨u, e⟩, let ⟨u, e, _⟩ := (h (tbl 0) ⟨5, 1, false⟩).2.1 0 rfl rfl; ⟨u, e⟩,
   let ⟨u, e, _⟩ := ((h (full0 0) ⟨6, 1, false⟩).2.2 rfl rfl).1 entry0 rfl rfl; ⟨u, e⟩,
   let ⟨u, e, _⟩ := ((h (full0 1) ⟨6, 1, false⟩).2.2 rfl rfl).2.1 rfl; ⟨u, e⟩, ((h (full0 2) ⟨6, 1, false⟩).2.2 rfl rfl).2.2 rfl⟩

/-- Table 0, empty; keys in v2 and values in v3. -/
theorem witness_DriftInstructionResults (h : Obligations.DriftInstructionResults) :
    Goes (.kacc ({ dst := .v 6, a := .v 2, b := .v 3, c := .zero })) (stTbl (tbl 2)) ∧
    Goes (.kprobe ({ dst := .v 6, a := .v 2, b := .zero, c := .p 1 })) (stTbl (tbl 2)) ∧
    Goes (.kstat ({ dst := .v 6, a := .zero, b := .zero, c := .zero })) (stTbl (tbl 2)) ∧
    Goes (.kcfg ({ dst := .zero, a := .lit 0x180000000, b := .zero, c := .zero })) (st) ∧
    Goes (.kclear ({ dst := .zero, a := .zero, b := .zero, c := .zero })) (stTbl (tbl 2)) :=
  ⟨RunsAs.met (h.1 (stTbl (tbl 2)) ({ dst := .v 6, a := .v 2, b := .v 3, c := .zero }) (tbl 2) rfl) rfl rfl (by decide +kernel),
   RunsAs.met ((h.2 (stTbl (tbl 2)) ({ dst := .v 6, a := .v 2, b := .zero, c := .p 1 })).1 (tbl 2) 6 rfl rfl) rfl rfl (by decide +kernel),
   RunsAs.met (h.2 (stTbl (tbl 2)) ({ dst := .v 6, a := .zero, b := .zero, c := .zero })).2.1 rfl rfl (by decide +kernel),
   OnceAs.met (h.2 (st) ({ dst := .zero, a := .lit 0x180000000, b := .zero, c := .zero })).2.2.1 rfl rfl (by decide +kernel),
   OnceAs.met ((h.2 (stTbl (tbl 2)) ({ dst := .zero, a := .zero, b := .zero, c := .zero })).2.2.2 (tbl 2) rfl) rfl rfl (by decide +kernel)⟩

/-- A ring write reserved, of one record. -/
def write0 : RingWrite :=
  { asid := 1, ring := 0x5000, first := 0, recs := [(5, 6, false)], locs := [0x6000], wloc := 0x5010, wg := 2, core := 0, dests := [], op := 0, count := 0, merge := 0 }
def stRingWrite : State := { st with ex := { st.ex with ringWrites := [write0] } }

/-- A merge of `n` records at 0x4000, none read yet. -/
def merge0 (n : Nat) : EngineOp := { id := 9, wg := 2, asid := 1, core := 0, kind := .kmerge 0 false 0x4000 (some n) 0 0 false }
def stMerge (n : Nat) : State := let s := stTbl (tbl 2); { s with ex := { s.ex with ops := [merge0 n] } }

/-- A merge of the ring at 0x5000 whose RIDX is still to be written. -/
def mergeOwed : EngineOp := { merge0 1 with kind := .kmerge 0 true 0x5000 (some 1) 1 0 true }
def stOwed : State := let s := stTbl (tbl 2); { s with ex := { s.ex with ops := [mergeOwed] } }

/-- Table 0 with one entry drained, empty flushed; merges; a ring write and a merge in progress. -/
theorem witness_DriftEngineOperations (h : Obligations.DriftEngineOperations) :
    Goes (.kdrain ({ dst := .v 6, a := .lit 0x4000, b := .lit 1, c := .h 1, q := 256 })) (stTbl (full0 2)) ∧
    Goes (.kflush ({ dst := .h 1, a := .zero, b := .zero, c := .zero })) (stTbl (tbl 0)) ∧
    Goes (.kmergeBlock ({ dst := .h 1, a := .lit 0x4000, b := .imm 3, c := .used })) (stTbl (tbl 2)) ∧
    Goes (.kmergeRing ({ dst := .h 1, a := .lit 0x5000, b := .zero, c := .zero, var := 4 })) (stTbl (tbl 2)) ∧
    Goes (.driftRingWrite 1 0x5000) (stRingWrite) ∧
    Goes (.kmergeBatch 9) (stMerge 0) ∧
    Goes (.kmergeBatch 9) (stMerge 1) ∧
    Goes (.kmergeBatch 9) stOwed :=
  ⟨OnceAs.met (h.1 (stTbl (full0 2)) ({ dst := .v 6, a := .lit 0x4000, b := .lit 1, c := .h 1, q := 256 }) (full0 2) rfl).1 rfl rfl (by decide +kernel),
   OnceAs.met ((h.1 (stTbl (tbl 0)) ({ dst := .h 1, a := .zero, b := .zero, c := .zero }) (tbl 0) rfl).2.1 rfl) rfl rfl (by decide +kernel),
   OnceAs.met (h.1 (stTbl (tbl 2)) ({ dst := .h 1, a := .lit 0x4000, b := .imm 3, c := .used }) (tbl 2) rfl).2.2.1 rfl rfl (by decide +kernel),
   OnceAs.met (h.1 (stTbl (tbl 2)) ({ dst := .h 1, a := .lit 0x5000, b := .zero, c := .zero, var := 4 }) (tbl 2) rfl).2.2.2 rfl rfl (by decide +kernel),
   goes_of ((h.2 stRingWrite).1 1 0x5000 write0 write0 rfl rfl (by decide +kernel)),
   goes_of ((((h.2 (stMerge 0)).2.1) 9 (merge0 0) 0 0x4000 0 0 0 { wg0 with drift := [some (tbl 2), none, none, none] } (tbl 2) rfl rfl rfl rfl).1 (by decide) rfl),
   goes_of ((((h.2 (stMerge 1)).2.1) 9 (merge0 1) 0 0x4000 1 0 0 { wg0 with drift := [some (tbl 2), none, none, none] } (tbl 2) rfl rfl rfl rfl).2 ((stMerge 1).readRecords 0 loneSpace [0x4000]).1 [((0#64), (0#64), false)] (by decide) (ok_of (r := (stMerge 1).readRecords 0 loneSpace [0x4000]) (b := [((0#64), (0#64), false)]) (by decide +kernel))),
   goes_of ((h.2 stOwed).2.2 9 mergeOwed 0 0x5000 1 1 0 rfl rfl)⟩

/-- RANGE 0 to 10 by 1, and a list of 64-bit elements at an address nothing maps. -/
def range0 : ItrObj := ⟨objHead 1 false 0 0, 0, 10, 1⟩
def listBad : ItrObj := ⟨objHead 2 false 0 3, 0x1000000000000, 4, 0⟩

/-- `st` with iterator slot 0. -/
def stItr (x : ItrSlot) : State := stWg fun w => { w with itr := w.itr.set 0 x }
def valid0 : ItrSlot := { state := 2, nroot := 1, objs := [range0], bound := true }
def open0 : ItrSlot := { state := 1, nroot := 2, objs := [range0, range0], bound := true }

/-- Sources on an empty slot, maps on a VALID one, ZIP and CHAIN on two roots; a pull, an end, a save and a load. -/
theorem witness_IteratorInstructionResults (h : Obligations.IteratorInstructionResults) :
    Goes (.itrsrcRange ({ dst := .zero, a := .zero, b := .lit 10, c := .lit 1, q := 0x080 })) (st) ∧
    Goes (.itrsrcList ({ dst := .zero, a := .lit 0x4000, b := .lit 4, c := .zero, q := 0x100 })) (st) ∧
    Goes (.itrsrcBitmap ({ dst := .zero, a := .lit 0x4000, b := .lit 4, c := .zero, q := 0x180 })) (st) ∧
    Goes (.itrmapAffine ({ dst := .zero, a := .lit 3, b := .lit 1, c := .zero })) (stItr valid0) ∧
    Goes (.itrmapGather ({ dst := .zero, a := .lit 0x4000, b := .lit 4, c := .zero, q := 0x100 })) (stItr valid0) ∧
    Goes (.itrfilt ({ dst := .zero, a := .zero, b := .zero, c := .zero })) (stItr valid0) ∧
    Goes (.itrzip ({ dst := .zero, a := .zero, b := .zero, c := .zero })) (stItr open0) ∧
    Goes (.itrchain ({ dst := .zero, a := .zero, b := .zero, c := .zero })) (stItr open0) ∧
    Goes (.itrflat ({ dst := .zero, a := .lit 0x4000, b := .zero, c := .zero, q := 0x040 })) (stItr valid0) ∧
    Goes (.itrnext ({ dst := .v 6, a := .zero, b := .zero, c := .zero, q := 0xF80 })) (stItr valid0) ∧
    Goes (.itrenough ({ dst := .zero, a := .zero, b := .zero, c := .zero })) (stItr valid0) ∧
    Goes (.itrsave ({ dst := .h 1, a := .lit 0x4000, b := .zero, c := .zero })) (stItr valid0) ∧
    Goes (.itrload ({ dst := .h 1, a := .lit 0x4000, b := .zero, c := .zero })) (stItr valid0) :=
  ⟨OnceAs.met (h.1 (st) ({ dst := .zero, a := .zero, b := .lit 10, c := .lit 1, q := 0x080 })).1 rfl rfl (by decide +kernel),
   OnceAs.met (h.1 (st) ({ dst := .zero, a := .lit 0x4000, b := .lit 4, c := .zero, q := 0x100 })).2.1 rfl rfl (by decide +kernel),
   OnceAs.met (h.1 (st) ({ dst := .zero, a := .lit 0x4000, b := .lit 4, c := .zero, q := 0x180 })).2.2.1 rfl rfl (by decide +kernel),
   OnceAs.met (h.1 (stItr valid0) ({ dst := .zero, a := .lit 3, b := .lit 1, c := .zero })).2.2.2.1 rfl rfl (by decide +kernel),
   OnceAs.met (h.1 (stItr valid0) ({ dst := .zero, a := .lit 0x4000, b := .lit 4, c := .zero, q := 0x100 })).2.2.2.2.1 rfl rfl (by decide +kernel),
   OnceAs.met (h.1 (stItr valid0) ({ dst := .zero, a := .zero, b := .zero, c := .zero })).2.2.2.2.2.1 rfl rfl (by decide +kernel),
   OnceAs.met (h.1 (stItr open0) ({ dst := .zero, a := .zero, b := .zero, c := .zero })).2.2.2.2.2.2.1 rfl rfl (by decide +kernel),
   OnceAs.met (h.1 (stItr open0) ({ dst := .zero, a := .zero, b := .zero, c := .zero })).2.2.2.2.2.2.2.1 rfl rfl (by decide +kernel),
   OnceAs.met (h.1 (stItr valid0) ({ dst := .zero, a := .lit 0x4000, b := .zero, c := .zero, q := 0x040 })).2.2.2.2.2.2.2.2 rfl rfl (by decide +kernel),
   RunsAs.met (h.2 (stItr valid0) ({ dst := .v 6, a := .zero, b := .zero, c := .zero, q := 0xF80 })).1 rfl rfl (by decide +kernel),
   OnceAs.met (h.2 (stItr valid0) ({ dst := .zero, a := .zero, b := .zero, c := .zero })).2.1 rfl rfl (by decide +kernel),
   OnceAs.met (h.2 (stItr valid0) ({ dst := .h 1, a := .lit 0x4000, b := .zero, c := .zero })).2.2.1 rfl rfl (by decide +kernel),
   OnceAs.met (h.2 (stItr valid0) ({ dst := .h 1, a := .lit 0x4000, b := .zero, c := .zero })).2.2.2 rfl rfl (by decide +kernel)⟩

def pull0 : List PullLane := [⟨1, [6], []⟩]

/-- A pull of lane 1 from the range, and from the bad list. -/
theorem witness_IteratorPullsCommit (h : Obligations.IteratorPullsCommit) :
    Goes (.iteratorPullCommit 2 0) (stItr { valid0 with queue := [.pull pull0 [] 0 6 0xF8] }) ∧
    Goes (.iteratorPullCommit 2 0) (stItr { valid0 with objs := [listBad], queue := [.pull pull0 [] 0 6 0xF8] }) :=
  ⟨goes_of ((h (stItr { valid0 with queue := [.pull pull0 [] 0 6 0xF8] }) 2 0 0 _ pull0 [] 0 6 0xF8 [] rfl rfl rfl rfl rfl rfl).1 _ _ _ _ rfl),
   goes_of ((h (stItr { valid0 with objs := [listBad], queue := [.pull pull0 [] 0 6 0xF8] }) 2 0 0 _ pull0 [] 0 6 0xF8 [] rfl rfl rfl rfl rfl rfl).2 _ 8 _ rfl)⟩

def cur (os : List ItrObj) : Cursor := { s := st, objs := os, boundary := false }

/-- A range, a list at its end and one with an element, an affine map of a range. -/
theorem witness_IteratorElementRules (h : Obligations.IteratorElementRules) :
    rangeAt range0 = some 0 ∧ nextElem 0 loneSpace 9 (cur [⟨objHead 2 false 0 3, 0x4000, 0, 0⟩]) 0 = (cur [⟨objHead 2 false 0 3, 0x4000, 0, 0⟩], .ended) ∧
    (∃ d, nextElem 0 loneSpace 9 (cur [⟨objHead 2 false 0 3, 0x4000, 2, 0⟩]) 0 = (d, .one 0 false)) ∧
    (∃ d, nextElem 0 loneSpace 9 (cur [range0, ⟨objHead 4 false 0 0, 3, 1, 0⟩]) 1 = (d, .one 1 false)) ∧
    Goes (.itrzip ({ dst := .zero, a := .zero, b := .zero, c := .zero })) (stItr open0) :=
  ⟨(h.1 0 8 0 loneSpace (cur [range0])).2.1 (by decide +kernel) (by decide +kernel) (by decide +kernel) (by decide +kernel),
   (h.1 0 8 0 loneSpace (cur [⟨objHead 2 false 0 3, 0x4000, 0, 0⟩])).2.2.1 (by decide +kernel) (by decide +kernel),
   ⟨_, (h.1 0 8 0 loneSpace (cur [⟨objHead 2 false 0 3, 0x4000, 2, 0⟩])).2.2.2.1 _ 0 false (by decide +kernel) (by decide +kernel) (pair_of (by decide +kernel))⟩,
   ⟨_, (h.1 0 8 1 loneSpace (cur [range0, ⟨objHead 4 false 0 0, 3, 1, 0⟩])).2.2.2.2 _ 0 false (by decide +kernel) (pair_of (by decide +kernel))⟩,
   (witness_IteratorInstructionResults h.2).2.2.2.2.2.2.1⟩

/-- A VALID slot of one range, and an OPEN one of two. -/
theorem witness_IteratorImageRoundTrip (h : Obligations.IteratorImageRoundTrip) :
    (∃ y, slotOfImage valid0.image = some y ∧ y.objs = [range0]) ∧ (∃ y, slotOfImage open0.image = some y ∧ y.state = 1) :=
  ⟨let ⟨y, e, _, _, _, _, _, o⟩ := h valid0 [range0] (by decide) (by decide +kernel) (by decide +kernel) rfl (.inr ⟨rfl, rfl⟩); ⟨y, e, o⟩,
   let ⟨y, e, o, _⟩ := h open0 [range0, range0] (by decide) (by decide +kernel) (by decide +kernel) rfl (.inl ⟨rfl, by decide⟩); ⟨y, e, o⟩⟩

/-- `st` with a copy of 16 bytes in progress. -/
def copy0 : EngineOp := { id := 9, wg := 2, asid := 1, core := 0, kind := .cpy 0x4000 0x5000 16 1 0 0 2 0 }
def stCopy : State := { st with ex := { st.ex with ops := [copy0] } }

/-- Copies of 64 bytes, a request at link 0, a full handle, a copy in progress. -/
theorem witness_CopyLinkAndHandleResults (h : Obligations.CopyLinkAndHandleResults) :
    Goes (.cpy ({ dst := .h 1, a := .lit 0x4000, b := .lit 0x5000, c := .lit 64, q := 1024 })) (st) ∧
    Goes (.cpy2d ({ dst := .h 1, a := .lit 0x4000, b := .lit 0x5000, c := .s 40, q := 1024 })) (st) ∧
    Goes (.veer ({ dst := .h 1, a := .zero, b := .imm 0, c := .used, q := 0x020 })) (st) ∧
    Goes (.veerq ({ dst := .v 6, a := .zero, b := .zero, c := .zero })) (st) ∧
    Goes (.fwait ({ dst := .v 6, a := .h 1, b := .zero, c := .zero })) (stLane fun l => { l with h := l.h.set 1 { val := 5, full := true } }) ∧
    Goes (.ftest ({ dst := .p 1, a := .h 1, b := .zero, c := .zero })) (stLane fun l => { l with h := l.h.set 1 { val := 5, full := true } }) ∧
    Goes (.fcancel ({ dst := .v 6, a := .h 1, b := .zero, c := .zero })) (stLane fun l => { l with h := l.h.set 1 { val := 5, full := true } }) ∧
    Goes (.engineOperationComplete 9) (stCopy) :=
  ⟨OnceAs.met (h (st) ({ dst := .h 1, a := .lit 0x4000, b := .lit 0x5000, c := .lit 64, q := 1024 })).1 rfl rfl (by decide +kernel),
   OnceAs.met (h (st) ({ dst := .h 1, a := .lit 0x4000, b := .lit 0x5000, c := .s 40, q := 1024 })).2.1 rfl rfl (by decide +kernel),
   OnceAs.met (h (st) ({ dst := .h 1, a := .zero, b := .imm 0, c := .used, q := 0x020 })).2.2.1 rfl rfl (by decide +kernel),
   RunsAs.met (h (st) ({ dst := .v 6, a := .zero, b := .zero, c := .zero })).2.2.2.1 rfl rfl (by decide +kernel),
   RunsAs.met ((h (stLane fun l => { l with h := l.h.set 1 { val := 5, full := true } }) ({ dst := .v 6, a := .h 1, b := .zero, c := .zero })).2.2.2.2.1 1 rfl).1 rfl rfl (by decide +kernel),
   RunsAs.met ((h (stLane fun l => { l with h := l.h.set 1 { val := 5, full := true } }) ({ dst := .p 1, a := .h 1, b := .zero, c := .zero })).2.2.2.2.1 1 rfl).2.1 rfl rfl (by decide +kernel),
   RunsAs.met ((h (stLane fun l => { l with h := l.h.set 1 { val := 5, full := true } }) ({ dst := .v 6, a := .h 1, b := .zero, c := .zero })).2.2.2.2.1 1 rfl).2.2 rfl rfl (by decide +kernel),
   goes_of ((h stCopy {}).2.2.2.2.2 copy0 0x4000 0x5000 16 1 0 0 2 0 rfl rfl)⟩

/-- `st` with link 0 as `f` makes it. -/
def stLink (f : Link → Link) : State := st.modLink 0 f
def link0 : Link := Link.ofGroups 12
def req0 : VeerReq := { wg := 2, cls := 0, up := true, greq := 8, hold := 0, op := 9, vsh := 8 }
def up0 : LaneGroup := { up := true }
def down0 : LaneGroup := { up := false }

/-- A link of twelve groups, six toward each end, in the state each event needs. -/
theorem witness_LinkEvents (h : Obligations.LinkEvents) :
    Goes (.veerRequestServe 0) (stLink fun _ => { link0 with reqs := [req0] }) ∧
    Goes (.laneGroupTurnStart 0 6) (stLink fun _ => { link0 with serving := some { req := req0, target := 8, cl := false } }) ∧
    Goes (.laneGroupTurnComplete 0 0) (stLink fun _ => { link0 with groups := link0.groups.set 0 { up := true, turning := some 5 } }) ∧
    Goes (.veerHoldExpiry 0) (stLink fun _ => { link0 with hold := some (2, 0, 5) }) ∧
    Goes (.adaptiveTurn 0 0) (stLink fun _ => { link0 with hold := none }) ∧
    Goes (.laneGroupRetire 0 0) (stLink fun _ => { link0 with hold := none }) ∧
    Goes (.recalibrationStart 0 0) (stLink fun _ => { link0 with hold := none }) ∧
    Goes (.recalibrationEnd 0) (stLink fun _ => { link0 with groups := link0.groups.set 0 { up := true, recal := true } }) ∧
    Goes (.linkOutOfService 0) (stLink fun _ => { link0 with groups := List.replicate 6 { up := true, retired := true } }) ∧
    Goes (.linkRestore 0 0) (stLink fun _ => { link0 with groups := link0.groups.set 0 { up := true, retired := true } }) :=
  ⟨goes_of ((h (stLink fun _ => { link0 with reqs := [req0] }) 0 0 up0 rfl).1 req0 [] rfl rfl (by decide +kernel) rfl),
   goes_of ((h (stLink fun _ => { link0 with serving := some { req := req0, target := 8, cl := false } }) 0 6 down0 rfl).2.1 (by decide +kernel) (by decide +kernel) (by decide +kernel)),
   goes_of ((h (stLink fun _ => { link0 with groups := link0.groups.set 0 { up := true, turning := some 5 } }) 0 0 { up := true, turning := some 5 } rfl).2.2.1 5 rfl (by decide +kernel)),
   goes_of ((h (stLink fun _ => { link0 with hold := some (2, 0, 5) }) 0 0 up0 rfl).2.2.2.1 2 0 5 rfl (by decide +kernel)),
   goes_of ((h (stLink fun _ => { link0 with hold := none }) 0 0 up0 rfl).2.2.2.2.1 rfl rfl rfl rfl (by decide +kernel) (by decide +kernel)),
   goes_of ((h (stLink fun _ => { link0 with hold := none }) 0 0 up0 rfl).2.2.2.2.2.1 rfl),
   goes_of ((h (stLink fun _ => { link0 with hold := none }) 0 0 up0 rfl).2.2.2.2.2.2.1 (by decide +kernel) rfl (by decide +kernel)),
   goes_of ((h (stLink fun _ => { link0 with groups := link0.groups.set 0 { up := true, recal := true } }) 0 0 { up := true, recal := true } rfl).2.2.2.2.2.2.2.1 rfl (by decide +kernel)),
   goes_of ((h (stLink fun _ => { link0 with groups := List.replicate 6 { up := true, retired := true } }) 0 0 { up := true, retired := true } rfl).2.2.2.2.2.2.2.2.1 rfl (by decide +kernel) (by decide +kernel)),
   goes_of ((h (stLink fun _ => { link0 with groups := link0.groups.set 0 { up := true, retired := true } }) 0 0 { up := true, retired := true } rfl).2.2.2.2.2.2.2.2.2 rfl)⟩

/-- A trap code; and a lane in a handler. -/
theorem witness_TrapInstructions (h : Obligations.TrapInstructions) :
    Goes (.trapOp ({ dst := .zero, a := .zero, b := .zero, c := .zero, q := 5 })) (st) ∧
    Goes (.bkpt ({ dst := .zero, a := .zero, b := .zero, c := .zero, q := 5 })) (st) ∧
    Goes (.tret ({})) (stLane fun l => { l with tstatus := 0x8000000000000000 }) :=
  ⟨RunsAs.met (h (st) ({ dst := .zero, a := .zero, b := .zero, c := .zero, q := 5 })).1 rfl rfl (by decide +kernel),
   RunsAs.met (h (st) ({ dst := .zero, a := .zero, b := .zero, c := .zero, q := 5 })).2.1 rfl rfl (by decide +kernel),
   RunsAs.met (h (stLane fun l => { l with tstatus := 0x8000000000000000 }) ({})).2.2 rfl rfl (by decide +kernel)⟩

/-- `tcause`, `tsave`, `tbase`, `tstatus`, `errseed` and `errrate`. -/
theorem witness_ControlRegisterResults (h : Obligations.ControlRegisterResults) :
    Goes (.csrr ({ dst := .v 6, a := .zero, b := .zero, c := .zero, q := 0 })) (st) ∧
    Goes (.csrw ({ dst := .zero, a := .v 2, b := .zero, c := .zero, q := 5 })) (st) ∧
    Goes (.csrwTpcTbase ({ dst := .zero, a := .lit 0x200, b := .zero, c := .zero, q := 4 })) (st) ∧
    Goes (.csrwTstatus ({ dst := .zero, a := .v 2, b := .zero, c := .zero, q := 3 })) (st) ∧
    Goes (.csrwErrseed ({ dst := .zero, a := .v 2, b := .zero, c := .zero, q := 0x010 })) (st) ∧
    Goes (.csrwErrrate ({ dst := .zero, a := .v 2, b := .zero, c := .zero, q := 0x011 })) (st) :=
  ⟨RunsAs.met (h (st) ({ dst := .v 6, a := .zero, b := .zero, c := .zero, q := 0 })).1 rfl rfl (by decide +kernel),
   RunsAs.met (h (st) ({ dst := .zero, a := .v 2, b := .zero, c := .zero, q := 5 })).2.2.1 rfl rfl (by decide +kernel),
   RunsAs.met (h (st) ({ dst := .zero, a := .lit 0x200, b := .zero, c := .zero, q := 4 })).2.2.2.1 rfl rfl (by decide +kernel),
   RunsAs.met (h (st) ({ dst := .zero, a := .v 2, b := .zero, c := .zero, q := 3 })).2.2.2.2.1 rfl rfl (by decide +kernel),
   RunsAs.met (h (st) ({ dst := .zero, a := .v 2, b := .zero, c := .zero, q := 0x010 })).2.2.2.2.2.1 rfl rfl (by decide +kernel),
   RunsAs.met (h (st) ({ dst := .zero, a := .v 2, b := .zero, c := .zero, q := 0x011 })).2.2.2.2.2.2 rfl rfl (by decide +kernel)⟩

/-- `st` with an increment of space 1 waiting, and one that runs with nothing left. -/
def job0 : CkptJob := { op := 9, wg := 2, queue := none, asid := 1, addr := 0x4000 }
def stCkpt (j : CkptJob) : State := { st with cp := { st.cp with ckpts := [j] } }
def jobRun : CkptJob := { job0 with run := some { mark := 0, pages := [], done := 0, used := 0, dest := 0x8000, incr := 0 } }

/-- A privileged test context; an increment that begins and one that goes on. -/
theorem witness_SystemInstructionResults (h : Obligations.SystemInstructionResults) :
    Goes (.tlbinvPage ({ dst := .zero, a := .lit 0x10000, b := .lit 1, c := .zero, var := 0 })) (st) ∧
    Goes (.tlbinvAs ({ dst := .zero, a := .zero, b := .lit 1, c := .zero, var := 1 })) (st) ∧
    Goes (.tlbinvAll ({ dst := .zero, a := .zero, b := .zero, c := .zero, var := 2 })) (st) ∧
    Goes (.tlbprobe ({ dst := .v 6, a := .lit 0x1000, b := .lit 1, c := .zero })) (st) ∧
    Goes (.nopreBegin ({})) (st) ∧
    Goes (.nopreEnd ({ var := 1 })) (st) ∧
    Goes (.errinjReg ({ dst := .v 6, a := .zero, b := .zero, c := .zero })) (st) ∧
    Goes (.errinjOnce ({ q := 0x100 })) (st) ∧
    Goes (.errinjTwice ({ q := 0x200 })) (st) ∧
    Goes (.errinjSector ({ dst := .zero, a := .lit 0x4000, b := .zero, c := .zero, q := 768 })) (st) ∧
    Goes (.ckpt ({ dst := .h 1, a := .lit 0x4000, b := .zero, c := .zero })) (st) ∧
    Goes (.halt ({})) (st) ∧
    Goes (.ckptIncrement 0) (stCkpt job0) ∧
    Goes (.ckptIncrement 0) (stCkpt jobRun) :=
  ⟨OnceAs.met (h.1 (st) ({ dst := .zero, a := .lit 0x10000, b := .lit 1, c := .zero, var := 0 })).1 rfl rfl (by decide +kernel),
   OnceAs.met (h.1 (st) ({ dst := .zero, a := .zero, b := .lit 1, c := .zero, var := 1 })).2.1 rfl rfl (by decide +kernel),
   OnceAs.met (h.1 (st) ({ dst := .zero, a := .zero, b := .zero, c := .zero, var := 2 })).2.2.1 rfl rfl (by decide +kernel),
   RunsAs.met (h.1 (st) ({ dst := .v 6, a := .lit 0x1000, b := .lit 1, c := .zero })).2.2.2.1 rfl rfl (by decide +kernel),
   RunsAs.met (h.1 (st) ({})).2.2.2.2.1 rfl rfl (by decide +kernel),
   RunsAs.met (h.1 (st) ({ var := 1 })).2.2.2.2.2.1 rfl rfl (by decide +kernel),
   RunsAs.met (h.1 (st) ({ dst := .v 6, a := .zero, b := .zero, c := .zero })).2.2.2.2.2.2.1 rfl rfl (by decide +kernel),
   RunsAs.met (h.1 (st) ({ q := 0x100 })).2.2.2.2.2.2.2.1 rfl rfl (by decide +kernel),
   RunsAs.met (h.1 (st) ({ q := 0x200 })).2.2.2.2.2.2.2.2.1 rfl rfl (by decide +kernel),
   RunsAs.met (h.1 (st) ({ dst := .zero, a := .lit 0x4000, b := .zero, c := .zero, q := 768 })).2.2.2.2.2.2.2.2.2.1 rfl rfl (by decide +kernel),
   OnceAs.met (h.1 (st) ({ dst := .h 1, a := .lit 0x4000, b := .zero, c := .zero })).2.2.2.2.2.2.2.2.2.2.1 rfl rfl (by decide +kernel),
   goes_of ((h.1 (st) ({})).2.2.2.2.2.2.2.2.2.2.2 gang0 wg0 rfl rfl rfl (by decide +kernel)),
   goes_of ((h.2 (stCkpt job0) 0 job0 rfl rfl).1 rfl),
   goes_of ((h.2 (stCkpt jobRun) 0 jobRun rfl rfl).2 _ rfl)⟩

/-- `st` with queue 0, bound to space 1, parsing. -/
def queue0 : Queue := { asid := 1, cp := 0, index := 0, desc := 0xA000, base := 0xB000, capw := 64 }
def stQ (x : Queue) : State := { st with cp := { st.cp with queues := [(0, x)] } }
def seg0 : SegState := { seg := 1, retry := 1, header := 0 }
def signal0 : SignalPkt := { allprev := true, irq := true, vec := 3, addr := 0xC000, value := 7 }

/-- Queue 0 at its first word: a loop of three words twice and of none, with its count in memory too; a comparison that holds and one that does not; a step. -/
theorem witness_ControlPackets (h : Obligations.ControlPackets) :
    Goes (.nopPacket 0 1) (stQ queue0) ∧
    Goes (.fencePacket 0 []) (stQ queue0) ∧
    Goes (.loopPacket 0 false 3 2) (stQ queue0) ∧
    Goes (.loopPacket 0 false 0 2) (stQ queue0) ∧
    Goes (.loopPacket 0 true 3 0x20000004) (stQ queue0) ∧
    Goes (.loopPacket 0 true 3 0xC000) (stQ queue0) ∧
    (Goes (.ifPacket 0 true 0 3 0xC000 0) (stQ queue0)) ∧
    (Goes (.ifPacket 0 true 0 3 0xC000 1) (stQ queue0)) ∧
    Goes (.ckptPacket 0 true 0x4000) (stQ queue0) ∧
    Goes (.segmentBegin 0 1 2) (stQ queue0) ∧
    Goes (.segmentEnd 0 1) (stQ { queue0 with seg := some { seg0 with start := 1 } }) ∧
    Goes (.replay 0 1) (stQ { queue0 with stores := [(1, [0x100000000001], 1)] }) ∧
    Goes (.signalWrite64 0 signal0) (stQ queue0) ∧
    Goes (.signalRedAdd 0 signal0) (stQ queue0) ∧
    Goes (.signalWrite32 0 signal0) (stQ queue0) :=
  ⟨goes_of ((h.1 (stQ queue0) 0 queue0 rfl rfl).1 1),
   goes_of ((h.1 (stQ queue0) 0 queue0 rfl rfl).2.1 []),
   goes_of ((h.1 (stQ queue0) 0 queue0 rfl rfl).2.2.1 3 2 (by decide +kernel) (by decide +kernel) (by decide +kernel) (by decide +kernel)),
   goes_of ((h.1 (stQ queue0) 0 queue0 rfl rfl).2.2.2.1 0 2 (by decide +kernel) (by decide +kernel) (.inl rfl)),
   goes_of (((h.1 (stQ queue0) 0 queue0 rfl rfl).2.2.2.2.1 3 0x20000004 _ 0xF9C00000 false (by decide +kernel) (by decide +kernel) (pair_of (by decide +kernel))).1 (by decide +kernel) (by decide +kernel)),
   goes_of (((h.1 (stQ queue0) 0 queue0 rfl rfl).2.2.2.2.1 3 0xC000 _ 0 false (by decide +kernel) (by decide +kernel) (pair_of (by decide +kernel))).2 (.inr rfl)),
   goes_of ((((h.1 (stQ queue0) 0 queue0 rfl rfl).2.2.2.2.2.1) true 0 3 0xC000 0 _ 0 false (pair_of (by decide +kernel))).1 (by decide +kernel)),
   goes_of ((((h.1 (stQ queue0) 0 queue0 rfl rfl).2.2.2.2.2.1) true 0 3 0xC000 1 _ 0 false (pair_of (by decide +kernel))).2 (by decide +kernel) (by decide +kernel)),
   goes_of ((h.1 (stQ queue0) 0 queue0 rfl rfl).2.2.2.2.2.2.1 true 0x4000 (by decide +kernel)),
   goes_of ((h.1 (stQ queue0) 0 queue0 rfl rfl).2.2.2.2.2.2.2.1 1 2 rfl),
   goes_of ((h.1 (stQ { queue0 with seg := some { seg0 with start := 1 } }) 0 { queue0 with seg := some { seg0 with start := 1 } } rfl rfl).2.2.2.2.2.2.2.2.1 1 { seg0 with start := 1 } rfl rfl rfl),
   goes_of ((h.1 (stQ { queue0 with stores := [(1, [0x100000000001], 1)] }) 0 { queue0 with stores := [(1, [0x100000000001], 1)] } rfl rfl).2.2.2.2.2.2.2.2.2 1 [0x100000000001] 1 rfl (by decide)),
   goes_of ((h.2 (stQ queue0) 0 queue0 signal0 rfl rfl (fun _ => by decide +kernel)).1 _ 0 false (pair_of (by decide +kernel))),
   goes_of ((h.2 (stQ queue0) 0 queue0 signal0 rfl rfl (fun _ => by decide +kernel)).2.1 _ 0 false (pair_of (by decide +kernel))),
   goes_of ((h.2 (stQ queue0) 0 queue0 signal0 rfl rfl (fun _ => by decide +kernel)).2.2 _ 0 false (pair_of (by decide +kernel)))⟩

def launch1 : LaunchPkt := { entry := 0x1000, scal := 8 }

/-- More tiles than a core has. -/
def launchBad : LaunchPkt := { launch1 with tiles := 300 }

/-- A launch with eight scalars, and one with too many tiles. -/
theorem witness_LaunchPackets (h : Obligations.LaunchPackets) :
    Goes (.launch 0 launch1) (stQ queue0) ∧
    Goes (.indirectLaunch 0 launch1) (stQ queue0) ∧
    Goes (.launch 0 launchBad) (stQ queue0) ∧
    Goes (.indirectLaunch 0 launchBad) (stQ queue0) :=
  ⟨goes_of ((h (stQ queue0) 0 queue0 launch1 rfl rfl (by decide +kernel)).1 (by decide +kernel)),
   goes_of ((h (stQ queue0) 0 queue0 launch1 rfl rfl (by decide +kernel)).2.1 (by decide +kernel)),
   goes_of ((h (stQ queue0) 0 queue0 launchBad rfl rfl (by decide +kernel)).2.2.1 2 _ (by decide +kernel) rfl),
   goes_of ((h (stQ queue0) 0 queue0 launchBad rfl rfl (by decide +kernel)).2.2.2.1 2 _ (by decide +kernel) rfl)⟩

def ctr0 (deadline : W64) : FenceWait := { c := { w64 := true, cmp := 0, addr := 0xC000, value := 0, deadline }, done := false }

/-- A queue whose descriptor lies beyond the address space. -/
def queueFar : Queue := { queue0 with desc := 0x10000000000000 }

/-- Queue 0 running, held at a FENCE that is satisfied and at one past its deadline; a descriptor of zeros bound as queue 1. -/
theorem witness_QueueEvents (h : Obligations.QueueEvents) :
    Goes (.widxPoll 0) (stQ queue0) ∧
    Goes (.widxPoll 0) (stQ queueFar) ∧
    Goes (.doorbell 0 0 4) (stQ queue0) ∧
    Goes (.queueResume 0) (stQ queue0) ∧
    Goes (.queueHaltedByModuleOs 0) (stQ queue0) ∧
    Goes (.fenceCounterPoll 0) (stQ { queue0 with hold := .fence [ctr0 0] 0 }) ∧
    Goes (.fenceDeadline 0) (stQ { queue0 with hold := .fence [ctr0 5] 0xFFFFFFFFFFFFFF00 }) ∧
    Goes (.doorbell 0 0 8) (stQ queue0) ∧
    Goes (.queueBinding 1 1 0xA000) (stQ queue0) :=
  ⟨goes_of ((((h (stQ queue0) 0 queue0).1 rfl).1 _ rfl).1 0 false (pair_of (by decide +kernel))),
   goes_of ((((h (stQ queueFar) 0 queueFar).1 rfl).1 _ rfl).2 (pair_of (by decide +kernel))),
   let e := ((h (stQ queue0) 0 queue0).1 rfl).2.1 0 0 rfl (by decide) rfl; by
     show ∃ t, _ = _; rw [show (0 : Nat) = 4 * 0 from rfl, e]
     exact ⟨_, (((h (stQ queue0) 0 queue0).1 rfl).1 _ rfl).1 0 false (pair_of (by decide +kernel))⟩,
   goes_of (((h (stQ queue0) 0 queue0).1 rfl).2.2.1 _ _ rfl (by decide +kernel)),
   goes_of (((h (stQ queue0) 0 queue0).1 rfl).2.2.2.1 _ _ rfl (by decide +kernel)),
   goes_of (((h (stQ { queue0 with hold := .fence [ctr0 0] 0 }) 0 { queue0 with hold := .fence [ctr0 0] 0 }).1 rfl).2.2.2.2.1 _ _ _ [{ ctr0 0 with done := true }] rfl rfl rfl (by decide +kernel) (pair_of (by decide +kernel))),
   goes_of (((h (stQ { queue0 with hold := .fence [ctr0 5] 0xFFFFFFFFFFFFFF00 }) 0 { queue0 with hold := .fence [ctr0 5] 0xFFFFFFFFFFFFFF00 }).1 rfl).2.2.2.2.2 _ _ rfl rfl (by decide +kernel)).1,
   goes_of ((h (stQ queue0) 1 queue0).2.1 0 0 8 (.inl (by decide +kernel))),
   let ⟨_, e, _⟩ := (h (stQ queue0) 1 queue0).2.2 1 0xA000 _ [0, 0, 0, 0, 0] false (by decide) rfl rfl (ok_of (by decide +kernel)); ⟨_, e⟩⟩

/-- `st` with node 1 alone and no workgroup; the word 2 at 0xD000. -/
def stNode (n : Node) : State :=
  { st with ms := { st.ms with mem := Memory.writeBytes st.ms.mem 0xD000 [2] }
            ex := { st.ex with nodes := [n], wgs := [] } }
def node1 : Node := { loneNode 1 with map := [], launch := { launch1 with gaddr := 0xD000 } }

/-- Workgroups may run on core 0 only. -/
def aff0 : W64 := 0x4000000000000000

/-- A node of class 2 that needs the whole Drift store of core 0, where a workgroup of class 0 runs. -/
def node2 : Node := { node1 with id := 5, state := .ready, since := some 0, launch := { launch1 with drift := 16384, cls := 2, aff := [aff0] } }
def stFull : State := { st with ex := { st.ex with nodes := [{ loneNode 1 with launch := launch0 }, node2] } }

/-- One node waiting, ready, running and indirect; a failed step; a node without room. -/
theorem witness_NodeEvents (h : Obligations.NodeEvents) :
    Goes (.nodeReady 1) (stNode { node1 with state := .waiting }) ∧
    Goes (.nodeReady 1) (stNode { node1 with state := .waiting, indirect := true }) ∧
    Goes (.nodeDispatch 1 [⟨0, 0⟩]) (stNode { node1 with state := .ready }) ∧
    Goes (.nodeComplete 1) (stNode { node1 with state := .running, map := [(0, 0)] }) ∧
    Goes (.segmentRetry 0) (stQ { queue0 with seg := some { seg0 with failed := true } }) ∧
    Goes (.classPreemption 5 0 0) (stFull) :=
  ⟨goes_of ((h (stNode { node1 with state := .waiting }) 1 { node1 with state := .waiting } rfl).1 rfl rfl rfl),
   goes_of ((h (stNode { node1 with state := .waiting, indirect := true }) 1 { node1 with state := .waiting, indirect := true } rfl).2.1 _ 2 false rfl rfl rfl (pair_of (by decide +kernel)) (by decide +kernel) (by decide +kernel) (by decide +kernel)),
   let ⟨t, e⟩ := Option.isSome_iff_exists.mp (show ((stNode { node1 with state := .ready }).placeAll 1 [⟨0, 0⟩]).isSome = true by decide +kernel); goes_of ((h (stNode { node1 with state := .ready }) 1 { node1 with state := .ready } rfl).2.2.1 [⟨0, 0⟩] t rfl (fun _ => by decide +kernel) (by decide +kernel) (fun _ => rfl) e),
   goes_of ((h (stNode { node1 with state := .running, map := [(0, 0)] }) 1 { node1 with state := .running, map := [(0, 0)] } rfl).2.2.2.1 _ rfl (by decide +kernel) (by decide +kernel) (pair_of (by decide +kernel))),
   goes_of ((h (stQ { queue0 with seg := some { seg0 with failed := true } }) 1 { loneNode 1 with launch := launch0 } rfl).2.2.2.2.1 0 _ _ rfl rfl rfl),
   by refine goes_of ((h stFull 5 node2 rfl).2.2.2.2.2 0 0 wg0 node2 0 rfl rfl ?_ ?_ ?_ ?_ ?_ ?_ ?_ ?_ ?_ ?_ ?_ ?_) <;> decide +kernel⟩

/-- The workgroup at the header of its clause, asked to save. -/
def wgAsked (why : SaveCause) : Wg := { wg0 with lanes := List.replicate 4 { lane0 with pc := 0x1000 }, saveAsked := some why }
def stAsked (why : SaveCause) : State := stWg fun _ => wgAsked why

/-- The same, allowed on core 0 only. -/
def stOnly : State := let s := stAsked .quarantine
  { s with ex := { s.ex with nodes := [{ loneNode 1 with launch := { launch0 with aff := [aff0] } }] } }

/-- A workgroup whose save is complete. -/
def wgSaved : Wg := { wg0 with place := .saved, area := List.replicate 16 0 ++ [1] }

/-- Its area is of a space that is registered no more. -/
def wgLost : Wg := { wgSaved with areaAt := some (9, 0) }

/-- A workgroup in a non-preemptible region since time 0. -/
def wgRegion : Wg := { wg0 with lanes := List.replicate 4 { lane0 with nopre := 1 }, regionSince := some 0, saveAsked := some .os }

/-- Four workgroups that hold every iterator slot of core 0; they have waited for one for 100 µs. -/
def wgItr (id : Nat) : Wg := { wg0 with id, lanes := List.replicate 4 { lane0 with slotFrom := some 0 }, itr := List.replicate 8 { bound := true } }
def stItrFull : State :=
  { st with ex := { st.ex with wgs := [wgItr 2, wgItr 3, wgItr 4, wgItr 5] } }

/-- One workgroup asked to save, saved, in a region, short of a slot; a core tested, halted. -/
theorem witness_SaveAndWaitEvents (h : Obligations.SaveAndWaitEvents) :
    Goes (.workgroupSave 2 .os) (stAsked .os) ∧
    Goes (.workgroupSave 2 .quarantine) (stOnly) ∧
    Goes (.workgroupRestore 2 3) (stWg fun _ => wgSaved) ∧
    Goes (.workgroupRestore 2 3) (stWg fun _ => { wgSaved with forSlot := true }) ∧
    Goes (.workgroupRestore 2 3) (stWg fun _ => wgLost) ∧
    Goes (.nopreBoundExpiry 2) (stWg fun _ => wgRegion) ∧
    Goes (.infieldTestDue 5) (st) ∧
    Goes (.infieldTestResult 5 true) (st.modCore 5 fun c => { c with testing := true }) ∧
    Goes (.haltedCoreReturn 5) (st.modCore 5 fun c => { c with halted := true }) ∧
    Goes (.iteratorSlotMove 2 5) (stItrFull) ∧
    Goes (.uncorrectableSramError (.unmarked 2)) (st) ∧
    Goes (.uncorrectableSramError (.l1 0 0x40)) st ∧ Goes (.uncorrectableSramError (.tile 2 0 0)) st :=
  ⟨goes_of ((h.1 (stAsked .os) 2 0 (wgAsked .os) rfl).1 .os (wgAsked .os) rfl rfl (by decide +kernel) (by decide +kernel) nofun rfl (by decide +kernel) (by decide +kernel)),
   goes_of ((h.1 (stOnly) 2 0 (wgAsked .quarantine) rfl).2.1 rfl rfl (by decide +kernel) (by decide +kernel) (by decide +kernel)),
   by refine goes_of (((h.1 (stWg fun _ => wgSaved) 2 3 wgSaved rfl).2.2.1 _ 1 rfl ?_ ?_ ?_ ?_ nofun).1 ?_ (pair_of ?_)) <;> decide +kernel,
   by refine goes_of (((h.1 (stWg fun _ => { wgSaved with forSlot := true }) 2 3 { wgSaved with forSlot := true } rfl).2.2.1 _ 1
        rfl ?_ ?_ ?_ ?_ ?_).1 ?_ (pair_of ?_)) <;> decide +kernel,
   by refine goes_of (((h.1 (stWg fun _ => wgLost) 2 3 wgLost rfl).2.2.1 _ 0 rfl ?_ ?_ ?_ ?_ nofun).2 (.inr (pair_of ?_))) <;> decide +kernel,
   goes_of ((h.1 (stWg fun _ => wgRegion) 2 0 wgRegion rfl).2.2.2.1 0 .os rfl rfl (by decide +kernel) rfl (by decide +kernel)),
   goes_of ((h.1 (st) 2 5 wg0 rfl).2.2.2.2.1 (by decide +kernel) (by decide +kernel) (by decide +kernel)),
   goes_of ((h.1 (st.modCore 5 fun c => { c with testing := true }) 2 5 wg0 rfl).2.2.2.2.2.1 true (by decide +kernel) (by decide +kernel)),
   goes_of ((h.1 (st.modCore 5 fun c => { c with halted := true }) 2 5 wg0 rfl).2.2.2.2.2.2.1 (by decide +kernel) (by decide +kernel)),
   by refine goes_of ((h.1 stItrFull 2 5 (wgItr 2) rfl).2.2.2.2.2.2.2 0 rfl ?_ ?_ ?_ ?_ ?_) <;> decide +kernel,
   goes_of ((h.2 st 2 0).2.2.2.2.2.2.2.2.2.2 wg0 rfl),
   goes_of ((h.2 st 2 0).2.2.2.2.2.2.1 0 0x40), goes_of ((h.2 st 2 0).2.2.2.2.2.2.2.1 0)⟩

/-- `st` without spaces: no page table names any frame. -/
def stBare (f : MemSys → MemSys) : State := let s := st.modMs f; { s with hub := { s.hub with spaces := [] } }
def stMig (start : Nat) : State :=
  let s := stBare fun ms => { ms with migs := [{ region := 0, frame := 65536, start }] }
  { s with hub := { s.hub with copyEngines := s.hub.copyEngines.set 0 (some 0) } }
def setup0 : StickSetup := { stick := 0, base := 0x10000, pool := 0x20000, overflow := 0x30000, slots := [] }
def stSetup (o : List Overflow) : State := stBare fun ms => { ms with setup := [setup0], overflow := o }

/-- Region 0 of a draining stick, moved to the first region of stick 1; stick 0 replaced and lost; page 0 compressed. -/
theorem witness_MigrationAndStickEvents (h : Obligations.MigrationAndStickEvents) :
    Goes (.migrationEpoch 0) (st) ∧
    Goes (.migrationStart 0 65536) (stBare fun ms => { ms with draining := [0] }) ∧
    (stBare id).canMigrate ((stBare id).migration 0 65536) = true ∧
    Goes (.migrationCopyComplete 0) (stMig 90000) ∧
    Goes (.migrationAbandon 0) (stMig 50000) ∧
    Goes (.stickDrain 0) (st) ∧
    Goes (.stickReplacement 0) (stBare fun ms => { ms with draining := [0] }) ∧
    Goes (.memoryLinkRetrainFail 0) (st) ∧
    Goes (.compressedStateSetup 0 0 0 0) (stBare id) ∧
    Goes (.overflowSlotSupplied 0 4) (stSetup [⟨0, none⟩]) ∧
    Goes (.overflowSlotSupplied 0 4) (stSetup []) :=
  ⟨goes_of ((h.1 st 0 65536 0 0).1 (by decide +kernel)),
   by refine goes_of ((h.1 (stBare fun ms => { ms with draining := [0] }) 0 65536 0 0).2.1.2 ?_ ?_ ?_) <;> decide +kernel,
   by refine ((h.1 (stBare id) 0 65536 0 0).2.1.1 ?_).2 ?_ ?_ ?_ ?_ <;> decide +kernel,
   goes_of ((h.1 (stMig 90000) 0 65536 0 0).2.2.1 _ rfl (by decide +kernel) (by decide +kernel)),
   goes_of ((h.1 (stMig 50000) 0 65536 0 0).2.2.2.1 _ rfl (by decide +kernel)),
   goes_of ((h.1 (st) 0 65536 0 0).2.2.2.2.1 (by decide +kernel) (by decide +kernel)),
   goes_ex ((h.1 (stBare fun ms => { ms with draining := [0] }) 0 65536 0 0).2.2.2.2.2.1 (by decide +kernel) (by decide +kernel)),
   goes_ex ((h.1 (st) 0 65536 0 0).2.2.2.2.2.2.1 (by decide +kernel) (by decide +kernel)),
   goes_of ((h.2 (stBare id) 0 4 0 0 0).1 (by decide +kernel) (by decide +kernel)),
   goes_of ((h.2 (stSetup [⟨0, none⟩]) 0 4 0 0 0).2.1 setup0 ⟨0, none⟩ rfl (by decide +kernel) (by decide +kernel) rfl),
   goes_of ((h.2 (stSetup []) 0 4 0 0 0).2.2.1 setup0 rfl (by decide +kernel) (by decide +kernel) rfl)⟩

/-- Whether the page fits again is a free value: it is the hypothesis here. -/
theorem witness_MigrationAndStickEvents_repack (h : Obligations.MigrationAndStickEvents)
    (hc : Config.compressedSectors ((stSetup [⟨0, some 4⟩]).ms.mem.readBytes (3 * 2 ^ 48 + 0 * 65536) 65536) ≤ 1024) :
    Goes (.compressedPageRepack 0) (stSetup [⟨0, some 4⟩]) :=
  goes_of ((h.2 (stSetup [⟨0, some 4⟩]) 0 4 0 0 0).2.2.2 0 ⟨0, some 4⟩ setup0 rfl rfl hc)

def stOff : State := State.reset
def stCast : State := { st with hub := { st.hub with phase := .overcast } }
def stCxl : State := st.setOs (.hostLink true)
def outside0 : OutsideAccess := { kind := .load, addr := 0x4000, width := 8, data := 0 }
/-- A location of host memory. -/
def hostWord : Nat := 2 ^ 48 + 0x4000
def space7 : SpaceDesc := { root := 0, t := false, part := 0, rlim := 0, privileged := false }

/-- Space 7 registered and dropped, power applied, the Overcast over, die 0 offline, a port retired, a module lost; a read of 0x4000. -/
theorem witness_ServiceAndOutsideEvents (h : Obligations.ServiceAndOutsideEvents) :
    Goes (.asidRegistration 7 (some space7)) (st) ∧
    Goes (.asidRegistration 7 none) (st) ∧
    Goes (.domainIdAssign 3) (st) ∧
    Goes (.powerOn 0 true 0) (stOff) ∧
    Goes (.overcastEnd [0] []) (stCast) ∧
    Goes (.dieOffline 0) (st) ∧
    Goes (.fabricPortRetire 3) (st) ∧
    Goes (.fabricModuleUnreachable 3) (st) ∧
    Goes (.hostMemoryAccess { outside0 with addr := hostWord }) (st) ∧
    exec (.hostMemoryAccess { outside0 with kind := .store, addr := hostWord }) st = .next (st.modMs fun ms => { ms with
      mem := ms.mem.writeBytes hostWord (bytesLE 8 0) }) ∧
    Goes (.hostMemoryAccess outside0) (st) ∧
    Goes (.fabricRemoteAccess outside0) (st) ∧
    Goes (.hubCoreMemoryAccess outside0) (st) ∧
    Goes (.hostSnoop 0x4000) stCxl :=
  ⟨goes_of ((h.1 (st) 7 space7 0 0 0 0).1 rfl),
   goes_of ((h.1 (st) 7 space7 0 0 0 0).2.1 (by decide +kernel)),
   goes_of ((h.1 (st) 7 space7 0 0 0 0).2.2.2.1 3 (by decide +kernel)),
   goes_of ((h.1 (stOff) 7 space7 0 0 0 0).2.2.2.2.1 rfl (by decide +kernel) (by decide +kernel)),
   goes_ex ((h.1 (stCast) 7 space7 0 0 0 0).2.2.2.2.2.1 [0] rfl (by decide +kernel)),
   goes_of ((h.1 (st) 7 space7 0 0 0 0).2.2.2.2.2.2.1 (by decide +kernel) rfl),
   goes_of ((h.1 (st) 7 space7 0 0 0 0).2.2.2.2.2.2.2.1 3 (by decide +kernel) (by decide +kernel)),
   goes_of ((h.1 (st) 7 space7 0 0 0 0).2.2.2.2.2.2.2.2 3 (by decide +kernel)),
   goes_of ((h.2 st { outside0 with addr := hostWord }).1 (by decide +kernel) (by decide +kernel) rfl (by decide +kernel)).1,
   ((h.2 st { outside0 with kind := .store, addr := hostWord }).1 (by decide +kernel) (by decide +kernel) rfl (by decide +kernel)).2 rfl rfl,
   goes_of ((h.2 st outside0).2 (by decide +kernel) (by decide +kernel) (by decide +kernel) rfl).1,
   goes_of (((h.2 st outside0).2 (by decide +kernel) (by decide +kernel) (by decide +kernel) rfl).2.1 (by decide +kernel)),
   goes_of (((h.2 st outside0).2 (by decide +kernel) (by decide +kernel) (by decide +kernel) rfl).2.2.1 (by decide +kernel)),
   goes_ex (((h.2 stCxl outside0).2 (by decide +kernel) (by decide +kernel) (by decide +kernel) rfl).2.2.2 rfl)⟩

/-- A patch accepted and refused, a report, a loss of power. -/
theorem witness_FirmwareAndPowerEvents (h : Obligations.FirmwareAndPowerEvents) :
    Goes (.livePatch 0 true) (st) ∧
    Goes (.livePatch 0 false) (st) ∧
    Goes (.attestationReport 0) (st) ∧
    Goes (.powerCapEvaluation 0 0 0) (st) ∧
    Goes (.inputPowerLimitExpiry 3500) (st) ∧
    Goes (.telemetryPublish 0 0) (st) ∧
    Goes (.powerLoss) (st) :=
  ⟨goes_of ((h (st) 0 0).1 (by decide +kernel) (by decide +kernel)),
   goes_of ((h (st) 0 0).2.1 (by decide +kernel)),
   goes_of ((h (st) 0 0).2.2.1 (by decide +kernel)),
   goes_of ((h (st) 0 0).2.2.2.1 0 0 0),
   goes_of ((h (st) 0 0).2.2.2.2.2.1 3500),
   goes_of ((h (st) 0 0).2.2.2.2.2.2.1 0),
   goes_ex (h (st) 0 0).2.2.2.2.2.2.2.2⟩

/-- The machine at its first IADD: at its slot, and at the header of its clause. -/
def stepWord : W64 := 0x04A0606FD0358260
def stStep : State := State.reset.withFetchWord 64 stepWord.toNat
def stHead : State :=
  { stStep.modWg 2 (fun w => { w with lanes := w.lanes.map fun l => { l with pc := 0x1000 } }) with
    ex := { (stStep.modWg 2 (fun w => { w with lanes := w.lanes.map fun l => { l with pc := 0x1000 } })).ex with
      agenda := [.issue 2 0x1000 [0]] } }
def iadd0 : Instr := .iadd { gn := true, gp := 2, dst := .v 6, a := .v 6, b := .imm 3, c := .used, q := 0x582, var := 6 }

theorem ok_of_toOption {α β : Type} {x : Except α β} {b : β} (h : x.toOption = some b) : x = .ok b := by
  cases x <;> simp_all [Except.toOption]

theorem witness_StepRunsTheDecodedInstruction (h : Obligations.StepRunsTheDecodedInstruction) :
    (∃ t, step stHead = settled stHead (exec iadd0 t)) ∧ ∃ t, step stStep = settled stStep (exec iadd0 t) := by
  constructor
  · refine ⟨_, (h stHead _ [] 0x1000 [0] ((stHead.wg? 2).get (by decide +kernel)) 0 (loneHeader stepWord) [stepWord] iadd0 rfl ?_ ?_ ?_ ?_
      (pair_fst (ok_of_toOption ?_)) ?_ ?_ ?_).1 ?_ (ok_of_toOption ?_)⟩ <;> decide +kernel
  · refine ⟨_, (h stStep _ [] 0x1008 [0] ((stStep.wg? 2).get (by decide +kernel)) 0 (loneHeader stepWord) [stepWord] iadd0 rfl ?_ ?_ ?_ ?_
      (pair_fst (ok_of_toOption ?_)) ?_ ?_ ?_).2 ?_ ?_ (ok_of_toOption ?_)⟩ <;> decide +kernel

theorem witness_EncodeDecodeRoundTrip (h : Obligations.EncodeDecodeRoundTrip) : decodeWords (encode iadd0) = .ok iadd0 :=
  h iadd0 (by decide +kernel) (by decide +kernel)

theorem witness_PacketRoundTrip (h : Obligations.PacketRoundTrip) :
    ∃ q x ws, encodePacket (.launch 0 launch1) = x :: ws ∧ decodePacket q x ws = some (.launch 0 launch1) :=
  let ⟨x, ws, e⟩ := List.exists_cons_of_ne_nil (show encodePacket (.launch 0 launch1) ≠ [] by decide +kernel)
  let ⟨q, d, _⟩ := h (.launch 0 launch1) x ws e (by decide +kernel)
  ⟨q, x, ws, e, d⟩

theorem witness_MemoryStaysCanonical (h : Obligations.MemoryStaysCanonical) : ∀ t, step stStep = .next t → t.memOk :=
  fun t => h stStep t (show stStep.ms.mem.wf = true by decide +kernel)

theorem witness_SectorWritesReachOnlyTheirBytes (h : Obligations.SectorWritesReachOnlyTheirBytes) :
    (st.ms.homeWrite 0x4000 fullMask (List.replicate 32 7) false).mem.wf = true ∧
    Goes (.atom ({ dst := .v 6, a := .lit 0x100, b := .zero, c := .v 3, var := 6 })) (st) ∧
    Goes (.atomcas ({ dst := .v 6, a := .lit 0x100, b := .v 3, c := .v 4, var := 6 })) (st) ∧
    Goes (.red ({ dst := .v 6, a := .lit 0x100, b := .zero, c := .zero, var := 6 })) (st) ∧
    Goes (.atoms ({ dst := .v 6, a := .lit 0, b := .zero, c := .v 3, var := 6 })) (stWg fun w => { w with tiles := [{ idx := 0, state := .ready, vpage := 0x3000, owned := 1, wchecked := true }] }) :=
  ⟨(h.1 st.ms 0x4000 fullMask (List.replicate 32 7) false (by decide +kernel) (by decide +kernel) (by decide +kernel) (by decide +kernel) (by decide +kernel)).1,
   RunsAs.met (h.2 (st) ({ dst := .v 6, a := .lit 0x100, b := .zero, c := .v 3, var := 6 })).1 rfl rfl (by decide +kernel),
   RunsAs.met (h.2 (st) ({ dst := .v 6, a := .lit 0x100, b := .v 3, c := .v 4, var := 6 })).2.1 rfl rfl (by decide +kernel),
   RunsAs.met (h.2 (st) ({ dst := .v 6, a := .lit 0x100, b := .zero, c := .zero, var := 6 })).2.2.1 rfl rfl (by decide +kernel),
   RunsAs.met (h.2 (stWg fun w => { w with tiles := [{ idx := 0, state := .ready, vpage := 0x3000, owned := 1, wchecked := true }] }) ({ dst := .v 6, a := .lit 0, b := .zero, c := .v 3, var := 6 })).2.2.2 rfl rfl (by decide +kernel)⟩

/-- The first of four lanes traps, without a handler, and with one at 0x2000. -/
def stHandler : State := stLane fun l => { l with tbase := 0x2000 }

theorem witness_TrapDelivery (h : Obligations.TrapDelivery) : ∃ u, (stHandler.takeTrap 2 0 1 5 false false).wg? 2 = some u :=
  let ⟨_, e, _⟩ := show ∃ u, (stHandler.takeTrap 2 0 1 5 false false).wg? 2 = some u ∧ True by
    obtain ⟨u, e, _⟩ : ∃ u, _ ∧ _ := by
      refine h stHandler 2 0 ((stHandler.wg? 2).get (by decide +kernel)) 1 5 false false (by simp) ?_ ?_ ?_ ?_ ?_ ?_ <;> decide +kernel
    exact ⟨_, e, trivial⟩
  ⟨_, e⟩

theorem witness_TrapsOfTheModuleOs (h : Obligations.TrapsOfTheModuleOs) :
    (∃ u, (st.takeTrap 2 0 1 5 false false).wg? 2 = some u ∧ (u.lane 0).exited = true) ∧
    Goes (.tret ({})) (stLane fun l => { l with tstatus := 0x8000000000000000 }) :=
  ⟨(h.1 st 2 0 wg0 _ 1 5 false false rfl (by decide +kernel) (by decide +kernel) rfl (.inl (by decide +kernel))).1,
   (witness_TrapInstructions h.2).2.2⟩

/-- The first lane's v2 is empty. -/
def stEmpty : State := stLane fun l => { l with v := l.v.set 2 { val := 0, full := false } }

def iaddF : Fields := { dst := .v 1, a := .v 2, b := .v 3, var := 6 }

theorem witness_EmptySourceWaits (h : Obligations.EmptySourceWaits) : Goes (.iadd { dst := .v 1, a := .v 2, b := .v 3, var := 6 }) stEmpty :=
  by
    obtain ⟨t, _, e, _⟩ : ∃ t u, _ ∧ _ ∧ _ := by
      refine h stEmpty { dst := .v 1, a := .v 2, b := .v 3, var := 6 } gang0 ((stEmpty.wg? 2).get (by decide +kernel)) 0 2 rfl ?_ ?_ ?_
        rfl rfl rfl rfl rfl rfl rfl ?_ ?_ nofun ?_ ?_ ?_ ?_ <;> decide +kernel
    exact ⟨t, e⟩

/-- The lane goes on with register effects only. -/
def plainDone : LOut → Bool
  | .done _ fx => fx.all fun x => match x with
    | .act _ => false
    | .acquire _ => false
    | _ => true
  | _ => false

theorem done_of_plain {o : LOut} (h : plainDone o = true) : ∃ l fx, o = .done l fx ∧ (fx.all fun x => match x with
    | .act _ => false
    | .acquire _ => false
    | _ => true) = true := by
  cases o <;> simp only [plainDone] at h
  case done l fx => exact ⟨l, fx, rfl, h⟩
  all_goals cases h

theorem witness_RegisterInstructionFrame (h : Obligations.RegisterInstructionFrame) :
    (afterGang st gang0 wg0 (iaddSpec iaddF) iaddF).ms = st.ms ∧
    ∀ l fx, write (st.cxOf gang0 wg0 iaddF) lane0 (.v 1) false 5 false 0 = .done l fx → l.pc = lane0.pc :=
  ⟨(h.1 st gang0 wg0 (iaddSpec iaddF) iaddF rfl fun i hi => done_of_plain
      ((show (gang0.lanes.all fun i => plainDone (laneRuns (st.cxOf gang0 (poppedWg gang0 (iaddSpec iaddF) iaddF wg0) iaddF) (iaddSpec iaddF) iaddF i
        ((poppedWg gang0 (iaddSpec iaddF) iaddF wg0).lane i))) = true by decide +kernel) |> List.all_eq_true.mp |> (· i hi))).1,
   fun l fx e => (h.2 _ lane0 l (.v 1) false false 5 0 fx e).1⟩

/-- The hypothesis of the second clause is met. -/
theorem test_write_done : plainDone (write (st.cxOf gang0 wg0 iaddF) lane0 (.v 1) false 5 false 0) = true := by decide +kernel

/-! ### Words of the manual -/

theorem test_decode_fadd : (decodeWords [0x4070504FEF800080, 0x3FC00000]).toOption = some (.fadd { dst := .v 5, a := .v 4, b := .lit 0x3FC00000, var := 8 }) := by decide +kernel
theorem test_decode_iadd : (decodeWords [0x04A0606FD0358260]).toOption = some (.iadd { gn := true, gp := 2, dst := .v 6, a := .v 6, b := .imm 3, c := .used, q := 0x582, var := 6 }) := by decide +kernel
theorem test_decode_ld : (decodeWords [0x8070335F8F860060]).toOption = some (.ld { dst := .v 3, a := .s 21, q := 0x600, var := 6 }) := by decide +kernel
theorem test_decode_icmp : (decodeWords [0x0E7E103FD0000000]).toOption = some (.icmp { dst := .p 1, a := .v 3, b := .imm 0, c := .used }) := by decide +kernel
theorem test_decode_bra : (decodeWords [0x201F8FFFFFE00000]).toOption = some (.bra { gp := 1 } 0xFFFFFE) := by decide +kernel
theorem test_decode_call : (decodeWords [0x227F800008000000]).toOption = some (.call {} 0x000080) := by decide +kernel
theorem test_decode_vote_ballot : (decodeWords [0x2C748E1F82A00020]).toOption = some (.voteBallot { dst := .s 40, a := .p 1, c := .s 10, var := 2 }) := by decide +kernel
theorem test_decode_nop : (decodeWords [0x00FF8F8F8F800000]).toOption = some (.nop { gn := true }) := by decide +kernel
theorem test_decode_pack8 : (decodeWords [0x5570C0049F810200]).toOption = some (.pack8 { dst := .v 12, a := .v 0, b := .s 41, q := 0x102 }) := by decide +kernel
theorem test_decode_fmax : (decodeWords [0x457070707F898880]).toOption = some (.fmax { dst := .v 7, a := .v 7, b := .v 7, q := 0x988, var := 8 }) := by decide +kernel
theorem test_decode_atom : (decodeWords [0x8870336010514020]).toOption = some (.atom { dst := .v 3, a := .s 22, b := .v 1, c := .v 5, q := 0x140, var := 2 }) := by decide +kernel
theorem test_decode_red : (decodeWords [0x8A70738F8F820280]).toOption = some (.red { dst := .v 7, a := .s 24, q := 0x202, var := 8 }) := by decide +kernel
theorem test_decode_cvset : (decodeWords [0xC87F8F8F84C00020]).toOption = some (.cvset { c := .s 44, var := 2 }) := by decide +kernel
theorem test_decode_mxfence : (decodeWords [0xC77F8F8F8F800000]).toOption = some (.mxfence {}) := by decide +kernel
theorem test_decode_mxmul : (decodeWords [0xC17E90848F840001]).toOption = some (.mxmul { dst := .h 1, a := .v 8, b := .s 40, q := 0x400, h := true }) := by decide +kernel
theorem test_decode_kacc : (decodeWords [0xD07060204F800010]).toOption = some (.kacc { dst := .v 6, a := .v 2, b := .v 4, var := 1 }) := by decide +kernel
theorem test_decode_itrsrc : (decodeWords [0xD87F8F8FEFE48000, 4, 1]).toOption = some (.itrsrcRange { b := .lit 4, c := .lit 1, q := 0x480 }) := by decide +kernel
theorem test_decode_itrflat : (decodeWords [0xDD7F848F8F854000]).toOption = some (.itrflat { a := .s 40, q := 0x540 }) := by decide +kernel
theorem test_decode_itrnext : (decodeWords [0xDE704F8FD0205200]).toOption = some (.itrnext { dst := .v 4, b := .imm 2, c := .used, q := 0x052 }) := by decide +kernel
theorem test_decode_wspill : (decodeWords [0x2E7F8F8F8F800000]).toOption = some (.wspill {}) := by decide +kernel
theorem test_decode_tret : (decodeWords [0xF17F8F8F8F800000]).toOption = some (.tret {}) := by decide +kernel

/-! The words of spec/21, then one word written out for each further family by the layout of Table 12-2. -/

theorem test_decode_rdspec : (decodeWords [0x03700F8F8F800000]).toOption = some (.rdspec { dst := .v 0 }) := by decide +kernel
theorem test_decode_iadd_immediate : (decodeWords [0x0470800FD0800060]).toOption = some (.iadd { dst := .v 8, a := .v 0, b := .imm 8, c := .used, var := 6 }) := by decide +kernel
theorem test_decode_exit : (decodeWords [0x267F8F8F8F800000]).toOption = some (.exitOp {}) := by decide +kernel
theorem test_decode_vote_all : (decodeWords [0x2C7E1E7F8FE00000, 0xFF]).toOption = some (.voteAll { dst := .p 1, a := .p 7, c := .lit 0xFF }) := by decide +kernel
theorem test_decode_store : (decodeWords [0x817052400F805060]).toOption = some (.st { dst := .v 5, a := .s 4, b := .v 0, q := 0x050, var := 6 }) := by decide +kernel
theorem test_decode_kdrain : (decodeWords [0xD200726FEE810000, 8]).toOption = some (.kdrain { gp := 0, dst := .v 7, a := .s 6, b := .lit 8, c := .h 0, q := 0x100 }) := by decide +kernel
theorem test_decode_kcfg : (decodeWords [0xD30F8FEF8F800000, 0x1608000000000]).toOption = some (.kcfg { gp := 0, a := .lit 0x1608000000000 }) := by decide +kernel
theorem test_decode_fwait : (decodeWords [0xE6009E8F8F800000]).toOption = some (.fwait { gp := 0, dst := .v 9, a := .h 0 }) := by decide +kernel
theorem test_decode_ltab : (decodeWords [0x1370102030409660]).toOption = some (.ltab { dst := .v 1, a := .v 2, b := .v 3, c := .v 4, q := 0x096, var := 6 }) := by decide +kernel
theorem test_decode_join : (decodeWords [0x257F8FFFFFC00000]).toOption = some (.join {} 0xFFFFFC) := by decide +kernel
theorem test_decode_frcp_guard_p2 : (decodeWords [0x4C20504F8F800080]).toOption = some (.frcp { gp := 2, dst := .v 5, a := .v 4, var := 8 }) := by decide +kernel
theorem test_decode_cvtif : (decodeWords [0x5470504F8F870020]).toOption = some (.cvtif { dst := .v 5, a := .v 4, q := 0x700, var := 2 }) := by decide +kernel
theorem test_decode_idot4_sat : (decodeWords [0x5B70102030400010]).toOption = some (.idot4 { dst := .v 1, a := .v 2, b := .v 3, c := .v 4, var := 1 }) := by decide +kernel
theorem test_decode_lshfl_literal_mask : (decodeWords [0x607010203FE00060, 0xF]).toOption = some (.lshfl { dst := .v 1, a := .v 2, b := .v 3, c := .lit 0xF, var := 6 }) := by decide +kernel
theorem test_decode_fence_sc : (decodeWords [0x8C7F8F8F8F828030]).toOption = some (.fence { q := 0x280, var := 3 }) := by decide +kernel
theorem test_decode_cmaint_clinv : (decodeWords [0x8D7F80405F800060]).toOption = some (.cmaintClinv { a := .v 4, b := .v 5, var := 6 }) := by decide +kernel
theorem test_decode_barsync_tree : (decodeWords [0x927F8F8FD0300010]).toOption = some (.barsync { b := .imm 3, c := .used, var := 1 }) := by decide +kernel
theorem test_decode_qbind : (decodeWords [0x947F10203F800000]).toOption = some (.qbind { dst := .qtx 1, a := .v 2, b := .v 3 }) := by decide +kernel
theorem test_decode_tdrain_trap_if_empty : (decodeWords [0x987E9F803F800004]).toOption = some (.tdrain { dst := .h 1, b := .v 3, tb := true }) := by decide +kernel
theorem test_decode_rbtake : (decodeWords [0x9D70402F8F800000]).toOption = some (.rbtake { dst := .v 4, a := .v 2 }) := by decide +kernel
theorem test_decode_cvqry : (decodeWords [0xC9706F8F8F800050]).toOption = some (.cvqry { dst := .v 6, var := 5 }) := by decide +kernel
theorem test_decode_kmerge_ring : (decodeWords [0xD67E804F8F800060]).toOption = some (.kmergeRing { dst := .h 0, a := .v 4, var := 6 }) := by decide +kernel
theorem test_decode_veer : (decodeWords [0xE47EA0405F800000]).toOption = some (.veer { dst := .h 2, a := .v 4, b := .v 5 }) := by decide +kernel
theorem test_decode_csrw_tstatus : (decodeWords [0xF37F804F8F800300]).toOption = some (.csrwTstatus { a := .v 4, q := 3 }) := by decide +kernel
theorem test_decode_tlbinv_as : (decodeWords [0xF47F8F8F8F800010]).toOption = some (.tlbinvAs { var := 1 }) := by decide +kernel
theorem test_decode_nopre_end : (decodeWords [0xF67F8F8F8F800010]).toOption = some (.nopreEnd { var := 1 }) := by decide +kernel

/-- The name a refusal gives. -/
def refusal {α β : Type} : Except α β → Option α
  | .ok _ => none
  | .error e => some e

/-- Unassigned opcodes (R267), a VAR that no row has (R260), a guard on NOPRE (R252), a literal that is missing (R248). -/
theorem test_decode_refusals :
    ([[0x307F8F8F8F800000], [0xFF7F8F8F8F800000], [0x1F7F8F8F8F800020], [0xF61F8F8F8F800000], [0x4070504FEF800080]].map fun ws => refusal (decodeWords ws)) =
      [some .unassigned, some .unassigned, some .var, some .guard, some .literal] := by decide +kernel

/-- Table 9-7. -/
theorem test_decode_launch :
    decodePacket 5 0x0100B00304202800 [0x0000400000001000, 0x0007711400000001, 0x1801000400000400, 0x0000400000200000,
      0x0006000000000000, 0x4000004140250000, 0x10000, 0x0800000000000001, 0x0000004000001000, 0x3F800000] =
    some (.launch 5 {
      ntree := 1, ndep := 1, entry := 0x400000001000, tag := 7, cls := 1, shape := 3, wgnm1 := 69, gridm1 := 1, scal := 24,
      drift := 256, tiles := 4, priv := 1024, staddr := 0x400000200000, dtags := [6, 0, 0],
      ops := [{ mode := 1, base := 0x4140250000, len := 0x10000 }], aff := [0x0800000000000001], args := [0x1000, 0x40, 0x3F800000] }) := by
  decide +kernel

/-! ### Terms that stand for no word, and parameters that are not legal -/

/-- The parts of an operand that a field cannot hold (Table 12-3, R255, R256). -/
theorem test_wf_operands : ([
    .iadd { dst := .imm 3 }, .iadd { dst := .lit 3 }, .iadd { dst := .used }, .iadd { dst := .bad 0x20 },
    .iadd { a := .imm 3 }, .iadd { a := .used }, .iadd { a := .bad 0xFE }, .iadd { b := .used },
    .iadd { b := .bad 0xFD }, .iadd { b := .imm 3 }, .iadd { c := .used }, .iadd { c := .imm 3 },
    .iadd { c := .bad 0x00 }, .bra { a := .v 1 } 4, .call { b := .v 1 } 4, .join { c := .v 1 } 4] : List Instr).all (fun i => !i.wf) = true := by decide +kernel

/-- VAR or bits 19:8 of another row. -/
theorem test_wf_rows : ([
    .pmovToPredicate { var := 1 }, .pmovFromPredicate { var := 0 }, .voteAll { var := 1 }, .voteAny { var := 0 },
    .voteBallot { var := 3 }, .voteCount { var := 2 }, .cmaintClean { var := 1 }, .cmaintInv { var := 2 },
    .cmaintClinv { var := 0 }, .kmergeBlock { var := 4 }, .kmergeRing { var := 0 }, .itrsrcRange { q := 0x100 },
    .itrsrcList { q := 0x180 }, .itrsrcBitmap { q := 0x100 }, .itrmapAffine { q := 0x100 }, .itrmapGather { q := 0 },
    .csrw { q := 0x003 }, .csrwTpcTbase { q := 0x003 }, .csrwTstatus { q := 0x002 }, .csrwErrseed { q := 0x011 },
    .csrwErrrate { q := 0x010 }, .tlbinvPage { var := 1 }, .tlbinvAs { var := 2 }, .tlbinvAll { var := 0 },
    .nopreBegin { var := 1 }, .nopreBegin { gp := 0 }, .nopreEnd { var := 0 }, .errinjReg { q := 0x100 },
    .errinjOnce { q := 0x200 }, .errinjTwice { q := 0x300 }, .errinjSector { q := 0 }] : List Instr).all (fun i => !i.wf) = true := by decide +kernel

/-- A field of a launch that does not fit (Tables 9-3 and 9-5). -/
theorem test_wf_launches : ([
    .launch 64 { entry := 0x1000 }, .launch 0 { entry := 0x1000 , ntree := 33 }, .launch 0 { entry := 0x1000 , ndep := 4 }, .launch 0 { entry := 0x1000 , scal := 193 },
    .launch 0 { entry := 0x1000 , drift := 65536 }, .launch 0 { entry := 0x1000 , tiles := 256 }, .launch 0 { entry := 0x1000 , dtags := [] }, .launch 0 { entry := 0x1000 , priv := 32 },
    .launch 0 { entry := 0x1000 , staddr := 4 }, .launch 0 { entry := 0x1000 , gaddr := 4 }, .launch 0 { entry := 0x1000 , ops := [⟨0, 0, 1⟩] }, .launch 0 { entry := 0x1000 , ops := [⟨1, 0, 0⟩] },
    .launch 0 { entry := 0x1000 , aff := List.replicate 256 0 }, .launch 0 { entry := 0x1000 , args := List.replicate 193 0 }, .launch 0 { entry := 4 }, .launch 0 { entry := 0x10000000000000 },
    .indirectLaunch 0 { entry := 0x1000 , gaddr := 2 }, .indirectLaunch 0 { entry := 0x1000 , gridm1 := 1 }] : List Instr).all (fun i => !i.wf) = true := by decide +kernel

/-- A field of another packet that does not fit. -/
theorem test_wf_packets : ([
    .nopPacket 64 1, .nopPacket 0 0, .fencePacket 0 [], .fencePacket 0 [⟨true, 0, 4, 0, 0⟩],
    .loopPacket 0 true 0 2, .loopPacket 0 false 0 0x100000000, .ifPacket 0 true 0 0 4 0, .segmentBegin 64 0 0,
    .segmentEnd 64 0, .replay 64 0, .ckptPacket 0 false 32, .signalWrite64 0 ⟨false, false, 0, 4, 0⟩,
    .signalRedAdd 0 ⟨false, false, 0, 4, 0⟩, .signalWrite32 0 ⟨false, false, 0, 2, 0⟩] : List Instr).all (fun i => !i.wf) = true := by decide +kernel

/-- A number that names no queue, core, quarter, die, region, stick, ring, link, port or barrier. -/
theorem test_wf_events : ([
    .doorbell 4 0 0, .widxPoll 64, .queueResume 64, .fenceCounterPoll 64,
    .fenceDeadline 64, .segmentRetry 64, .classPreemption 0 0 64, .arrayStep 64 0,
    .arrayStepComplete 0 4, .arraySlotPreemption 0 4, .mxmultChunk 0 4, .pageFaultServiceComplete 65536 0 none,
    .migrationEpoch 4, .migrationStart 1572864 0, .migrationCopyComplete 1572864, .migrationAbandon 1572864,
    .stickDrain 24, .overflowSlotSupplied 24 0, .memoryLinkRetrainFail 24, .driftRingWrite 0 64,
    .iteratorSlotMove 0 64, .veerRequestServe 10, .veerHoldExpiry 10, .recalibrationEnd 10,
    .linkOutOfService 10, .treeBarrierRelease 32, .treeBarrierRearm 32, .localBarrierRelease 0 16,
    .localBarrierRearm 0 16, .workgroupRestore 0 64, .infieldTestDue 64, .haltedCoreReturn 64,
    .mres 4 0, .controlBlockAccessIgnored 0 64, .metadataDelivery 4 0, .gateLogitPop 4,
    .coprocessorReserveRetry 4, .fabricPortRetire 8, .dieOffline 4, .powerOn 0 true 4,
    .stickReplacement 24, .compressedStateSetup 24 0 0 0, .queueBinding 64 0 0, .queueHaltedByModuleOs 64,
    .memoryLinkCrcReplay 24] : List Instr).all (fun i => !i.wf) = true := by decide +kernel

/-! ### One step each, on the manual's own examples and on values worked from its tables -/

/-- The first lane after an instruction, its window registers set first. -/
def after (i : Instr) (rs : List (Nat × W32)) : Lane :=
  match exec i (stLane fun l => { l with v := rs.foldl (fun v r => v.set r.1 { val := r.2 }) l.v }) with
  | .next t => ((t.wg? 2).map (·.lane 0)).getD {}
  | _ => {}

def Lane.val (l : Lane) (n : Nat) : W32 := (l.reg n).val

/-- R278: (a + b) mod 2^32. -/
theorem test_iadd_wraps : (after (.iadd { dst := .v 1, a := .v 2, b := .v 3, var := 6 }) [(2, 0xFFFFFFFF), (3, 2)]).val 1 = 1 := by decide +kernel

/-- R281: −1 < 1 for `.i32`. -/
theorem test_icmp_signed : (after (.icmp { dst := .p 1, a := .v 2, b := .v 3, var := 2 }) [(2, 0xFFFFFFFF), (3, 1)]).pred 1 = true := by decide +kernel

/-- R278: `clamp.i32 v1, v1, #-8, v4` on −20, with v4 = 5. -/
theorem test_clamp_r278 : (after (.clamp { dst := .v 1, a := .v 1, b := .lit 0xFFFFFFF8, c := .v 4, var := 2 }) [(1, 0xFFFFFFEC), (4, 5)]).val 1 = 0xFFFFFFF8 := by decide +kernel

/-- R283: by 32 every bit is the top bit. -/
theorem test_sar_full_width : (after (.sar { dst := .v 1, a := .v 2, b := .v 3, var := 6 }) [(2, 0x80000000), (3, 32)]).val 1 = 0xFFFFFFFF := by decide +kernel

/-- R283: by 32 the result is 0. -/
theorem test_shl_full_width : (after (.shl { dst := .v 1, a := .v 2, b := .v 3, var := 6 }) [(2, 1), (3, 32)]).val 1 = 0 := by decide +kernel

/-- R284: the low 8 bits of v2 at bit 4 of v4. -/
theorem test_bfi_r284 : (after (.bfi { dst := .v 4, a := .v 2, b := .lit 0x0804, c := .v 4, var := 6 }) [(2, 0x1AB), (4, 0xFFFFFFFF)]).val 4 = 0xFFFFFABF := by decide +kernel

/-- spec/13: selector 0x0123 reverses the bytes of v1. -/
theorem test_permb_reverses : (after (.permb { dst := .v 5, a := .v 1, b := .v 2, c := .lit 0x0123, var := 6 }) [(1, 0x11223344)]).val 5 = 0x44332211 := by decide +kernel

/-- R285: w for 0. -/
theorem test_clz_zero : (after (.clz { dst := .v 3, a := .v 2, var := 6 }) [(2, 0)]).val 3 = 32 := by decide +kernel

/-- 1.0 + 1.5 = 2.5. -/
theorem test_fadd_rounds_once : (after (.fadd { dst := .v 1, a := .v 2, b := .lit 0x3FC00000, var := 8 }) [(2, 0x3F800000)]).val 1 = 0x40200000 := by decide +kernel

/-- R62, on the address of the walk example: slice 8 of die 1, set 0x242. -/
theorem test_home_of_walk_example : homeDie 0x00E003121234 = 1 ∧ l2Slice 0x00E003121234 = 8 ∧ l2Set 0x00E003121234 = 0x242 := by decide

/-- 1 ÷ ±2^-128 overflows (R309). -/
theorem test_frcp_overflow : fRcp 0x00200000 = 0x7F800000 ∧ fRcp 0x80200000 = 0xFF800000 := by decide +kernel

/-- 1 ÷ 2 is exact. -/
theorem test_frcp_two : (after (.frcp { dst := .v 1, a := .v 2, var := 8 }) [(2, 0x40000000)]).val 1 = 0x3F000000 := by decide +kernel

/-- R312: 70,000 to FP16 under RNE is +∞. -/
theorem test_cvtif_rne_overflows : (after (.cvtif { dst := .v 1, a := .v 2, q := 0x700, var := 2 }) [(2, 70000)]).val 1 = 0x7C00 := by decide +kernel

/-- R312: under RZ it is 65,504. -/
theorem test_cvtif_rz_stays_finite : (after (.cvtif { dst := .v 1, a := .v 2, q := 0x704, var := 2 }) [(2, 70000)]).val 1 = 0x7BFF := by decide +kernel

/-- The example of R287: p7 is true, so table value 0x80 gives p1 AND p2. -/
theorem test_plop_r287 :
    (match exec (.plop { dst := .p 3, a := .p 1, b := .p 2, c := .p 7, q := 0x80 }) (stLane fun l => (l.setPred 1 true).setPred 2 true) with
      | .next t => ((t.wg? 2).map fun w => (w.lane 0).pred 3)
      | _ => none) = some true := by decide +kernel

/-- spec/04: Fold of key 0x12345, and its set among 2,048 and among 2. -/
theorem test_fold : foldKey 0x12345 = 0x12361 ∧ (foldKey 0x12345).toNat % 2048 = 0x361 ∧ (foldKey 0x12345).toNat % 2 = 1 := by decide

def tbl2 : DTable := { cfg := 0x12000000000, ring := 0, entries := [⟨1, 0, 5, 0x3F800000, false, 0⟩] }

/-- What the keys do to the table, each lane's status by key, and the records. -/
def keysOut (t : DTable) (ks : List KeyVal) : Option (List (Nat × Nat × W64 × W64) × List (W64 × Nat) × List (W64 × W64 × Bool)) :=
  match t.applyKeys ks with
  | .ok (t, sts, rs) => some (t.ordered.map fun e => (e.set, e.way, e.key, e.val), sts, rs)
  | .error _ => none

/-- R86: a removal lowers by one each age above its own: of the ages 0 to 3, two removals of the oldest leave 0 and 1. -/
theorem test_drain_keeps_ages : (([0, 1].map fun i => ({ set := 0, way := i, key := 0, val := 0, poison := false, age := i } : DEntry)).foldl DTable.drop
    { tbl 0 with entries := (List.range 4).map fun i => { set := 0, way := i, key := 0, val := 0, poison := false, age := i } }).entries.map
      (fun e => (e.way, e.age)) = [(2, 0), (3, 1)] := by decide +kernel

/-- Table 4-4 worked through: the keys of step 1 on a table of 2 sets and 2 ways that holds key 5. -/
theorem test_kacc_worked :
    let r := keysOut tbl2 [⟨3, 0x3F600000, false⟩, ⟨5, 0x40A00000, false⟩, ⟨7, 0x3F800000, false⟩, ⟨2, 0x40800000, false⟩, ⟨9, 0x41000000, false⟩]
    r.map (·.1) = some [(0, 0, 2, 0x40800000), (1, 0, 7, 0x3F800000), (1, 1, 9, 0x41000000)] ∧
    r.map (·.2.1) = some [(3, 1), (5, 0), (7, 2), (2, 1), (9, 2)] ∧
    r.map (·.2.2) = some [(5, 0x40C00000, false), (3, 0x3F600000, false)] := by decide +kernel

/-- Tables 11-4 and 11-5: the first pull of width 8 with BND = 0 over the offsets 0, 3, 3, 5, 9 commits that image. -/
theorem test_pull_of_table_11_4 :
    (match exec (.iteratorPullCommit 2 0) (
        let x : ItrSlot := {
          state := 2, nroot := 1, objs := [⟨0x1000000000000000, 0, 4, 1⟩, ⟨0x7802000000000000, 0x4000, 0, 0⟩], bound := true,
          queue := [.pull ((List.range 8).map fun i => ⟨i, [6], [7]⟩) [] 0 6 7] }
        let s := stWg fun w => { w with n := 8, lanes := List.replicate 8 lane0, itr := w.itr.set 0 x }
        { s with ms := { s.ms with mem := s.ms.mem.writeBytes 0x4000 [0, 0, 0, 0, 3, 0, 0, 0, 3, 0, 0, 0, 5, 0, 0, 0, 9, 0, 0, 0] } }) with
      | .next t => (t.wg? 2).map fun w => (((w.itrSlot 0).image.take 10, w.lanes.map fun l => l.val 6), w.lanes.map fun l => l.val 7)
      | _ => none) =
    some (([0x8021000000000000, 8, 0x1000000000000004, 0, 4, 1, 0x7C02000000000001, 0x4000, 3, 8], [0, 1, 2, 3, 4, 5, 6, 7]), [0, 0, 0, 2, 2, 3, 3, 3]) := by
  decide +kernel

/-- R397, R411 and Table 18-1: TRAP 9 with a handler at 0x2000 enters it at 32 × 12, with its code in `tval`. -/
theorem test_trap_enters_handler :
    (match exec (.trapOp { q := 9 }) (stLane fun l => { l with tbase := 0x2000 }) with
      | .next t => (t.wg? 2).map fun w => (((w.lane 0).pc, (w.lane 0).tcause), (w.lane 0).tval)
      | _ => none) = some ((0x2000 + 32 * 12, 12), 9) := by decide +kernel

end Sys2Proof.Machine
end

section
/-! Predicates (R185): what a predicate read returns after a write, and in a workgroup as it is launched. -/
namespace Sys2Proof.Machine

/-- Clearing bit `n` of a byte and then setting it to `b` changes that bit alone: the write of one predicate. -/
theorem getLsbD_clear_or_shift (x : BitVec 8) (n k : Nat) (b : Bool) (hk : k < 8) :
    ((x &&& ~~~ ((1#8) <<< n)) ||| (if b then (1#8) <<< n else 0)).getLsbD k = if k = n then b else x.getLsbD k := by
  have hbit : (BitVec.twoPow 8 n).getLsbD k = decide (n = k) := by
    rw [BitVec.getLsbD_twoPow, Bool.and_eq_right_iff_imp]
    intro h
    simpa [← of_decide_eq_true h] using hk
  rw [← BitVec.twoPow_eq, BitVec.getLsbD_or, BitVec.getLsbD_and, BitVec.getLsbD_not, apply_ite (BitVec.getLsbD · k), hbit]
  by_cases hkn : k = n
  · simp [hkn]
  · simp [hk, hkn, Ne.symm hkn]

@[simp] theorem Lane.pred_seven (l : Lane) : l.pred 7 = true := rfl

@[simp] theorem Lane.setPred_seven (l : Lane) (b : Bool) : l.setPred 7 b = l := rfl

theorem Lane.pred_of_ne_seven (l : Lane) {n : Nat} (hn : n ≠ 7) : l.pred n = l.p.getLsbD n := by
  simp [Lane.pred, hn]

theorem Lane.p_setPred (l : Lane) {n : Nat} (b : Bool) (hn : n ≠ 7) :
    (l.setPred n b).p = (l.p &&& ~~~ ((1#8) <<< n)) ||| (if b then (1#8) <<< n else 0) := by
  simp [Lane.setPred, hn]

/-- A read after a write: the written predicate holds `b`, each other one keeps its value. -/
theorem Lane.pred_setPred (l : Lane) {n k : Nat} (b : Bool) (hn : n ≠ 7) (hk : k < 8) :
    (l.setPred n b).pred k = if k = n then b else l.pred k := by
  by_cases h7 : k = 7
  · subst h7
    simp [Ne.symm hn]
  · rw [Lane.pred_of_ne_seven _ h7, Lane.pred_of_ne_seven _ h7, Lane.p_setPred l b hn, getLsbD_clear_or_shift l.p n k b hk]

/-- Every lane of a workgroup as it starts holds no predicate, and neither does the lane of an index past its end. -/
theorem Node.newWg_lane_p (n : Node) (id wgi c i : Nat) : ((n.newWg id wgi c).lane i).p = 0 := by
  simp only [Node.newWg, Wg.lane, List.getD_eq_getElem?_getD, List.getElem?_map]
  cases (List.range (laneCount n.launch))[i]? with
  | none => rfl
  | some j => rfl

/-- Settles O9: a write to p7 leaves the lane as it was, another write is a write of its one bit, and a launched lane's
predicate byte is zero. -/
theorem predicateSevenReadsTrue : Obligations.PredicateSevenReadsTrue := by
  refine ⟨fun l b => ⟨l.pred_seven, l.setPred_seven b⟩, ?_, ?_⟩
  · intro l n k b hn hk
    exact l.pred_setPred b (Nat.ne_of_lt hn) hk
  · intro n id wgi c i k hk
    rw [Lane.pred_of_ne_seven _ (Nat.ne_of_lt hk), n.newWg_lane_p]
    exact BitVec.getLsbD_zero

end Sys2Proof.Machine
end

section
/-! Core queues (R121, R124, R344, R345): what binds a send register, polls a receive queue, and takes a flit to its end. -/
namespace Sys2Proof.Machine

theorem exec_qbind (f : Fields) (s : State) : exec (.qbind f) s = laneExec (qbindSpec s f) f s := rfl

theorem exec_qpoll (f : Fields) (s : State) : exec (.qpoll f) s = laneExec (qpollSpec f) f s := rfl

theorem exec_queueFlitDelivery (k : Nat) (s : State) : exec (.queueFlitDelivery k) s = execQueueFlitDelivery k s := rfl

/-- Without poison the body of QBIND is one assignment to the named send register, which a helper does not make (R344). -/
theorem qbindSpec_body (s : State) (f₀ : Fields) (cx : Cx) (i : Nat) (l : Lane) (f : Fields) (v : Vals) (hv : v.poison = false) :
    (qbindSpec s f₀).body cx i l f v = .done l (match f.dst with
      | .qtx n => if l.helper then [] else [.act fun t => t.modWg cx.w.id fun w =>
          { w with qtx := w.qtx.set n.val (some ((lo32 v.a).toNat, (lo32 v.b).toNat)) }]
      | _ => []) := by
  simp only [qbindSpec, hv, Bool.false_eq_true, if_false]
  cases hd : f.dst with
  | qtx n => cases hh : l.helper <;> rfl
  | _ => rfl

/-- A flit whose turn it is leaves the network and is appended to its receive queue, where its workgroup is on a core (R124). -/
theorem execQueueFlitDelivery_core {s : State} {k c : Nat} {x : Flit} {w : Wg} (hx : s.net.flits[k]? = some x)
    (hturn : ((s.net.flits.take k).any fun y => y.srcWg == x.srcWg && y.srcLane == x.srcLane && y.node == x.node
      && y.index == x.index && y.queue == x.queue) = false)
    (hw : (s.ex.wgs.find? fun w => w.node == x.node && w.index == x.index) = some w) (hp : w.place = .core c) :
    execQueueFlitDelivery k s = .next (State.modWg { s with net := { s.net with flits := s.net.flits.eraseIdx k } } w.id fun w =>
      { w with qrx := upd w.qrx x.queue fun q => q ++ [x.data] }) := by
  simp only [execQueueFlitDelivery, hx, hturn, hw, hp, Bool.false_eq_true, if_false]

/-- Settles O33: QBIND and QPOLL by the spec lemma of the per-lane runner, the delivery by its one case that goes on. -/
theorem coreQueueResults : Obligations.CoreQueueResults := by
  intro s f
  refine ⟨?_, ?_, ?_⟩
  · refine runsAs_of _ (qbindSpec s f) _ f s _ (exec_qbind f s) ⟨rfl, rfl, rfl, rfl, rfl⟩ ?_
    intro cx i l f' v hv
    exact qbindSpec_body s f cx i l f' v (by simpa using hv)
  · intro q _
    exact runsAs_of _ (qpollSpec f) _ f s _ (exec_qpoll f s) ⟨rfl, rfl, rfl, rfl, rfl⟩ fun _ _ _ _ _ _ => rfl
  · intro k x w c hx hturn hw hp
    exact (exec_queueFlitDelivery k s).trans (execQueueFlitDelivery_core hx hturn hw hp)

end Sys2Proof.Machine
end

section
/-! Taking a trap (R411, R412, R168): the delivery to a lane with a handler, and the layout of `tstatus` (Table 18-4). -/
namespace Sys2Proof.Machine

/-- A bit field by division: what `omega` reads. -/
theorem bits_eq_div_mod {w : Nat} (x : BitVec w) (hi lo : Nat) : bits x hi lo = x.toNat / 2 ^ lo % 2 ^ (hi + 1 - lo) := by
  rw [bits, BitVec.extractLsb'_toNat, Nat.shiftRight_eq_div_pow]

theorem upd_eq_set {α : Type} (xs : List α) (i : Nat) (f : α → α) (d : α) : upd xs i f = xs.set i (f (xs.getD i d)) := by
  induction xs generalizing i with
  | nil => rfl
  | cons x xs ih =>
    cases i with
    | zero => rfl
    | succ i => simpa [upd] using ih i

theorem upd_upd {α : Type} (xs : List α) (i : Nat) (f g : α → α) : upd (upd xs i f) i g = upd xs i fun x => g (f x) := by
  induction xs generalizing i with
  | nil => rfl
  | cons x xs ih =>
    cases i with
    | zero => rfl
    | succ i => exact congrArg (f := List.cons x) (ih i)

/-- The fields of `tstatus` at a trap, as the number they make up; no sum of them passes 64 bits. -/
theorem toNat_packStatus (clt eng : Bool) (rep nopre : Nat) :
    (packStatus clt eng rep nopre).toNat = 2 ^ 63 + clt.toNat * 2 ^ 62 + eng.toNat * 2 ^ 61 + rep % 16 * 2 ^ 57 + nopre % 16 * 2 ^ 53 := by
  rw [packStatus, BitVec.toNat_ofNat]
  cases clt <;> cases eng <;> simp <;> omega

/-- Table 18-4: each field of `tstatus` at a trap reads as it was packed. -/
theorem packStatus_fields (clt eng : Bool) (rep nopre : Nat) :
    let x := packStatus clt eng rep nopre
    x.getLsbD 63 = true ∧ x.getLsbD 62 = clt ∧ x.getLsbD 61 = eng ∧ bits x 60 57 = rep % 16 ∧ bits x 56 53 = nopre % 16 ∧
      bits x 52 0 = 0 := by
  simp only [bits_eq_div_mod, ← BitVec.testBit_toNat, Nat.testBit_eq_decide_div_mod_eq, toNat_packStatus]
  cases clt <;> cases eng <;> simp <;> omega

/-- What a delivery writes of a lane: the trap registers, and where the lane goes on. -/
theorem Lane.deliver_writes (l : Lane) {cause : Nat} (tval : W64) (clt eng : Bool) (hc : cause ≤ 12) :
    let t := l.deliver cause tval clt eng
    t.tcause = BitVec.ofNat 64 cause ∧ t.tval = tval ∧ t.tpc = pcMask l.pc ∧ t.tstatus = packStatus clt eng l.rep l.nopre ∧
      t.pc = vectorOf l.tbase cause ∧ t.tclause = l.clause ∧ t.tset = false := by
  have hmod : cause % 256 = cause := Nat.mod_eq_of_lt (by omega)
  exact ⟨congrArg (BitVec.ofNat 64) hmod, rfl, rfl, rfl, rfl, rfl, rfl⟩

/-- The kernel's own handler takes the trap when the cause is no poison kill, the lane has a handler and is not in it (R412). -/
theorem Lane.toOs_eq_false {l : Lane} {cause : Nat} (hc : cause ≤ 12) (hb : bits l.tbase 51 9 ≠ 0)
    (hinh : l.tstatus.getLsbD 63 = false) : l.toOs cause = false := by
  have h13 : cause ≠ 13 := by omega
  rw [Lane.toOs, hinh]
  simp [h13, hb]

@[simp] theorem Wg.giveBack_id (w : Wg) (i : Nat) : (w.giveBack i).id = w.id := rfl

/-- A workgroup in which lane `i` goes to its handler: its flits go back, the trap is delivered, its helpers follow (R168). -/
def Wg.trapTo (w : Wg) (i cause : Nat) (tval : W64) (clt eng : Bool) : Wg :=
  ((w.giveBack i).modLane i fun l => l.deliver cause tval clt eng).syncHelpers

@[simp] theorem Wg.trapTo_id (w : Wg) (i cause : Nat) (tval : W64) (clt eng : Bool) : (w.trapTo i cause tval clt eng).id = w.id := rfl

/-- An update of a lane after its flits went back is one write of that lane, beside the queues (R123). -/
theorem Wg.giveBack_modLane (w : Wg) (i : Nat) (f : Lane → Lane) :
    (w.giveBack i).modLane i f =
      { w with qrx := returnFlits (w.lane i).flits w.qrx, lanes := w.lanes.set i (f { w.lane i with flits := [] }) } := by
  have hlanes : upd (upd w.lanes i fun l => { l with flits := [] }) i f = w.lanes.set i (f { w.lane i with flits := [] }) :=
    (upd_upd w.lanes i _ f).trans (upd_eq_set w.lanes i _ {})
  simp only [Wg.giveBack, Wg.modLane, hlanes]

theorem Wg.trapTo_eq (w : Wg) (i cause : Nat) (tval : W64) (clt eng : Bool) :
    w.trapTo i cause tval clt eng = ({ w with
      qrx := returnFlits (w.lane i).flits w.qrx
      lanes := w.lanes.set i (({ w.lane i with flits := [] } : Lane).deliver cause tval clt eng) } : Wg).syncHelpers :=
  congrArg Wg.syncHelpers (w.giveBack_modLane i _)

/-- Two updates of one workgroup are one. -/
theorem State.modWg_modWg (s : State) (id : Nat) (f g : Wg → Wg) (hf : ∀ x, (f x).id = x.id) :
    (s.modWg id f).modWg id g = s.modWg id fun w => g (f w) := by
  simp only [State.modWg, List.map_map]
  congr 3
  funext x
  by_cases hx : x.id = id <;> simp [hx, hf]

/-- A live lane whose trap is its own kernel's goes to its handler, and that is all of the trap (R411). -/
theorem State.takeTrap_of_not_toOs {s : State} {id i cause : Nat} {w : Wg} (hw : s.wg? id = some w) (hl : (w.lane i).live = true)
    (ho : (w.lane i).toOs cause = false) (tval : W64) (clt eng : Bool) :
    s.takeTrap id i cause tval clt eng = s.modWg id (·.trapTo i cause tval clt eng) := by
  have hne : (w.lane i).exited = false ∧ (w.lane i).helper = false := by simpa [Lane.live] using hl
  have hto : s.takeTrap id i cause tval clt eng =
      (s.modWg id (·.giveBack i)).modWg id fun w => (w.modLane i fun l => l.deliver cause tval clt eng).syncHelpers := by
    simp [State.takeTrap, hw, hne, ho]
  exact hto.trans (s.modWg_modWg id _ _ fun x => x.giveBack_id i)

/-- Settles O10: the trap is one update of the workgroup, which writes the lane once; what a delivery writes and keeps of the
lane are lemmas about it, and the fields of `tstatus` those of Table 18-4. -/
theorem trapDelivery : Obligations.TrapDelivery := by
  intro s id i w cause tval clt eng hw _ hlive hinh hbase _ hc l t
  have ht : t = s.modWg id (·.trapTo i cause tval clt eng) :=
    State.takeTrap_of_not_toOs hw hlive (Lane.toOs_eq_false hc hbase hinh) tval clt eng
  have hid : ∀ x : Wg, (x.trapTo i cause tval clt eng).id = x.id := fun x => x.trapTo_id i cause tval clt eng
  have hwg := State.wg_modWg_self hw _ hid
  rw [Wg.trapTo_eq] at hwg
  obtain ⟨hcause, hval, hpc, hstatus, hgo, hclause, hset⟩ := Lane.deliver_writes { l with flits := [] } tval clt eng hc
  obtain ⟨hv, hp, hh, hd, hlo, htb, hts, hnp, hex, hhelp⟩ := Lane.deliver_keeps { l with flits := [] } cause tval clt eng
  obtain ⟨h63, h62, h61, hrep, hnpd, hres⟩ := packStatus_fields clt eng l.rep l.nopre
  rw [← hstatus] at h63 h62 h61 hrep hnpd hres
  rw [ht]
  exact ⟨_, hwg, hcause, hval, hpc, h63, h62, h61, hrep, hnpd, hres, hgo, hv, hp, hh, hd, hlo, htb, hts, hnp, hex, hhelp, hclause, hset,
    s.modWg_ms id _, s.modWg_net id _, s.modWg_rt id _, s.modWg_cp id _, s.modWg_hub id _, s.modWg_log id _, s.modWg_nodes id _,
    s.modWg_cores id _, fun k hk => s.wg_modWg_other id k _ hid hk⟩

end Sys2Proof.Machine
end

section
/-! The encoding of instruction words (R248, R251, R255, R256): a word holds its fields, an operand byte its operand, and an
opcode with its fields the instruction. -/
namespace Sys2Proof

/-- The fields of a word read as they were written (Table 12-2). -/
theorem RawWord.ofWord_toWord (r : RawWord) : RawWord.ofWord r.toWord = r := by
  obtain ⟨opc, gn, gp, dst, a, b, c, q, var, ta, tb, tc, h⟩ := r
  simp only [RawWord.ofWord, RawWord.toWord, RawWord.mk.injEq]
  refine ⟨?_, ?_, ?_, ?_, ?_, ?_, ?_, ?_, ?_, ?_, ?_, ?_, ?_⟩ <;>
  · apply BitVec.eq_of_getLsbD_eq
    intro i hi
    simp only [BitVec.getLsbD_extractLsb', BitVec.getLsbD_append]
    grind

/-- A byte without a meaning stands for itself. -/
theorem Operand.ofByte_bad {b : BitVec 8} (h : 0xFA ≤ b.toNat) : Operand.ofByte b = .bad b := by
  have h8 : b ≠ 0xF8 := by rintro rfl; simp at h
  have h9 : b ≠ 0xF9 := by rintro rfl; simp at h
  unfold Operand.ofByte
  rw [dif_neg (by omega), dif_neg (by omega), dif_neg (by omega), dif_neg (by omega), dif_neg (by omega), dif_neg (by omega),
    if_neg h8, if_neg h9]

/-- An operand that DST can hold is the one that its byte names (Table 12-3). -/
theorem Operand.ofByte_toByte {x : Operand} (h : x.okDst = true) : Operand.ofByte x.toByte = x := by
  cases x with
  | v n =>
    have hb : (BitVec.ofNat 8 n.val).toNat = n.val := Nat.mod_eq_of_lt (by omega)
    simp only [Operand.ofByte, Operand.toByte, hb]
    rw [dif_pos (by omega)]
  | s n =>
    have hb : (BitVec.ofNat 8 (0x20 + n.val)).toNat = 0x20 + n.val := Nat.mod_eq_of_lt (by omega)
    simp only [Operand.ofByte, Operand.toByte, hb]
    rw [dif_neg (by omega), dif_pos (by omega)]
    simp only [Nat.add_sub_cancel_left]
  | p n =>
    have hb : (BitVec.ofNat 8 (0xE0 + n.val)).toNat = 0xE0 + n.val := Nat.mod_eq_of_lt (by omega)
    simp only [Operand.ofByte, Operand.toByte, hb]
    rw [dif_neg (by omega), dif_neg (by omega), dif_pos (by omega)]
    simp only [Nat.add_sub_cancel_left]
  | h n =>
    have hb : (BitVec.ofNat 8 (0xE8 + n.val)).toNat = 0xE8 + n.val := Nat.mod_eq_of_lt (by omega)
    simp only [Operand.ofByte, Operand.toByte, hb]
    rw [dif_neg (by omega), dif_neg (by omega), dif_neg (by omega), dif_pos (by omega)]
    simp only [Nat.add_sub_cancel_left]
  | qtx n =>
    have hb : (BitVec.ofNat 8 (0xF0 + n.val)).toNat = 0xF0 + n.val := Nat.mod_eq_of_lt (by omega)
    simp only [Operand.ofByte, Operand.toByte, hb]
    rw [dif_neg (by omega), dif_neg (by omega), dif_neg (by omega), dif_neg (by omega), dif_pos (by omega)]
    simp only [Nat.add_sub_cancel_left]
  | qrx n =>
    have hb : (BitVec.ofNat 8 (0xF4 + n.val)).toNat = 0xF4 + n.val := Nat.mod_eq_of_lt (by omega)
    simp only [Operand.ofByte, Operand.toByte, hb]
    rw [dif_neg (by omega), dif_neg (by omega), dif_neg (by omega), dif_neg (by omega), dif_neg (by omega), dif_pos (by omega)]
    simp only [Nat.add_sub_cancel_left]
  | zero => decide +kernel
  | lane => decide +kernel
  | bad b =>
    change (Operand.badByte b || b == 0xFD || b == 0xFE) = true at h
    simp only [Operand.badByte, Bool.or_eq_true, beq_iff_eq] at h
    refine Operand.ofByte_bad (show 0xFA ≤ b.toNat from ?_)
    rcases h with ((((rfl | rfl) | rfl) | rfl) | rfl) | rfl <;> simp
  | imm i => contradiction
  | lit w => contradiction
  | used => contradiction

/-- Where A or C holds no literal, DST could hold it too. -/
theorem Operand.okDst_of_okA {x : Operand} (h : x.okA = true) (hl : ∀ w, x ≠ .lit w) : x.okDst = true := by
  cases x with
  | bad b => exact Bool.or_eq_true_iff.mpr (.inl h)
  | lit w => exact absurd rfl (hl w)
  | _ => exact h

theorem Operand.toByte_ne_literal {x : Operand} (h : x.okA = true) (hl : ∀ w, x ≠ .lit w) : x.toByte ≠ 0xFE := by
  intro he
  have hx := Operand.ofByte_toByte (Operand.okDst_of_okA h hl)
  rw [he, Operand.ofByte_bad (by simp)] at hx
  subst hx
  contradiction

/-- A field that can stand in A takes its literal and leaves the others (R248). -/
theorem Operand.take_toByte {x : Operand} (h : x.okA = true) (ls : List W64) :
    Operand.take x.toByte (x.lits ++ ls) = some (x, ls) := by
  by_cases hl : ∃ w, x = .lit w
  · obtain ⟨w, rfl⟩ := hl
    rfl
  · have hn : ∀ w, x ≠ .lit w := fun w hw => hl ⟨w, hw⟩
    have hlits : x.lits = [] := by cases x <;> first | rfl | exact absurd rfl (hn _)
    unfold Operand.take
    rw [if_neg (Operand.toByte_ne_literal h hn), Operand.ofByte_toByte (Operand.okDst_of_okA h hn), hlits, List.nil_append]

/-- A field of B that is no immediate could stand in A. -/
theorem Operand.okA_of_okB {x : Operand} (h : x.okB = true) (hi : ∀ i, x ≠ .imm i) : x.okA = true := by
  cases x with
  | bad b => exact Bool.or_eq_true_iff.mpr (.inl h)
  | imm i => exact absurd rfl (hi i)
  | _ => exact h

theorem Operand.toByte_ne_immediate {x : Operand} (h : x.okB = true) (hi : ∀ i, x ≠ .imm i) : x.toByte ≠ 0xFD := by
  intro he
  by_cases hl : ∃ w, x = .lit w
  · obtain ⟨w, rfl⟩ := hl
    exact absurd he (show (0xFE : BitVec 8) ≠ 0xFD by decide)
  · have hx := Operand.ofByte_toByte (Operand.okDst_of_okA (Operand.okA_of_okB h hi) fun w hw => hl ⟨w, hw⟩)
    rw [he, Operand.ofByte_bad (by simp)] at hx
    subst hx
    contradiction

/-- The operands A, B and C, with the literals they take, are read as they were written (R248, R256). -/
theorem takeABC_raw {f : Fields} (o : BitVec 8) (ha : f.a.okA = true) (hb : f.b.okB = true) (hc : f.b.okC f.c = true) :
    takeABC (f.raw o) (f.a.lits ++ (f.b.lits ++ f.c.lits)) = some (f.a, f.b, f.c) := by
  unfold takeABC
  have hA : Operand.take (f.raw o).a (f.a.lits ++ (f.b.lits ++ f.c.lits)) = _ := Operand.take_toByte ha _
  rw [hA]
  by_cases hi : ∃ i, f.b = .imm i
  · obtain ⟨i, hi⟩ := hi
    have hused : f.c = .used := by
      rw [hi] at hc
      cases hfc : f.c <;> rw [hfc] at hc <;> first | rfl | contradiction
    simp [Fields.raw, hi, hused, Operand.toByte]
  · have hn : ∀ i, f.b ≠ .imm i := fun i h => hi ⟨i, h⟩
    have hcA : f.c.okA = true := by
      cases hfb : f.b <;> rw [hfb] at hc <;> cases hfc : f.c <;> rw [hfc] at hc <;> first | exact hc | contradiction | exact absurd hfb (hn _)
    have hcb : (f.raw o).c = f.c.toByte := by
      cases hfb : f.b <;> first | exact absurd hfb (hn _) | simp only [Fields.raw, hfb]
    have hB : Operand.take (f.raw o).b (f.b.lits ++ f.c.lits) = _ := Operand.take_toByte (Operand.okA_of_okB hb hn) _
    have hC := Operand.take_toByte hcA []
    rw [List.append_nil] at hC
    simp only [if_neg (show (f.raw o).b ≠ 0xFD from Operand.toByte_ne_immediate hb hn), hB, hcb, hC]

theorem bit1_eq_one (b : Bool) : (bit1 b == 1) = b := by cases b <;> rfl

/-- The fields of an encoded instruction are its fields, under operands that are its operands. -/
theorem Fields.raw_fields {f : Fields} (o : BitVec 8) (hd : f.dst.okDst = true) : (f.raw o).fields f.a f.b f.c = f := by
  simp only [RawWord.fields, Fields.raw, bit1_eq_one, Operand.ofByte_toByte hd]

/-- The offset of a relative transfer stands in A, B and C. -/
theorem extract_append_bytes (off : BitVec 24) :
    off.extractLsb' 16 8 ++ (off.extractLsb' 8 8 ++ off.extractLsb' 0 8) = off := by
  apply BitVec.eq_of_getLsbD_eq
  intro i hi
  simp only [BitVec.getLsbD_extractLsb', BitVec.getLsbD_append]
  grind

/-- The kind of a source object with bit 8 clear is no list and no bitmap (R382). -/
theorem extract_source_ne {q : BitVec 12} (h : q.extractLsb' 8 1 = 0) : q.extractLsb' 7 2 ≠ 2 ∧ q.extractLsb' 7 2 ≠ 3 := by
  have h8 : q.toNat / 256 % 2 = 0 := by
    have := congrArg BitVec.toNat h
    simpa [BitVec.extractLsb'_toNat, Nat.shiftRight_eq_div_pow] using this
  constructor <;>
  · intro he
    have := congrArg BitVec.toNat he
    simp [BitVec.extractLsb'_toNat, Nat.shiftRight_eq_div_pow] at this
    omega

/-- A well-formed instruction that is no relative transfer has well-formed fields and no offset. -/
theorem Instr.fields_wf {i : Instr} {o : BitVec 8} {f : Fields} {off : BitVec 24} (hc : i.code = some (o, f, off)) (hw : i.wf = true)
    (hr : isRelative o = false) : f.wf = true ∧ off = 0 := by
  cases i <;> cases hc <;> first | contradiction | exact ⟨hw, rfl⟩ | exact ⟨(Bool.and_eq_true_iff.mp hw).1, rfl⟩

/-- A relative transfer keeps its offset apart from its operands. -/
theorem Instr.fields_wfRel {i : Instr} {o : BitVec 8} {f : Fields} {off : BitVec 24} (hc : i.code = some (o, f, off)) (hw : i.wf = true)
    (hr : isRelative o = true) : f.wfRel = true := by
  cases i <;> cases hc <;> first | contradiction | exact hw

/-- Where `i` has an opcode and is well formed, opcode, fields and offset build `i` (R267). -/
theorem buildInstr_code {i : Instr} {o : BitVec 8} {f : Fields} {off : BitVec 24} (hc : i.code = some (o, f, off)) (hw : i.wf = true) :
    buildInstr o f off = .ok i := by
  cases i
  case itrsrcRange f =>
    cases hc
    simp only [Instr.wf, Bool.and_eq_true, decide_eq_true_eq] at hw
    obtain ⟨h2, h3⟩ := extract_source_ne hw.2
    exact (if_neg h2).trans (if_neg h3)
  case csrw f =>
    cases hc
    simp only [Instr.wf, Bool.and_eq_true, decide_eq_true_eq, not_or] at hw
    obtain ⟨-, h2, h4, h3, h10, h11⟩ := hw
    exact (if_neg (not_or.mpr ⟨h2, h4⟩)).trans ((if_neg h3).trans ((if_neg h10).trans (if_neg h11)))
  case csrwTpcTbase f =>
    cases hc
    simp only [Instr.wf, Bool.and_eq_true, decide_eq_true_eq] at hw
    exact if_pos hw.2
  case pmovToPredicate | pmovFromPredicate | voteAll | voteAny | voteBallot | voteCount | cmaintClean | cmaintInv | cmaintClinv
      | kmergeBlock | kmergeRing | itrsrcList | itrsrcBitmap | itrmapAffine | itrmapGather | csrwTstatus | csrwErrseed | csrwErrrate
      | tlbinvPage | tlbinvAs | tlbinvAll | nopreBegin | nopreEnd | errinjReg | errinjOnce | errinjTwice | errinjSector =>
    cases hc
    simp only [Instr.wf, Bool.and_eq_true, decide_eq_true_eq] at hw
    obtain ⟨-, hv⟩ := hw
    simp [buildInstr, buildInt, buildMem, buildDrf, buildSys, hv]
  all_goals first | contradiction | (cases hc; rfl)

/-- The words of an instruction that is no relative transfer decode to it. -/
theorem decode_encode_operands {i : Instr} {o : BitVec 8} {f : Fields} {off : BitVec 24} (hc : i.code = some (o, f, off))
    (hw : i.wf = true) (hr : isRelative o = false) : decodeWords (encode i) = .ok i := by
  have hf : f.wf = true ∧ off = 0 := Instr.fields_wf hc hw hr
  obtain ⟨hf, rfl⟩ := hf
  simp only [Fields.wf, Bool.and_eq_true] at hf
  obtain ⟨⟨⟨hd, ha⟩, hb⟩, hC⟩ := hf
  have hopc : (f.raw o).opc = o := rfl
  simp only [encode, hc, hr, Bool.false_eq_true, if_false, decodeWords, decodeInstr, RawWord.ofWord_toWord, hopc,
    takeABC_raw o ha hb hC, Fields.raw_fields o hd, buildInstr_code hc hw]

/-- The word of a relative transfer decodes to it. -/
theorem decode_encode_relative {i : Instr} {o : BitVec 8} {f : Fields} {off : BitVec 24} (hc : i.code = some (o, f, off))
    (hw : i.wf = true) (hr : isRelative o = true) : decodeWords (encode i) = .ok i := by
  have hf := Instr.fields_wfRel hc hw hr
  simp only [Fields.wfRel, Bool.and_eq_true, beq_iff_eq] at hf
  obtain ⟨⟨⟨hd, ha⟩, hb⟩, hC⟩ := hf
  have hopc : (f.rawRel o off).opc = o := rfl
  have hoff : (f.rawRel o off).a ++ ((f.rawRel o off).b ++ (f.rawRel o off).c) = off := extract_append_bytes off
  have hfields : (f.rawRel o off).fields .zero .zero .zero = f := by
    have h := Fields.raw_fields o hd
    rw [ha, hb, hC] at h
    exact h
  simp only [encode, hc, hr, if_true, decodeWords, decodeInstr, RawWord.ofWord_toWord, hopc, hoff, hfields, buildInstr_code hc hw]

/-- Settles O3: an operand byte names its operand, a field takes its literal, the fields of a word read as written, and the
opcode with its fields builds the instruction; a relative transfer holds its offset where the operands stand. -/
theorem encodeDecodeRoundTrip : Obligations.EncodeDecodeRoundTrip := by
  intro i hc hw
  obtain ⟨⟨o, f, off⟩, hc⟩ := Option.isSome_iff_exists.mp hc
  cases hr : isRelative o with
  | false => exact decode_encode_operands hc hw hr
  | true => exact decode_encode_relative hc hw hr

end Sys2Proof
end

section
/-! Per-lane instructions with one result: an instruction runs as any specification of the same roles whose function has the
same values; the integer functions as arithmetic on the numbers that words stand for (R278 to R280). -/
namespace Sys2Proof.Machine

/-- An instruction that computes one result runs with every function that has the same values. -/
theorem runsAs_alu {ins : Instr} {s : State} {f : Fields} {sg : Sig} {fa : Vals → W64} (fb : Vals → W64)
    (he : exec ins s = laneExec (aluSpec sg fa) f s) (h : ∀ v, fa v = fb v) : RunsAs ins s f (aluSpec sg fb) :=
  runsAs_of ins (aluSpec sg fa) _ f s _ he ⟨rfl, rfl, rfl, rfl, rfl⟩ fun _ _ l f v _ => by simp only [aluSpec, h]

/-- An instruction whose result is a predicate, likewise. -/
theorem runsAs_pred {ins : Instr} {s : State} {f : Fields} {sg : Sig} {fa : Vals → Bool} (fb : Vals → Bool)
    (he : exec ins s = laneExec (predSpec sg fa) f s) (h : ∀ v, fa v = fb v) : RunsAs ins s f (predSpec sg fb) :=
  runsAs_of ins (predSpec sg fa) _ f s _ he ⟨rfl, rfl, rfl, rfl, rfl⟩ fun _ _ l f v _ => by simp only [predSpec, h]

/-- An instruction runs as the specification that its meaning names. -/
theorem runsAs_self {ins : Instr} {s : State} {f : Fields} {sp : LaneSpec} (he : exec ins s = laneExec sp f s) : RunsAs ins s f sp :=
  runsAs_of ins sp sp f s _ he ⟨rfl, rfl, rfl, rfl, rfl⟩ fun _ _ _ _ _ _ => rfl

/-- The high half of a product, of the numbers that the words stand for (R278). -/
theorem mulHigh_eq (signed : Bool) {w : Nat} (a b : BitVec w) :
    mulHigh signed a b = BitVec.ofInt w (intVal signed a * intVal signed b / 2 ^ w) := by
  cases signed with
  | true => simp [mulHigh, intVal]
  | false =>
    have h : ((a.toNat : Int) * b.toNat / 2 ^ w) = ((a.toNat * b.toNat / 2 ^ w : Nat) : Int) := by push_cast; rfl
    simp only [mulHigh, intVal, Bool.false_eq_true, if_false, h, BitVec.ofInt_natCast]

/-- The order of a type is that of the numbers its words stand for. -/
theorem ltBy_eq (signed : Bool) {w : Nat} (a b : BitVec w) : ltBy signed a b = decide (intVal signed a < intVal signed b) := by
  cases signed <;> simp [ltBy, intVal]

theorem minBy_eq (signed : Bool) {w : Nat} (a b : BitVec w) :
    minBy signed a b = if intVal signed b < intVal signed a then b else a := by
  simp only [minBy, ltBy_eq, decide_eq_true_eq]

theorem maxBy_eq (signed : Bool) {w : Nat} (a b : BitVec w) :
    maxBy signed a b = if intVal signed a < intVal signed b then b else a := by
  simp only [maxBy, ltBy_eq, decide_eq_true_eq]

/-- The absolute value is that of the signed number, modulo the width (R278). -/
theorem absBV_eq {w : Nat} (a : BitVec w) : absBV a = BitVec.ofNat w a.toInt.natAbs := by
  have h : BitVec.ofInt w a.toInt = a := BitVec.ofInt_toInt
  cases hm : a.msb with
  | false =>
    have hn : a.toInt = a.toNat := BitVec.toInt_eq_toNat_of_msb hm
    simp [absBV, hm, hn]
  | true =>
    have hn : a.toInt < 0 := BitVec.toInt_neg_of_msb_true hm
    have hi : ((a.toInt.natAbs : Nat) : Int) = -a.toInt := by omega
    rw [absBV, hm, if_pos rfl, ← BitVec.ofInt_natCast, hi, BitVec.ofInt_neg, h]

/-- A sum with carry as its number, when the carry is a bit (R279). -/
theorem addCarry_eq (wide : Bool) (a b c : W64) (hc : c = 0 ∨ c = 1) :
    addCarry wide a b (c == 1) =
      (let w := if wide then 64 else 32
       let t := a.toNat % 2 ^ w + b.toNat % 2 ^ w + c.toNat
       (BitVec.ofNat 64 (t % 2 ^ w), decide (2 ^ w ≤ t))) := by
  rcases hc with rfl | rfl <;> cases wide <;> rfl

/-- IADDC without a poisoned source writes the sum and the carry (R279). -/
theorem writeCarry_clean (cx : Cx) (l : Lane) (f : Fields) (wide : Bool) (r : W64 × Bool) {v : Vals} (h : v.poison = false) :
    writeCarry cx l f wide r v = match f.c with
      | .p n => (match write cx l f.dst wide r.1 false 0 with
        | .done l' fx => .done (l'.setPred n.val r.2) fx
        | o => o)
      | _ => .done l [] := by
  unfold writeCarry
  exact if_neg (by simp [h])

/-- Settles O14: each instruction's function is the arithmetic of the numbers that its words stand for. -/
theorem integerArithmeticResults : Obligations.IntegerArithmeticResults := by
  intro s f
  refine ⟨runsAs_self rfl, runsAs_self rfl, runsAs_self rfl, runsAs_alu (sg := sigBin f (varTI f.var)) _ rfl ?_, runsAs_self rfl,
    runsAs_alu (sg := sigBin f (varTI f.var)) _ rfl ?_, runsAs_alu (sg := sigBin f (varTI f.var)) _ rfl ?_,
    runsAs_alu (sg := sigUn f (f.var == 2 || f.var == 3)) _ rfl ?_, runsAs_self rfl, runsAs_self rfl, ?_⟩
  · intro v
    simp only [op2, mulHigh_eq]
  · intro v
    simp only [op2, minBy_eq]
  · intro v
    simp only [op2, maxBy_eq]
  · intro v
    simp only [op1, absBV_eq]
  · refine runsAs_of _ (iaddcSpec f) _ f s _ rfl ⟨rfl, rfl, rfl, rfl, rfl⟩ ?_
    intro cx i l f' v hv
    simp only [Bool.and_eq_true, Bool.not_eq_true', Bool.or_eq_true, beq_iff_eq] at hv
    change writeCarry cx l f' (isWide f'.var) _ v = _
    rw [addCarry_eq _ _ _ _ hv.2]
    exact writeCarry_clean _ _ _ _ _ hv.1

end Sys2Proof.Machine
end

section
/-! Moves, compares, logic and predicates (R274 to R277, R281 to R288, R296). -/
namespace Sys2Proof.Machine

/-- Two specs that agree on the fields of each repetition, where the lanes meet `ok`, do the same. -/
theorem laneRuns_rep {a b : LaneSpec} (h : a.SameRoles b) (cx : Cx) (f : Fields) (i : Nat)
    (ok : Cx → Nat → Lane → Fields → Vals → Bool)
    (hb : ∀ l r v, ok cx i l (repFields b.sig f r) v = true →
      a.body cx i l (repFields b.sig f r) v = b.body cx i l (repFields b.sig f r) v)
    (hi : i ∈ cx.g.lanes) (hok : lanesMeet cx b f ok = true) :
    laneRuns cx a f i (cx.w.lane i) = laneRuns cx b f i (cx.w.lane i) := by
  have hi' := List.all_eq_true.mp hok i hi
  simp only [Bool.or_eq_true, Bool.not_eq_true'] at hi'
  simp only [laneRuns, h.sig, sources_roles h, valsOf_roles h]
  by_cases hg : (cx.w.lane i).guard (repFields b.sig f (cx.w.lane i).rep) = true
  · simp only [hg, Bool.true_eq_false, false_or] at hi'
    rw [hb _ _ _ hi']
  · simp [hg]

/-- A meaning that is `laneExec` of a spec has the effect of any spec that is the same on the fields of each repetition, where
the lanes meet `ok`. -/
theorem runsAs_ofRep (ins : Instr) (a b : LaneSpec) (f : Fields) (s : State) (ok : Cx → Nat → Lane → Fields → Vals → Bool)
    (he : exec ins s = laneExec a f s) (h : a.SameRoles b)
    (hb : ∀ cx i l r v, ok cx i l (repFields b.sig f r) v = true →
      a.body cx i l (repFields b.sig f r) v = b.body cx i l (repFields b.sig f r) v) : RunsAs ins s f b ok := by
  intro g w hg hw hr hok
  rw [he]
  exact laneExecWith_same a b f _ s h g w hg hw hr fun i hi =>
    laneRuns_rep h (s.cxOf g (poppedWg g b f w) f) f i ok (fun _ _ _ => hb _ _ _ _ _) hi hok

/-- A repetition does not make a field a handle or take it from being one. -/
theorem isHandle_shiftV (o : Operand) (n : Nat) : isHandle (o.shiftV n) = isHandle o := by cases o <;> rfl

theorem isHandle_repFields_dst (sg : Sig) (f : Fields) (r : Nat) : isHandle (repFields sg f r).dst = isHandle f.dst := by
  unfold repFields
  split
  · rfl
  · exact isHandle_shiftV _ _

theorem isHandle_repFields_a (sg : Sig) (f : Fields) (r : Nat) : isHandle (repFields sg f r).a = isHandle f.a := by
  unfold repFields
  split
  · rfl
  · exact isHandle_shiftV _ _

/-- A handle field stands in every repetition. -/
theorem repFields_a_handle (sg : Sig) {f : Fields} {n : Fin 8} (h : f.a = .h n) (r : Nat) : (repFields sg f r).a = .h n := by
  unfold repFields
  split
  · exact h
  · simp only [h, Operand.shiftV]

/-- No effects before those of an outcome. -/
theorem LOut.addFx_nil (o : LOut) : o.addFx [] = o := by
  cases o with
  | wait l fx => cases hp : l.partnered <;> simp [LOut.addFx, hp]
  | _ => rfl

/-- A source that is no handle is written as it is. -/
theorem handleScalar_of_not_handle (cx : Cx) (f : Fields) (i : Nat) (a : W64) (h : isHandle f.a = false) :
    handleScalar cx f i a = (a, []) := by
  unfold handleScalar
  split
  · rename_i ha
    rw [ha] at h
    exact absurd h (by simp [isHandle])
  · rfl

/-- A handle read into a scalar is the value of the lane when the group's lanes that may execute hold it. -/
theorem handleScalar_agree (cx : Cx) (f : Fields) (i : Nat) (a : W64) {n : Fin 8} (h : f.a = .h n)
    (hok : (!f.dst.isScalar || cx.g.lanes.all fun j => cx.w.grpOf j != cx.w.grpOf i || !(cx.w.lane j).live
      || !(cx.w.lane j).guard f || zx ((cx.w.lane j).handle n.val).val == a) = true) : handleScalar cx f i a = (a, []) := by
  unfold handleScalar
  split
  · rename_i m k hd ha
    obtain rfl : n = k := by rw [h] at ha; exact Operand.h.inj ha
    rw [hd] at hok
    simp only [Operand.isScalar, Bool.not_true, Bool.false_or] at hok
    have hall : (cx.g.lanes.all fun j => !(cx.w.grpOf j == cx.w.grpOf i && executes cx (movRead f) f j)
        || zx ((cx.w.lane j).handle n.val).val == a) = true := by
      refine List.all_eq_true.mpr fun j hj => ?_
      have hj := List.all_eq_true.mp hok j hj
      simp only [Bool.or_eq_true, bne, Bool.not_eq_true'] at hj
      simp only [executes, Bool.or_eq_true, Bool.not_eq_true', Bool.and_eq_false_iff]
      rcases hj with ((hj | hj) | hj) | hj
      · exact .inl (.inl hj)
      · exact .inl (.inr (.inl (.inl (.inl hj))))
      · exact .inl (.inr (.inl (.inl (.inr hj))))
      · exact .inr hj
    rw [if_pos hall]
  · rfl

theorem execMov_of_not_handle {f : Fields} (s : State) (h : isHandle f.dst = false) : exec (.mov f) s = laneExec (movSpec f) f s := by
  change execMov f s = _
  simp only [execMov, h, Bool.false_eq_true, if_false]

/-- MOV of a source that is no handle copies it (R275). -/
theorem mov_value (s : State) (f : Fields) (hd : isHandle f.dst = false) (ha : isHandle f.a = false) :
    RunsAs (.mov f) s f (aluSpec (sigUn f (varTL f.var)) fun v => v.a) := by
  refine runsAs_ofRep _ (movSpec f) _ f s _ (execMov_of_not_handle s hd) ⟨?_, rfl, rfl, rfl, rfl⟩ fun cx i l r v _ => ?_
  · simp only [movSpec, movRead, ha, aluSpec, sigUn]
  · have ha' : isHandle (repFields (sigUn f (varTL f.var)) f r).a = false := by rw [isHandle_repFields_a, ha]
    simp only [movSpec, aluSpec, ha', Bool.and_false, Bool.false_eq_true, if_false, handleScalar_of_not_handle, LOut.addFx_nil]
    unfold repFields
    split <;> rfl

/-- MOV of a handle to a register or scalar writes the handle's bits (R275). -/
theorem mov_from_handle (s : State) (f : Fields) (a : Fin 8) (ha : f.a = .h a) (hd : isHandle f.dst = false) :
    RunsAs (.mov f) s f
      { sig := { sigUn f (varTL f.var) with free := true }
        body := fun cx _ l f v =>
          if l.helper && f.dst.isScalar then .done l [] else write cx l f.dst (isWide f.var) v.a v.poison v.tag }
      fun cx i _ f v => !f.dst.isScalar || cx.g.lanes.all fun j => cx.w.grpOf j != cx.w.grpOf i || !(cx.w.lane j).live
        || !(cx.w.lane j).guard f || zx ((cx.w.lane j).handle a.val).val == v.a := by
  refine runsAs_ofRep _ (movSpec f) _ f s _ (execMov_of_not_handle s hd) ⟨?_, rfl, rfl, rfl, rfl⟩ fun cx i l r v hok => ?_
  · simp only [movSpec, movRead, ha, isHandle]
  · have hr := repFields_a_handle { sigUn f (varTL f.var) with free := true } ha r
    simp only [movSpec, handleScalar_agree cx _ i v.a hr hok, LOut.addFx_nil, hr, isHandle, Bool.and_true]

/-- MOV of a handle to a handle copies it as it stands (R275). -/
theorem mov_handle (s : State) (f : Fields) (d : Fin 8) (hd : f.dst = .h d) :
    RunsAs (.mov f) s f
      { sig := { var := f.var == 6, q := f.q == 0, dst := .handle, a := .handle, ta := false }
        body := fun _ _ l f _ => match f.dst, f.a with
          | .h d, .h a => .done { l with h := l.h.set d.val (l.h.getD a.val {}) } []
          | _, _ => .done l [] } := by
  refine runsAs_of _ (movHandleSpec f) _ f s _ ?_ ⟨rfl, rfl, rfl, rfl, rfl⟩ fun cx i l f' v _ => rfl
  change execMov f s = _
  simp only [execMov, hd, isHandle, if_true]

/-- SEL reads the source that its predicate chooses (R276). -/
theorem sel_use (f : Fields) : (selSpec f).use = fun l f => match f.c with
    | .p n => if l.pred n.val then (true, false, true) else (false, true, true)
    | _ => (false, true, true) := by
  funext l f'
  simp only [selSpec, predOf]
  cases f'.c <;> rfl

/-- The compare codes as the order of bit vectors (Table 12-6). -/
theorem icmpHolds_eq (k : Nat) (a b : W64) : icmpHolds k a b =
    (let x := lo32 a
     let y := lo32 b
     match k with
     | 0 => x == y | 1 => x != y | 2 => x.slt y | 3 => x.sle y | 4 => y.slt x | 5 => y.sle x
     | 6 => x.ult y | 7 => x.ule y | 8 => y.ult x | 9 => y.ule x
     | 10 => a == b | 11 => a != b | 12 => a.slt b | 13 => b.sle a | 14 => a.ult b | _ => b.ule a) := by
  match k with
  | 0 | 1 | 2 | 3 | 4 | 5 | 6 | 7 | 8 | 9 | 10 | 11 | 12 | 13 | 14 => rfl
  | _ + 15 => rfl

/-- Settles O15: NOP, MOV in its register and handle forms, SEL, RDSPEC and ICMP, one lemma each. -/
theorem moveSelectAndCompareResults : Obligations.MoveSelectAndCompareResults := by
  intro s f
  refine ⟨runsAs_self rfl, mov_value s f, fun a ha hd => mov_from_handle s f a ha hd, fun d a hd _ => mov_handle s f d hd, ?_, ?_,
    runsAs_pred _ rfl fun v => icmpHolds_eq f.var.toNat v.a v.b⟩
  · exact runsAs_of _ (selSpec f) _ f s _ rfl ⟨rfl, sel_use f, rfl, rfl, rfl⟩ fun _ _ _ _ _ _ => rfl
  · intro w hw
    refine runsAs_self ?_
    obtain ⟨g, hg, hw⟩ := Option.bind_eq_some_iff.mp hw
    exact withGang_eq hg hw _

end Sys2Proof.Machine
end

section
/-! Logic, shifts, bit fields and predicate operations (R282 to R288, R296). -/
namespace Sys2Proof.Machine

/-- What the operand checks say of the fields. -/
theorem check_operands {cx : CheckCtx} {sg : Sig} {f : Fields} (h : check cx sg f = none) :
    sg.dst.ok cx.scal f.dst = true ∧ sg.a.ok cx.scal f.a = true ∧ sg.b.ok cx.scal f.b = true ∧ sg.c.ok cx.scal f.c = true := by
  unfold check at h
  repeat' split at h
  all_goals cases h
  simp_all

/-- A blank source field is no vector register. -/
theorem SRole.blank_shiftV {scal : Nat} {o : Operand} (h : SRole.blank.ok scal o = true) (k : Nat) : o.shiftV k = o := by
  cases o <;> first
    | rfl
    | cases h

theorem DRole.pred_shiftV {scal : Nat} {o : Operand} (h : DRole.pred.ok scal o = true) (k : Nat) : o.shiftV k = o := by
  cases o <;> first
    | rfl
    | cases h

/-- Fields without vector registers are the same in every repetition (R259). -/
theorem repFields_fixed (sg : Sig) {f : Fields} (hd : ∀ k, f.dst.shiftV k = f.dst) (ha : ∀ k, f.a.shiftV k = f.a)
    (hb : ∀ k, f.b.shiftV k = f.b) (hc : ∀ k, f.c.shiftV k = f.c) (r : Nat) : repFields sg f r = f := by
  unfold repFields
  simp only [hd, ha, hb, hc, ite_self]

/-- A ready lane arrives, in a repetition of the same fields as in the first. -/
theorem arrivalStop_readyRep (cx : Cx) (sp : LaneSpec) (f : Fields) (j : Nat) (h : laneReady cx sp f j = true)
    (hf : repFields sp.sig f (cx.w.lane j).rep = f) : arrivalStop cx sp f j (cx.w.lane j) = none := by
  unfold laneReady at h
  simp only [hf, Bool.and_eq_true, Bool.not_eq_true', Option.isNone_iff_eq_none] at h
  obtain ⟨⟨_, hg⟩, hb⟩ := h
  unfold arrivalStop
  split
  · rfl
  · simp only [hg]
    by_cases hgu : (cx.w.lane j).guard f = true
    · simp only [hgu, Bool.not_true, Bool.false_or, Bool.and_eq_true, Bool.not_eq_true', Option.isNone_iff_eq_none] at hb
      simp only [hgu, Bool.not_true, Bool.false_eq_true, if_false, hb.1.1.1.1, hb.1.1.1.2, hb.2]
    · simp [hgu]

/-- In a ready gang the lanes that execute are the live ones whose guard is true. -/
theorem executes_ready {cx : Cx} {sp : LaneSpec} {f : Fields} (h : ∀ j ∈ cx.g.lanes, laneReady cx sp f j = true)
    (hf : ∀ r, repFields sp.sig f r = f) {j : Nat} (hj : j ∈ cx.g.lanes) :
    executes cx sp f j = ((cx.w.lane j).live && (cx.w.lane j).guard f) := by
  have hq : quadUnready cx sp f (j / 4) = false := by
    unfold quadUnready
    rw [Bool.eq_false_iff]
    intro hc
    obtain ⟨k, hk, hkk⟩ := List.any_eq_true.mp hc
    simp [arrivalStop_readyRep cx sp f k (h k hk) (hf _)] at hkk
  simp [executes, hq, arrivalStop_readyRep cx sp f j (h j hj) (hf _)]

/-- A count of the width or more leaves nothing of a shifted word (R283). -/
theorem shiftLeft_guarded {w : Nat} (a : BitVec w) (n : Nat) : (if w ≤ n then 0 else a <<< n) = a <<< n := by
  split
  · rw [BitVec.shiftLeft_eq_zero ‹_›]
    rfl
  · rfl

theorem ushiftRight_guarded {w : Nat} (a : BitVec w) (n : Nat) : (if w ≤ n then 0 else a >>> n) = a >>> n := by
  split
  · rw [BitVec.ushiftRight_eq_zero ‹_›]
    rfl
  · rfl

/-- ELECT's specification in a gang that nothing holds up: true in the lowest live lane whose guard is true (R296). -/
def electLowest (f : Fields) : LaneSpec where
  sig := { var := f.var == 0, q := f.q == 0, dst := .pred }
  body := fun cx i l f _ => match f.dst with
    | .p n => .done (l.setPred n.val ((cx.g.lanes.find? fun j => (cx.w.lane j).live && (cx.w.lane j).guard f) == some i)) []
    | _ => .done l []

theorem electLowest_roles (f : Fields) : (electRead f).SameRoles (electLowest f) := ⟨rfl, rfl, rfl, rfl, rfl⟩

theorem electPick_ready {cx : Cx} {f : Fields} (h : ∀ j ∈ cx.g.lanes, laneReady cx (electLowest f) f j = true)
    (hf : ∀ r, repFields (electLowest f).sig f r = f) : electPick cx f = electLane cx f :=
  find_congr' fun _ hj => executes_ready (sp := electRead f)
    (fun k hk => (laneReady_roles (electLowest_roles f) cx f k).trans (h k hk)) hf hj

theorem electSpec_runs_ready {cx : Cx} {f : Fields} (h : ∀ j ∈ cx.g.lanes, laneReady cx (electLowest f) f j = true)
    (hf : ∀ r, repFields (electLowest f).sig f r = f) (i : Nat) (l : Lane) :
    laneRuns cx (electSpec f) f i l = laneRuns cx (electLowest f) f i l := by
  have hroles : (electSpec f).SameRoles (electLowest f) := ⟨rfl, rfl, rfl, rfl, rfl⟩
  have hbody : ∀ l v, (electSpec f).body cx i l f v = (electLowest f).body cx i l f v := by
    intro l v
    simp only [electSpec, electLowest, electPick_ready h hf]
    cases f.dst <;> rfl
  simp only [laneRuns, hroles.sig, sources_roles hroles, valsOf_roles hroles, hf, hbody]

/-- ELECT runs as `electLowest`. -/
theorem elect_runs (s : State) (f : Fields) : RunsAs (.elect f) s f (electLowest f) := by
  intro g w hg hw hr _
  have hr' := hr
  unfold gangReady at hr'
  simp only [Bool.and_eq_true, Option.isNone_iff_eq_none] at hr'
  obtain ⟨⟨hc, -⟩, hl⟩ := hr'
  obtain ⟨hd, ha, hb, hcc⟩ := check_operands hc
  exact laneExecWith_same (electSpec f) (electLowest f) f (fun _ _ s => s) s ⟨rfl, rfl, rfl, rfl, rfl⟩ g w hg hw hr fun i _ =>
    electSpec_runs_ready (cx := s.cxOf g (poppedWg g (electLowest f) f w) f) (fun j hj => List.all_eq_true.mp hl j hj)
      (repFields_fixed _ (DRole.pred_shiftV hd) (SRole.blank_shiftV ha) (SRole.blank_shiftV hb) (SRole.blank_shiftV hcc)) i _

/-- PLOP's place in its truth table, when its table fits the field (R287). -/
theorem ttBit_eq {q : BitVec 12} {n : Nat} (h : n < 8) : (BitVec.ofNat 8 q.toNat).getLsbD n = q.getLsbD n := by
  simp [h]

theorem plop_runs (s : State) (f : Fields) :
    RunsAs (.plop f) s f (predSpec { var := f.var == 0, q := decide (f.q.toNat < 256), dst := .pred, a := .pred, b := .pred, c := .pred }
      fun v => f.q.getLsbD ((if v.a = 1 then 1 else 0) + (if v.b = 1 then 2 else 0) + (if v.c = 1 then 4 else 0))) := by
  refine runsAs_pred _ rfl fun v => ?_
  unfold ttBit
  simp only [beq_iff_eq]
  refine ttBit_eq ?_
  split <;> split <;> split <;> omega

/-- Settles O16: each instruction's function is the one of the statement; ELECT's lane is the lowest that executes. -/
theorem logicAndPredicateResults : Obligations.LogicAndPredicateResults := by
  refine ⟨fun s f => ⟨runsAs_self rfl, runsAs_self rfl, runsAs_self rfl, runsAs_self rfl,
    runsAs_alu (sg := sigShift f) _ rfl ?_, runsAs_alu (sg := sigShift f) _ rfl ?_, runsAs_self rfl, runsAs_self rfl, runsAs_self rfl,
    runsAs_self rfl, runsAs_self rfl, runsAs_self rfl, runsAs_self rfl, runsAs_self rfl⟩, fun s f => ⟨plop_runs s f,
    runsAs_self rfl, runsAs_self rfl, elect_runs s f⟩⟩
  · intro v
    simp only [op1, shiftLeft_guarded]
  · intro v
    simp only [op1, ushiftRight_guarded]

end Sys2Proof.Machine
end

section
/-! Control transfers, waits and group-wide questions (R249, R289 to R294, R296 to R298). -/
namespace Sys2Proof.Machine

/-- A target that is aligned and carries no poison is taken (R249, R273). -/
theorem registerTarget_ok {l : Lane} {v : Vals} (k : LOut) (hp : v.pa = false) (ha : v.a.toNat % 8 = 0) : registerTarget l v k = k := by
  have hb : bits v.a 2 0 = 0 := by simpa [bits] using ha
  simp [registerTarget, hp, hb]

/-- A CALL that finds room in the window goes (R182). -/
theorem callTo_ok {cx : Cx} {l : Lane} (t : W64) (hw : l.d < l.lo + 2) (hb : callBusy l = false) :
    callTo cx l t = .go ((l.slide cx.free (returnWord cx.g.after)).jump t) [] := by
  simp [callTo, hb, Nat.not_le.mpr hw]

/-- Settles O17: a branch, call or return whose target and window are good is the transfer of the statement; the other
instructions run as they stand. -/
theorem controlTransfersAndWaits : Obligations.ControlTransfersAndWaits := by
  refine ⟨fun s f off => ⟨runsAs_self rfl, ?_, ?_, ?_, ?_, runsAs_self rfl⟩,
    fun s f => ⟨runsAs_self rfl, runsAs_self rfl, ?_, runsAs_self rfl⟩⟩
  case refine_1 =>
    refine runsAs_of _ (brxSpec f) _ f s _ rfl ⟨rfl, rfl, rfl, rfl, rfl⟩ fun cx i l f' v hv => ?_
    simp only [Bool.and_eq_true, Bool.not_eq_true', beq_iff_eq] at hv
    exact registerTarget_ok _ hv.1 hv.2
  case refine_2 =>
    refine runsAs_of _ (callSpec f off) _ f s _ rfl ⟨rfl, rfl, rfl, rfl, rfl⟩ fun cx i l f' v hv => ?_
    simp only [Bool.and_eq_true, Bool.not_eq_true', decide_eq_true_eq] at hv
    exact callTo_ok _ hv.1 hv.2
  case refine_3 =>
    refine runsAs_of _ (callxSpec f) _ f s _ rfl ⟨rfl, rfl, rfl, rfl, rfl⟩ fun cx i l f' v hv => ?_
    simp only [Bool.and_eq_true, Bool.not_eq_true', decide_eq_true_eq, beq_iff_eq] at hv
    obtain ⟨⟨⟨hw, hb⟩, hp⟩, ha⟩ := hv
    exact (if_neg (Nat.not_le.mpr hw)).trans ((registerTarget_ok _ hp ha).trans (callTo_ok _ hw hb))
  case refine_4 =>
    refine runsAs_of _ (retSpec f) _ f s _ rfl ⟨rfl, rfl, rfl, rfl, rfl⟩ fun cx i l f' v hv => ?_
    simp only [Bool.and_eq_true, Bool.not_eq_true', bne_iff_ne] at hv
    obtain ⟨⟨hd, hlo⟩, hp⟩ := hv
    exact (if_neg hd).trans ((if_neg hlo).trans (if_neg (by simp [hp])))
  case refine_5 =>
    refine runsAs_of _ (dozeSpec f) _ f s _ rfl ⟨rfl, rfl, rfl, rfl, rfl⟩ fun cx i l f' v hv => ?_
    have hz : min (lo32 v.a).toNat (2 ^ 20) = 0 ↔ lo32 v.a = 0 := by
      rw [← BitVec.toNat_inj]
      simp
    simp only [Bool.not_eq_true'] at hv
    simp only [dozeSpec, hv, Bool.false_eq_true, if_false, hz]

/-! ### Votes -/

/-- A group-wide instruction has the results of any specification equal to its own. -/
theorem groupAs_eq {ins : Instr} {a b : GroupSpec} {f : Fields} {s : State} (he : exec ins s = groupExec a f s) (h : a = b) :
    GroupAs ins s f b :=
  h ▸ groupAs_of ins a f s he

/-- The members that vote true, by their contributions. -/
theorem votes_eq (x : GroupCx) : votes x = (List.range x.count).filter fun j => (x.contrib j).map (·.a) == some 1 := by
  unfold votes
  congr 1
  funext j
  cases x.contrib j <;> rfl

theorem voteAllOf_eq (x : GroupCx) :
    bit64 (voteAllOf x) = if ∀ j < x.count, ∀ v, x.contrib j = some v → v.a = 1 then 1 else 0 := by
  have h : voteAllOf x = true ↔ ∀ j < x.count, ∀ v, x.contrib j = some v → v.a = 1 := by
    simp only [voteAllOf, List.all_eq_true, List.mem_range]
    refine forall_congr' fun j => imp_congr_right fun _ => ?_
    cases x.contrib j <;> simp
  simp only [bit64, h]

theorem voteAny_eq (x : GroupCx) :
    bit64 (!(votes x).isEmpty) = if ∃ j < x.count, (x.contrib j).map (·.a) = some 1 then 1 else 0 := by
  have h : (!(votes x).isEmpty) = true ↔ ∃ j < x.count, (x.contrib j).map (·.a) = some 1 := by
    rw [votes_eq]
    simp [List.filter_eq_nil_iff]
  simp only [bit64, h]

/-- Settles O19: each result is that of the members' contributions. -/
theorem voteAndMatchResults : Obligations.VoteAndMatchResults := by
  intro s f
  refine ⟨groupAs_eq (a := voteAllSpec f) rfl ?_, groupAs_eq (a := voteAnySpec f) rfl ?_, groupAs_eq (a := voteBallotSpec f) rfl ?_,
    groupAs_eq (a := voteCountSpec f) rfl ?_, groupAs_of _ (matchSpec f) f s rfl⟩
  · simp only [voteAllSpec, voteAllOf_eq]
  · simp only [voteAnySpec, voteAny_eq]
  · simp only [voteBallotSpec, votes_eq, entryBit]
  · simp only [voteCountSpec, votes_eq]

end Sys2Proof.Machine
end

section
/-! Floating-point arithmetic, conversions, packed formats and exchanges between lanes (R304 to R322). -/
namespace Sys2Proof.Machine

/-- Settles O20: each instruction runs as it stands. -/
theorem floatingArithmeticResults : Obligations.FloatingArithmeticResults := fun _ _ =>
  ⟨runsAs_self rfl, runsAs_self rfl, runsAs_self rfl, runsAs_self rfl, runsAs_self rfl, runsAs_self rfl, runsAs_self rfl,
    runsAs_self rfl, runsAs_self rfl, runsAs_self rfl, runsAs_self rfl, runsAs_self rfl⟩

/-- CVTF keeps the bits of a value of its own format that is no NaN (R310). -/
theorem cvtfOf_eq (d c : Nat) (mode : Mode) (sat : Bool) (a : W32) :
    cvtfOf d c mode sat a =
      (let x := a.toNat % 2 ^ ((fmtOf c).width + 1)
       BitVec.ofNat 32 (if d = c ∧ (fmtOf c).decode x ≠ .nan then x else (fmtOf d).convert mode sat ((fmtOf c).decode x))) := by
  simp only [cvtfOf, fmtBits, Bool.and_eq_true, decide_eq_true_eq, bne_iff_ne]

/-- The limits of CVTFI are those of its integer type (R311). -/
theorem cvtfiOf_eq (c : Nat) (var : BitVec 4) (mode : Mode) (a : W32) :
    cvtfiOf c (var == 2) mode a =
      (let x := (fmtOf c).decode (a.toNat % 2 ^ ((fmtOf c).width + 1))
       BitVec.ofInt 32 (if var = 2 then x.toInt mode (-2147483648) 2147483647 else x.toInt mode 0 4294967295)) := by
  simp only [cvtfiOf, fmtBits, intRange, beq_iff_eq]
  split <;> rfl

/-- A register as a number of its type is `intVal` in the form's width. -/
theorem intOf_eq (var : BitVec 4) (x : W64) :
    intOf var x = if isWide var then intVal (isSigned var) x else intVal (isSigned var) (lo32 x) := rfl

/-- Settles O22: conversions by the lemmas above, special functions as they stand. -/
theorem conversionResults : Obligations.ConversionResults := by
  intro s f
  refine ⟨?_, ?_, ?_, runsAs_self rfl, runsAs_self rfl, runsAs_self rfl, runsAs_self rfl, runsAs_self rfl⟩
  · exact runsAs_alu (sg := (cvtfSpec f s.overcast).sig) _ rfl fun v => congrArg zx (cvtfOf_eq _ _ _ _ _)
  · exact runsAs_alu (sg := (cvtfiSpec f s.overcast).sig) _ rfl fun v => congrArg zx (cvtfiOf_eq _ _ _ _)
  · exact runsAs_alu (sg := (cvtifSpec f s.overcast).sig) _ rfl fun v => by rw [intOf_eq]

/-! ### Packed formats -/

/-- A fold that adds is the sum of what it adds. -/
theorem foldl_add_eq_sum {α : Type} (g : α → Int) (l : List α) (c : Int) :
    l.foldl (fun acc i => acc + g i) c = c + (l.map g).sum := by
  induction l generalizing c with
  | nil => simp
  | cons a l ih => simp only [List.foldl_cons, ih, List.map_cons, List.sum_cons, Int.add_assoc]

/-- The integer dot product of eight-bit elements (R315). -/
theorem idot_eq4 (sat : Bool) (a b c : W32) : idot sat 4 8 4 a b c =
    (let x := c.toInt + ((List.range 4).map fun i => (BitVec.ofNat 8 (elemAt 8 i a)).toInt * (BitVec.ofNat 8 (elemAt 8 i b)).toInt).sum
     BitVec.ofInt 32 (if sat then max (-2 ^ 31) (min (2 ^ 31 - 1) x) else x)) := by
  simp only [idot, idotSum, foldl_add_eq_sum]

/-- The integer dot product of four-bit elements (R315). -/
theorem idot_eq8 (sat : Bool) (a b c : W32) : idot sat 8 4 5 a b c =
    (let x := c.toInt + ((List.range 8).map fun i => (BitVec.ofNat 4 (elemAt 4 i a)).toInt * (BitVec.ofNat 4 (elemAt 4 i b)).toInt).sum
     BitVec.ofInt 32 (if sat then max (-2 ^ 31) (min (2 ^ 31 - 1) x) else x)) := by
  simp only [idot, idotSum, foldl_add_eq_sum]

/-- Settles O23: the dot products by the sums above, the others as they stand. -/
theorem packedFormatResults : Obligations.PackedFormatResults := by
  refine ⟨fun s f => ⟨runsAs_self rfl, runsAs_self rfl, ?_, ?_⟩, fun s f => ⟨runsAs_self rfl, runsAs_self rfl, ?_, ?_, ?_⟩⟩
  · exact runsAs_of _ (unpk8Spec f s.overcast) _ f s _ rfl ⟨rfl, rfl, rfl, rfl, rfl⟩ fun _ _ _ _ _ _ => rfl
  · exact runsAs_of _ (unpk4Spec f s.overcast) _ f s _ rfl ⟨rfl, rfl, rfl, rfl, rfl⟩ fun _ _ _ _ _ _ => rfl
  · exact runsAs_alu (sg := sigTri32 (decide (f.var.toNat < 2))) _ rfl fun v => congrArg zx (idot_eq4 _ _ _ _)
  · exact runsAs_alu (sg := sigTri32 (decide (f.var.toNat < 2))) _ rfl fun v => congrArg zx (idot_eq8 _ _ _ _)
  · exact runsAs_alu (sg := sigTri32 (f.var == 9 || f.var == 10)) _ rfl fun v => by
      simp only [fop3, pfmaOf, pfmaHalf, beq_iff_eq, Nat.reducePow]

/-! ### Exchanges between lanes -/

/-- Settles O24: LPERM by the cases of the lane that gives, the others as they stand. -/
theorem laneExchangeResults : Obligations.LaneExchangeResults := by
  intro s f
  refine ⟨groupAs_of _ (lshflSpec f) f s rfl, ?_, runsAs_self rfl, runsAs_self rfl, groupAs_of _ (gredSpec f) f s rfl,
    groupAs_of _ (gscanSpec f) f s rfl, groupAs_of _ (v2sSpec f) f s rfl⟩
  refine runsAs_of _ (lpermSpec f) _ f s _ rfl ⟨rfl, rfl, rfl, rfl, rfl⟩ fun cx i l f' v _ => ?_
  simp only [lpermSpec, moved]
  cases lpermGives cx f' i (lo32 v.b).toNat with
  | some u => rfl
  | none => cases hq : f'.q.getLsbD 0 <;> simp

end Sys2Proof.Machine
end

section
/-! Loads, stores, updates, spills, fences and maintenance that nothing holds up (R299, R324 to R337). -/
namespace Sys2Proof.Machine

/-- An address that is aligned and carries no poison lets the access go on (R324, R326). -/
theorem addressed_ok {l : Lane} {v : Vals} {va : W64} {n : Nat} (k : LOut) (hp : v.poison = false) (ha : va.toNat % n = 0) :
    addressed l v va n k = k := by
  simp [addressed, hp, ha]

/-- What `accessOk` says of a lane that is no helper. -/
theorem accessOk_lane {l : Lane} {p : Bool} {va : W64} {n : Nat} {ok : Bool} (h : accessOk l p va n ok = true)
    (hl : l.helper = false) : p = false ∧ va.toNat % n = 0 ∧ ok = true := by
  simpa [accessOk, hl, and_assoc] using h

/-- A load that is not held, and that no store of the lane serves, is the load at its place. -/
theorem loadLane_ok {s : State} {cx : Cx} {i : Nat} {va : W64} {n : Nat} {l0 : Lane} (h : loadFree s cx i l0 va n = true)
    (l : Lane) (d : Dest) (signed acq : Bool) (scope : Nat) :
    loadLane s cx i l d va n signed acq scope = loadOut s cx i l d va n signed acq scope (s.target cx.w i l va va .read) := by
  simp only [loadFree, Bool.and_eq_true, Bool.not_eq_true', Option.isNone_iff_eq_none] at h
  obtain ⟨⟨hf, hm⟩, -⟩ := h
  simp only [loadLane, hf, ite_self, hm, Bool.false_eq_true, if_false]

/-- A store finds room in the store queue. -/
theorem queued_ok {s : State} {cx : Cx} {l : Lane} (o : LOut) (h : s.ms.queueFull cx.w.core = false) : queued s cx l o = o := by
  cases o <;> simp [queued, h]

/-- A store that is not held is the store at its place. -/
theorem storeLane_ok {s : State} {cx : Cx} {i : Nat} {va : W64} {l0 : Lane} {rel : Bool} {scope : Nat}
    (h : storeFree s cx i l0 va rel scope = true) (l : Lane) (n : Nat) (data : W64) (p : Bool) (tag : W64) :
    storeLane s cx i l va n data p tag rel scope =
      storeOut s cx i l va n data p tag rel scope (s.target cx.w i l va va .write) := by
  simp only [storeFree, Bool.and_eq_true, Bool.not_eq_true'] at h
  obtain ⟨⟨⟨hm, hr⟩, hq⟩, -⟩ := h
  simp only [storeLane, hm, hr, Bool.or_self, Bool.false_eq_true, if_false, queued_ok _ hq]

/-- An update that is not held is the update at its place. -/
theorem updateLane_ok {s : State} {cx : Cx} {i : Nat} {va : W64} {l0 : Lane} {f : Fields} (h : updateFree s cx i l0 f va = true)
    (l : Lane) (d : Dest) (k : AccKind) (n : Nat) (data cmp : W64) (p : Bool) (tag : W64) (t : Target) :
    updateLane s cx i l f d k va n data cmp p tag t = updateOut s cx i l f d k va n data cmp p tag t := by
  simp only [updateFree, Bool.and_eq_true, Bool.not_eq_true'] at h
  obtain ⟨⟨hm, hr⟩, -⟩ := h
  simp only [updateLane, hm, hr, Bool.or_self, Bool.false_eq_true, if_false]

/-- A stash access that is not held, in a gang whose lanes wait for no tile, goes to its place (R328). -/
theorem stashLane_ok {s : State} {cx : Cx} {i : Nat} {l : Lane} {va : W64} {k : Access} {waits : Bool}
    (h : stashFree s cx i l va k waits = true) (out : Target → LOut) :
    stashLane s cx i l va k waits out = out (s.stashTarget cx.w i l va k) := by
  simp only [stashFree, Bool.and_eq_true, Bool.not_eq_true'] at h
  obtain ⟨⟨hm, hw⟩, -⟩ := h
  simp only [stashLane, hm, hw, Bool.false_eq_true, if_false]
  cases s.stashTarget cx.w i l va k <;> rfl

/-- An access inside the lane's own space, aligned and without poison (R330). -/
theorem privately_ok {s : State} {cx : Cx} {l : Lane} {v : Vals} {o : W64} {n : Nat} (k : LOut) (hp : v.poison = false)
    (ha : o.toNat % n = 0) (hs : o.toNat < (s.nodeOf cx.w).launch.priv.toNat) : privately s cx l v o n k = k := by
  rw [privately, addressed_ok _ hp ha, if_neg (Nat.not_le.mpr hs)]

/-! ### Loads -/

/-- When no lane of the gang stays at an LDU, it is a read by every executing lane (R329). -/
theorem lduReaders_all {s : State} {cx : Cx} {f : Fields} {v : Vals}
    (h : (cx.g.lanes.all fun j => !((cx.w.lane j).live && (cx.w.lane j).guard f) || !(lduLane s cx j (cx.w.lane j) f v).stays) = true) :
    lduReaders s cx f v = cx.g.lanes.filter fun j => (cx.w.lane j).live && (cx.w.lane j).guard f := by
  unfold lduReaders
  refine List.filter_congr fun i _ => ?_
  have hn : (cx.g.lanes.any fun j => j / 4 == i / 4 && (cx.w.lane j).live && (cx.w.lane j).guard f
      && (lduLane s cx j (cx.w.lane j) f v).stays) = false := by
    refine List.any_eq_false.mpr fun j hj => ?_
    have hj := List.all_eq_true.mp h j hj
    simp only [Bool.or_eq_true, Bool.not_eq_true', Bool.and_eq_false_iff] at hj
    simp only [Bool.and_eq_true, not_and]
    rintro ⟨⟨-, hlive⟩, hg⟩
    rcases hj with (hj | hj) | hj <;> simp_all
  simp only [hn, Bool.not_false, Bool.and_true]

theorem lduLead_all {s : State} {cx : Cx} {f : Fields} {v : Vals}
    (h : (cx.g.lanes.all fun j => !((cx.w.lane j).live && (cx.w.lane j).guard f) || !(lduLane s cx j (cx.w.lane j) f v).stays) = true) :
    lduLead s cx f v = electLane cx f := by
  rw [lduLead, lduReaders_all h, List.head?_filter]
  rfl

/-- Settles O25: each load's lane is no helper and not held, so it is the load at its place. -/
theorem loadResults : Obligations.LoadResults := by
  intro s f
  refine ⟨runsAs_of _ (ldSpec s f) _ f s _ rfl ⟨rfl, rfl, rfl, rfl, rfl⟩ ?ld, runsAs_of _ (ldsSpec s f) _ f s _ rfl ⟨rfl, rfl, rfl, rfl, rfl⟩ ?lds,
    runsAs_of _ (lduSpec s f) _ f s _ rfl ⟨rfl, rfl, rfl, rfl, rfl⟩ ?ldu, runsAs_of _ (ldlSpec s f) _ f s _ rfl ⟨rfl, rfl, rfl, rfl, rfl⟩ ?ldl⟩
  all_goals
    intro cx i l f v hok
    cases hl : l.helper
  case ld.true => simp only [ldSpec, hl, if_true, helperZero]
  case ld.false =>
    obtain ⟨hp, ha, hf⟩ := accessOk_lane hok hl
    simp only [ldSpec, hl, Bool.false_eq_true, if_false, addressed_ok _ hp ha, loadLane_ok hf]
  case lds.true => simp only [ldsSpec, hl, if_true, helperZero]
  case lds.false =>
    obtain ⟨hp, ha, hf⟩ := accessOk_lane hok hl
    simp only [ldsSpec, hl, Bool.false_eq_true, if_false, addressed_ok _ hp ha, stashLane_ok hf]
  case ldu.true => simp only [lduSpec, hl, if_true]
  case ldu.false =>
    obtain ⟨hacc, hall⟩ := Bool.and_eq_true_iff.mp hok
    obtain ⟨hp, ha, hf⟩ := accessOk_lane hacc hl
    simp only [loadFree, Bool.and_eq_true, Bool.not_eq_true'] at hf
    simp only [lduSpec, hl, Bool.false_eq_true, if_false, lduReaders_all hall, lduLead_all hall, lduLane, addressed_ok _ hp ha, hf.1.2] <;> rfl
  case ldl.true => simp only [ldlSpec, hl, if_true, helperZero]
  case ldl.false =>
    obtain ⟨hp, ha, hf⟩ := accessOk_lane hok hl
    simp only [Bool.and_eq_true, decide_eq_true_eq, Bool.or_eq_true, bne_iff_ne] at hf
    obtain ⟨⟨hs, hlo⟩, hhi⟩ := hf
    simp only [ldlSpec, hl, Bool.false_eq_true, if_false, privately_ok _ hp ha hs]
    by_cases h8 : typeWidth f.var = 8
    · simp only [h8, if_true] at hlo
      have hhi := hhi.resolve_left (fun h => h h8)
      simp only [h8, if_true, loadLane_ok hlo, loadLane_ok hhi] <;> rfl
    · simp only [h8, if_false] at hlo ⊢
      exact loadLane_ok hlo _ _ _ _ _

end Sys2Proof.Machine
end

section
/-! Stores, spills and fills, prefetches, fences, maintenance and atomics that nothing holds up (R183, R326 to R337). -/
namespace Sys2Proof.Machine

/-- Settles O26: each store's lane is a helper, which does nothing, or is not held, so that it is the store at its place. -/
theorem storeResults : Obligations.StoreResults := by
  intro s f
  refine ⟨runsAsWith_of _ (stSpec s f) _ f _ s _ rfl ⟨rfl, rfl, rfl, rfl, rfl⟩ ?st,
    runsAsWith_of _ (stsSpec s f) _ f _ s _ rfl ⟨rfl, rfl, rfl, rfl, rfl⟩ ?sts,
    runsAsWith_of _ (stlSpec s f) _ f _ s _ rfl ⟨rfl, rfl, rfl, rfl, rfl⟩ ?stl⟩
  all_goals
    intro cx i l f v hok
    cases hl : l.helper
  case st.true => simp only [stSpec, hl, if_true]
  case st.false =>
    obtain ⟨hp, ha, hf⟩ := accessOk_lane hok hl
    simp only [stSpec, hl, Bool.false_eq_true, if_false, addressed_ok _ hp ha, storeLane_ok hf, dataVal, dataPoison]
  case sts.true => simp only [stsSpec, hl, if_true]
  case sts.false =>
    obtain ⟨hp, ha, hf⟩ := accessOk_lane hok hl
    simp only [Bool.and_eq_true, Bool.not_eq_true'] at hf
    simp only [stsSpec, hl, Bool.false_eq_true, if_false, addressed_ok _ hp ha, stashLane_ok hf.2, queued_ok _ hf.1, dataVal, dataPoison]
  case stl.true => simp only [stlSpec, hl, if_true]
  case stl.false =>
    obtain ⟨hp, ha, hf⟩ := accessOk_lane hok hl
    simp only [Bool.and_eq_true, decide_eq_true_eq, Bool.or_eq_true, bne_iff_ne] at hf
    obtain ⟨⟨hs, hlo⟩, hhi⟩ := hf
    simp only [stlSpec, hl, Bool.false_eq_true, if_false, privately_ok _ hp ha hs, storeLane_ok hlo, dataVal, dataPoison]
    by_cases h8 : typeWidth f.var = 8
    · simp only [h8, if_true, storeLane_ok (hhi.resolve_left fun h => h h8)]
    · simp only [h8, if_false]

/-! ### Updates -/

theorem atom_runs (s : State) (f : Fields) : RunsAs (.atom f) s f
    { sig := { var := varTA f.var, q := qmOk [0, 1, 2, 3] 5 true 2 true true f.q, dst := .dst (isWide f.var)
               a := .base (qmWb f.q), b := .src false, c := .src (isWide f.var), unit := 3 }
      body := fun cx i l f v =>
        if l.helper then write cx l f.dst (isWide f.var) 0 false 0
        else updateOut s cx i l f (destOf cx.w i l f.dst (isWide f.var)) (.atom (qmOp f.q) f.var.toNat (localScope f)) (atomAddr f v)
          (typeWidth f.var) v.c 0 v.pc (f.c.toByte.zeroExtend 64) (s.target cx.w i l (atomAddr f v) (atomAddr f v) .both) }
    (fun cx i l f v => accessOk l (v.pa || v.pb) (atomAddr f v) (typeWidth f.var) (updateFree s cx i l f (atomAddr f v))) := by
  refine runsAs_of _ (atomSpec s f) _ f s _ rfl ⟨rfl, rfl, rfl, rfl, rfl⟩ fun cx i l f v hok => ?_
  cases hl : l.helper with
  | true => simp only [atomSpec, hl, if_true, helperZero]
  | false =>
    obtain ⟨hp, ha, hf⟩ := accessOk_lane hok hl
    simp only [atomSpec, hl, Bool.false_eq_true, if_false]
    rw [addressed_ok _ (by simpa [Vals.poison] using hp) ha, updateLane_ok hf]

theorem atomcas_runs (s : State) (f : Fields) : RunsAs (.atomcas f) s f
    { sig := { var := varTI f.var, q := qmOk [0, 1, 2, 3] 5 true 0 false true f.q, dst := .dst (isWide f.var)
               a := .base (qmWb f.q), b := .src (isWide f.var), c := .src (isWide f.var), unit := 3 }
      body := fun cx i l f v =>
        if l.helper then write cx l f.dst (isWide f.var) 0 false 0
        else updateOut s cx i l f (destOf cx.w i l f.dst (isWide f.var)) (.cas (localScope f)) (memBase f v) (typeWidth f.var) v.c v.b (v.pb || v.pc)
          ((if v.pb then f.b else f.c).toByte.zeroExtend 64) (s.target cx.w i l (memBase f v) (memBase f v) .both) }
    (fun cx i l f v => accessOk l v.pa (memBase f v) (typeWidth f.var) (updateFree s cx i l f (memBase f v))) := by
  refine runsAs_of _ (atomcasSpec s f) _ f s _ rfl ⟨rfl, rfl, rfl, rfl, rfl⟩ fun cx i l f v hok => ?_
  cases hl : l.helper with
  | true => simp only [atomcasSpec, hl, if_true, helperZero]
  | false =>
    obtain ⟨hp, ha, hf⟩ := accessOk_lane hok hl
    simp only [atomcasSpec, hl, Bool.false_eq_true, if_false]
    rw [addressed_ok _ (by simpa [Vals.poison] using hp) ha, updateLane_ok hf]

theorem red_runs (s : State) (f : Fields) : RunsAs (.red f) s f
    { sig := { sigMem f (qmOk [0, 2] 5 true 2 true true f.q) (.data (isWide f.var)) with var := varTA f.var }
      more := dataSource
      body := fun cx i l f v =>
        if l.helper then .done l []
        else updateOut s cx i l f .none (.red (qmOp f.q) f.var.toNat) (memAddr f v) (typeWidth f.var) (srcVal cx i l f.dst (isWide f.var) 0) 0
          (srcPoison cx i l f.dst (isWide f.var)) (f.dst.toByte.zeroExtend 64) (s.target cx.w i l (memAddr f v) (memAddr f v) .both) }
    (fun cx i l f v => accessOk l v.poison (memAddr f v) (typeWidth f.var)
      (!s.ms.queueFull cx.w.core && updateFree s cx i l f (memAddr f v))) := by
  refine runsAs_of _ (redSpec s f) _ f s _ rfl ⟨rfl, rfl, rfl, rfl, rfl⟩ fun cx i l f v hok => ?_
  cases hl : l.helper with
  | true => simp only [redSpec, hl, if_true]
  | false =>
    obtain ⟨hp, ha, hf⟩ := accessOk_lane hok hl
    simp only [Bool.and_eq_true, Bool.not_eq_true'] at hf
    simp only [redSpec, hl, Bool.false_eq_true, if_false, addressed_ok _ hp ha, queued_ok _ hf.1, updateLane_ok hf.2, dataVal, dataPoison]

theorem atoms_runs (s : State) (f : Fields) : RunsAs (.atoms f) s f
    { sig := { var := varTA f.var, q := qmOk [0, 1, 2, 3] 2 true 2 true true f.q, dst := .dst (isWide f.var)
               a := .base (qmWb f.q), b := .src false, c := .src (isWide f.var), unit := 3 }
      body := fun cx i l f v =>
        if l.helper then write cx l f.dst (isWide f.var) 0 false 0
        else updateOut s cx i l f (destOf cx.w i l f.dst (isWide f.var)) (.atom (qmOp f.q) f.var.toNat false) (atomAddr f v)
          (typeWidth f.var) v.c 0 v.pc (f.c.toByte.zeroExtend 64) (s.stashTarget cx.w i l (atomAddr f v) .both) }
    (fun cx i l f v => accessOk l (v.pa || v.pb) (atomAddr f v) (typeWidth f.var)
      (!(qmRel f.q && s.ms.releaseWaits cx.w.id i (qmScope f.q)) && stashFree s cx i l (atomAddr f v) .both
        (tilesWait s cx (readOnly (sigAtoms f) fun _ => []) f .both (atomAddr f)))) := by
  refine runsAs_of _ (atomsSpec s f) _ f s _ rfl ⟨rfl, rfl, rfl, rfl, rfl⟩ fun cx i l f v hok => ?_
  cases hl : l.helper with
  | true => simp only [atomsSpec, hl, if_true, helperZero]
  | false =>
    obtain ⟨hp, ha, hf⟩ := accessOk_lane hok hl
    obtain ⟨hr, hf⟩ := Bool.and_eq_true_iff.mp hf
    simp only [Bool.not_eq_true'] at hr
    simp only [atomsSpec, hl, Bool.false_eq_true, if_false]
    rw [addressed_ok _ (by simpa [Vals.poison] using hp) ha, if_neg (by simp [hr]), stashLane_ok hf]

/-! ### What an update leaves (R72, Table 3-6) -/

/-- An operand of eight bytes is taken whole. -/
theorem toNat_mod_eight (x : W64) : x.toNat % 2 ^ (8 * 8) = x.toNat := Nat.mod_eq_of_lt x.isLt

/-- An operand of four bytes is its low word. -/
theorem zx_toNat_mod_four (b : BitVec 32) : (zx b).toNat % 2 ^ (8 * 4) = b.toNat := by
  have := b.isLt
  simp only [zx, BitVec.toNat_setWidth]
  omega

theorem toNat_minBy {w : Nat} (a b : BitVec w) : (minBy false a b).toNat = min a.toNat b.toNat := by
  simp only [minBy, ltBy, Bool.false_eq_true, if_false, decide_eq_true_eq]
  split <;> omega

theorem toNat_maxBy {w : Nat} (a b : BitVec w) : (maxBy false a b).toNat = max a.toNat b.toNat := by
  simp only [maxBy, ltBy, Bool.false_eq_true, if_false, decide_eq_true_eq]
  split <;> omega

theorem adder_eight (op : Nat) (x y : W64) (signed : Bool) :
    adder op (if signed then 3 else 7) x.toNat y.toNat =
      (match op with | 0 => x + y | 1 => minBy signed x y | _ => maxBy signed x y).toNat := by
  cases signed <;> simp [adder] <;> rfl

theorem adder_four (op : Nat) (a b : BitVec 32) (signed : Bool) :
    adder op (if signed then 2 else 6) a.toNat b.toNat =
      (match op with | 0 => a + b | 1 => minBy signed a b | _ => maxBy signed a b).toNat := by
  cases signed <;> simp [adder] <;> rfl

/-- Settles O28: the updates as above, what they leave by the adder's operation in its width. -/
theorem atomicUpdateResults : Obligations.AtomicUpdateResults := by
  refine ⟨fun s f => ⟨atom_runs s f, atomcas_runs s f, red_runs s f, atoms_runs s f⟩, fun x y data cmp a b => ?_⟩
  refine ⟨fun _ _ _ _ _ => rfl, ?_, ?_, ?_, ?_, ?_, ?_, ?_, ?_, ?_, ?_⟩
  case refine_1 => simp only [updated, toNat_mod_eight]; exact congrArg some (adder_eight 0 x y true)
  case refine_2 => simp only [updated, toNat_mod_eight]; exact congrArg some (adder_eight 0 x y false)
  case refine_3 =>
    simp only [updated, toNat_mod_eight]
    refine congrArg some ((adder_eight 1 x y true).trans ?_)
    simp [minBy, ltBy]
  case refine_4 =>
    simp only [updated, toNat_mod_eight]
    exact congrArg some ((adder_eight 2 x y false).trans (toNat_maxBy x y))
  case refine_5 => simp only [updated, zx_toNat_mod_four]; exact congrArg some (adder_four 0 a b true)
  case refine_6 =>
    simp only [updated, zx_toNat_mod_four]
    exact congrArg some ((adder_four 1 a b false).trans (toNat_minBy a b))
  case refine_7 =>
    simp only [updated, zx_toNat_mod_four]
    refine congrArg some ((adder_four 2 a b true).trans ?_)
    simp [maxBy, ltBy]
  case refine_8 => simp only [updated, zx_toNat_mod_four]; rfl
  case refine_9 =>
    intro loc
    simp only [updated, toNat_mod_eight, if_true]
  case refine_10 =>
    intro loc h
    have hne : ¬ x.toNat = cmp.toNat := fun he => h (BitVec.eq_of_toNat_eq he)
    have hu : updated (.cas loc) 8 x.toNat data cmp = none := by simp only [updated, toNat_mod_eight, if_neg hne]
    refine ⟨hu, ?_, ?_⟩ <;> (unfold resulting; rw [hu]) <;> rfl

end Sys2Proof.Machine
end

section
/-! Prefetches, fences, maintenance, spills and fills that nothing holds up (R183, R299, R331, R336, R337). -/
namespace Sys2Proof.Machine

/-- VAR of a FENCE: what releases and what acquires (R336). -/
theorem fence_var : ∀ x : BitVec 4, x.toNat < 4 →
    (((x != 0) = true ↔ x = 1 ∨ x = 2 ∨ x = 3) ∧ ((x != 1) = true ↔ x = 0 ∨ x = 2 ∨ x = 3)) := by decide

/-- FENCE of a lane whose ordered accesses are performed (R134 to R136). -/
theorem fence_body (s : State) (f0 : Fields) (cx : Cx) (i : Nat) (l : Lane) (f : Fields) (v : Vals) (hv : f.var.toNat < 4)
    (h : (l.helper || !(s.ms.maintPending cx.w.id i
      || (s.ms.acc.any fun a => a.ofLane cx.w.id i && (a.isLoad || a.dst != .none || (f.var != 0 && qmScope f.q != 0)))
      || s.ms.acqPending cx.w.id i)) = true) :
    (fenceSpec s f0).body cx i l f v = .done l (if l.helper then [] else [.act fun s =>
        let s := if f.var = 1 ∨ f.var = 2 ∨ f.var = 3 then s.release cx.w.core (qmScope f.q) else s
        if f.var = 0 ∨ f.var = 2 ∨ f.var = 3 then s.acquire cx.w.core (qmScope f.q) else s]) := by
  obtain ⟨hrel, hacq⟩ := fence_var _ hv
  cases hl : l.helper with
  | true => simp only [fenceSpec, hl, if_true]
  | false =>
    simp only [hl, Bool.false_or, Bool.not_eq_true'] at h
    simp only [fenceSpec, hl, h, Bool.false_eq_true, if_false, hrel, hacq]

/-- An access that has a place is in a tile or in memory. -/
theorem Target.placed_cases {t : Target} (h : t.placed = true) : (∃ u k o, t = .tile u k o) ∨ ∃ loc, t = .mem loc := by
  cases t with
  | tile u k o => exact .inl ⟨u, k, o, rfl⟩
  | mem loc => exact .inr ⟨loc, rfl⟩
  | wait | trap | held => cases h

/-- CMAINT of a lane that may begin (R337). -/
theorem cmaint_runs (s : State) (f : Fields) (op : Nat) (ins : Instr) (he : exec ins s = laneExec (cmaintSpec s op f) f s) :
    RunsAs ins s f
    { sig := { var := decide (bits f.var 1 0 = op) && decide (bits f.var 3 2 < 3), q := f.q == 0, a := .pr, b := .src false, unit := 3 }
      body := fun cx i l f v =>
        let hi := v.a.toNat + (lo32 v.b).toNat - 1
        .done l (if l.helper || lo32 v.b == 0 then [] else [.act fun t =>
        let t := t.maintRead cx.w v.a (hi / 65536 - v.a.toNat / 65536 + 1)
        { t.freshId with ms := { t.ms with maint := t.ms.maint ++
          [{ id := t.ck.nextId, batch := s.ck.nextId, wg := cx.w.id, lane := i, core := cx.w.core, asid := (t.space cx.w).asid, op := op
             level := bits f.var 3 2, lo := v.a, hi := BitVec.ofNat 64 hi }] } }]) }
    (fun cx i l _ v => l.helper || (!v.poison && (lo32 v.b == 0 ||
      (let hi := v.a.toNat + (lo32 v.b).toNat - 1
       !(s.ms.acqPending cx.w.id i || s.maintHolds cx.w i v.a.toNat hi)
        && (s.maintPages cx.w i l v.a (hi / 65536 - v.a.toNat / 65536 + 1)).placed)))) := by
  refine runsAs_of _ (cmaintSpec s op f) _ f s _ he ⟨rfl, rfl, rfl, rfl, rfl⟩ fun cx i l f v hok => ?_
  cases hl : l.helper with
  | true => simp only [cmaintSpec, hl, if_true, Bool.true_or]
  | false =>
    simp only [hl, Bool.false_or, Bool.and_eq_true, Bool.not_eq_true', Bool.or_eq_true, beq_iff_eq] at hok
    obtain ⟨hp, hb⟩ := hok
    by_cases h0 : lo32 v.b = 0
    · simp [cmaintSpec, hl, hp, h0]
    · obtain ⟨hh, hpl⟩ := hb.resolve_left h0
      have hn : (lo32 v.b).toNat ≠ 0 := fun h => h0 (BitVec.eq_of_toNat_eq h)
      have hbeq : (lo32 v.b == 0) = false := by simpa using h0
      rcases Target.placed_cases hpl with ⟨u, k, o, ht⟩ | ⟨loc, ht⟩ <;>
        simp only [cmaintSpec, hl, hp, hn, hh, hbeq, Bool.false_eq_true, if_false, Bool.or_self, ht]

/-! ### Spills and fills -/

/-- The entries of a frame. -/
theorem frameEntries_getD (fr : Nat) {j : Nat} (h : j < 16) : (frameEntries fr).getD j 0 = fr % 4 * 16 + j := by
  simp [frameEntries, h]

/-- A frame has a property when its sixteen entries have. -/
theorem frameEntries_any_false {fr : Nat} {p : Nat → Bool} (h : ∀ j < 16, p (fr % 4 * 16 + j) = false) :
    (frameEntries fr).any p = false := by
  simp only [frameEntries, List.any_map, List.any_eq_false, List.mem_range, Function.comp_apply, Bool.not_eq_true]
  exact h

/-- Chains of accesses that agree are one. -/
theorem chain_congr (l0 : Lane) {k1 k2 : Nat → Lane → LOut} (h : ∀ j < 16, k1 j = k2 j) :
    chain l0 ((List.range 16).map k1) = chain l0 ((List.range 16).map k2) :=
  congrArg (chain l0) (List.map_congr_left fun j hj => h j (List.mem_range.mp hj))

theorem wspill_body (s : State) (f0 : Fields) (cx : Cx) (i : Nat) (l : Lane) (f : Fields) (v : Vals)
    (h : (decide (l.lo < l.d) && (l.helper || (decide (l.lo < (s.nodeOf cx.w).launch.frame.toNat)
      && (l.pulled (frameEntries l.lo)).isNone && (List.range 16).all fun j => (l.at (l.lo % 4 * 16 + j)).full && storeFree s cx i l
        (privateAddr (s.nodeOf cx.w) cx.w i (frameOffset (s.nodeOf cx.w) l.lo + BitVec.ofNat 64 (4 * j))) false 0))) = true) :
    (wspillSpec s f0).body cx i l f v =
      if l.helper then .done { l with lo := l.lo + 1 } []
      else match chain l ((List.range 16).map fun j => fun l' =>
          let r := l'.at (l.lo % 4 * 16 + j)
          let va := privateAddr (s.nodeOf cx.w) cx.w i (frameOffset (s.nodeOf cx.w) l.lo + BitVec.ofNat 64 (4 * j))
          storeOut s cx i l' va 4 (zx r.val) r.poison 0 false 0 (s.target cx.w i l' va va .write)) with
        | .done l' fx =>
          let m := (frameEntries l.lo).foldl (fun m e => m ||| 1#64 <<< e) (0 : BitVec 64)
          .done { l' with lo := l'.lo + 1, racq := l'.racq &&& ~~~ m } (.acquire (if l.racq &&& m = 0 then 0 else 4) :: fx)
        | o => o := by
  simp only [Bool.and_eq_true, decide_eq_true_eq] at h
  obtain ⟨hlo, h⟩ := h
  cases hl : l.helper with
  | true => simp only [wspillSpec, hl, hlo, if_true]
  | false =>
    simp only [hl, Bool.false_or, Bool.and_eq_true, decide_eq_true_eq, Option.isNone_iff_eq_none, List.all_eq_true, List.mem_range] at h
    obtain ⟨⟨hfr, hpull⟩, hj⟩ := h
    have hany : ((frameEntries l.lo).any fun e => !(l.at e).full) = false :=
      frameEntries_any_false fun j hj16 => by simp [(hj j hj16).1]
    have hchain : chain l ((List.range 16).map fun j => fun l' =>
        let r := l'.at ((frameEntries l.lo).getD j 0)
        storeLane s cx i l' (privateAddr (s.nodeOf cx.w) cx.w i (frameOffset (s.nodeOf cx.w) l.lo + BitVec.ofNat 64 (4 * j))) 4
          (zx r.val) r.poison 0 false 0) = _ :=
      chain_congr l fun j hj16 => funext fun l' => by
        simp only [frameEntries_getD _ hj16]
        exact storeLane_ok (hj j hj16).2 l' _ _ _ _
    simp only [wspillSpec, hl, hlo, Nat.not_le.mpr hfr, hany, hpull, not_true, if_false, Bool.false_eq_true, hchain, entryBit] <;> rfl

theorem wfill_body (s : State) (f0 : Fields) (cx : Cx) (i : Nat) (l : Lane) (f : Fields) (v : Vals)
    (h : (l.lo != 0 && decide (l.d + 2 - l.lo ≤ 3) && (l.helper || (decide (l.lo - 1 < (s.nodeOf cx.w).launch.frame.toNat)
      && (List.range 16).all fun j => (l.at ((l.lo - 1) % 4 * 16 + j)).full && loadFree s cx i l
        (privateAddr (s.nodeOf cx.w) cx.w i (frameOffset (s.nodeOf cx.w) (l.lo - 1) + BitVec.ofNat 64 (4 * j))) 4))) = true) :
    (wfillSpec s f0).body cx i l f v =
      if l.helper then .done ((frameEntries (l.lo - 1)).foldl (fun l e => l.put cx.free e {}) { l with lo := l.lo - 1 }) []
      else match chain l ((List.range 16).map fun j => fun l' =>
          let va := privateAddr (s.nodeOf cx.w) cx.w i (frameOffset (s.nodeOf cx.w) (l.lo - 1) + BitVec.ofNat 64 (4 * j))
          loadOut s cx i l' (.v [(l.lo - 1) % 4 * 16 + j]) va 4 false false 0 (s.target cx.w i l' va va .read)) with
        | .done l' fx => .done { l' with lo := l.lo - 1 } fx
        | o => o := by
  simp only [Bool.and_eq_true, decide_eq_true_eq, bne_iff_ne] at h
  obtain ⟨⟨hlo, hd⟩, h⟩ := h
  have hroom : (l.lo = 0 || decide (3 < l.d + 2 - l.lo)) = false := by simp [hlo]; omega
  cases hl : l.helper with
  | true => simp only [wfillSpec, hl, hroom, if_true, Bool.false_eq_true, if_false]
  | false =>
    simp only [hl, Bool.false_or, Bool.and_eq_true, decide_eq_true_eq, List.all_eq_true, List.mem_range] at h
    obtain ⟨hfr, hj⟩ := h
    have hany : ((frameEntries (l.lo - 1)).any fun e => !(l.at e).full) = false :=
      frameEntries_any_false fun j hj16 => by simp [(hj j hj16).1]
    have hchain : chain l ((List.range 16).map fun j => fun l' =>
        loadLane s cx i l' (.v [(frameEntries (l.lo - 1)).getD j 0])
          (privateAddr (s.nodeOf cx.w) cx.w i (frameOffset (s.nodeOf cx.w) (l.lo - 1) + BitVec.ofNat 64 (4 * j))) 4 false false 0) = _ :=
      chain_congr l fun j hj16 => funext fun l' => by
        simp only [frameEntries_getD _ hj16]
        exact loadLane_ok (hj j hj16).2 l' _ _ _ _
    simp only [wfillSpec, hl, hroom, Nat.not_le.mpr hfr, hany, if_false, Bool.false_eq_true, hchain] <;> rfl

/-- Settles O27: one lemma per instruction. -/
theorem cacheWindowAndFenceResults : Obligations.CacheWindowAndFenceResults := by
  refine ⟨fun s f => ⟨?_, ?_, fun op ins h => ?_⟩, fun s f => ⟨?_, ?_⟩⟩
  · refine runsAs_of _ (prefSpec f) _ f s _ rfl ⟨rfl, rfl, rfl, rfl, rfl⟩ fun cx i l f v _ => ?_
    simp only [prefSpec]
    split <;> rfl
  · refine runsAs_of _ (fenceSpec s f) _ f s _ rfl ⟨rfl, rfl, rfl, rfl, rfl⟩ fun cx i l f' v hok => ?_
    simp only [Bool.and_eq_true, decide_eq_true_eq] at hok
    exact fence_body s f cx i l f' v hok.1 hok.2
  · refine cmaint_runs s f op ins ?_
    simp only [List.mem_cons, Prod.mk.injEq, List.not_mem_nil, or_false] at h
    rcases h with ⟨rfl, rfl⟩ | ⟨rfl, rfl⟩ | ⟨rfl, rfl⟩ <;> rfl
  · exact runsAsWith_of _ (wspillSpec s f) _ f _ s _ rfl ⟨rfl, rfl, rfl, rfl, rfl⟩ fun cx i l f' v hok => wspill_body s f cx i l f' v hok
  · exact runsAs_of _ (wfillSpec s f) _ f s _ rfl ⟨rfl, rfl, rfl, rfl, rfl⟩ fun cx i l f' v hok => wfill_body s f cx i l f' v hok

end Sys2Proof.Machine
end

section
/-! A masked write at the home of a sector (R50, R459, R460). -/
namespace Sys2Proof.Machine

theorem mem_insertNat (n : Nat) (l : List Nat) (x : Nat) : x ∈ insertNat n l ↔ x = n ∨ x ∈ l := by
  induction l with
  | nil => simp [insertNat]
  | cons m l ih =>
    unfold insertNat
    split
    · simp
    · split
      · rename_i h
        simp [h]
      · simp only [List.mem_cons, ih]
        exact or_left_comm

theorem contains_insertNat (n : Nat) (l : List Nat) (x : Nat) : (insertNat n l).contains x = (x == n || l.contains x) := by
  rw [Bool.eq_iff_iff]
  simp [mem_insertNat]

/-- What an operation on a home slice leaves alone: L1, accesses, TLB, host sectors, and the sticks lost. -/
structure MemSys.SameBeside (t ms : MemSys) : Prop where
  l1 : t.l1 = ms.l1
  acc : t.acc = ms.acc
  tlb : t.tlb = ms.tlb
  l2host : t.l2host = ms.l2host
  lost : t.lost = ms.lost

theorem MemSys.SameBeside.trans {a b c : MemSys} (h : a.SameBeside b) (h' : b.SameBeside c) : a.SameBeside c :=
  ⟨h.l1.trans h'.l1, h.acc.trans h'.acc, h.tlb.trans h'.tlb, h.l2host.trans h'.l2host, h.lost.trans h'.lost⟩

theorem MemSys.l2Merge_beside (ms : MemSys) (loc : Nat) (d : BitVec 4) : (ms.l2Merge loc d).SameBeside ms := by
  unfold MemSys.l2Merge
  split <;> exact ⟨rfl, rfl, rfl, rfl, rfl⟩

theorem MemSys.l2Merge_poison (ms : MemSys) (loc : Nat) (d : BitVec 4) : (ms.l2Merge loc d).poison = ms.poison := by
  unfold MemSys.l2Merge
  split <;> rfl

theorem MemSys.setPoison_beside (ms : MemSys) (loc : Nat) (p : Bool) : (ms.setPoison loc p).SameBeside ms := by
  unfold MemSys.setPoison
  split <;> exact ⟨rfl, rfl, rfl, rfl, rfl⟩

/-- The poison list after a sector's poison has been set or cleared. -/
theorem MemSys.setPoison_contains (ms : MemSys) (loc k : Nat) (p : Bool) :
    (ms.setPoison loc p).poison.contains k = if k = loc / 32 then p else ms.poison.contains k := by
  cases p with
  | true =>
    simp only [MemSys.setPoison, if_true, contains_insertNat]
    split <;> simp_all
  | false =>
    simp only [MemSys.setPoison, Bool.false_eq_true, if_false]
    rw [Bool.eq_iff_iff]
    split <;> simp_all

/-- The poison of a home after a write: set, cleared, or left (R460). -/
def MemSys.rePoison (ms : MemSys) (sec : Nat) (mask : BitVec 32) (p : Bool) : MemSys :=
  if p then ms.setPoison sec true else if mask = fullMask then ms.setPoison sec false else ms

theorem MemSys.rePoison_beside (ms : MemSys) (sec : Nat) (mask : BitVec 32) (p : Bool) : (ms.rePoison sec mask p).SameBeside ms := by
  unfold MemSys.rePoison
  repeat' split
  · exact ms.setPoison_beside _ _
  · exact ms.setPoison_beside _ _
  · exact ⟨rfl, rfl, rfl, rfl, rfl⟩

theorem MemSys.rePoison_mem (ms : MemSys) (sec : Nat) (mask : BitVec 32) (p : Bool) : (ms.rePoison sec mask p).mem = ms.mem := by
  unfold MemSys.rePoison
  repeat' split
  · exact ms.mem_setPoison _ _
  · exact ms.mem_setPoison _ _
  · rfl

theorem MemSys.rePoison_contains (ms : MemSys) (sec k : Nat) (mask : BitVec 32) (p : Bool) :
    (ms.rePoison sec mask p).poison.contains k =
      if k = sec / 32 then p || (mask != fullMask && ms.poison.contains k) else ms.poison.contains k := by
  unfold MemSys.rePoison
  cases p with
  | true => simp only [if_true, MemSys.setPoison_contains, Bool.true_or]
  | false =>
    by_cases hm : mask = fullMask
    · simp only [Bool.false_eq_true, if_false, hm, if_true, MemSys.setPoison_contains, bne_self_eq_false, Bool.false_and, Bool.or_self]
    · have hne : (mask != fullMask) = true := bne_iff_ne.mpr hm
      simp only [Bool.false_eq_true, if_false, hm, hne, Bool.true_and, Bool.false_or, ite_self]

/-- A write at the home of a sector of module memory that is not lost: its bytes, its line in L2, its poison. -/
theorem MemSys.homeWrite_module {ms : MemSys} {sec : Nat} (ht : locTgt sec = 0) (hl : ms.lostLoc sec = false) (mask : BitVec 32)
    (bs : List Byte) (p : Bool) : ms.homeWrite sec mask bs p =
      (({ ms with mem := ms.mem.writeMasked sec mask 0 bs } : MemSys).l2Merge sec (sectorBit sec)).rePoison sec mask p := by
  simp only [MemSys.homeWrite, hl, Bool.false_eq_true, if_false, ht, Nat.zero_ne_one]
  rfl

theorem MemSys.homeWrite_beside {ms : MemSys} {sec : Nat} (ht : locTgt sec = 0) (hl : ms.lostLoc sec = false) (mask : BitVec 32)
    (bs : List Byte) (p : Bool) : (ms.homeWrite sec mask bs p).SameBeside ms := by
  rw [MemSys.homeWrite_module ht hl]
  exact (MemSys.rePoison_beside _ _ _ _).trans ((MemSys.l2Merge_beside _ _ _).trans ⟨rfl, rfl, rfl, rfl, rfl⟩)

theorem MemSys.homeWrite_poisoned {ms : MemSys} {sec : Nat} (ht : locTgt sec = 0) (hl : ms.lostLoc sec = false) (mask : BitVec 32)
    (bs : List Byte) (p : Bool) (a : Nat) : (ms.homeWrite sec mask bs p).poisoned a =
      ((if a / 32 = sec / 32 then p || (mask != fullMask && ms.poison.contains (a / 32)) else ms.poison.contains (a / 32))
        || ms.lostLoc a) := by
  have hlost : (ms.homeWrite sec mask bs p).lostLoc a = ms.lostLoc a := by
    simp only [MemSys.lostLoc, (MemSys.homeWrite_beside ht hl mask bs p).lost]
  rw [MemSys.poisoned, hlost, MemSys.homeWrite_module ht hl, MemSys.rePoison_contains, MemSys.l2Merge_poison]

/-- The bytes that memory reads after a write at the home of a sector. -/
theorem MemSys.homeWrite_read {ms : MemSys} (hwf : ms.mem.wf = true) {sec : Nat} (ht : locTgt sec = 0) (hl : ms.lostLoc sec = false)
    (mask : BitVec 32) {bs : List Byte} (hbs : bs.length = 32) (p : Bool) (a : Nat) : (ms.homeWrite sec mask bs p).mem.read a =
      if sec ≤ a ∧ a < sec + 32 ∧ mask.getLsbD (a - sec) = true then bs.getD (a - sec) 0 else ms.mem.read a := by
  rw [MemSys.homeWrite_module ht hl, MemSys.rePoison_mem, MemSys.mem_l2Merge]
  exact (Memory.read_writeMasked mask sec a bs hwf 0).trans (by simp only [Nat.add_zero, Nat.sub_zero, hbs])

/-- Settles O8: the write by the lemmas above, the updates by those of O28. -/
theorem sectorWritesReachOnlyTheirBytes : Obligations.SectorWritesReachOnlyTheirBytes := by
  refine ⟨fun ms sec mask bs p hwf ht _ hbs hl => ?_, fun s f => ⟨atom_runs s f, atomcas_runs s f, red_runs s f, atoms_runs s f⟩⟩
  have hb := MemSys.homeWrite_beside ht hl mask bs p
  refine ⟨MemSys.wf_homeWrite hwf _ _ _ _, MemSys.homeWrite_read hwf ht hl mask hbs p, ?_, fun a ha => ?_, hb.l1, hb.acc, hb.tlb, hb.l2host⟩
  · rw [MemSys.homeWrite_poisoned ht hl, if_pos rfl, hl, Bool.or_false, MemSys.poisoned, hl, Bool.or_false]
  · rw [MemSys.homeWrite_poisoned ht hl, if_neg ha]
    rfl

end Sys2Proof.Machine
end

section
/-! Barriers (R116 to R119, R148, R339 to R343). -/
namespace Sys2Proof.Machine

/-- A lane that may name its barrier goes on there (R338). -/
theorem atBar_ok {s : State} {cx : Cx} {l : Lane} {f : Fields} {v : Vals} (k : Bool → Nat → LOut) (hl : l.helper = false)
    (hp : v.poison = false) (hi : barIndexOk s cx.w (f.var == 1) (lo32 v.b).toNat = true) :
    atBar s cx l f v k = k (f.var == 1) (lo32 v.b).toNat := by
  simp only [atBar, hl, hp, hi, Bool.not_true, Bool.false_eq_true, if_false]

theorem atBar_helper {s : State} {cx : Cx} {l : Lane} {f : Fields} {v : Vals} (k : Bool → Nat → LOut) (hl : l.helper = true) :
    atBar s cx l f v k = .done l [] := by
  simp [atBar, hl]

/-- A registered lane arrives when nothing stalls it (R341). -/
theorem arriveOut_ok {s : State} {cx : Cx} {i : Nat} {l : Lane} {f : Fields} {tree : Bool} {idx : Nat}
    (hr : (s.bar tree cx.w.id idx).reg.contains (barKey cx.w.id i) = true) (hs : (s.bar tree cx.w.id idx).stalls (barKey cx.w.id i) = false) :
    arriveOut s cx i l f tree idx = .done l [.act fun s => s.modBar tree cx.w.id idx fun b =>
      if qmRel f.q then b.arriveLater (barKey cx.w.id i) else b.arrive (barKey cx.w.id i)] := by
  simp only [arriveOut, hr, hs, Bool.not_true, Bool.false_eq_true, if_false]

/-- Settles O31: an instruction's lane is a helper or may name its barrier, and an event meets the condition that enables it. -/
theorem barrierOperations : Obligations.BarrierOperations := by
  refine ⟨fun s f => ⟨runsAs_of _ (barinitSpec s f) _ f s _ rfl ⟨rfl, rfl, rfl, rfl, rfl⟩ ?init,
    runsAs_of _ (barregSpec s f) _ f s _ rfl ⟨rfl, rfl, rfl, rfl, rfl⟩ ?reg,
    runsAs_of _ (bararrSpec s f) _ f s _ rfl ⟨rfl, rfl, rfl, rfl, rfl⟩ ?arr,
    runsAs_of _ (barwaitSpec s f) _ f s _ rfl ⟨rfl, rfl, rfl, rfl, rfl⟩ ?wait,
    runsAs_of _ (barsyncSpec s f) _ f s _ rfl ⟨rfl, rfl, rfl, rfl, rfl⟩ ?sync,
    runsAs_of _ (bardropSpec s f) _ f s _ rfl ⟨rfl, rfl, rfl, rfl, rfl⟩ ?drop⟩, fun s wg idx lane tree => ⟨?count, ?release, ?rearm⟩⟩
  case init =>
    intro cx i l f v hok
    cases hl : l.helper with
    | true => simp only [barinitSpec, atBar_helper _ hl, hl, if_true]
    | false =>
      simp only [hl, Bool.false_or, Bool.and_eq_true, Bool.not_eq_true'] at hok
      obtain ⟨⟨hp, hi⟩, hok⟩ := hok
      simp only [barinitSpec, atBar_ok _ hl hp hi, hl, hok, Bool.and_self, if_true, Bool.false_eq_true, if_false]
  case reg =>
    intro cx i l f v hok
    cases hl : l.helper with
    | true => simp only [barregSpec, atBar_helper _ hl, hl, if_true]
    | false =>
      simp only [hl, Bool.false_or, Bool.and_eq_true, Bool.not_eq_true'] at hok
      obtain ⟨⟨hp, hi⟩, hok⟩ := hok
      simp only [barregSpec, atBar_ok _ hl hp hi, hl, hok, Bool.or_self, Bool.false_eq_true, if_false]
  case arr =>
    intro cx i l f v hok
    cases hl : l.helper with
    | true => simp only [bararrSpec, atBar_helper _ hl, hl, if_true]
    | false =>
      simp only [hl, Bool.false_or, Bool.and_eq_true, Bool.not_eq_true'] at hok
      obtain ⟨⟨hp, hi⟩, hok⟩ := hok
      simp only [bararrSpec, atBar_ok _ hl hp hi, hl, arriveOut_ok hok.1 hok.2, Bool.false_eq_true, if_false]
      rfl
  case wait =>
    intro cx i l f v hok
    cases hl : l.helper with
    | true => simp only [barwaitSpec, atBar_helper _ hl, hl, if_true]
    | false =>
      simp only [hl, Bool.false_or, Bool.and_eq_true, Bool.not_eq_true'] at hok
      obtain ⟨⟨hp, hi⟩, hok⟩ := hok
      simp only [barwaitSpec, atBar_ok _ hl hp hi, hl, waitOut, Lane.waitAt, List.nil_append, Bool.false_eq_true, if_false]
  case sync =>
    intro cx i l f v hok
    cases hl : l.helper with
    | true => simp only [barsyncSpec, atBar_helper _ hl, hl, if_true]
    | false =>
      simp only [hl, Bool.false_or, Bool.and_eq_true, Bool.not_eq_true'] at hok
      obtain ⟨⟨hp, hi⟩, hok⟩ := hok
      simp only [barsyncSpec, atBar_ok _ hl hp hi, hl, arriveOut_ok hok.1 hok.2, waitOut, Lane.waitAt, List.cons_append, List.nil_append, Bool.false_eq_true, if_false]
      rfl
  case drop =>
    intro cx i l f v hok
    cases hl : l.helper with
    | true => simp only [bardropSpec, atBar_helper _ hl, hl, if_true]
    | false =>
      simp only [hl, Bool.false_or, Bool.and_eq_true, Bool.not_eq_true'] at hok
      obtain ⟨⟨hp, hi⟩, hok⟩ := hok
      simp only [bardropSpec, atBar_ok _ hl hp hi, hl, hok, Bool.not_true, Bool.false_eq_true, if_false]
  case count =>
    intro hp hr w hw
    change execBarrierArrivalCount tree wg idx lane s = _
    have hr' : s.ms.releaseWaits wg lane (barScope tree) = false := hr
    simp only [execBarrierArrivalCount, hp, hr', hw, Bool.not_true, Bool.or_self, Bool.false_eq_true, if_false]
    rfl
  case release =>
    intro hd hr ht
    cases tree with
    | true =>
      obtain rfl := ht rfl
      change execTreeBarrierRelease idx s = _
      simp only [execTreeBarrierRelease, hd, hr, Bool.not_false, Bool.and_self, if_true]
    | false =>
      change execLocalBarrierRelease wg idx s = _
      simp only [execLocalBarrierRelease, hd, hr, Bool.not_false, Bool.and_self, if_true]
  case rearm =>
    intro hr ht
    cases tree with
    | true =>
      obtain rfl := ht rfl
      change execTreeBarrierRearm idx s = _
      simp only [execTreeBarrierRearm, hr, if_true]
    | false =>
      change execLocalBarrierRearm wg idx s = _
      simp only [execLocalBarrierRearm, hr, if_true]

end Sys2Proof.Machine
end

section
/-! A barrier's release (R116, R148): its waiters go on. -/
namespace Sys2Proof.Machine

/-! ### Workgroups, in any state that holds them by their numbers -/

theorem wg?_id {s : State} {id : Nat} {w : Wg} (h : s.wg? id = some w) : w.id = id := by
  simpa using List.find?_some h

/-- The lanes after every one of them has been mapped. -/
theorem mapLanes_getElem? (f : Nat → Lane → Lane) (k i : Nat) (ls : List Lane) : (mapLanes f k ls)[i]? = ls[i]?.map (f (k + i)) := by
  induction ls generalizing k i with
  | nil => rfl
  | cons l ls ih =>
    cases i with
    | zero => rfl
    | succ i => simpa [mapLanes, Nat.add_assoc, Nat.add_comm 1 i] using ih (k + 1) i

/-- A lane that is no helper is the same after the helpers have followed (R168). -/
theorem Wg.syncHelpers_lane (w : Wg) (i : Nat) (h : (w.lane i).helper = false) : w.syncHelpers.lane i = w.lane i := by
  have hl : w.syncHelpers.lane i = (mapLanes _ 0 w.lanes).getD i {} := rfl
  rw [hl, List.getD_eq_getElem?_getD, mapLanes_getElem?]
  simp only [Wg.lane, List.getD_eq_getElem?_getD] at h ⊢
  cases hi : w.lanes[i]? with
  | none => rfl
  | some l =>
    rw [hi] at h
    simp only [Option.getD_some] at h
    simp [h]

/-- Whether a lane is a helper does not change when helpers follow. -/
theorem Wg.syncHelpers_helper (w : Wg) (i : Nat) : (w.syncHelpers.lane i).helper = (w.lane i).helper := by
  have hl : w.syncHelpers.lane i = (mapLanes _ 0 w.lanes).getD i {} := rfl
  rw [hl, List.getD_eq_getElem?_getD, mapLanes_getElem?, Wg.lane, List.getD_eq_getElem?_getD]
  cases w.lanes[i]? with
  | none => rfl
  | some l =>
    simp only [Option.map_some, Option.getD_some]
    split
    · split <;> rfl
    · rfl

/-! ### The wait of a lane -/

/-- The lane waits at a barrier. -/
def Lane.atBarrier (l : Lane) : Bool :=
  match l.wait with
  | .barrier .. => true
  | _ => false

theorem Lane.wait_ne_of_atBarrier {l : Lane} (h : l.atBarrier = false) (t : Bool) (n : Nat) (a c : W64) (r : Nat) :
    l.wait ≠ .barrier t n a c r := by
  intro hw
  simp [Lane.atBarrier, hw] at h

theorem Lane.goOn_wait (l : Lane) (n c : W64) (k : Nat) : (l.goOn n c k).wait = .none := by
  unfold Lane.goOn
  simp only []
  repeat' split
  all_goals rfl

theorem Lane.goOn_helper (l : Lane) (n c : W64) (k : Nat) : (l.goOn n c k).helper = l.helper := by
  unfold Lane.goOn
  simp only []
  repeat' split
  all_goals rfl

theorem Lane.leaveBar_helper (l : Lane) : l.leaveBar.helper = l.helper := by
  unfold Lane.leaveBar
  split
  · exact l.goOn_helper _ _ _
  · rfl

/-- A lane that leaves its barrier waits at none. -/
theorem Lane.leaveBar_atBarrier (l : Lane) : l.leaveBar.atBarrier = false := by
  unfold Lane.leaveBar
  cases hw : l.wait with
  | barrier t n a c k => simp [Lane.atBarrier, Lane.goOn_wait]
  | _ => simp [Lane.atBarrier, hw]

/-! ### One waiter leaves -/

/-- Lane `k % 1024` of workgroup `k / 1024` leaves its barrier, with the acquire of the barrier's scope. -/
def State.leaveOne (tree : Bool) (s : State) (k : Nat) : State :=
  let s := s.modWg (k / 1024) (·.modLane (k % 1024) Lane.leaveBar)
  match s.wg? (k / 1024) with
  | some w => (s.acquire w.core (barScope tree)).modWg w.id Wg.syncHelpers
  | none => s

theorem State.releaseBar_eq (s : State) (tree : Bool) (wg idx : Nat) :
    s.releaseBar tree wg idx = ((s.bar tree wg idx).waiting.foldl (State.leaveOne tree) s).modBar tree wg idx fun b =>
      { b with due := false, released := true, outstanding := [], waiting := [] } := rfl

theorem State.acquire_ex (s : State) (core scope : Nat) : (s.acquire core scope).ex = s.ex := by
  unfold State.acquire
  split <;> rfl

theorem State.acquire_net (s : State) (core scope : Nat) : (s.acquire core scope).net = s.net := by
  unfold State.acquire
  split <;> rfl

/-- A workgroup after one waiter has left: its own lane leaves, and its helpers follow. -/
theorem State.leaveOne_wg (tree : Bool) (s : State) (k id : Nat) : (s.leaveOne tree k).wg? id = (s.wg? id).map fun w =>
    if w.id == k / 1024 then (w.modLane (k % 1024) Lane.leaveBar).syncHelpers else w := by
  have h1 := s.wg_modWg (k / 1024) id (·.modLane (k % 1024) Lane.leaveBar) fun _ => rfl
  cases hk : s.wg? (k / 1024) with
  | none =>
    have hn : (s.modWg (k / 1024) (·.modLane (k % 1024) Lane.leaveBar)).wg? (k / 1024) = none := by
      rw [s.wg_modWg _ _ (·.modLane (k % 1024) Lane.leaveBar) fun _ => rfl, hk]
      rfl
    simp only [State.leaveOne, hn, h1]
    cases hw : s.wg? id with
    | none => rfl
    | some w =>
      have hne : ¬ w.id = k / 1024 := by
        intro he
        rw [← he, wg?_id hw, hw] at hk
        cases hk
      simp [hne]
  | some u =>
    have hs := State.wg_modWg_self hk (·.modLane (k % 1024) Lane.leaveBar) fun _ => rfl
    have hu : (u.modLane (k % 1024) Lane.leaveBar).id = k / 1024 := wg?_id hs
    simp only [State.leaveOne, hs, hu]
    rw [State.wg_modWg _ _ _ Wg.syncHelpers fun _ => rfl]
    have ha : ∀ t : State, ∀ c sc, (t.acquire c sc).wg? id = t.wg? id := fun t c sc => by
      simp only [State.wg?, State.acquire_ex]
    rw [ha, h1, Option.map_map]
    congr 1
    funext w
    by_cases hw : w.id = k / 1024 <;> simp [hw]

/-- A workgroup after a waiter has left: its own lane leaves, and its helpers follow. -/
def Wg.leaveOne (w : Wg) (k : Nat) : Wg := if w.id == k / 1024 then (w.modLane (k % 1024) Lane.leaveBar).syncHelpers else w

theorem State.leaveAll_wg (tree : Bool) (ks : List Nat) (s : State) (id : Nat) :
    (ks.foldl (State.leaveOne tree) s).wg? id = (s.wg? id).map fun w => ks.foldl Wg.leaveOne w := by
  induction ks generalizing s with
  | nil => simp
  | cons k ks ih =>
    simp only [List.foldl_cons, ih, State.leaveOne_wg, Option.map_map]
    rfl

theorem State.leaveAll_trees (tree : Bool) (ks : List Nat) (s : State) : (ks.foldl (State.leaveOne tree) s).net.trees = s.net.trees := by
  induction ks generalizing s with
  | nil => rfl
  | cons k ks ih =>
    rw [List.foldl_cons, ih]
    unfold State.leaveOne
    simp only []
    split
    · rw [State.modWg_net, State.acquire_net]
      rfl
    · rfl

/-! ### The lanes of one workgroup -/

theorem Wg.leaveOne_id (w : Wg) (k : Nat) : (w.leaveOne k).id = w.id := by
  unfold Wg.leaveOne
  split <;> rfl

theorem Wg.leaveOne_bars (w : Wg) (k : Nat) : (w.leaveOne k).bars = w.bars := by
  unfold Wg.leaveOne
  split <;> rfl

theorem Wg.leaveAll_id (ks : List Nat) (w : Wg) : (ks.foldl Wg.leaveOne w).id = w.id := by
  induction ks generalizing w with
  | nil => rfl
  | cons k ks ih => rw [List.foldl_cons, ih, Wg.leaveOne_id]

theorem Wg.leaveAll_bars (ks : List Nat) (w : Wg) : (ks.foldl Wg.leaveOne w).bars = w.bars := by
  induction ks generalizing w with
  | nil => rfl
  | cons k ks ih => rw [List.foldl_cons, ih, Wg.leaveOne_bars]

/-- A lane of a workgroup after one of its lanes has been changed, whatever the index. -/
theorem Wg.lane_modLane_cases (w : Wg) (i k : Nat) (f : Lane → Lane) :
    (w.modLane i f).lane k = f (w.lane k) ∧ k = i ∨ (w.modLane i f).lane k = w.lane k ∧ (k ≠ i ∨ w.lane k = {}) := by
  by_cases hi : i < w.lanes.length
  · rw [Wg.lane_modLane w i k f hi]
    by_cases hk : k = i <;> simp [hk]
  · have hm : (w.modLane i f).lane k = w.lane k := by
      have hu : upd w.lanes i f = w.lanes := by
        rw [upd_eq_set w.lanes i f {}, List.set_eq_of_length_le (Nat.not_lt.mp hi)]
      simp only [Wg.lane, Wg.modLane, hu]
    refine .inr ⟨hm, ?_⟩
    by_cases hk : k = i
    · refine .inr ?_
      rw [hk, Wg.lane, List.getD_eq_getElem?_getD, List.getElem?_eq_none (Nat.not_lt.mp hi)]
      rfl
    · exact .inl hk

theorem Wg.leaveOne_helper (w : Wg) (k i : Nat) : ((w.leaveOne k).lane i).helper = (w.lane i).helper := by
  unfold Wg.leaveOne
  split
  · rw [Wg.syncHelpers_helper]
    rcases w.lane_modLane_cases (k % 1024) i Lane.leaveBar with ⟨h, -⟩ | ⟨h, -⟩
    · rw [h, Lane.leaveBar_helper]
    · rw [h]
  · rfl

/-- A lane that waits at no barrier comes to wait at none. -/
theorem Wg.leaveOne_atBarrier (w : Wg) (k i : Nat) (hh : (w.lane i).helper = false)
    (h : (w.lane i).atBarrier = false ∨ w.id = k / 1024 ∧ i = k % 1024) : ((w.leaveOne k).lane i).atBarrier = false := by
  unfold Wg.leaveOne
  split
  · rcases w.lane_modLane_cases (k % 1024) i Lane.leaveBar with ⟨hl, -⟩ | ⟨hl, hd⟩
    · rw [Wg.syncHelpers_lane _ _ (by rw [hl, Lane.leaveBar_helper, hh]), hl, Lane.leaveBar_atBarrier]
    · rw [Wg.syncHelpers_lane _ _ (by rw [hl, hh]), hl]
      rcases hd with hne | hd
      · exact h.resolve_right fun he => hne he.2
      · rw [hd]
        rfl
  · exact h.resolve_right fun he => by simp_all

theorem Wg.leaveAll_helper (ks : List Nat) (w : Wg) (i : Nat) : ((ks.foldl Wg.leaveOne w).lane i).helper = (w.lane i).helper := by
  induction ks generalizing w with
  | nil => rfl
  | cons k ks ih => rw [List.foldl_cons, ih, Wg.leaveOne_helper]

theorem Wg.leaveAll_atBarrier (ks : List Nat) (w : Wg) (i : Nat) (hh : (w.lane i).helper = false)
    (h : (w.lane i).atBarrier = false ∨ ∃ k ∈ ks, w.id = k / 1024 ∧ i = k % 1024) :
    ((ks.foldl Wg.leaveOne w).lane i).atBarrier = false := by
  induction ks generalizing w with
  | nil => exact h.resolve_right (by simp)
  | cons k ks ih =>
    refine ih (w.leaveOne k) (by rw [Wg.leaveOne_helper, hh]) ?_
    rw [Wg.leaveOne_id]
    rcases h with h | ⟨j, hj, hid⟩
    · exact .inl (w.leaveOne_atBarrier k i hh (.inl h))
    · rcases List.mem_cons.mp hj with rfl | hj
      · exact .inl (w.leaveOne_atBarrier j i hh (.inr hid))
      · exact .inr ⟨j, hj, hid⟩

/-- The barrier that a release names, afterwards, where the release finds it. -/
theorem State.bar_modBar (s : State) (tree : Bool) (wg idx : Nat) (f : Barrier → Barrier)
    (ht : tree = true → idx < s.net.trees.length) (hw : tree = false → ∃ w, s.wg? wg = some w ∧ idx < w.bars.length) :
    (s.modBar tree wg idx f).bar tree wg idx = f (s.bar tree wg idx) := by
  cases tree with
  | true => exact (upd_getD _ _ _ _ _ (ht rfl)).trans (if_pos rfl)
  | false =>
    obtain ⟨w, hw, hi⟩ := hw rfl
    have h := State.wg_modWg_self hw (fun w => { w with bars := upd w.bars idx f }) fun _ => rfl
    simp only [State.bar, State.modBar, Bool.false_eq_true, if_false, h, hw, Option.map_some, Option.getD_some]
    exact (upd_getD _ _ _ _ _ hi).trans (if_pos rfl)

/-- A change of a barrier leaves every lane. -/
theorem State.modBar_wg (s : State) (tree : Bool) (wg idx id : Nat) (f : Barrier → Barrier) (i : Nat) {u : Wg}
    (h : (s.modBar tree wg idx f).wg? id = some u) : ∃ w, s.wg? id = some w ∧ u.lane i = w.lane i := by
  cases tree with
  | true => exact ⟨u, h, rfl⟩
  | false =>
    have h := (s.wg_modWg wg id (fun w => { w with bars := upd w.bars idx f }) fun _ => rfl).symm.trans h
    obtain ⟨w, hw, rfl⟩ := Option.map_eq_some_iff.mp h
    refine ⟨w, hw, ?_⟩
    split <;> rfl

/-- Settles O32: the waiters leave one after another, each lane on its own, and the barrier's own fields are written last. -/
theorem barrierReleaseFreesTheWaiters : Obligations.BarrierReleaseFreesTheWaiters := by
  intro s idx tree w ht hw t
  let s1 := (s.bar tree w.id idx).waiting.foldl (State.leaveOne tree) s
  have hte : t = s1.modBar tree w.id idx fun b => { b with due := false, released := true, outstanding := [], waiting := [] } :=
    s.releaseBar_eq tree w.id idx
  have htrees : s1.net.trees = s.net.trees := State.leaveAll_trees _ _ _
  have hwgs : ∀ id, s1.wg? id = _ := State.leaveAll_wg tree _ s
  have hbar : s1.bar tree w.id idx = s.bar tree w.id idx := by
    cases tree with
    | true => simp only [State.bar, if_true, htrees]
    | false => simp only [State.bar, Bool.false_eq_true, if_false, hwgs, (hw rfl).1, Option.map_some, Wg.leaveAll_bars]
  have hb := s1.bar_modBar tree w.id idx (fun b => { b with due := false, released := true, outstanding := [], waiting := [] })
    (fun h => by rw [htrees]; exact ht h) fun h => ⟨_, by rw [hwgs, (hw h).1]; rfl, by rw [Wg.leaveAll_bars]; exact (hw h).2⟩
  rw [hte, hb, hbar]
  refine ⟨rfl, rfl, rfl, rfl, rfl, fun k hk u hu hh => ?_⟩
  obtain ⟨u1, hu1, hl⟩ := s1.modBar_wg tree w.id idx _ _ (k % 1024) hu
  rw [hwgs] at hu1
  obtain ⟨u0, hu0, rfl⟩ := Option.map_eq_some_iff.mp hu1
  rw [hl, Wg.leaveAll_helper] at hh
  rw [hl]
  exact Lane.wait_ne_of_atBarrier (Wg.leaveAll_atBarrier _ u0 _ hh (.inr ⟨k, hk, wg?_id hu0, rfl⟩))

end Sys2Proof.Machine
end

section
/-! Stash tiles (R53, R346 to R351) and ring instructions (R352 to R355). -/
namespace Sys2Proof.Machine

/-- An instruction that acts once, with the handles, results and action of its specification, acts as it says when its operands
come to nothing else. -/
theorem onceRuns_dec (ins : Instr) (a b : Once) (f : Fields) (s : State) (ok : Cx → Nat → Lane → Fields → Vals → Bool)
    (he : exec ins s = onceExec a f s) (hsig : a.sig = b.sig) (hmore : a.more = b.more) (hbad : a.bad = b.bad) (hown : a.own = b.own)
    (hout : a.out = b.out) (hdone : ∀ cx l f v, ∃ l' fx, a.out cx l f v = .done l' fx) (hact : a.act = b.act)
    (hdec : ∀ cx i l f v, l.helper = false → b.bad f v = false → ok cx i l f v = true → a.dec cx i l f v = .ok) : OnceAs ins s f b ok :=
  onceRuns_of ins a b f s ok he hsig hmore (fun _ _ h => by rw [hbad]; exact h) hdec (fun _ _ _ _ _ _ => by rw [hown, hout]) hdone
    (fun _ _ _ _ _ _ _ => by rw [hact])

/-- An address below 2^52 has no bits above. -/
theorem bits_high_zero {a : W64} (h : a.toNat < 2 ^ 52) : bits a 63 52 = 0 := by
  rw [bits_eq_div_mod]
  omega

/-- A claimed tile of the workgroup, with the workgroup. -/
theorem bind_tile {s : State} {wg idx : Nat} {w : Wg} {t : Tile} (hw : s.wg? wg = some w) (ht : w.tile? idx = some t) :
    ((s.wg? wg).bind fun w => (w.tile? idx).map fun t => (w, t)) = some (w, t) := by
  rw [hw, Option.bind_some, ht, Option.map_some]

/-- TFILL, TDRAIN and TFREE find their index claimed. -/
theorem claimedDec_ok {s : State} {cx : Cx} {v : Vals} (hr : (lo32 v.b).toNat < (s.nodeOf cx.w).launch.tiles)
    (ht : (cx.w.tile? (lo32 v.b).toNat).isSome = true) : claimedDec s cx v = .ok := by
  have hn : (cx.w.tile? (lo32 v.b).toNat).isNone = false := by simpa using ht
  simp only [claimedDec, tileInRange, tileIdx, hr, decide_true, hn, Bool.not_true, Bool.or_self, Bool.false_eq_true, if_false]

/-- Settles O34: an instruction's operands come to nothing else, and an event meets the condition that enables it. -/
theorem stashTileOperations : Obligations.StashTileOperations := by
  refine ⟨fun s f => ⟨?claim, ?fill, ?drain, ?free, ?stat⟩, fun s core loc h => ?read, fun s wg idx w t hw => ⟨?filled, ?recalled, ?drained, ?released⟩⟩
  case claim =>
    refine onceRuns_dec _ (tclaimOp s f) _ f s _ rfl rfl rfl rfl rfl rfl (fun _ l _ _ => ⟨l, [], rfl⟩) rfl fun cx i l f v _ _ hok => ?_
    simp only [Bool.and_eq_true, Bool.not_eq_true', decide_eq_true_eq, beq_iff_eq, Option.isNone_iff_eq_none] at hok
    obtain ⟨⟨⟨⟨hr, hn⟩, ha⟩, hlt⟩, hh⟩ := hok
    simp only [tclaimOp, tileInRange, tileIdx, hr, decide_true, hn, ha, bits_high_zero hlt, hh, Option.isSome_none, Bool.not_true,
      Bool.or_self, Bool.false_eq_true, if_false, ne_eq, not_true, bne_self_eq_false]
  case fill =>
    refine onceRuns_dec _ (tfillOp s f) _ f s _ rfl rfl rfl rfl rfl rfl (fun _ l _ _ => ⟨l, [], rfl⟩) rfl fun cx i l f v _ _ hok => ?_
    simp only [Bool.and_eq_true, Bool.not_eq_true', decide_eq_true_eq] at hok
    obtain ⟨⟨hr, ht⟩, hh⟩ := hok
    simp only [tfillOp, claimedDec_ok hr ht, hh, Bool.false_eq_true, if_false]
  case drain =>
    refine onceRuns_dec _ (tdrainOp s f) _ f s _ rfl rfl rfl rfl rfl rfl (fun _ l _ _ => ⟨l, [], rfl⟩) rfl fun cx i l f v _ _ hok => ?_
    simp only [Bool.and_eq_true, Bool.not_eq_true', decide_eq_true_eq] at hok
    obtain ⟨⟨hr, ht⟩, hh⟩ := hok
    simp only [tdrainOp, claimedDec_ok hr ht, hh, Bool.false_eq_true, if_false]
  case free =>
    refine onceRuns_dec _ (tfreeOp s f) _ f s _ rfl rfl rfl rfl rfl rfl (fun _ l _ _ => ⟨l, [], rfl⟩) rfl fun cx i l f v _ _ hok => ?_
    simp only [Bool.and_eq_true, decide_eq_true_eq] at hok
    exact claimedDec_ok hok.1 hok.2
  case stat =>
    refine runsAs_of _ (tstatSpec s f) _ f s _ rfl ⟨rfl, rfl, rfl, rfl, rfl⟩ fun cx i l f v hok => ?_
    simp only [Bool.not_eq_true'] at hok
    simp only [tstatSpec, hok, Bool.false_eq_true, if_false, tileIdx]
    cases cx.w.tile? (lo32 v.b).toNat <;> rfl
  case read => simp only [State.readBlock, h]
  case filled =>
    intro ht hst loc s0 hx
    change execTileFillComplete wg idx s = _
    simp only [execTileFillComplete, bind_tile hw ht, hst, hx, bne_self_eq_false, Bool.false_eq_true, if_false]
  case recalled =>
    intro ht hst hr hd hf
    change execTileDrainComplete wg idx s = _
    simp only [execTileDrainComplete, bind_tile hw ht, hst, hr, hd, hf, bne_self_eq_false, Bool.false_eq_true, if_false, decide_true,
      Bool.not_false, Bool.and_self, if_true]
  case drained =>
    intro ht hst hn hh s1 hd
    change execTileDrainComplete wg idx s = _
    simp only [execTileDrainComplete, bind_tile hw ht, hst, hn, hh, hd, bne_self_eq_false, Bool.false_eq_true, if_false, if_true, Tile.cleaned]
  case released =>
    intro ht hh
    change execTileRelease wg idx s = _
    simp only [execTileRelease, hw, ht, hh, Bool.false_eq_true, if_false]

/-! ### Ring instructions -/

/-- The destination of a ring instruction in a helper: all ones (R168). -/
def onesDest (cx : Cx) (l : Lane) (f : Fields) (k : Nat) : Lane :=
  match f.dst with
  | .v d => (List.range k).foldl (fun l j => l.put cx.free (l.entry (d.val + j)) { val := noSlot }) l
  | .p d => l.setPred d.val true
  | _ => l

theorem atRing_helper {s : State} {cx : Cx} {i : Nat} {l : Lane} {f : Fields} {v : Vals} (wide : Nat) (rel : Bool)
    (serve : Nat → Nat → State → State) (hl : l.helper = true) :
    atRing s cx i l f v wide rel serve = .done (onesDest cx l f wide) [] := by
  unfold atRing
  exact if_pos hl

/-- A lane of the ring's tenant that is not held is served (R352). -/
theorem atRing_ok {s : State} {cx : Cx} {i : Nat} {l : Lane} {f : Fields} {v : Vals} {rel : Bool} (wide : Nat)
    (serve : Nat → Nat → State → State) (hl : l.helper = false)
    (h : (!v.poison && (s.ring (lo32 v.a).toNat).part == (s.space cx.w).part && !s.ms.acqPending cx.w.id i
      && !(rel && s.ms.releaseWaits cx.w.id i 4)) = true) :
    atRing s cx i l f v wide rel serve = .done l [.act (serve (lo32 v.a).toNat (lo32 v.b).toNat)] := by
  simp only [Bool.and_eq_true, Bool.not_eq_true'] at h
  obtain ⟨⟨⟨hp, ht⟩, ha⟩, hr⟩ := h
  simp only [atRing, hl, hp, bne, ht, ha, hr, Bool.not_true, Bool.or_self, Bool.false_eq_true, if_false]

/-- Settles O35: a helper's destination receives all ones; another lane is served. -/
theorem routedRingResults : Obligations.RoutedRingResults := by
  intro s f ok ones
  have hlane : ∀ {cx i l v rel}, l.helper = false → ok cx i l v rel = true → (!v.poison && (s.ring (lo32 v.a).toNat).part ==
      (s.space cx.w).part && !s.ms.acqPending cx.w.id i && !(rel && s.ms.releaseWaits cx.w.id i 4)) = true := by
    intro cx i l v rel hl hok
    simpa only [ok, hl, Bool.false_or] using hok
  refine ⟨runsAs_of _ (rbresSpec s f) _ f s _ rfl ⟨rfl, rfl, rfl, rfl, rfl⟩ ?res,
    runsAs_of _ (rbtakeSpec s f) _ f s _ rfl ⟨rfl, rfl, rfl, rfl, rfl⟩ ?take,
    runsAs_of _ (rbpubSpec s f) _ f s _ rfl ⟨rfl, rfl, rfl, rfl, rfl⟩ ?pub,
    runsAs_of _ (rbfreeSpec s f) _ f s _ rfl ⟨rfl, rfl, rfl, rfl, rfl⟩ ?free,
    runsAs_of _ (rbmetaSpec s f) _ f s _ rfl ⟨rfl, rfl, rfl, rfl, rfl⟩ ?latch⟩
  case res =>
    intro cx i l f v hok
    cases hl : l.helper with
    | true => simp only [rbresSpec, atRing_helper _ _ _ hl, hl, if_true] <;> rfl
    | false => simp only [rbresSpec, atRing_ok _ _ hl (hlane hl hok), hl, Bool.false_eq_true, if_false] <;> rfl
  case take =>
    intro cx i l f v hok
    cases hl : l.helper with
    | true => simp only [rbtakeSpec, atRing_helper _ _ _ hl, hl, if_true] <;> rfl
    | false => simp only [rbtakeSpec, atRing_ok _ _ hl (hlane hl hok), hl, Bool.false_eq_true, if_false] <;> rfl
  case pub =>
    intro cx i l f v hok
    cases hl : l.helper with
    | true => simp only [rbpubSpec, atRing_helper _ _ _ hl, hl, if_true] <;> rfl
    | false => simp only [rbpubSpec, atRing_ok _ _ hl (hlane hl hok), hl, Bool.false_eq_true, if_false] <;> rfl
  case free =>
    intro cx i l f v hok
    cases hl : l.helper with
    | true => simp only [rbfreeSpec, atRing_helper _ _ _ hl, hl, if_true] <;> rfl
    | false => simp only [rbfreeSpec, atRing_ok _ _ hl (hlane hl hok), hl, Bool.false_eq_true, if_false] <;> rfl
  case latch =>
    intro cx i l f v hok
    cases hl : l.helper with
    | true => simp only [rbmetaSpec, atRing_helper _ _ _ hl, hl, if_true] <;> rfl
    | false =>
      obtain ⟨hok, hx⟩ := Bool.and_eq_true_iff.mp hok
      obtain ⟨m, hm⟩ := Option.isSome_iff_exists.mp (by simpa only [hl, Bool.false_or] using hx)
      simp only [rbmetaSpec, atRing_ok _ _ hl (hlane hl hok), hl, hm, Bool.false_eq_true, if_false]

end Sys2Proof.Machine
end

section
/-! Routed rings: accesses to a control block, its configuration, and the co-processor. -/
namespace Sys2Proof.Machine

theorem State.ring_modRing_self (s : State) (k : Nat) (f : Ring → Ring) (hk : k < s.rt.rings.length) :
    (s.modRing k f).ring k = f (s.ring k) := by
  exact (upd_getD s.rt.rings k k f {} hk).trans (if_pos rfl)

/-- A store of a value to GLQ of a routed ring whose queue has room queues its token. -/
theorem State.glqPush_room (s : State) (k : Nat) (v : W64) (hst : (s.ring k).st = 2) (hv : hi32 v = 0)
    (hroom : (s.rt.glq.getD (k / 64) []).length < 1024) :
    s.glqPush k v = some (State.modRing { s with rt := { s.rt with glq := upd s.rt.glq (k / 64) fun q => q ++ [(k, lo32 v)] } } k
      fun r => { r with glq := lo32 v }) := by
  rw [State.glqPush, if_neg (by simp [hst, hv]), if_neg (Nat.not_le.mpr hroom)]

/-- Settles O36, an event at a time: each takes the branch of its function that its hypotheses name. -/
theorem routedRingEvents : Obligations.RoutedRingEvents := by
  unfold Obligations.RoutedRingEvents
  refine ⟨fun s die ring value c => ⟨?glq, rfl, rfl, rfl, ?delivery, ?configured, ?refused⟩, fun s die => ⟨?pop, rfl⟩⟩
  case glq =>
    intro hst hv hroom
    change execGlq die ring value s = _
    rw [execGlq, State.glqPush_room s _ value hst hv hroom]
    rfl
  case delivery =>
    intro t u w1 w0 p q hst h1 h0 hseq
    change execMetadataDelivery die ring s = _
    simp only [execMetadataDelivery, hst, if_false, h1, h0, hseq, ne_eq, not_true_eq_false]
  case configured =>
    intro hst
    refine ⟨_, if_neg (by simp [hst]), fun hk => ?_⟩
    rw [State.ring_modRing_self s _ _ hk]
    refine ⟨hst, rfl, by simp [hst], fun n hn => ?_, rfl, rfl⟩
    have hn' : n < c.slotsm1.toNat + 1 := Nat.lt_succ_of_le hn
    simp [Ring.slot, hst, hn']
  case refused =>
    intro hst hlt
    refine ⟨_, if_pos (by simp [hst, hlt]), fun hk => ?_, rfl⟩
    change ((s.modRing _ _).ring _).st = 0
    rw [State.ring_modRing_self s _ _ hk]
  case pop =>
    intro k token rest xs t hcop hglq hread
    change execGateLogitPop die s = _
    simp only [execGateLogitPop, hcop, hglq, hread, Bool.false_eq_true, if_false]

end Sys2Proof.Machine
end

section
/-! Matrix instructions: the steps they queue, and the signature of a collected multiply. -/
namespace Sys2Proof.Machine

theorem Dec.eq_ok {d : Dec} (h : d.isOk = true) : d = .ok := by
  cases d with
  | ok => rfl
  | hold | wait | trap => exact absurd h Bool.false_ne_true

theorem slotNamed_eq {w : Wg} {i k : Nat} (hk : k < 4) (hb : (w.quarter (i / 64 % 4)).boundAt k = true) : slotNamed w i k = true := by
  simp only [slotNamed, quarterOf, hk, hb, decide_true, Bool.and_self]

/-- Settles O37: an instruction whose operands are within their limits and whose slot and tiles are there acts. -/
theorem matrixStepsAreQueued : Obligations.MatrixStepsAreQueued := by
  intro s f
  refine ⟨onceRuns_dec _ (mxldwOp s f) _ f s _ rfl rfl rfl rfl rfl rfl (fun _ l _ _ => ⟨l, [], rfl⟩) rfl ?ldw,
    onceRuns_dec _ (mxmultOp s f) _ f s _ rfl rfl rfl rfl rfl rfl (fun _ l _ _ => ⟨l, [], rfl⟩) rfl ?mult,
    onceRuns_dec _ (mxpromOp s f) _ f s _ rfl rfl rfl rfl rfl rfl (fun _ l _ _ => ⟨l, [], rfl⟩) rfl ?prom,
    onceRuns_dec _ (mxzeroOp s f) _ f s _ rfl rfl rfl rfl rfl rfl (fun _ l _ _ => ⟨l, [], rfl⟩) rfl ?zero⟩
  case ldw =>
    intro cx i l f' v _ _ h
    simp only [Bool.and_eq_true, Bool.not_eq_true'] at h
    obtain ⟨⟨hrec, hissue⟩, hplace⟩ := h
    by_cases htile : f.q.getLsbD 0 = true
    · rw [if_pos htile, Bool.and_eq_true] at hplace
      obtain ⟨hnamed, hready⟩ := hplace
      have hok : tilesReady s cx.w i l (tilesFrom (lo32 v.a).toNat (blockTiles (recFmt v.b))) = .ok := Dec.eq_ok hready
      simp only [mxldwOp, hrec, hissue, htile, hnamed, hok, Bool.not_true, Bool.and_false, Bool.false_and, Bool.or_self,
        Bool.false_eq_true, if_false, if_true]
    · rw [if_neg htile, beq_iff_eq] at hplace
      simp only [Bool.not_eq_true] at htile
      simp only [mxldwOp, hrec, hissue, htile, hplace, Bool.not_true, Bool.not_false, Bool.false_and, Bool.or_self, Bool.false_eq_true,
        if_false, ne_eq, not_true_eq_false, decide_false, Bool.and_false]
  case mult =>
    intro cx i l f' v _ _ h
    simp only [Bool.and_eq_true, Bool.not_eq_true', decide_eq_true_eq] at h
    obtain ⟨⟨⟨⟨⟨⟨⟨⟨hbound, hrows⟩, hw⟩, ha⟩, hpair⟩, hnamed⟩, hissue⟩, hloaded⟩, hready⟩ := h
    have hok : tilesReady s cx.w i l (chunkTiles (multTiles v).1 (multTiles v).2 0 v.b v.c) = .ok := Dec.eq_ok hready
    simp [mxmultOp, quarterOf, hbound, Nat.not_lt.mpr hrows, hw, ha, hpair, hnamed, hissue, hloaded, hok]
  case prom =>
    intro cx i l f' v _ _ h
    simp only [Bool.and_eq_true, Bool.not_eq_true', decide_eq_true_eq] at h
    obtain ⟨⟨⟨⟨hrows, hslot⟩, hbound⟩, hissue⟩, hloaded⟩ := h
    simp [mxpromOp, slotOf, slotNamed_eq hslot hbound, Nat.not_lt.mpr hrows, hissue, quarterOf, hloaded]
  case zero =>
    intro cx i l f' v _ _ h
    simp only [Bool.and_eq_true, Bool.not_eq_true', Bool.or_eq_true, beq_iff_eq] at h
    obtain ⟨hloaded, hbase⟩ := h
    by_cases hzero : f.a = .zero
    · simp [mxzeroOp, hzero, quarterOf, zeroSlot, hloaded]
    · obtain ⟨⟨hstride, haddr⟩, hphys⟩ := hbase.resolve_left hzero
      simp only [mxzeroOp, hzero, quarterOf, zeroSlot, hloaded, hstride, haddr]
      rcases hphys with (hbound | hsome) | hfree
      · simp [hbound]
      · simp [Option.isNone_eq_false_iff.mpr hsome]
      · simp [hfree]

/-- Settles O38: within the limits of R363 the lane signs, and without a latched block its registers are held. -/
theorem collectedMultiplyIsSigned : Obligations.CollectedMultiplyIsSigned := by
  intro s f
  refine runsAs_of _ (mxmulSpec s f) _ f s _ rfl ⟨rfl, rfl, rfl, rfl, rfl⟩ fun cx i l f' v h => ?_
  by_cases hl : l.helper = true
  · simp only [mxmulSpec, hl, if_true]
  · simp only [hl, Bool.false_or, Bool.and_eq_true, Bool.not_eq_true', decide_eq_true_eq] at h
    obtain ⟨⟨⟨⟨⟨hpoison, hregs⟩, hsign⟩, hpend⟩, hloaded⟩, hpulled⟩ := h
    have hagree : (match (cx.w.cv.getD (mulCv f') {}).pend with
        | some p => !(p.slot == mulSlot f' && p.rowq == mulRowq f' && p.nb == mulNb f' && p.areg == aReg f')
        | none => false) = false := by
      revert hpend
      cases (cx.w.cv.getD (mulCv f') {}).pend with
      | none => exact fun _ => rfl
      | some p => exact fun hp => congrArg Bool.not hp
    simp only [mxmulSpec, hl, Nat.not_lt.mpr hregs, hsign, hpoison, quarterOf, hloaded, Bool.false_eq_true, if_false]
    rw [if_neg (by rw [Bool.not_eq_true]; exact hagree)]
    by_cases hheld : ((cx.w.quarter (i / 64 % 4)).holdAt (mulSlot f')).isSome = true
    · simp only [hheld, if_true]
    · rw [Bool.not_eq_true] at hheld
      rw [hheld, Bool.false_or] at hpulled
      simp only [hheld, Option.isNone_iff_eq_none.mp hpulled, Bool.false_eq_true, if_false]

end Sys2Proof.Machine
end

section
/-! The matrix arrays: a chunk in its row, the instructions that read an array, and an array's steps. -/
namespace Sys2Proof.Machine

/-! ### A chunk in its row (R225, R227) -/

theorem MxSlot.acc?_place {t : MxSlot} {i j : Nat} {a : MxAcc} (h : t.acc? i j = some a) : a.row = i ∧ a.col = j := by
  have := List.find?_some h
  rwa [Bool.and_eq_true, beq_iff_eq, beq_iff_eq] at this

theorem MxSlot.at_place (t : MxSlot) (i j : Nat) : (t.at i j).row = i ∧ (t.at i j).col = j := by
  unfold MxSlot.at
  cases h : t.acc? i j with
  | none => exact ⟨rfl, rfl⟩
  | some a => exact MxSlot.acc?_place h

theorem MxSlot.at_put_same (t : MxSlot) (a : MxAcc) {i j : Nat} (hi : a.row = i) (hj : a.col = j) : (t.put a).at i j = a := by
  simp [MxSlot.at, MxSlot.acc?, MxSlot.put, hi, hj]

theorem MxSlot.at_put_other (t : MxSlot) (a : MxAcc) (i j : Nat) (h : ¬(i = a.row ∧ j = a.col)) : (t.put a).at i j = t.at i j := by
  have hne : (a.row == i && a.col == j) = false := by
    rw [Bool.eq_false_iff, ne_eq, Bool.and_eq_true, beq_iff_eq, beq_iff_eq]
    exact fun ⟨hi, hj⟩ => h ⟨hi.symm, hj.symm⟩
  have hfind : (t.put a).acc? i j = t.acc? i j := by
    simp only [MxSlot.acc?, MxSlot.put, List.find?_cons, hne]
    rw [List.find?_filter]
    refine find_congr' fun b _ => ?_
    by_cases hb : b.row = i ∧ b.col = j
    · obtain ⟨rfl, rfl⟩ := hb
      simp [Classical.not_and_iff_not_or_not.mp h]
    · have : (b.row == i && b.col == j) = false := by
        rw [Bool.eq_false_iff, ne_eq, Bool.and_eq_true, beq_iff_eq, beq_iff_eq]
        exact hb
      simp [this]
  unfold MxSlot.at
  rw [hfind]

/-- What the model folds over the columns of a row: a column with what the chunk gives its accumulator and its poison. -/
def MxSlot.addTerm (i : Nat) (t : MxSlot) (x : Nat × (Nat × Int) × Bool) : MxSlot :=
  let a := t.at i x.1
  let a := { a with poison := a.poison || x.2.2 }
  if x.2.1.1 ≠ 0 then t.put { a with tag := combineTag a.tag x.2.1.1 }
  else if a.tag ≠ 0 then (if x.2.2 then t.put a else t)
  else
    let n := a.fix.toInt + x.2.1.2
    let t := if fitsFix n then t else { t with ovf := true }
    if x.2.1.2 = 0 && !x.2.2 then t
    else t.put { a with fix := BitVec.ofInt 32 (max (-2 ^ 31) (min (2 ^ 31 - 1) n)) }

/-- The terms that a chunk gives the accumulators of a row. -/
def MxSlot.rowTerms (t : MxSlot) (fa fw : Nat) (ra ws : List MxElem) : List (Nat × (Nat × Int) × Bool) :=
  (List.range 64).map fun j =>
    (j, chunkTerm t.ebase.toInt (chunkSum fa fw ra (ws.filter (·.k == j))).1, (chunkSum fa fw ra (ws.filter (·.k == j))).2)

/-- A term that is added to its accumulator as it stands: no special, and the sum stays in range. -/
def MxSlot.Adds (t : MxSlot) (i : Nat) (x : Nat × (Nat × Int) × Bool) : Prop :=
  (t.at i x.1).tag = 0 ∧ x.2.1.1 = 0 ∧ fitsFix ((t.at i x.1).fix.toInt + x.2.1.2) = true

theorem MxSlot.addTerm_same {t : MxSlot} {i : Nat} {x : Nat × (Nat × Int) × Bool} (h : t.Adds i x) :
    ((MxSlot.addTerm i t x).at i x.1).fix = BitVec.ofInt 32 ((t.at i x.1).fix.toInt + x.2.1.2) ∧
      ((MxSlot.addTerm i t x).at i x.1).tag = 0 := by
  obtain ⟨htag, hspecial, hfits⟩ := h
  obtain ⟨hlow, hhigh⟩ : -2 ^ 31 ≤ (t.at i x.1).fix.toInt + x.2.1.2 ∧ (t.at i x.1).fix.toInt + x.2.1.2 ≤ 2 ^ 31 - 1 := by
    simpa [fitsFix] using hfits
  simp only [MxSlot.addTerm, hspecial, htag, hfits, ne_eq, not_true_eq_false, if_false, if_true, Bool.and_eq_true, decide_eq_true_eq,
    Bool.not_eq_true', Int.min_eq_right hhigh, Int.max_eq_right hlow]
  split
  · next hzero => rw [hzero.1, Int.add_zero, BitVec.ofInt_toInt]; exact ⟨rfl, htag⟩
  · obtain ⟨hrow, hcol⟩ := t.at_place i x.1
    rw [MxSlot.at_put_same _ _ (by exact hrow) (by exact hcol)]
    exact ⟨rfl, rfl⟩

/-- A term touches the accumulator of its row and column only. -/
theorem MxSlot.addTerm_other (t : MxSlot) (i k j : Nat) (x : Nat × (Nat × Int) × Bool) (h : ¬(k = i ∧ j = x.1)) :
    (MxSlot.addTerm i t x).at k j = t.at k j := by
  obtain ⟨hrow, hcol⟩ := t.at_place i x.1
  have hput : ∀ (u : MxSlot) (a : MxAcc), a.row = i → a.col = x.1 → (u.put a).at k j = u.at k j := fun u a hr hc =>
    u.at_put_other a k j (by rw [hr, hc]; exact h)
  have hovf : ∀ b : Bool, (if b = true then t else { t with ovf := true }).at k j = t.at k j := fun b => by cases b <;> rfl
  simp only [MxSlot.addTerm]
  split
  · exact hput t _ hrow hcol
  · split
    · split
      · exact hput t _ hrow hcol
      · rfl
    · split
      · exact hovf _
      · rw [hput _ _ (by exact hrow) (by exact hcol), hovf]

theorem MxSlot.foldl_addTerm_other (i k j : Nat) (xs : List (Nat × (Nat × Int) × Bool)) (t : MxSlot)
    (h : ∀ x ∈ xs, ¬(k = i ∧ j = x.1)) : (xs.foldl (MxSlot.addTerm i) t).at k j = t.at k j := by
  induction xs generalizing t with
  | nil => rfl
  | cons x xs ih =>
    rw [List.foldl_cons, ih _ fun y hy => h y (List.mem_cons_of_mem x hy), MxSlot.addTerm_other t i k j x (h x List.mem_cons_self)]

/-- Terms of distinct columns are each added to their own accumulator. -/
theorem MxSlot.foldl_addTerm_same (i : Nat) (xs : List (Nat × (Nat × Int) × Bool)) (t : MxSlot)
    (hcols : (xs.map (·.1)).Nodup) (h : ∀ x ∈ xs, t.Adds i x) (x : Nat × (Nat × Int) × Bool) (hx : x ∈ xs) :
    ((xs.foldl (MxSlot.addTerm i) t).at i x.1).fix = BitVec.ofInt 32 ((t.at i x.1).fix.toInt + x.2.1.2) ∧
      ((xs.foldl (MxSlot.addTerm i) t).at i x.1).tag = 0 := by
  induction xs generalizing t with
  | nil => exact absurd hx (List.not_mem_nil)
  | cons y ys ih =>
    rw [List.map_cons, List.nodup_cons] at hcols
    obtain ⟨hy, hys⟩ := hcols
    have hapart : ∀ z ∈ ys, ¬z.1 = y.1 := fun z hz he => hy (he ▸ List.mem_map_of_mem hz)
    rw [List.foldl_cons]
    rcases List.mem_cons.mp hx with rfl | hx
    · rw [MxSlot.foldl_addTerm_other i i x.1 ys _ fun z hz he => hapart z hz he.2.symm]
      exact MxSlot.addTerm_same (h x List.mem_cons_self)
    · have hkeep : ∀ z ∈ ys, (MxSlot.addTerm i t y).at i z.1 = t.at i z.1 := fun z hz =>
        MxSlot.addTerm_other t i i z.1 y fun he => hapart z hz he.2
      rw [← hkeep x hx]
      refine ih _ hys (fun z hz => ?_) hx
      rw [MxSlot.Adds, hkeep z hz]
      exact h z (List.mem_cons_of_mem y hz)

/-- The row is spilled first when a term takes an accumulator out of its range. -/
def MxSlot.rowFirst (t : MxSlot) (i : Nat) (terms : List (Nat × (Nat × Int) × Bool)) : MxSlot × List Promo :=
  if (terms.any fun x => (t.at i x.1).tag == 0 && x.2.1.1 == 0 && !fitsFix ((t.at i x.1).fix.toInt + x.2.1.2)) = true
  then t.spillRow i else (t, [])

theorem MxSlot.applyRow_eq (t : MxSlot) (fa fw i : Nat) (ra ws : List MxElem) :
    t.applyRow fa fw i ra ws = ((t.rowTerms fa fw ra ws).foldl (MxSlot.addTerm i) (t.rowFirst i (t.rowTerms fa fw ra ws)).1,
      (t.rowFirst i (t.rowTerms fa fw ra ws)).2) := by
  simp only [MxSlot.applyRow, MxSlot.rowTerms, MxSlot.rowFirst]
  rfl

/-- With no accumulator out of range, a chunk adds its terms and spills nothing. -/
theorem MxSlot.applyRow_adds (t : MxSlot) (fa fw i : Nat) (ra ws : List MxElem) (h : ∀ x ∈ t.rowTerms fa fw ra ws, t.Adds i x) :
    t.applyRow fa fw i ra ws = ((t.rowTerms fa fw ra ws).foldl (MxSlot.addTerm i) t, []) := by
  have hfirst : t.rowFirst i (t.rowTerms fa fw ra ws) = (t, []) := by
    refine if_neg ?_
    rw [Bool.not_eq_true, List.any_eq_false]
    intro x hx
    obtain ⟨_, _, hfits⟩ := h x hx
    simp [hfits]
  rw [t.applyRow_eq, hfirst]

theorem MxSlot.applyRow_chunk (t : MxSlot) (fa fw i : Nat) (ra ws : List MxElem)
    (h : ∀ j < 64, (t.at i j).tag = 0 ∧ (chunkTerm t.ebase.toInt (chunkSum fa fw ra (ws.filter (·.k == j))).1).1 = 0 ∧
      fitsFix ((t.at i j).fix.toInt + (chunkTerm t.ebase.toInt (chunkSum fa fw ra (ws.filter (·.k == j))).1).2) = true) :
    (∀ j < 64, ((t.applyRow fa fw i ra ws).1.at i j).fix =
        BitVec.ofInt 32 ((t.at i j).fix.toInt + (chunkTerm t.ebase.toInt (chunkSum fa fw ra (ws.filter (·.k == j))).1).2) ∧
      ((t.applyRow fa fw i ra ws).1.at i j).tag = 0) ∧
    (∀ k j, k ≠ i → (t.applyRow fa fw i ra ws).1.at k j = t.at k j) ∧ (t.applyRow fa fw i ra ws).2 = [] := by
  have hadds : ∀ x ∈ t.rowTerms fa fw ra ws, t.Adds i x := fun x hx => by
    obtain ⟨j, hj, rfl⟩ := List.mem_map.mp hx
    exact h j (List.mem_range.mp hj)
  have hcols : ((t.rowTerms fa fw ra ws).map (·.1)).Nodup := by
    rw [MxSlot.rowTerms, List.map_map]
    exact (List.map_id (List.range 64)).symm ▸ List.nodup_range
  rw [t.applyRow_adds fa fw i ra ws hadds]
  refine ⟨fun j hj => ?_, fun k j hk => ?_, rfl⟩
  · exact MxSlot.foldl_addTerm_same i _ t hcols hadds _ (List.mem_map_of_mem (List.mem_range.mpr hj))
  · exact MxSlot.foldl_addTerm_other i k j _ t fun x _ he => hk he.1

/-! ### The instructions that read an array, and its steps -/

theorem CvReg.word_eq (r : CvReg) (n : W32) : r.word n.toNat = if n = 0 then r.decl else if n = 1 then r.signed else r.word2 := by
  by_cases h0 : n = 0
  · rw [h0]; rfl
  · by_cases h1 : n = 1
    · rw [h1]; rfl
    · have hn0 : n.toNat ≠ 0 := fun h => h0 (BitVec.eq_of_toNat_eq h)
      have hn1 : n.toNat ≠ 1 := fun h => h1 (BitVec.eq_of_toNat_eq h)
      obtain ⟨m, hm⟩ : ∃ m, n.toNat = m + 2 := ⟨n.toNat - 2, by omega⟩
      rw [hm, if_neg h0, if_neg h1]
      rfl

/-- A step whose residue check finds nothing goes on. -/
theorem State.stepCheck_clean (s : State) (core q : Nat) (w : Wg) (x : MxQueued) (k : State → State)
    (h : (s.core core).mismatch.getD 4 0 = 0) : s.stepCheck core q w x k = k s := by
  unfold State.stepCheck
  exact if_pos h

/-- Settles O39: the instructions by their specs, the events in the branch that their hypotheses name. -/
theorem matrixQueriesAndArraySteps : Obligations.MatrixQueriesAndArraySteps := by
  refine ⟨fun s f => ⟨runsAs_of _ (mxrdSpec f) _ f s _ rfl ⟨rfl, rfl, rfl, rfl, rfl⟩ ?rd,
      runsAs_of _ (mxstatSpec f) _ f s _ rfl ⟨rfl, rfl, rfl, rfl, rfl⟩ ?stat,
      runsAs_of _ (mxfenceSpec f) _ f s _ rfl ⟨rfl, rfl, rfl, rfl, rfl⟩ ?fence,
      onceRuns_dec _ (cvsetOp f) _ f s _ rfl rfl rfl rfl rfl rfl (fun _ l _ _ => ⟨l, [], rfl⟩) rfl ?set,
      runsAs_of _ (cvqrySpec f) _ f s _ rfl ⟨rfl, rfl, rfl, rfl, rfl⟩ ?qry⟩,
    fun s core q => ⟨?take, fun w x hfind hcell => ⟨?twice, fun hclean => ⟨?load, ?multiply⟩⟩, ?preempt⟩⟩
  case rd =>
    intro cx i l f' v h
    by_cases hl : l.helper = true
    · simp only [mxrdSpec, hl, if_true]
    · simp only [hl, Bool.false_or, Bool.and_eq_true, Bool.not_eq_true'] at h
      obtain ⟨hpoison, hloaded⟩ := h
      simp only [mxrdSpec, hl, hpoison, quarterOf, slotOf, hloaded, Bool.false_eq_true, if_false]
  case stat =>
    intro cx i l f' v h
    simp only [Bool.and_eq_true, Bool.not_eq_true'] at h
    obtain ⟨hpoison, hloaded⟩ := h
    simp only [mxstatSpec, hpoison, quarterOf, slotOf, hloaded, Bool.false_eq_true, if_false]
    cases (cx.w.quarter (i / 64 % 4)).slot? (lo32 v.b).toNat <;> rfl
  case fence =>
    intro cx i l f' v h
    exact if_pos h
  case set =>
    intro cx i l f' v _ _ h
    simp only [Bool.and_eq_true, Bool.not_eq_true', Bool.or_eq_true, beq_iff_eq] at h
    obtain ⟨hmask, hsigned⟩ := h
    rcases hsigned with hzero | ⟨hbase, hdecl⟩
    · simp only [cvsetOp, hmask, hzero, bne_self_eq_false, Bool.false_and, Bool.or_self, Bool.false_eq_true, if_false]
    · simp only [cvsetOp, hmask, hbase, hdecl, beq_self_eq_true, Bool.and_self, Bool.not_true, Bool.and_false, Bool.or_self,
        Bool.false_eq_true, if_false]
  case qry =>
    intro cx i l f' v h
    simp only [Bool.not_eq_true'] at h
    simp only [cvqrySpec, h, Bool.false_eq_true, if_false, CvReg.word_eq]
  case take =>
    intro w x mult hbusy hquar hnext hmult
    have htake : s.arrayTake core q mult = (s.bindSlots core q).modMx w.id q fun m =>
        { m with steps := m.steps.filter (·.seq != x.seq), cell := some x } := by
      simp only [State.arrayTake, hbusy, hquar, hnext, hmult, Bool.or_self, Bool.false_eq_true, if_false, bne_self_eq_false]
    rw [← htake]
    cases mult <;> rfl
  case twice =>
    intro n hn
    change execArrayStepComplete core q s = _
    simp only [execArrayStepComplete, hfind, hcell, State.stepCheck, hn]
    rw [if_neg (by omega), if_neg (by omega)]
  case load =>
    intro op d s1 r hstep hload
    change execArrayStepComplete core q s = _
    simp only [execArrayStepComplete, hfind, hcell, State.stepCheck_clean s core q w x _ hclean, hstep, finishLdw, hload]
  case multiply =>
    intro op k rowq nb areg hold brec latched elems t d s1 ws reload s2 n ovf e hstep hslot hdesc hown es happly
    change execArrayStepComplete core q s = _
    simp only [execArrayStepComplete, hfind, hcell, State.stepCheck_clean s core q w x _ hclean, hstep, finishMul, hslot, hdesc, hown]
    simp only [es] at happly
    simp only [happly, mxValue]
  case preempt =>
    intro u w t hfree hon hsince hnow hnone hcls hended hslots
    change execArraySlotPreemption core q s = _
    have hwaits : ((t.onArray core).filter fun w => (w.quarter q).since.any fun at' => decide (at' + 10000 ≤ t.ck.now)) = [u] := by
      simp [hon, hsince, hnow, hnone]
    have hholders : ((t.onArray core).filter fun w' => !w'.ended && decide (w'.cls < max 0 u.cls) &&
        (w'.quarter q).slots.any fun m => m.any (·.phys != 4)) = [w] := by
      rw [hon]
      simp only [List.filter_cons, hended, hcls, hslots, Nat.zero_max, Nat.lt_irrefl, decide_true, decide_false, Bool.not_false,
        Bool.and_self, Bool.and_false, Bool.false_and, if_true, Bool.false_eq_true, if_false, List.filter_nil]
    have ht : s.bindSlots core q = t := rfl
    clear_value t
    simp only [execArraySlotPreemption, ht, hfree, List.isEmpty_nil, Bool.not_true, Bool.false_eq_true, if_false, hwaits,
      List.foldl_cons, List.foldl_nil, hholders]

/-- Settles O40: the chunk by `MxSlot.applyRow_chunk`, the rest as O39 says it. -/
theorem chunkIsAddedToTheRow : Obligations.ChunkIsAddedToTheRow :=
  ⟨fun t fa fw i ra ws h => MxSlot.applyRow_chunk t fa fw i ra ws h, matrixQueriesAndArraySteps⟩

end Sys2Proof.Machine
end

section
/-! The Drift store: where a key is placed, its instructions and its engine operations. -/
namespace Sys2Proof.Machine

/-! ### A key's place (R84 to R87) -/

@[simp] theorem DTable.bump_entries (t : DTable) (i n : Nat) : (t.bump i n).entries = t.entries := rfl

/-- A table of the same configuration finds what its entries hold. -/
theorem DTable.find_entries (u t : DTable) (h : u.cfg = t.cfg) (k : W64) :
    u.find k = u.entries.find? fun e => e.set == t.setOf k && e.key == k := by
  simp only [DTable.find, DTable.setOf, DTable.sets, h]

/-- A map of entries that keeps sets and keys finds the image of what was found. -/
theorem DTable.find_map {es : List DEntry} {g : DEntry → DEntry} (hset : ∀ e, (g e).set = e.set) (hkey : ∀ e, (g e).key = e.key)
    (st : Nat) (k : W64) :
    ((es.map g).find? fun e => e.set == st && e.key == k) = (es.find? fun e => e.set == st && e.key == k).map g := by
  rw [List.find?_map]
  simp only [Function.comp_def, hset, hkey]

/-- A new entry is found when its key was not there. -/
theorem DTable.find_install {t : DTable} {k : KeyVal} (way : Nat) (h : t.find k.key = none) :
    ((t.install (t.setOf k.key) way k).find k.key).map (fun e => (e.way, e.val, e.poison)) = some (way, k.val, k.poison) := by
  rw [DTable.find_entries t t rfl] at h
  rw [DTable.find_entries _ t (by rfl)]
  simp [DTable.install, List.find?_append, h]

/-- An entry that leaves makes no key appear. -/
theorem DTable.find_remove {t : DTable} {k : W64} (x : DEntry) (h : t.find k = none) : (t.remove x).find k = none := by
  rw [DTable.find_entries t t rfl] at h
  rw [DTable.find_entries _ t (by rfl), DTable.remove, DTable.find_map (fun e => by split <;> rfl) (fun e => by split <;> rfl), Option.map_eq_none_iff,
    List.find?_eq_none]
  exact fun e he => List.find?_eq_none.mp h e (List.mem_filter.mp he).1

/-- Settles O41: the cases of Table 4-5 are the branches of `applyKey`, and the table then finds the key where it was put. -/
theorem driftKeyIsPlaced : Obligations.DriftKeyIsPlaced := by
  refine fun t k => ⟨fun e he => ?combined, fun w hnone hway => ?free, fun hnone hfull => ⟨fun old hpol hold => ?evict, fun hpol => ?bypass,
    fun hpol => ?trap⟩⟩
  case combined =>
    refine ⟨_, by simp only [DTable.applyKey, he]; rfl, ?_⟩
    rw [DTable.find_entries t t rfl] at he
    rw [DTable.find_entries _ t (by rfl), DTable.bump_entries, DTable.find_map (fun e => by split <;> rfl) (fun e => by split <;> rfl), he, Option.map_some]
    simp
  case free =>
    refine ⟨_, by simp only [DTable.applyKey, hnone, hway]; rfl, ?_⟩
    exact DTable.find_install w hnone
  case evict =>
    refine ⟨_, by simp only [DTable.applyKey, hnone, hfull, hpol, hold]; rfl, ?_⟩
    exact DTable.find_install (t := t.remove old) old.way (DTable.find_remove old hnone)
  case bypass =>
    exact ⟨t.bump 4 1, by simp only [DTable.applyKey, hnone, hfull, hpol], rfl⟩
  case trap =>
    simp only [DTable.applyKey, hnone, hfull, hpol]

end Sys2Proof.Machine
end

section
/-! The Drift store: its instructions, and the engine operations that they begin. -/
namespace Sys2Proof.Machine

/-- Settles O42: each instruction by the spec that it has on the named table. -/
theorem driftInstructionResults : Obligations.DriftInstructionResults := by
  refine ⟨fun s f tb htb => runsAs_of _ (kaccSpec s (some tb) f) _ f s _ (by rw [← htb]; rfl) ⟨rfl, rfl, rfl, rfl, rfl⟩ ?acc,
    fun s f => ⟨fun tb n htb hdst => runsAs_of _ (kprobeSpec (some tb) f) _ f s _ (by rw [← htb]; rfl) ⟨rfl, rfl, rfl, rfl, rfl⟩ ?probe,
      runsAs_of _ (kstatSpec f) _ f s _ rfl ⟨rfl, rfl, rfl, rfl, rfl⟩ ?stat,
      onceRuns_dec _ (kcfgOp s f) _ f s _ rfl rfl rfl rfl rfl rfl (fun _ l _ _ => ⟨l, [], rfl⟩) rfl ?cfg,
      fun tb htb => onceRuns_dec _ (kclearOp (some tb) f) _ f s _ (by rw [← htb]; rfl) rfl rfl rfl rfl rfl (fun _ l _ _ => ⟨l, [], rfl⟩) rfl
        fun _ _ _ _ _ _ _ _ => rfl⟩⟩
  case acc =>
    intro cx i l f' v h
    by_cases hl : l.helper = true
    · simp only [kaccSpec, hl, if_true]
    · simp only [hl, Bool.false_or, Bool.and_eq_true, Bool.not_eq_true'] at h
      obtain ⟨hpoison, hplan⟩ := h
      simp only [kaccSpec, hl, hpoison, Bool.false_eq_true, if_false]
      cases hp : (kaccPlan s cx.w tb (f'.var.toNat % 4) (kaccLanes cx (some tb) f')).1 with
      | ok => rfl
      | wait fx => simp only [hp, Bool.false_eq_true] at hplan
      | trap c x fx => simp only [hp, Bool.false_eq_true] at hplan
  case probe =>
    intro cx i l f' v h
    simp only [kprobeSpec, Option.any_some]
    cases f'.dst with
    | v m =>
      by_cases hl : l.helper = true
      · simp only [hl, if_true]
      · simp only [hl, Bool.false_or, Bool.and_eq_true, Bool.not_eq_true'] at h
        obtain ⟨hpoison, hpred⟩ := h
        simp only [hl, hpoison, Bool.false_eq_true, if_false]
        refine if_neg ?_
        cases hc : f'.c with
        | p k => simpa only [hc, Bool.not_eq_true', Bool.not_eq_true] using hpred
        | _ => exact Bool.false_ne_true
    | _ => rfl
  case stat =>
    intro cx i l f' v h
    rw [Bool.not_eq_true'] at h
    simp only [kstatSpec, h, Bool.false_eq_true, if_false]
    cases cx.w.table (f'.var.toNat % 4) with
    | none => rfl
    | some t =>
      simp only [Option.map_some, Option.getD_some, DTable.counter]
      by_cases h0 : (lo32 v.b).toNat = 0
      · simp only [h0, if_true, Nat.zero_lt_succ]
      · simp only [h0, if_false]
  case cfg =>
    intro cx i l f' v _ _ h
    simp only [Bool.and_eq_true, Bool.or_eq_true, bne_iff_ne, beq_iff_eq, decide_eq_true_eq] at h
    obtain ⟨⟨hcfg, hring⟩, hroom⟩ := h
    have hpol : ((DTable.pol { cfg := v.a, ring := v.b } != 2) && (v.b == 0 || v.b.toNat % 64 != 0)) = false := by
      rcases hring with hpol | ⟨hzero, halign⟩
      · have : DTable.pol { cfg := v.a, ring := v.b } = 2 := hpol
        simp only [this, bne_self_eq_false, Bool.false_and]
      · simp only [beq_eq_false_iff_ne.mpr hzero, halign, bne_self_eq_false, Bool.or_self, Bool.and_false]
    simp only [kcfgOp, hcfg, hpol, Nat.not_lt.mpr hroom, Bool.not_true, Bool.or_self, Bool.false_eq_true, if_false]

end Sys2Proof.Machine
end

section
/-! The Drift store: the operations of its engine. -/
namespace Sys2Proof.Machine

/-- The counts of a block of records run from its address (the ring whose capacity is the whole space). -/
theorem RingDesc.addr_block (a : W64) (w r i : Nat) :
    RingDesc.addr { base := a, cap := 2 ^ 64, widx := w, ridx := r } i = a + BitVec.ofNat 64 (i % 2 ^ 64 * 16) := by
  simp only [RingDesc.addr, Nat.mod_mod]

theorem write_clean_done (cx : Cx) (l : Lane) (o : Operand) (wide : Bool) (v tag : W64) : ∃ l' fx, write cx l o wide v false tag = .done l' fx := by
  cases o with
  | v n | s n | p n | qtx n => exact ⟨_, _, rfl⟩
  | _ => exact ⟨l, [], rfl⟩

theorem DTable.ordered_empty {t : DTable} (h : t.entries = []) : t.ordered = [] := by
  rw [DTable.ordered, h, List.foldr_nil]

theorem State.addFlushed_none (s : State) (op : Nat) (w : Wg) (t : DTable) (first : Nat) : s.addFlushed op w t first [] = s := by
  unfold State.addFlushed
  split <;> rfl

/-- Settles O43: an instruction's operands come to nothing else, and an event takes the branch that its hypotheses name. -/
theorem driftEngineOperations : Obligations.DriftEngineOperations := by
  refine ⟨fun s f tb htb => ⟨onceRuns_dec _ (kdrainOp s (some tb) f) _ f s _ (by rw [← htb]; rfl) rfl rfl rfl rfl rfl ?drained rfl ?drain,
      fun hempty => onceRuns_of _ (kflushOp s (some tb) f) _ f s _ (by rw [← htb]; rfl) rfl rfl (fun _ _ h => h) ?flush (fun _ _ _ _ _ _ => rfl)
        (fun _ l _ _ => ⟨l, [], rfl⟩) ?flushed,
      onceRuns_dec _ (kmergeBlockOp s (some tb) f) _ f s _ (by rw [← htb]; rfl) rfl rfl rfl rfl rfl (fun _ l _ _ => ⟨l, [], rfl⟩) rfl ?block,
      onceRuns_dec _ (kmergeRingOp s (some tb) f) _ f s _ (by rw [← htb]; rfl) rfl rfl rfl rfl rfl (fun _ l _ _ => ⟨l, [], rfl⟩) rfl ?ring⟩,
    fun s => ⟨?written, fun op o n addr left done start w t hop hkind hw ht => ⟨?completed, ?batch⟩, ?owed⟩⟩
  case drained =>
    intro cx l f' v
    exact write_clean_done cx l f'.dst false _ 0
  case drain =>
    intro cx i l f' v _ _ h
    simp only [Bool.and_eq_true, Bool.not_eq_true', beq_iff_eq] at h
    obtain ⟨⟨halign, hissue⟩, hfull⟩ := h
    simp only [kdrainOp, halign, hissue, ne_eq, not_true_eq_false, if_false, Bool.false_or]
    refine if_neg ?_
    cases hc : f'.c with
    | h n => simpa only [hc, Bool.not_eq_true', Bool.not_eq_true, Bool.not_eq_false] using hfull
    | _ => exact Bool.false_ne_true
  case flush =>
    intro cx i l f' v _ _ h
    rw [Bool.not_eq_true'] at h
    simp only [kflushOp, h, Bool.false_eq_true, if_false, flushPlan, hempty, List.isEmpty_nil, if_true]
  case flushed =>
    intro cx i l f' v _ _
    funext t
    simp only [kflushOp, flushPlan, hempty, List.isEmpty_nil, if_true, DTable.ordered_empty hempty, List.map_nil, State.addFlushed_none,
      List.length_nil]
  case block =>
    intro cx i l f' v _ _ h
    simp only [Bool.and_eq_true, Bool.not_eq_true', beq_iff_eq] at h
    obtain ⟨halign, hissue⟩ := h
    simp only [kmergeBlockOp, halign, hissue, ne_eq, not_true_eq_false, if_false, Bool.false_eq_true]
  case ring =>
    intro cx i l f' v _ _ h
    simp only [Bool.and_eq_true, Bool.not_eq_true', beq_iff_eq, bne_iff_ne] at h
    obtain ⟨⟨hzero, halign⟩, hissue⟩ := h
    simp only [kmergeRingOp, halign, hissue, hzero, ne_eq, not_true_eq_false, decide_false, Bool.or_self, Bool.false_eq_true, if_false]
  case written =>
    intro asid ring x y hfirst holdest hfree
    change execDriftRingWrite asid ring s = _
    simp only [execDriftRingWrite, State.oldestWrite, hfirst, Option.bind_some, holdest, hfree, Bool.false_eq_true, if_false]
  case completed =>
    intro hle hnone
    change execKmergeBatch op s = _
    simp only [execKmergeBatch, hop, hkind, State.mergeStep, hw, Option.bind_some, ht, hle, hnone, Bool.false_and, Bool.false_eq_true, if_false, if_true]
  case batch =>
    intro s1 rs hlt hread
    change execKmergeBatch op s = _
    simp only [execKmergeBatch, hop, hkind, State.mergeStep, hw, Option.bind_some, ht, Nat.not_le.mpr hlt, hread, Bool.false_and, Bool.false_eq_true, if_false, RingDesc.addr_block]
  case owed =>
    intro op o n addr left done start hop hkind
    change execKmergeBatch op s = _
    simp only [execKmergeBatch, hop, hkind, if_true, Option.getD_some]

end Sys2Proof.Machine
end

section
/-! The iterator engine: its instructions, the elements of its sources, and a pull's commit. -/
namespace Sys2Proof.Machine

/-! ### Instructions -/

/-- What a push meets when its slot admits it: an empty queue, a physical slot, a legal object that the stack takes. -/
def pushReady (s : State) (mk : Vals → ItrObj) (cx : Cx) (i : Nat) (_ : Lane) (f : Fields) (v : Vals) : Bool :=
  let x := cx.w.itrSlot (bits f.q 11 9)
  (mk v).ok && x.queue.isEmpty && !x.unbound && (x.push f.var (mk v)).isSome
    && (x.bound || decide (s.itrHeld cx.w.core < 32)) && !issueHolds s cx i

/-- A push whose slot admits it appends its object. -/
theorem push_runs {ins : Instr} {s : State} {f : Fields} {q : Bool} {a b c : SRole} {mk : Vals → ItrObj}
    (he : exec ins s = onceExec (pushOp s f q a b c mk) f s) :
    OnceAs ins s f
      { sig := { var := f.var &&& 12 == 0, q := q, a := a, b := b, c := c, unit := 4 }
        dec := fun _ _ _ _ _ => .ok
        act := fun cx _ _ f v t => t.modItr cx.w.id (bits f.q 11 9) fun x => (x.push f.var (mk v)).getD x }
      (pushReady s mk) := by
  refine onceRuns_dec _ (pushOp s f q a b c mk) _ f s _ he rfl rfl rfl rfl rfl (fun _ l _ _ => ⟨l, [], rfl⟩) rfl fun cx i l f' v _ _ h => ?_
  simp only [pushReady, Bool.and_eq_true, Bool.or_eq_true, Bool.not_eq_true', decide_eq_true_eq] at h
  obtain ⟨⟨⟨⟨⟨hok, hqueue⟩, hunbound⟩, hpush⟩, hheld⟩, hissue⟩ := h
  obtain ⟨y, hy⟩ := Option.isSome_iff_exists.mp hpush
  have hphys : (!(cx.w.itrSlot (bits f'.q 11 9)).bound && decide (32 ≤ s.itrHeld cx.w.core)) = false := by
    rcases hheld with hbound | hroom
    · rw [hbound, Bool.not_true, Bool.false_and]
    · rw [decide_eq_false (Nat.not_le.mpr hroom), Bool.and_false]
  simp only [pushOp, hqueue, hunbound, hissue, hok, hy, hphys, Bool.not_true, Bool.or_self, Bool.false_eq_true, if_false]

theorem imageOperands_ok {cx : Cx} {v : Vals} (hk : (lo32 v.b).toNat ≤ 7) (ha : v.a.toNat % 16 = 0) (d : Dec) :
    (if 7 < (lo32 v.b).toNat then badItr cx else if v.a.toNat % 16 ≠ 0 then .trap 9 v.a else d) = d := by
  rw [if_neg (Nat.not_lt.mpr hk), if_neg (Classical.not_not.mpr ha)]

/-- Settles O44: a push by `push_runs`, the others by the operands that let them go on. -/
theorem iteratorInstructionResults : Obligations.IteratorInstructionResults := by
  refine ⟨fun s f => ⟨push_runs rfl, push_runs rfl, push_runs rfl, push_runs rfl, push_runs rfl, push_runs rfl, push_runs rfl,
      push_runs rfl, push_runs rfl⟩,
    fun s f => ⟨runsAs_of _ (itrnextSpec f) _ f s _ rfl ⟨rfl, rfl, rfl, rfl, rfl⟩ ?next,
      onceRuns_dec _ (itrenoughOp f) _ f s _ rfl rfl rfl rfl rfl rfl (fun _ l _ _ => ⟨l, [], rfl⟩) rfl ?enough,
      onceRuns_dec _ (itrsaveOp s f) _ f s _ rfl rfl rfl rfl rfl rfl (fun _ l _ _ => ⟨l, [], rfl⟩) rfl ?save,
      onceRuns_dec _ (itrloadOp s f) _ f s _ rfl rfl rfl rfl rfl rfl (fun _ l _ _ => ⟨l, [], rfl⟩) rfl ?load⟩⟩
  case next =>
    intro cx i l f' v h
    simp only [Bool.and_eq_true, Bool.not_eq_true'] at h
    obtain ⟨hpoison, hdec⟩ := h
    simp only [itrnextSpec, hpoison, Dec.eq_ok hdec, pullPred]
  case enough =>
    intro cx i l f' v _ _ h
    exact if_neg (Nat.not_lt.mpr (of_decide_eq_true h))
  case save =>
    intro cx i l f' v _ _ h
    simp only [Bool.and_eq_true, Bool.not_eq_true', decide_eq_true_eq, beq_iff_eq] at h
    obtain ⟨⟨hk, ha⟩, hissue⟩ := h
    simp only [itrsaveOp, imageOperands_ok hk ha, hissue, Bool.false_eq_true, if_false]
  case load =>
    intro cx i l f' v _ _ h
    simp only [Bool.and_eq_true, Bool.not_eq_true', decide_eq_true_eq, beq_iff_eq, Option.any_eq_true, Bool.or_eq_true] at h
    obtain ⟨⟨⟨hk, ha⟩, hissue⟩, opens, hopens, hphys⟩ := h
    simp only [itrloadOp, imageOperands_ok hk ha, hissue, hopens, Bool.false_eq_true, if_false]
    refine if_neg ?_
    rcases hphys with (hclosed | hbound) | hroom
    · simp only [hclosed, Bool.false_and, Bool.false_eq_true, not_false_eq_true]
    · simp only [hbound, Bool.not_true, Bool.and_false, Bool.false_and, Bool.false_eq_true, not_false_eq_true]
    · simp only [Nat.not_le.mpr hroom, decide_false, Bool.and_false, Bool.false_eq_true, not_false_eq_true]

/-! ### Elements (R235) -/

/-- Below HI, a RANGE with a positive step is at its start plus its position times its step. -/
theorem rangeAt_below (o : ItrObj) (hpos : o.pos < 2 ^ 32 - 1) (hstep : 0 < o.w3.toInt) (hlt : o.w1.toInt + o.pos * o.w3.toInt < o.w2.toInt) :
    rangeAt o = some (o.w1 + BitVec.ofNat 64 o.pos * o.w3) := by
  have hhi : o.w2.toInt < 2 ^ 63 := BitVec.toInt_lt
  have hlo : -(2 ^ 63) ≤ o.w1.toInt := BitVec.le_toInt o.w1
  have hprod : 0 ≤ (o.pos : Int) * o.w3.toInt := Int.mul_nonneg (Int.natCast_nonneg _) (Int.le_of_lt hstep)
  have hval : BitVec.ofInt 64 (o.w1.toInt + o.pos * o.w3.toInt) = o.w1 + BitVec.ofNat 64 o.pos * o.w3 := by
    rw [BitVec.ofInt_add, BitVec.ofInt_mul, BitVec.ofInt_toInt, BitVec.ofInt_toInt, BitVec.ofInt_natCast]
  have hin : (o.pos = 2 ^ 32 - 1 || (0 < o.w3.toInt && o.w2.toInt ≤ o.w1.toInt + o.pos * o.w3.toInt)
      || (o.w3.toInt < 0 && o.w1.toInt + o.pos * o.w3.toInt ≤ o.w2.toInt)
      || o.w1.toInt + o.pos * o.w3.toInt < -(2 ^ 63) || 2 ^ 63 ≤ o.w1.toInt + o.pos * o.w3.toInt) = false := by
    simp only [Bool.or_eq_false_iff, Bool.and_eq_false_iff, decide_eq_false_iff_not]
    omega
  rw [rangeAt, if_neg (by rw [hin]; exact Bool.false_ne_true), hval]

/-- Settles O46: an element is the branch of its object's kind; the instructions are as O44 says. -/
theorem iteratorElementRules : Obligations.IteratorElementRules := by
  refine ⟨fun core n i sp c => ⟨?range, fun _ hpos hstep hlt => rangeAt_below _ hpos hstep hlt, ?listEnd, ?list, ?affine⟩,
    iteratorInstructionResults⟩
  case range =>
    intro hkind
    simp only [nextElem, hkind] <;> rfl
  case listEnd =>
    intro hkind hend
    simp only [nextElem, hkind, hend, if_true]
  case list =>
    intro d v p hkind hpos hread
    simp only [nextElem, hkind, Nat.not_le.mpr hpos, if_false, hread]
  case affine =>
    intro d e p hkind hchild
    simp only [nextElem, hkind, childB, hchild]

/-! ### A pull's commit (R237 to R239) -/

/-- Settles O45: a pull at the head of the queue of a VALID slot that has its physical slot is evaluated and committed. -/
theorem iteratorPullsCommit : Obligations.IteratorPullsCommit := by
  intro s wg slot core w recv help pred dst d2 rest hw hid hplace hbound hstate hqueue
  subst hid
  have hcommit : exec (.iteratorPullCommit w.id slot) s = .next (s.commitPull w slot recv help pred) := by
    change execIteratorPullCommit w.id slot s = _
    have hrebind : (if w.ended = true then s else s.rebindItr w slot) = s := by
      simp only [State.rebindItr, hbound, Bool.false_and, Bool.false_eq_true, if_false, ite_self]
    have hsaved : (w.place == .saved) = false := by rw [hplace]; rfl
    simp only [execIteratorPullCommit, hw, hsaved, hrebind, hbound, hqueue, Bool.false_and, Bool.false_eq_true, if_false]
  have hcore : w.core = core := by rw [Wg.core, hplace]
  rw [hcommit]
  refine ⟨fun t es os ended hpull => ?_, fun t c tv hpull => ?_⟩
  · simp only [State.commitPull, hcore, hstate, if_true, hpull]
  · simp only [State.commitPull, hcore, hstate, if_true, hpull]

end Sys2Proof.Machine
end

section
/-! The image of an iterator slot (R241, Table 11-1). -/
namespace Sys2Proof.Machine

/-- The roots are no more than the objects. -/
theorem pushRoot_length {o : ItrObj} {rs rs' : List ItrObj} (h : pushRoot o rs = some rs') : rs'.length ≤ rs.length + 1 := by
  unfold pushRoot at h
  split at h
  · cases h; simp
  · split at h
    · cases h
    · cases h; simp
  · split at h
    · cases h
    · cases h; simp
  · cases h

theorem foldl_pushRoot_length (os : List ItrObj) (r : Option (List ItrObj)) (rs' : List ItrObj) (n : Nat)
    (hr : ∀ rs, r = some rs → rs.length ≤ n) (h : os.foldl (fun r o => r.bind (pushRoot o)) r = some rs') : rs'.length ≤ n + os.length := by
  induction os generalizing r n with
  | nil => exact hr rs' h
  | cons o os ih =>
    have hstep : ∀ rs, (r.bind (pushRoot o)) = some rs → rs.length ≤ n + 1 := fun rs hrs => by
      obtain ⟨rs0, h0, hpush⟩ := Option.bind_eq_some_iff.mp hrs
      exact Nat.le_trans (pushRoot_length hpush) (Nat.succ_le_succ (hr rs0 h0))
    have := ih _ (n + 1) hstep h
    rw [List.length_cons]
    omega

theorem rootsOf_length {os rs : List ItrObj} (h : rootsOf os = some rs) : rs.length ≤ os.length := by
  have := foldl_pushRoot_length os (some []) rs 0 (fun _ he => by cases he; exact Nat.le_refl 0) h
  omega

/-- The four words of an object. -/
def ItrObj.words (o : ItrObj) : List W64 := [o.w0, o.w1, o.w2, o.w3]

theorem objsOf_words (os : List ItrObj) (rest : List W64) : objsOf os.length (os.flatMap ItrObj.words ++ rest) = os := by
  induction os with
  | nil => rfl
  | cons o os ih =>
    rw [List.flatMap_cons, List.append_assoc]
    exact congrArg (o :: ·) ih

/-- A bit of a number as a flag. -/
theorem testBit_of {n k : Nat} {b : Bool} (h : n / 2 ^ k % 2 = b.toNat) : n.testBit k = b := by
  rw [Nat.testBit_eq_decide_div_mod_eq, h]
  cases b <;> rfl

theorem ite_flag (b : Bool) (n : Nat) : (if b then n else 0) = b.toNat * n := by
  cases b with
  | false => exact (Nat.zero_mul n).symm
  | true => exact (Nat.one_mul n).symm

/-- The header as a number: no field reaches into the next. -/
theorem ItrSlot.toNat_header (x : ItrSlot) (hstate : x.state < 4) (hobjs : x.objs.length < 16) (hroots : x.nroot < 16) :
    x.header.toNat = x.state * 2 ^ 62 + x.w64.toNat * 2 ^ 61 + x.bnd.toNat * 2 ^ 60 + x.err.toNat * 2 ^ 59 +
      x.objs.length * 2 ^ 52 + x.nroot * 2 ^ 48 := by
  have hw := x.w64.toNat_le
  have hb := x.bnd.toNat_le
  have he := x.err.toNat_le
  rw [ItrSlot.header, BitVec.toNat_ofNat, ite_flag, ite_flag, ite_flag]
  exact Nat.mod_eq_of_lt (by omega)

/-- The fields of a header whose numbers fit them. -/
theorem ItrSlot.header_fields (x : ItrSlot) (hstate : x.state < 4) (hobjs : x.objs.length < 16) (hroots : x.nroot < 16) :
    bits x.header 63 62 = x.state ∧ x.header.getLsbD 61 = x.w64 ∧ x.header.getLsbD 60 = x.bnd ∧ x.header.getLsbD 59 = x.err ∧
      bits x.header 58 56 = 0 ∧ bits x.header 55 52 = x.objs.length ∧ bits x.header 51 48 = x.nroot ∧ bits x.header 47 0 = 0 := by
  have hw := x.w64.toNat_le
  have hb := x.bnd.toNat_le
  have he := x.err.toNat_le
  simp only [bits_eq_div_mod, ← BitVec.testBit_toNat, x.toNat_header hstate hobjs hroots]
  exact ⟨by omega, testBit_of (by omega), testBit_of (by omega), testBit_of (by omega), by omega, by omega, by omega, by omega⟩

/-- Settles O47: the header's fields by `ItrSlot.header_fields`, the objects by `objsOf_words`. -/
theorem iteratorImageRoundTrip : Obligations.IteratorImageRoundTrip := by
  intro x rs hlen hok hroots hnroot hstate
  have hfew : rs.length ≤ x.objs.length := rootsOf_length hroots
  obtain ⟨hst, hw64, hbnd, herr, hlow, hn, hnr, hzero⟩ := x.header_fields (by omega) (by omega) (by omega)
  have hobjs := objsOf_words x.objs (List.replicate (32 - (x.objs.flatMap ItrObj.words).length) 0)
  refine ⟨{ state := x.state, w64 := x.w64, bnd := x.bnd, err := x.err, nroot := rs.length, deliv := x.deliv, objs := x.objs }, ?_,
    rfl, rfl, rfl, rfl, rfl, rfl⟩
  change slotOfImage (x.header :: x.deliv :: (x.objs.flatMap ItrObj.words ++ List.replicate (32 - (x.objs.flatMap ItrObj.words).length) 0)) = _
  simp only [slotOfImage, hn, hobjs, hlow, hzero, hst, hnr, hw64, hbnd, herr, hok, hroots, hnroot, bne_self_eq_false,
    Nat.not_lt.mpr hlen, decide_false, Bool.not_true, Bool.or_self, Bool.false_eq_true, if_false]
  refine if_neg ?_
  rcases hstate with ⟨h1, hmany⟩ | ⟨h2, hone⟩
  · simp [h1, hmany]
  · simp [h2, hone]

end Sys2Proof.Machine
end

section
/-! Copies, handle reads, and the Vervo links. -/
namespace Sys2Proof.Machine

/-- A full handle without a mark is read: its acquire, then what follows. -/
theorem readHandle_unmarked {l : Lane} {o : Operand} (k : Lane → LOut) (h : (srcMark l o false).isNone = true) :
    readHandle l o k = (k (srcDone l o false)).addFx (readAcq [{ i := 0, l, o, wide := false, trap := false, nth := 0 }] 0) := by
  simp only [readHandle, Option.isNone_iff_eq_none.mp h]

/-- Settles O48: an instruction's operands come to nothing else, and a copy takes its next step. -/
theorem copyLinkAndHandleResults : Obligations.CopyLinkAndHandleResults := by
  intro s f
  refine ⟨onceRuns_dec _ (cpyOp s f) _ f s _ rfl rfl rfl rfl rfl rfl (fun _ l _ _ => ⟨l, [], rfl⟩) rfl ?cpy,
    onceRuns_dec _ (cpy2dOp s f) _ f s _ rfl rfl rfl rfl rfl rfl (fun _ l _ _ => ⟨l, [], rfl⟩) rfl ?rows,
    onceRuns_dec _ (veerOp s f) _ f s _ rfl rfl rfl rfl rfl rfl (fun _ l _ _ => ⟨l, [], rfl⟩) rfl ?veer,
    runsAs_self rfl,
    fun h hh => ⟨runsAs_self rfl, runsAs_of _ (ftestSpec f) _ f s _ rfl ⟨rfl, rfl, rfl, rfl, rfl⟩ ?test,
      runsAs_of _ (fcancelSpec f) _ f s _ rfl ⟨rfl, rfl, rfl, rfl, rfl⟩ ?cancel⟩, ?step⟩
  case cpy =>
    intro cx i l f' v _ _ h
    simp only [Bool.and_eq_true, Bool.not_eq_true', decide_eq_true_eq] at h
    obtain ⟨hlen, hissue⟩ := h
    simp only [cpyOp, Nat.not_le.mpr hlen, hissue, Bool.false_eq_true, if_false]
  case rows =>
    intro cx i l f' v _ _ h
    simp only [Bool.and_eq_true, Bool.not_eq_true', decide_eq_true_eq] at h
    obtain ⟨⟨hpoison, hlen⟩, hissue⟩ := h
    simp only [cpy2dOp, Nat.not_le.mpr hlen, hissue, hpoison, Bool.false_eq_true, if_false]
  case veer =>
    intro cx i l f' v _ _ h
    simp only [Bool.and_eq_true, Bool.or_eq_true, Bool.not_eq_true', decide_eq_true_eq] at h
    obtain ⟨hroom, hissue⟩ := h
    simp only [veerOp, veerLink, hissue, Bool.or_false]
    rcases hroom with hout | hfew
    · simp only [hout, Bool.not_true, Bool.false_and, Bool.false_eq_true, if_false]
    · simp only [Nat.not_le.mpr hfew, decide_false, Bool.and_false, Bool.false_eq_true, if_false]
  case test =>
    intro cx i l f' v hok
    rw [Bool.or_eq_true] at hok
    by_cases hempty : handleEmpty l f'.a = true
    · simp only [ftestSpec, hempty, if_true]
    · simp only [ftestSpec, hempty, readHandle_unmarked _ (hok.resolve_left hempty), Bool.false_eq_true, if_false]
  case cancel =>
    intro cx i l f' v hok
    simp only [Bool.and_eq_true, Bool.not_eq_true'] at hok
    obtain ⟨hfull, hmark⟩ := hok
    simp only [fcancelSpec, hfull, readHandle_unmarked _ hmark, Bool.false_eq_true, if_false]
  case step =>
    intro o dst src len rows ds ss scope done hop hkind
    change execEngineOperationComplete o.id s = _
    simp only [execEngineOperationComplete, hop, hkind]

/-! ### Links -/

/-- A link that has a group is one of the links: an update of it is read back. -/
theorem State.link_modLink {s : State} {link grp : Nat} {g : LaneGroup} (h : (s.link link).group? grp = some g) (f : Link → Link) :
    (s.modLink link f).link link = f (s.link link) := by
  have hlink : link < s.net.links.length := by
    refine Nat.lt_of_not_le fun hout => ?_
    rw [State.link, List.getD_eq_getElem?_getD, List.getElem?_eq_none hout] at h
    cases h
  exact (upd_getD s.net.links link link f _ hlink).trans (if_pos rfl)

/-- Settles O49: each event takes the branch of its function that its conditions name. -/
theorem linkEvents_take_effect : Obligations.LinkEvents := by
  intro s link grp g hg
  dsimp only
  refine ⟨?serve, ?start, ?turned, ?expiry, ?adaptive, ?retire, ?recal, ?recalEnd, ?out, ?restore⟩
  case serve =>
    intro r rest hreqs hserving hsize hmay
    change execVeerRequestServe link s = _
    simp only [execVeerRequestServe, hreqs, hserving, Nat.not_lt.mpr hsize, hmay, Option.isSome_none, decide_false, Bool.not_true,
      Bool.or_self, Bool.false_eq_true, if_false]
  case start =>
    intro hpick hrested hthree
    change execLaneGroupTurnStart link grp s = _
    simp only [execLaneGroupTurnStart, hg, hrested, List.contains_iff_mem.mpr hpick, hthree, decide_true, Bool.and_self, if_true]
    rfl
  case turned =>
    intro t hturning hle
    change execLaneGroupTurnComplete link grp s = _
    simp only [execLaneGroupTurnComplete, hg, hturning, Nat.not_lt.mpr hle, if_false]
  case expiry =>
    intro wg cls t hhold hle
    change execVeerHoldExpiry link s = _
    simp only [execVeerHoldExpiry, hhold, hle, if_true]
  case adaptive =>
    intro hhold hserving hout hhead hrested hthree
    change execAdaptiveTurn link grp s = _
    simp only [execAdaptiveTurn, hg, hhold, hserving, hout, hhead, hrested, hthree, Option.isNone_none, beq_self_eq_true, Bool.not_false,
      decide_true, Bool.and_self, if_true]
    rfl
  case retire =>
    intro hretired
    change execLaneGroupRetire link grp s = _
    simp only [execLaneGroupRetire, hg, hretired, Bool.false_eq_true, if_false]
  case recal =>
    intro hnone hpoints hthree
    change execRecalibrationStart link grp s = _
    simp only [execRecalibrationStart, hg, hnone, hpoints, hthree, beq_self_eq_true, decide_true, Bool.and_self, if_true]
  case recalEnd =>
    intro hserving hfind
    change execRecalibrationEnd link s = _
    have hidle : ((s.modLink link fun k => k.modGroup grp fun g => { g with recal := false }).link link).serving = none := by
      rw [State.link_modLink hg]
      exact hserving
    simp only [execRecalibrationEnd, hfind, hidle]
    rfl
  case out =>
    intro hout hlink hfew
    change execLinkOutOfService link s = _
    have hten : ¬10 ≤ link := Nat.not_le.mpr hlink
    have hfour : ¬4 ≤ (s.link link).size - (s.link link).retired := Nat.not_le.mpr hfew
    simp only [execLinkOutOfService, hout, hten, hfour, decide_false, Bool.or_self, Bool.false_eq_true, if_false]
  case restore =>
    intro hretired
    change execLinkRestore link grp s = _
    simp only [execLinkRestore, hg, hretired, Bool.not_true, Bool.false_eq_true, if_false]

end Sys2Proof.Machine
end

section
/-! Traps, control registers and the system instructions. -/
namespace Sys2Proof.Machine

/-- The target's branch of R413: INH is cleared, the lane goes on at `tpc`. -/
theorem retTrap_eq (l : Lane) (c : W64) :
    l.retTrap c = { l with tstatus := l.tstatus &&& 0x7FFFFFFFFFFFFFFF, pc := l.tpc, clause := c, rep := bits l.tstatus 60 57 } := rfl

/-- Settles O50: TRAP and BKPT as they are, TRET where a trap is held. -/
theorem trapInstructions : Obligations.TrapInstructions := by
  intro s f
  refine ⟨runsAs_self rfl, runsAs_self rfl, runsAs_of _ (tretSpec s f) _ f s _ rfl ⟨rfl, rfl, rfl, rfl, rfl⟩ fun cx i l f' v h => ?_⟩
  by_cases hl : l.helper = true
  · simp only [tretSpec, hl, if_true]
  · rw [Bool.or_eq_true] at h
    simp only [tretSpec, hl, h.resolve_left hl, retTrap_eq, Bool.not_true, Bool.false_eq_true, if_false]

/-! ### Control registers (R399, R400, R410) -/

theorem csrValue_os (s : State) (w : Wg) (l : Lane) (n : Nat) : csrValue s w l (0x100 + n) = s.hub.osCsr.getD n 0 := by
  unfold csrValue
  split
  case h_9 => rw [Nat.add_sub_cancel_left]
  all_goals omega

/-- An aligned address below 2^52 passes the checks of `tpc` (8 bytes) and of `tbase` (512 bytes). -/
theorem csrAddress_ok {a : W64} {tpc : Prop} [Decidable tpc] (hhigh : a.toNat < 2 ^ 52) (halign : a.toNat % (if tpc then 8 else 512) = 0) :
    (bits a 63 52 != 0 || (if tpc then bits a 2 0 != 0 else bits a 8 0 != 0)) = false := by
  rw [bits_high_zero hhigh]
  by_cases h : tpc
  · rw [if_pos h] at halign
    simp [h, bits_eq_div_mod, halign]
  · rw [if_neg h] at halign
    simp [h, bits_eq_div_mod, halign]

/-- Settles O51: each CSRW writes its register in a lane that is no helper. -/
theorem controlRegisterResults : Obligations.ControlRegisterResults := by
  intro s f sig
  refine ⟨runsAs_self rfl, fun w l n => ⟨rfl, rfl, rfl, rfl, rfl, rfl, rfl, rfl, csrValue_os s w l n⟩, runsAs_self rfl,
    runsAs_of _ (csrwTpcTbaseSpec f) _ f s _ rfl ⟨rfl, rfl, rfl, rfl, rfl⟩ ?address,
    runsAs_of _ (csrwTstatusSpec f) _ f s _ rfl ⟨rfl, rfl, rfl, rfl, rfl⟩ ?status,
    runsAs_of _ (csrwErrseedSpec f) _ f s _ rfl ⟨rfl, rfl, rfl, rfl, rfl⟩ ?seed,
    runsAs_of _ (csrwErrrateSpec f) _ f s _ rfl ⟨rfl, rfl, rfl, rfl, rfl⟩ ?rate⟩
  case address =>
    intro cx i l f' v h
    by_cases hl : l.helper = true
    · simp only [csrwTpcTbaseSpec, hl, if_true]
    · simp only [hl, Bool.false_or, Bool.and_eq_true, decide_eq_true_eq, beq_iff_eq] at h
      obtain ⟨hhigh, halign⟩ := h
      simp only [csrwTpcTbaseSpec, hl, csrAddress_ok hhigh halign, Lane.setTpc, Bool.false_eq_true, if_false]
  case status =>
    intro cx i l f' v _
    by_cases hl : l.helper = true
    · simp only [csrwTstatusSpec, hl, if_true]
    · simp only [csrwTstatusSpec, hl, Bool.false_eq_true, if_false]
  case seed =>
    intro cx i l f' v _
    by_cases hl : l.helper = true
    · simp only [csrwErrseedSpec, hl, if_true]
    · simp only [csrwErrseedSpec, seedOf, hl, Bool.false_eq_true, if_false]
  case rate =>
    intro cx i l f' v _
    by_cases hl : l.helper = true
    · simp only [csrwErrrateSpec, hl, if_true]
    · simp only [csrwErrrateSpec, hl, Bool.false_eq_true, if_false]

/-! ### System instructions (R401 to R406, R464) -/

/-- A TLBINV that no pending access holds drops the entries. -/
theorem tlbinv_runs {ins : Instr} {s : State} {f : Fields} {var : Nat} {a b : SRole} {m : Vals → TlbEntry → Bool}
    {p : Vals → BitVec 16 → W64 → Bool} (he : exec ins s = onceExec (tlbinvOp s f var a b m p) f s) :
    OnceAs ins s f
      { sig := { var := f.var.toNat == var, q := f.q == 0, priv := true, a := a, b := b, unit := 5 }
        dec := fun _ _ _ _ _ => .ok
        act := fun _ _ _ _ v t => ((List.range 64).foldl (fun s c => s.cleanCore c false) t).modMs fun ms =>
          { ms with tlb := ms.tlb.filter fun e => !m v e } }
      (fun _ _ _ _ v => !s.underEntry (p v)) :=
  onceRuns_dec _ (tlbinvOp s f var a b m p) _ f s _ he rfl rfl rfl rfl rfl (fun _ l _ _ => ⟨l, [], rfl⟩) rfl fun cx i l f' v _ _ h => by
    rw [Bool.not_eq_true'] at h
    simp only [tlbinvOp, h, Bool.false_eq_true, if_false]

/-- Settles O52: an instruction's operands come to nothing else; HALT passes its check; a job that is the first of its context
takes its next step. -/
theorem systemInstructionResults : Obligations.SystemInstructionResults := by
  refine ⟨fun s f => ⟨tlbinv_runs rfl, tlbinv_runs rfl, tlbinv_runs rfl,
      runsAs_of _ (tlbprobeSpec s f) _ f s _ rfl ⟨rfl, rfl, rfl, rfl, rfl⟩ ?probe,
      runsAs_of _ (nopreBeginSpec f) _ f s _ rfl ⟨rfl, rfl, rfl, rfl, rfl⟩ ?begin_,
      runsAs_of _ (nopreEndSpec f) _ f s _ rfl ⟨rfl, rfl, rfl, rfl, rfl⟩ ?end_,
      runsAs_of _ (errinjRegSpec f) _ f s _ rfl ⟨rfl, rfl, rfl, rfl, rfl⟩ ?register,
      runsAs_of _ (errinjOnceSpec f) _ f s _ rfl ⟨rfl, rfl, rfl, rfl, rfl⟩ ?once,
      runsAs_of _ (errinjTwiceSpec f) _ f s _ rfl ⟨rfl, rfl, rfl, rfl, rfl⟩ ?twice,
      runsAs_of _ (errinjSectorSpec s f) _ f s _ rfl ⟨rfl, rfl, rfl, rfl, rfl⟩ ?sector,
      onceRuns_dec _ (ckptOp s f) _ f s _ rfl rfl rfl rfl rfl rfl (fun _ l _ _ => ⟨l, [], rfl⟩) rfl ?ckpt, ?halt⟩,
    fun s k j hj hfirst => ⟨?begun, ?page⟩⟩
  case probe =>
    intro cx i l f' v h
    rw [Bool.not_eq_true'] at h
    simp only [tlbprobeSpec, h, Bool.false_eq_true, if_false, asidOf]
  case begin_ =>
    intro cx i l f' v h
    by_cases hl : l.helper = true
    · simp only [nopreBeginSpec, hl, if_true]
    · simp only [hl, Bool.false_or, bne_iff_ne] at h
      simp only [nopreBeginSpec, hl, h, Bool.false_eq_true, if_false]
  case end_ =>
    intro cx i l f' v _
    by_cases hl : l.helper = true
    · simp only [nopreEndSpec, hl, if_true]
    · simp only [nopreEndSpec, hl, Bool.false_eq_true, if_false]
  case register =>
    intro cx i l f' v _
    simp only [errinjRegSpec] <;> rfl
  case once =>
    intro cx i l f' v _
    by_cases hl : l.helper = true
    · simp only [errinjOnceSpec, hl, if_true]
    · simp only [errinjOnceSpec, hl, Bool.false_eq_true, if_false]
  case twice =>
    intro cx i l f' v _
    by_cases hl : l.helper = true
    · simp only [errinjTwiceSpec, hl, if_true]
    · simp only [errinjTwiceSpec, hl, Bool.false_eq_true, if_false]
  case sector =>
    intro cx i l f' v h
    by_cases hl : l.helper = true
    · simp only [errinjSectorSpec, hl, if_true]
    · simp only [hl, Bool.false_or, Bool.and_eq_true, Bool.not_eq_true', beq_iff_eq] at h
      obtain ⟨hpoison, hgo⟩ := h
      simp only [errinjSectorSpec, hl, hpoison, hgo, Bool.false_eq_true, if_false]
  case ckpt =>
    intro cx i l f' v _ _ h
    simp only [Bool.and_eq_true, Bool.not_eq_true', beq_iff_eq] at h
    obtain ⟨halign, hissue⟩ := h
    simp only [ckptOp, halign, hissue, ne_eq, not_true_eq_false, Bool.false_eq_true, if_false]
  case halt =>
    intro g w hg hw hgn hcheck
    change execHalt f s = _
    rw [execHalt, withGang_eq hg hw]
    simp only [hcheck, hgn, Bool.false_eq_true, if_false]
  case begun =>
    intro hrun
    change execCkptIncrement k s = _
    simp only [execCkptIncrement, hj, hfirst, hrun, Bool.not_true, Bool.false_eq_true, if_false]
  case page =>
    intro r hrun
    change execCkptIncrement k s = _
    simp only [execCkptIncrement, hj, hfirst, hrun, Bool.not_true, Bool.false_eq_true, if_false]

end Sys2Proof.Machine
end

section
/-! Command processors: packets, launches, and the events of queues and nodes. -/
namespace Sys2Proof.Machine

/-! ### Packets of a queue that parses -/

/-- A packet of a queue that parses acts. -/
theorem State.atPacket_parses {s : State} {q : Nat} {x : Queue} (hq : s.queue? q = some x) (hp : x.parses = true) (k : Queue → State) :
    s.atPacket q k = .next (k x) := by
  simp only [State.atPacket, hq, hp, if_true]

/-- A word that a command processor reads is handed on. -/
theorem State.cpRead_val {s t : State} {q n v : Nat} {p : Bool} {x : Queue} {va : W64} (hq : s.queue? q = some x)
    (hr : s.agentRead hubUnit (s.spaceAt x.asid) va n = (t, .val v p)) (k : State → Nat → State) : s.cpRead q va n k = k t v := by
  simp only [State.cpRead, hq, hr]

/-- A SIGNAL whose access is performed sends its interrupt and passes. -/
theorem State.signal_val {s t : State} {q v : Nat} {e : Bool} {x : Queue} {p : SignalPkt} {access : State → Space → State × Got}
    (hq : s.queue? q = some x) (hp : x.parses = true) (hdone : p.allprev = true → s.earlierDone x = true)
    (ha : access (s.modMs fun ms => ms.cleanHosts) (s.spaceAt x.asid) = (t, .val v e)) :
    s.signal q p access = .next (
      let t := t.modMs fun ms => ms.cleanHosts
      (if p.irq then ({ t with cp := { t.cp with irqs := t.cp.irqs ++ [p.vec] } } : State) else t).passPacket q 3) := by
  have hnow : (p.allprev && !s.earlierDone x) = false := by
    cases hprev : p.allprev with
    | false => rfl
    | true => rw [hdone hprev]; rfl
  unfold State.signal
  rw [State.atPacket_parses hq hp]
  simp only [hnow, ha, Bool.false_eq_true, if_false]

/-- Settles O53: a packet takes the branch of its function that its hypotheses name. -/
theorem controlPackets : Obligations.ControlPackets := by
  refine ⟨fun s q x hq hp => ⟨fun n => State.atPacket_parses hq hp _, fun cs => State.atPacket_parses hq hp _, ?opens, ?skips, ?memory, ?compare,
      ?ckpt, ?begin_, ?end_, ?replay⟩, fun s q x p hq hp hdone => ⟨?write, ?add, ?half⟩⟩
  case opens =>
    intro body word hfew hin hbody hcount
    change execLoopPacket q false body word s = _
    have hn : (lo32 word).toNat ≠ 0 := fun h => hcount (BitVec.eq_of_toNat_eq h)
    rw [execLoopPacket, State.atPacket_parses hq hp]
    simp only [Nat.not_le.mpr hfew, hin, hn, hbody, decide_false, Bool.or_self, Bool.false_eq_true, if_false]
  case skips =>
    intro body word hfew hin hnone
    change execLoopPacket q false body word s = _
    have hskip : (decide ((lo32 word).toNat = 0) || decide (body = 0)) = true := by
      rcases hnone with hbody | hcount
      · simp only [hbody, decide_true, Bool.or_true]
      · rw [hcount]; rfl
    rw [execLoopPacket, State.atPacket_parses hq hp]
    simp only [Nat.not_le.mpr hfew, hin, hskip, Bool.false_eq_true, if_false, if_true]
  case memory =>
    intro body word t m p hfew hin hread
    change (_ → _ → execLoopPacket q true body word s = _) ∧ (_ → execLoopPacket q true body word s = _)
    rw [execLoopPacket, State.atPacket_parses hq hp]
    simp only [Nat.not_le.mpr hfew, hin, Bool.false_eq_true, if_false, if_true, State.cpRead_val hq hread]
    refine ⟨fun hbody hm => ?_, fun hnone => ?_⟩
    · simp only [hm, hbody, decide_false, Bool.or_self, Bool.false_eq_true, if_false]
    · have hskip : (decide (m = 0) || decide (body = 0)) = true := by
        rcases hnone with hbody | hm
        · simp only [hbody, decide_true, Bool.or_true]
        · simp only [hm, decide_true, Bool.true_or]
      simp only [hskip, if_true]
  case compare =>
    intro w64 cmp skip addr value t m p hread
    change (_ → execIfPacket q w64 cmp skip addr value s = _) ∧ (_ → _ → execIfPacket q w64 cmp skip addr value s = _)
    rw [execIfPacket, State.atPacket_parses hq hp, State.cpRead_val hq hread]
    refine ⟨fun hholds => ?_, fun hfails hin => ?_⟩
    · simp only [hholds, if_true]
    · simp only [hfails, hin, Bool.false_eq_true, if_false]
  case ckpt =>
    intro wait addr hdone
    change execCkptPacket q wait addr s = _
    rw [execCkptPacket, State.atPacket_parses hq hp]
    simp only [hdone, Bool.not_true, Bool.false_eq_true, if_false]
  case begin_ =>
    intro seg retry hnone
    change execSegmentBegin q seg retry s = _
    rw [execSegmentBegin, State.atPacket_parses hq hp]
    simp only [hnone, Option.isSome_none, Bool.false_eq_true, if_false]
  case end_ =>
    intro seg g hseg hnum hpos
    change execSegmentEnd q seg s = _
    rw [execSegmentEnd, State.atPacket_parses hq hp]
    simp only [hseg, hnum, hpos, bne_self_eq_false, Option.isSome_none, Bool.or_self, Bool.false_eq_true, if_false]
  case replay =>
    intro seg words retry hstored hwords
    change execReplay q seg s = _
    rw [execReplay, State.atPacket_parses hq hp]
    simp only [hstored, List.isEmpty_eq_false_iff.mpr hwords, Bool.false_eq_true, if_false, Queue.steps]
  case write => exact fun t v e ha => State.signal_val (access := fun s sp => s.agentWrite hubUnit sp p.addr 8 p.value.toNat false) hq hp hdone ha
  case add => exact fun t v e ha => State.signal_val (access := fun s sp => s.agentAdd hubUnit sp p.addr p.value.toNat) hq hp hdone ha
  case half => exact fun t v e ha => State.signal_val (access := fun s sp => s.agentWrite hubUnit sp p.addr 4 (lo32 p.value).toNat false) hq hp hdone ha

/-! ### Launches -/

/-- The latest node of a tag is one of the queue's. -/
theorem State.tagged_mem {s : State} {x : Queue} {tag : BitVec 16} {m : Nat} (h : s.tagged x tag = some m) : m ∈ x.nodes :=
  List.mem_of_find?_eq_some h

/-- Settles O54: a launch takes the branch of `launchAt` that its rejection decides; its node is what `addNode` appends. -/
theorem launchPackets : Obligations.LaunchPackets := by
  intro s q x p hq hp hpool
  dsimp only
  refine ⟨fun hok => ?direct, fun hok => ?indirect, fun c t hbad hstatus => ?refused, fun c t hbad hstatus => ?refusedIndirect, fun ind => ?node⟩
  case direct =>
    change s.launchAt q p false = _
    rw [State.launchAt, State.atPacket_parses hq hp]
    simp only [Nat.not_le.mpr hpool, hok, Bool.false_eq_true, if_false]
  case indirect =>
    change s.launchAt q p true = _
    rw [State.launchAt, State.atPacket_parses hq hp]
    simp only [Nat.not_le.mpr hpool, hok, if_false, if_true]
  case refused =>
    change s.launchAt q p false = _
    rw [State.launchAt, State.atPacket_parses hq hp]
    simp only [Nat.not_le.mpr hpool, hbad, hstatus, Bool.false_eq_true, if_false, if_true]
  case refusedIndirect =>
    change s.launchAt q p true = _
    rw [State.launchAt, State.atPacket_parses hq hp]
    simp only [Nat.not_le.mpr hpool, hbad, hstatus, if_false, if_true]
  case node =>
    refine ⟨_, rfl, rfl, rfl, rfl, rfl, rfl, fun m hm => ?_⟩
    obtain ⟨hmem, hdone⟩ := List.mem_filter.mp hm
    refine ⟨?_, by simpa using hdone⟩
    by_cases hprev : p.allprev = true
    · rwa [if_pos hprev] at hmem
    · rw [if_neg hprev, List.mem_eraseDups, List.mem_filterMap] at hmem
      obtain ⟨tag, _, htag⟩ := hmem
      exact State.tagged_mem htag

end Sys2Proof.Machine
end

section
/-! Command processors: the events of queues and nodes. -/
namespace Sys2Proof.Machine

/-! ### Queues -/

/-- A doorbell's store to the word of a bound queue is a poll of it (R194). -/
theorem execDoorbell_bound {s : State} {cp k q : Nat} {x : Queue} (hk : k < 16)
    (hfind : (s.cp.queues.find? fun y => y.2.cp == cp && y.2.index == k) = some (q, x)) :
    execDoorbell cp (4 * k) 4 s = execWidxPoll q s := by
  have hoff : (decide (4 = 4) && decide (4 * k % 4 = 0) && decide (4 * k < 64)) = true := by
    simp only [Bool.and_eq_true, decide_eq_true_eq]
    exact ⟨⟨trivial, Nat.mul_mod_right 4 k⟩, by omega⟩
  unfold execDoorbell
  rw [if_pos hoff, Nat.mul_div_cancel_left k (by omega), hfind]

theorem execDoorbell_other {s : State} {cp off width : Nat} (h : width ≠ 4 ∨ off % 4 ≠ 0 ∨ 64 ≤ off) :
    execDoorbell cp off width s = .next { s with cp := { s.cp with ignored := s.cp.ignored + 1 } } := by
  have hoff : ¬(decide (width = 4) && decide (off % 4 = 0) && decide (off < 64)) = true := by
    simp only [Bool.and_eq_true, decide_eq_true_eq]
    omega
  unfold execDoorbell
  rw [if_neg hoff]

/-- A FENCE of a queue fails in its step, or halts the queue. -/
theorem State.failFence_of {s : State} {q : Nat} {x : Queue} (hq : s.queue? q = some x) :
    s.failFence q = if x.seg.isSome then s.modQueue q fun x => { x with hold := .none, seg := x.seg.map fun g => { g with failed := true } }
      else s.haltHere q 4 := by
  simp only [State.failFence, hq, Option.any_some]

/-- A queue as it is bound from the words of its descriptor (R192, Table 9-1). -/
def boundQueue (q asid : Nat) (desc : W64) (ws : List W64) : Queue :=
  { asid := BitVec.ofNat 16 asid, cp := q / 16 % 4, index := q % 16, desc, base := ws.getD 0 0, capw := (lo32 (ws.getD 1 0)).toNat
    widx := (ws.getD 2 0).toNat, ridx := (ws.getD 3 0).toNat, pos := (ws.getD 3 0).toNat, state := bits (ws.getD 4 0) 63 62
    cause := bits (ws.getD 4 0) 55 48, pkt := bits (ws.getD 4 0) 47 0 }

/-- Settles O55: a queue's event takes the branch of its function that its hypotheses name. -/
theorem queueEvents_take_effect : Obligations.QueueEvents := by
  intro s q x late
  refine ⟨fun hq => ⟨fun t hstate => ⟨fun v p hread => ?polled, fun hread => ?violated⟩, fun cp k _ hk hfind => execDoorbell_bound hk hfind,
      fun t g hwrite hg => ?resumed, fun t g hwrite hg => ?halted, fun cs since t cs' hhold hstate hfailed hlate hread => ?counted,
      fun cs since hhold hstate hlate => ?deadline⟩,
    fun cp off width h => execDoorbell_other h, fun asid desc t ws p hlt hnone hspace hwords => ?bound⟩
  case polled =>
    change execWidxPoll q s = _
    simp only [execWidxPoll, hq, hstate, bne_self_eq_false, Bool.false_eq_true, if_false, hread]
  case violated =>
    change execWidxPoll q s = _
    simp only [execWidxPoll, hq, hstate, bne_self_eq_false, Bool.false_eq_true, if_false, hread]
  case resumed =>
    change execQueueResume q s = _
    simp only [execQueueResume, hq, hwrite]
  case halted =>
    change execQueueHaltedByModuleOs q s = _
    simp only [execQueueHaltedByModuleOs, hq, hwrite]
  case counted =>
    change execFenceCounterPoll q s = _
    have hlate' : s.fenceLate cs since = false := hlate
    simp only [execFenceCounterPoll, hq, hhold, hstate, hfailed, hlate', hread, bne_self_eq_false, Bool.or_self, Bool.false_eq_true, if_false]
    split <;> rfl
  case deadline =>
    have hlate' : s.fenceLate cs since = true := hlate
    refine ⟨?_, fun hfailed => ?_⟩
    · change execFenceDeadline q s = _
      simp only [execFenceDeadline, hq, hhold, hstate, hlate', State.failFence_of hq, bne_self_eq_false, Bool.not_true, Bool.or_self,
        Bool.false_eq_true, if_false]
    · change execFenceCounterPoll q s = _
      simp only [execFenceCounterPoll, hq, hhold, hstate, hfailed, hlate', State.failFence_of hq, bne_self_eq_false, Bool.or_self,
        Bool.false_eq_true, if_false, if_true]
  case bound =>
    have hfree : ((s.queue? q).isSome || decide (64 ≤ q) || (s.hub.space (BitVec.ofNat 16 asid)).isNone) = false := by
      rw [hnone, decide_eq_false (Nat.not_le.mpr hlt), Option.isNone_eq_false_iff.mpr hspace]
      rfl
    refine ⟨boundQueue q asid desc ws, ?_, rfl, rfl, rfl, rfl, rfl, rfl, rfl⟩
    change execQueueBinding q asid desc s = _
    simp only [execQueueBinding, hfree, hwords, Bool.false_eq_true, if_false, boundQueue]

/-! ### Nodes -/

/-- The residents that are asked to leave are those of the lower classes, the only one there if its class is lower. -/
theorem lowResidents_one {w : Wg} {cls : Nat} (h : w.cls < cls) :
    ((List.range cls).flatMap fun c => [w].filter fun w => w.cls == c) = [w] := by
  induction cls with
  | zero => exact absurd h (Nat.not_lt_zero _)
  | succ n ih =>
    rw [List.range_succ, List.flatMap_append, List.flatMap_singleton]
    rcases Nat.lt_succ_iff_lt_or_eq.mp h with hlt | heq
    · rw [ih hlt]
      simp [Nat.ne_of_lt hlt]
    · have hnone : ((List.range n).flatMap fun c => [w].filter fun w => w.cls == c) = [] := by
        rw [List.flatMap_eq_nil_iff]
        intro c hc
        have : ¬w.cls = c := by have := List.mem_range.mp hc; omega
        simp [this]
      rw [hnone]
      simp [heq]

/-- One workgroup whose leaving makes room is asked. -/
theorem roomWithout_one {s : State} {x : Node} {core id : Nat} (hfull : (s.without core []).room core x.launch (s.tenant x.asid) = false)
    (hroom : (s.without core [id]).room core x.launch (s.tenant x.asid) = true) : roomWithout s x core [id] = [id] := by
  have hfind : ((List.range ([id].length + 1)).find? fun k => (s.without core ([id].take k)).room core x.launch (s.tenant x.asid)) = some 1 := by
    change ((0 :: 1 :: []).find? _) = _
    simp only [List.find?_cons, List.take_zero, hfull, List.take_succ_cons, hroom]
  simp only [roomWithout, hfind, List.take_succ_cons, List.take_zero]

/-- Settles O56: a node's event takes the branch of its function that its hypotheses name. -/
theorem nodeEvents_take_effect : Obligations.NodeEvents := by
  intro s n x hn
  refine ⟨fun hstate hpreds hdirect => ?ready, fun t v p hstate hpreds hind hread hpos hmax hcores => ?counted,
    fun places t hstate hfirst hbefore htrees hplaced => ?placed, fun t hstate hall hended hstatus => ?completed,
    fun q y g hq hseg hfailed => ?retried, fun core wgi w m since => ?preempted⟩
  case ready =>
    change execNodeReady n s = _
    simp only [execNodeReady, hn, hstate, hpreds, hdirect, bne_self_eq_false, Bool.not_true, Bool.not_false, Bool.or_self, Bool.false_eq_true,
      if_false, if_true, id]
  case counted =>
    change execNodeReady n s = _
    simp only [execNodeReady, hn, hstate, hpreds, hind, bne_self_eq_false, Bool.not_true, Bool.or_self, Bool.false_eq_true, if_false, hread,
      Nat.pos_iff_ne_zero.mp hpos, Nat.not_lt.mpr hmax, hcores]
  case placed =>
    have hlegal : (x.map.isEmpty && !(s.affLegal (s.tenant x.asid) x.launch.aff x.grid)) = false := by
      cases hmap : x.map with
      | nil => rw [(hfirst hmap).1]; rfl
      | cons => rfl
    have hfits : (x.map.isEmpty && !(s.within (s.tenant x.asid) x.launch && s.fits x.launch.aff x.grid)) = false := by
      cases hmap : x.map with
      | nil => rw [(hfirst hmap).2.1, (hfirst hmap).2.2]; rfl
      | cons => rfl
    have hwhole : (x.launch.ntree != 0 && places.length != x.grid) = false := by
      by_cases htree : x.launch.ntree = 0
      · rw [htree]; rfl
      · rw [htrees htree, bne_self_eq_false, Bool.and_false]
    change execNodeDispatch n places s = _
    simp only [execNodeDispatch, hn, hstate, hlegal, hfits, hbefore, hwhole, hplaced, bne_self_eq_false, Bool.false_eq_true, if_false]
  case completed =>
    have hquiet : ((s.ex.wgs.filter fun w => w.node == n).any fun w => !w.ended || s.busyWg w) = false := by
      rw [List.any_eq_false]
      intro w hw
      obtain ⟨hmem, hnode⟩ := List.mem_filter.mp hw
      obtain ⟨he, hb⟩ := hended w hmem (beq_iff_eq.mp hnode)
      simp only [he, hb, Bool.not_true, Bool.or_self, Bool.false_eq_true, not_false_eq_true]
    change execNodeComplete n s = _
    simp only [execNodeComplete, hn, hstate, hquiet, Nat.not_lt.mpr hall, hstatus, bne_self_eq_false, decide_false, Bool.or_self,
      Bool.false_eq_true, if_false, if_true]
  case retried =>
    change execSegmentRetry q s = _
    simp only [execSegmentRetry, hq, hseg, hfailed, if_true]
  case preempted =>
    intro t hstate hsince hlong hasked hm hnext hgrid htakes haff hnoroom hres hcls hfull hroom
    have ht : s.placedAhead x = t := rfl
    clear_value t
    change execClassPreemption n wgi core s = _
    simp only [execClassPreemption, hn, ht, hstate, hm, hnext, hsince, hlong, htakes, haff, hnoroom, hasked, hres, lowResidents_one hcls,
      List.map_cons, List.map_nil, roomWithout_one hfull hroom, List.foldl_cons, List.foldl_nil, bne_self_eq_false, Nat.not_le.mpr hgrid, Option.all_some,
      Option.any_some, decide_true, decide_false, Bool.not_true, Bool.or_self, Bool.false_eq_true, if_false]

end Sys2Proof.Machine
end

section
/-! Saves and restores, regions, the in-field test, bounded waits, and uncorrectable errors. -/
namespace Sys2Proof.Machine

/-- A restore that the core, the affinity, the tiles and the iterator slots allow reads the save area. -/
theorem State.tryRestore_ready {s : State} {wg core : Nat} {w : Wg} (hw : s.wg? wg = some w) (hplace : w.place = .saved)
    (htakes : s.coreTakes core = true) (haff : affPermits (s.launch w).aff w.index core = true)
    (hroom : s.room core (s.launch w) (s.space w).part.toNat = true) (htiles : s.tilesFit w core = true)
    (hslot : w.forSlot = true → s.itrHeld core < 32) : s.tryRestore wg core = s.restoreFrom w core := by
  have hfree : (w.forSlot && decide (32 ≤ s.itrHeld core)) = false := by
    cases hf : w.forSlot with
    | false => rfl
    | true => rw [decide_eq_false (Nat.not_le.mpr (hslot hf))]; rfl
  simp only [State.tryRestore, hw, hplace, htakes, haff, hroom, htiles, hfree, bne_self_eq_false, Bool.not_true, Bool.or_self,
    Bool.false_eq_true, if_false]

/-- Settles O57: an event takes the branch of its function that its hypotheses name; an error poisons what its granule names. -/
theorem saveAndWaitEvents : Obligations.SaveAndWaitEvents := by
  refine ⟨fun s wg core w hw => ⟨fun why u hplace hasked hdefers hsettled hperm hu hquiet htile => ?save,
      fun hplace hasked hdefers hsettled hperm => ?pinned,
      fun t v hplace htakes haff hroom htiles hslot => ⟨fun hv hread => ?restored, fun hread => ?lost⟩,
      fun t why hsince hasked hregion hplace hbound => ?overrun, fun hcore htesting hhalted => ?due, fun pass htesting hempty => ?result,
      fun hhalted hempty => ?returned, fun c hplace hfull hfree htakes haff hlong => ?moved⟩,
    fun s wg n => ⟨rfl, rfl, rfl, fun _ => rfl, fun _ => rfl, fun _ => rfl, fun _ _ => rfl, fun _ => rfl, fun _ _ => rfl, fun _ _ _ => rfl,
      fun w hw => ?unmarked⟩⟩
  case save =>
    have hgo : (why == .quarantine && s.permitted w == [w.core]) = false := by
      rw [Bool.and_eq_false_iff, beq_eq_false_iff_ne, beq_eq_false_iff_ne]
      exact Classical.or_iff_not_imp_left.mpr fun h => hperm (Classical.not_not.mp h)
    change execWorkgroupSave wg why s = _
    rw [execWorkgroupSave, hw]
    simp only [← hplace, hasked, hdefers, hsettled, hgo, hu, hquiet, htile, bne_self_eq_false, Bool.not_true, Bool.or_self, Bool.false_eq_true,
      if_false]
  case pinned =>
    change execWorkgroupSave wg .quarantine s = _
    rw [execWorkgroupSave, hw]
    simp only [← hplace, hasked, hdefers, hsettled, hperm, bne_self_eq_false, beq_self_eq_true, Bool.not_true, Bool.or_self, Bool.and_self, Bool.false_eq_true,
      if_false, if_true]
  case restored =>
    change Host.Outcome.next (s.tryRestore wg core) = _
    rw [State.tryRestore_ready hw hplace htakes haff hroom htiles hslot]
    simp only [State.restoreFrom, hread, hv, Bool.false_eq_true, if_false]
  case lost =>
    change Host.Outcome.next (s.tryRestore wg core) = _
    rw [State.tryRestore_ready hw hplace htakes haff hroom htiles hslot]
    rcases hread with hread | hread
    · simp only [State.restoreFrom, hread, if_true]
    · simp only [State.restoreFrom, hread]
  case overrun =>
    change execNopreBoundExpiry wg s = _
    rw [execNopreBoundExpiry, hw]
    simp only [hsince, hasked, hregion, ← hplace, Nat.not_lt.mpr hbound, bne_self_eq_false, decide_false, Bool.not_true, Bool.or_self, Bool.false_eq_true,
      if_false, Bool.or_eq_true, beq_iff_eq]
    split <;> rfl
  case due =>
    change execInfieldTestDue core s = _
    simp only [execInfieldTestDue, Nat.not_le.mpr hcore, htesting, hhalted, decide_false, Bool.or_self, Bool.false_eq_true, if_false]
    split <;> rfl
  case result =>
    change execInfieldTestResult core pass s = _
    simp only [execInfieldTestResult, htesting, hempty, List.isEmpty_nil, Bool.not_true, Bool.or_self, Bool.false_eq_true, if_false]
    cases pass <;> rfl
  case returned =>
    change execHaltedCoreReturn core s = _
    simp only [execHaltedCoreReturn, hhalted, hempty, List.isEmpty_nil, Bool.not_true, Bool.or_self, Bool.false_eq_true, if_false]
    rfl
  case moved =>
    have hslow : s.slotLong w = true := hlong
    change execIteratorSlotMove wg core s = _
    rw [execIteratorSlotMove, hw]
    simp only [hplace, Nat.not_lt.mpr hfull, Nat.not_le.mpr hfree, htakes, haff, hslow, decide_false, Bool.not_true, Bool.or_self,
      Bool.false_eq_true, if_false]
  case unmarked =>
    change execUncorrectableSramError (.unmarked wg) s = _
    simp only [execUncorrectableSramError, hw, Bool.or_eq_true, Bool.and_eq_true, beq_iff_eq, Bool.not_eq_true']

end Sys2Proof.Machine
end

section
/-! Homes that move, sticks, and compressed pages. -/
namespace Sys2Proof.Machine

theorem State.moveTables_ck (s : State) (m : Migration) (ps : List (Nat × Nat)) : (s.moveTables m ps).ck = s.ck := by
  unfold State.moveTables
  change (ps.foldl _ s).ck = s.ck
  induction ps generalizing s with
  | nil => rfl
  | cons p ps ih =>
    rw [List.foldl_cons, ih]
    split <;> rfl

@[simp] theorem State.giveEngines_ms (s : State) : s.giveEngines.ms = s.ms := rfl
@[simp] theorem State.giveEngines_log (s : State) : s.giveEngines.log = s.log := rfl

/-- An abandon takes migrations away, and nothing else of memory. -/
theorem State.abandon_keeps (s : State) (p : Migration → Bool) :
    (s.abandon p).ms.lost = s.ms.lost ∧ (s.abandon p).ms.mem = s.ms.mem ∧ (s.abandon p).log = s.log := by
  unfold State.abandon
  split <;> exact ⟨rfl, rfl, rfl⟩

theorem State.abandon_some {s : State} {p : Migration → Bool} (h : s.ms.migs.any p = true) :
    s.abandon p = (s.modMs fun ms => { ms with migs := ms.migs.filter fun m => !p m }).giveEngines :=
  if_pos h

/-- A region that no table joins to another migrates alone. -/
theorem State.migration_alone {s : State} {region frame : Nat} (h : s.joined region = (region, region + 1)) :
    s.migration region frame = { region := region, frame := frame, start := s.ck.now, span := 1 } := by
  simp only [State.migration, h, Nat.sub_self, Nat.sub_zero, Nat.add_sub_cancel_left]

/-- Settles O58: an event takes the branch of its function that its hypotheses name. -/
theorem migrationAndStickEvents : Obligations.MigrationAndStickEvents := by
  refine ⟨fun s region frame stick die => ⟨fun hover => ?epoch, ⟨fun hjoined => ⟨State.migration_alone hjoined, ?may⟩, fun hwanted hframe hcan => ?start⟩,
      fun m hm hintime hengine => ?copied, fun m hm hlate => ?abandoned, fun hstick hlost => ?drain, fun hout hempty => ?replaced,
      fun hstick hlost => ?failed, rfl⟩,
    fun s stick slot base pool overflow => ⟨fun hstick hplain => ?setup, fun st o hst hnew hunused hwaits => ?given,
      fun st hst hnew hunused hnone => ?kept, fun page o st ho hst hfits => ?repacked⟩⟩
  case epoch =>
    have hepoch : s.epochOver die = true := decide_eq_true hover
    change Host.Outcome.next (if s.epochOver die then s.endEpoch die else s) = _
    rw [if_pos hepoch]
    rfl
  case may =>
    intro hmovable hfree hquiet hmigs
    have hnone : (s.ms.migs.any fun x => x.takes (region * 2 ^ 21)) = false := by
      rw [List.any_eq_false]
      intro x hx
      rw [hmigs x hx]
      exact Bool.false_ne_true
    rw [State.migration_alone hjoined]
    simp only [State.canMigrate, List.range_one, List.all_cons, List.all_nil, Nat.add_zero, hmovable, hfree, hquiet, hnone, Bool.not_false,
      Bool.and_self, beq_self_eq_true, Bool.true_or]
  case start =>
    change execMigrationStart region frame s = _
    simp only [execMigrationStart, hwanted, Nat.not_lt.mpr hframe, hcan, decide_false, Bool.not_true, Bool.or_self, Bool.false_eq_true, if_false]
  case copied =>
    change execMigrationCopyComplete region s = _
    simp only [execMigrationCopyComplete, hm, Nat.not_lt.mpr hintime, hengine, decide_false, Bool.not_true, Bool.or_self, Bool.false_eq_true, if_false,
      State.migrate, State.moveTables_ck]
  case abandoned =>
    have hany : (s.ms.migs.any fun x => x.region == region) = true :=
      List.any_eq_true.mpr ⟨m, List.mem_of_find?_eq_some hm, List.find?_some (p := fun x : Migration => x.region == region) hm⟩
    change execMigrationAbandon region s = _
    simp only [execMigrationAbandon, hm, Nat.not_lt.mpr hlate, if_false, State.abandon_some hany]
    rfl
  case drain =>
    change Host.Outcome.next (if 24 ≤ stick || s.ms.lost.contains stick then s else s.drain stick) = _
    simp only [Nat.not_le.mpr hstick, hlost, decide_false, Bool.or_self, Bool.false_eq_true, if_false]
  case replaced =>
    refine ⟨_, if_neg (by rw [hout, hempty]; decide), rfl, rfl, fun c hc => ?_, rfl⟩
    simpa using (List.mem_filter.mp hc).2
  case failed =>
    refine ⟨_, if_neg (by simp only [Nat.not_le.mpr hstick, hlost, decide_false, Bool.or_self]; decide), ?_, ?_, ?_⟩
    · exact (State.abandon_keeps _ _).1
    · exact (State.abandon_keeps _ _).2.1
    · exact congrArg (.stickLost stick :: ·) (State.abandon_keeps _ _).2.2
  case setup =>
    change execCompressedStateSetup stick base pool overflow s = _
    simp only [execCompressedStateSetup, Nat.not_le.mpr hstick, hplain, decide_false, Bool.or_self, Bool.false_eq_true, if_false]
  case given =>
    change execOverflowSlotSupplied stick slot s = _
    simp only [execOverflowSlotSupplied, hst, hnew, hunused, hwaits, Bool.or_self, Bool.false_eq_true, if_false]
  case kept =>
    change execOverflowSlotSupplied stick slot s = _
    simp only [execOverflowSlotSupplied, hst, hnew, hunused, hnone, Bool.or_self, Bool.false_eq_true, if_false]
  case repacked =>
    have hle : ¬1024 < max 1 (Config.compressedSectors (s.ms.mem.readBytes (3 * 2 ^ 48 + page * 65536) 65536)) := by omega
    change execCompressedPageRepack page s = _
    simp only [execCompressedPageRepack, ho, hst, hle, if_false]

end Sys2Proof.Machine
end

section
/-! The device: registrations, bring-up, accesses from outside the cores, firmware and power. -/
namespace Sys2Proof.Machine

/-! ### A host line that is handed back (R466) -/

/-- The dirty bytes of a host sector have reached host memory. -/
def MemSys.HostClean (ms : MemSys) (sec : Nat) : Prop := ∀ e ∈ ms.l2host, e.1 = sec → e.2.2 = 0

theorem MemSys.hostClean_cleanHost (ms : MemSys) (sec : Nat) : (ms.cleanHost sec).HostClean sec := by
  unfold MemSys.cleanHost
  split
  · intro e he hsec
    obtain ⟨x, _, rfl⟩ := List.mem_map.mp he
    by_cases hx : (x.1 == sec) = true
    · rw [if_pos hx]
    · rw [if_neg hx] at hsec
      exact absurd (beq_iff_eq.mpr hsec) hx
  · next hnone =>
    intro e he hsec
    exact absurd (beq_iff_eq.mpr hsec) (List.find?_eq_none.mp hnone e he)

theorem MemSys.HostClean.cleanHost {ms : MemSys} {a : Nat} (h : ms.HostClean a) (sec : Nat) : (ms.cleanHost sec).HostClean a := by
  unfold MemSys.cleanHost
  split
  · intro e he ha
    obtain ⟨x, hx, rfl⟩ := List.mem_map.mp he
    by_cases hsec : (x.1 == sec) = true
    · rw [if_pos hsec]
    · rw [if_neg hsec] at ha ⊢
      exact h x hx ha
  · exact h

theorem MemSys.HostClean.foldl {ms : MemSys} {a : Nat} (h : ms.HostClean a) (secs : List Nat) :
    (secs.foldl MemSys.cleanHost ms).HostClean a := by
  induction secs generalizing ms with
  | nil => exact h
  | cons s secs ih => exact ih (h.cleanHost s)

theorem MemSys.hostClean_foldl {a : Nat} (secs : List Nat) (ms : MemSys) (ha : a ∈ secs) : (secs.foldl MemSys.cleanHost ms).HostClean a := by
  induction secs generalizing ms with
  | nil => exact absurd ha List.not_mem_nil
  | cons s secs ih =>
    rcases List.mem_cons.mp ha with rfl | hmem
    · exact MemSys.HostClean.foldl (MemSys.hostClean_cleanHost ms _) secs
    · exact ih _ hmem

/-- A line of host memory that is cleaned has four clean sectors. -/
theorem MemSys.hostClean_l2Clean {ms : MemSys} {line k : Nat} (hline : locTgt line = 1) (hk : k < 4) :
    (ms.l2Clean line).HostClean (line + 32 * k) := by
  have hwaits : ∀ ms : MemSys, ms.pageWaits line = false := fun ms => by simp [MemSys.pageWaits, hline]
  have hclean := MemSys.hostClean_foldl ((List.range 4).map fun k => line + 32 * k) ms (List.mem_map_of_mem (List.mem_range.mpr hk))
  rw [List.foldl_map] at hclean
  simp only [MemSys.l2Clean, hline, hwaits, bne_self_eq_false, Bool.false_and, Bool.false_eq_true, if_false, if_true]
  exact hclean

/-- A line of host memory that leaves L2 leaves with its sectors. -/
theorem MemSys.l2Drop_host {ms : MemSys} {line k : Nat} (hline : locTgt line = 1) (hk : k < 4) {e : Nat × List Byte × BitVec 32}
    (halign : line % 128 = 0) (he : e ∈ (ms.l2Drop line).l2host) : e.1 ≠ line + 32 * k := by
  intro hsec
  obtain ⟨hmem, hkept⟩ := List.mem_filter.mp he
  have hclean := MemSys.hostClean_l2Clean hline hk e hmem hsec
  have hin : lineOf e.1 = line := by
    rw [hsec, lineOf]
    omega
  simp [hin, hclean] at hkept

/-! ### Service and outside accesses -/

theorem State.foldl_note_keeps {α : Type} (f : α → Log) (xs : List α) (s : State) :
    (xs.foldl (fun s x => s.note (f x)) s).hub = s.hub ∧ (xs.foldl (fun s x => s.note (f x)) s).ms = s.ms := by
  induction xs generalizing s with
  | nil => exact ⟨rfl, rfl⟩
  | cons x xs ih => exact ih (s.note (f x))

/-- The sticks of the dies that are out of service. -/
theorem lostSticks_eq (dies : List Nat) :
    ((List.range 24).filter fun k => ((List.range 4).filter fun d => !dies.contains d).contains (k / 6)) =
      (List.range 24).filter fun k => !dies.contains (k / 6) := by
  refine List.filter_congr fun k hk => ?_
  have hdie : k / 6 < 4 := by have := List.mem_range.mp hk; omega
  rw [Bool.eq_iff_iff, List.contains_iff_mem, List.mem_filter, List.mem_range]
  exact and_iff_right hdie

/-- The bytes of a value are those of its low part. -/
theorem bytesLE_mod (n x : Nat) : bytesLE n (x % 2 ^ (8 * n)) = bytesLE n x := by
  induction n generalizing x with
  | zero => rfl
  | succ n ih =>
    have hpow : 2 ^ (8 * (n + 1)) = 256 * 2 ^ (8 * n) := by rw [Nat.mul_succ, Nat.pow_add, Nat.mul_comm]
    have hlow : BitVec.ofNat 8 (x % 2 ^ (8 * (n + 1))) = BitVec.ofNat 8 x := by
      apply BitVec.eq_of_toNat_eq
      rw [BitVec.toNat_ofNat, BitVec.toNat_ofNat, hpow]
      exact Nat.mod_mul_right_mod x 256 _
    rw [bytesLE, bytesLE, hlow, hpow, Nat.mod_mul_right_div_self, ih]

theorem locTgt_module {a : Nat} (h : moduleAddr a = true) : (locTgt a == 1) = false := by
  have : a / 2 ^ 37 < 24 := of_decide_eq_true h
  rw [beq_eq_false_iff_ne, locTgt]
  omega

/-- Settles O59: an event takes the branch of its function that its hypotheses name. -/
theorem serviceAndOutsideEvents : Obligations.ServiceAndOutsideEvents := by
  refine ⟨fun s asid d idx entry version die => ⟨fun hnone => ?registered, fun hended => ?withdrawn, rfl, fun m hon => ?domain,
      fun hoff hdie hversion => ?power, fun dies hphase hfirst => ?ended, fun hdie hin => ?offline, fun port hport hnew => ?port,
      fun m hnew => ?module⟩,
    fun s a => ⟨fun haligned hfence hphase hhost => ⟨?own, fun hstore hplain => ?plain⟩,
      fun haligned hmodule hfence hphase => ⟨?host, fun hports => ?fabric, fun htgt => ?hub, fun hcxl => ?snoop⟩⟩⟩
  case registered =>
    change execAsidRegistration asid (some d) s = _
    simp only [execAsidRegistration, hnone, Option.isSome_none, Bool.false_eq_true, if_false]
  case withdrawn =>
    have hidle : s.spaceBusy asid = false := by
      unfold State.spaceBusy
      rw [List.any_eq_false]
      intro w hw hbusy
      rw [Bool.and_eq_true, Bool.not_eq_true', beq_iff_eq] at hbusy
      exact absurd (hended w hw hbusy.2) (by rw [hbusy.1]; exact Bool.false_ne_true)
    change execAsidRegistration asid none s = _
    simp only [execAsidRegistration, hidle, Bool.false_eq_true, if_false]
  case domain =>
    change execDomainIdAssign m s = _
    simp only [execDomainIdAssign, beq_eq_false_iff_ne.mpr hon, Bool.false_eq_true, if_false]
  case power =>
    change execPowerOn version true die s = _
    simp only [execPowerOn, State.takePatch, hoff, Nat.not_le.mpr hdie, hversion, bne_self_eq_false, decide_false, decide_true, Bool.or_self,
      Bool.and_self, Bool.false_eq_true, if_false, if_true]
  case ended =>
    refine ⟨_, if_neg (by rw [hphase, hfirst]; decide), ?_⟩
    obtain ⟨hhub, hms⟩ := State.foldl_note_keeps Log.dieRetired ((List.range 4).filter fun d => !dies.contains d)
      { s with hub := { s.hub with phase := .service, dies := (List.range 4).map fun d => dies.contains d }
               ms := { s.ms with lost := (List.range 24).filter fun k => ((List.range 4).filter fun d => !dies.contains d).contains (k / 6) } }
    refine ⟨congrArg Hub.phase hhub, congrArg Hub.dies hhub, (congrArg MemSys.lost hms).trans (lostSticks_eq dies)⟩
  case offline =>
    change execDieOffline die s = _
    simp only [execDieOffline, Nat.not_le.mpr hdie, hin, decide_false, Bool.not_true, Bool.or_self, Bool.false_eq_true, if_false]
  case port =>
    change execFabricPortRetire port s = _
    simp only [execFabricPortRetire, Nat.not_le.mpr hport, hnew, decide_false, Bool.or_self, Bool.false_eq_true, if_false]
  case module =>
    change execFabricModuleUnreachable m s = _
    simp only [execFabricModuleUnreachable, hnew, Bool.false_eq_true, if_false]
  case own =>
    change execHostMemoryAccess a s = _
    have hon : (s.hub.phase == .off) = false := by rw [hphase]; rfl
    simp only [execHostMemoryAccess, hon, haligned, beq_eq_false_iff_ne.mpr hfence, hhost, beq_self_eq_true, Bool.not_true, Bool.or_self,
      Bool.false_eq_true, if_false, if_true]
  case plain =>
    change execHostMemoryAccess a s = _
    have hon : (s.hub.phase == .off) = false := by rw [hphase]; rfl
    simp only [execHostMemoryAccess, hon, haligned, hhost, beq_self_eq_true, Bool.not_true, Bool.or_self, Bool.false_eq_true, if_false, if_true,
      State.hostOwn, hstore, hplain, outsideKind, Option.bind_some, updated, bytesLE_mod]
    rfl
  case host =>
    change execHostMemoryAccess a s = _
    have hon : (s.hub.phase == .off) = false := by rw [hphase]; rfl
    simp only [execHostMemoryAccess, hon, haligned, beq_eq_false_iff_ne.mpr hfence, locTgt_module hmodule, State.hostReaches, hmodule,
      Bool.not_true, Bool.or_self, Bool.false_eq_true, if_false, Bool.true_and, Bool.or_eq_true, List.any_eq_true, Bool.and_eq_true, decide_eq_true_eq]
  case fabric =>
    change execFabricRemoteAccess a s = _
    simp only [execFabricRemoteAccess, hphase, hports, hmodule, haligned, bne_iff_ne.mpr hfence, beq_self_eq_true, decide_true, Bool.and_self, if_true]
  case hub =>
    have hon : (s.hub.phase == .off) = false := by rw [hphase]; rfl
    change execHubCoreMemoryAccess a s = _
    simp only [execHubCoreMemoryAccess, hon, beq_eq_false_iff_ne.mpr hfence, haligned, htgt, hmodule, beq_self_eq_true, Bool.and_self,
      Bool.or_true, Bool.false_eq_true, if_false, if_true]
  case snoop =>
    have hline : locTgt (lineOf (2 ^ 48 + a.addr % 2 ^ 48)) = 1 := by
      unfold locTgt lineOf
      omega
    refine ⟨s.snoop (2 ^ 48 + a.addr % 2 ^ 48), congrArg Host.Outcome.next (if_pos hcxl), fun e he k hk => ?_⟩
    exact MemSys.l2Drop_host hline hk (Nat.mul_mod_left _ _) he

end Sys2Proof.Machine
end

section
/-! Firmware, attestation, power, telemetry and power loss. -/
namespace Sys2Proof.Machine

/-- The field of eight bits from bit 56 on is what was set there. -/
theorem extract_setBits_top (x : W64) (c : BitVec 8) : (setBits x 56 8 c.toNat).extractLsb' 56 8 = c := by
  have hmask : ∀ i < 8, (BitVec.ofNat 64 ((2 ^ 8 - 1) * 2 ^ 56)).getLsbD (56 + i) = true := by decide
  have hfield : (BitVec.ofNat 64 (c.toNat % 2 ^ 8 * 2 ^ 56)).extractLsb' 56 8 = c := by
    apply BitVec.eq_of_toNat_eq
    have := c.isLt
    rw [BitVec.extractLsb'_toNat, BitVec.toNat_ofNat, Nat.shiftRight_eq_div_pow]
    omega
  apply BitVec.eq_of_getLsbD_eq
  intro i hi
  have hbit := congrArg (fun y : BitVec 8 => y.getLsbD i) hfield
  simp only [BitVec.getLsbD_extractLsb', hi, decide_true, Bool.true_and] at hbit
  simp only [BitVec.getLsbD_extractLsb', setBits, BitVec.getLsbD_or, BitVec.getLsbD_and, BitVec.getLsbD_not, hmask i hi, hbit, hi, decide_true,
    Bool.not_true, Bool.and_false, Bool.false_or, Bool.true_and]

/-- Settles O60: each event is what its function says in a device that is on. -/
theorem firmwareAndPowerEvents : Obligations.FirmwareAndPowerEvents := by
  intro s version w
  refine ⟨fun hon hversion => ?patch, fun hon => ?refused, fun hon => ?report, fun _ _ _ => rfl, fun limit power flux k hk => ?withhold,
    fun _ => rfl, fun _ => rfl, fun c => ?health, ?loss⟩
  case patch =>
    change execLivePatch version true s = _
    simp only [execLivePatch, beq_eq_false_iff_ne.mpr hon, State.takePatch, hversion, decide_true, Bool.and_self, Bool.false_eq_true, if_false, if_true]
  case refused =>
    change execLivePatch version false s = _
    simp only [execLivePatch, beq_eq_false_iff_ne.mpr hon, State.takePatch, Bool.false_and, Bool.false_eq_true, if_false]
  case report =>
    change execAttestationReport w s = _
    simp only [execAttestationReport, beq_eq_false_iff_ne.mpr hon, Bool.false_eq_true, if_false]
    by_cases hleaf : s.hub.leaf < 32768
    · rw [if_neg (Nat.not_le.mpr hleaf), if_pos hleaf]
    · rw [if_pos (Nat.not_lt.mp hleaf), if_neg hleaf]
  case withhold =>
    simp only [withhold, Bool.or_eq_true, Bool.and_eq_true, decide_eq_true_eq]
    split
    · omega
    · split <;> omega
  case health =>
    refine ⟨_, _, rfl, rfl, extract_setBits_top _ c, fun y hy => ?_⟩
    simpa using (List.mem_filter.mp hy).2
  case loss =>
    refine ⟨_, rfl, rfl, rfl, ?_, rfl, rfl, fun c hc => ?_⟩
    · change s.hub.leaf + (freeWord s.ck.free 0).toNat % 2 = s.hub.leaf ∨ s.hub.leaf + (freeWord s.ck.free 0).toNat % 2 = s.hub.leaf + 1
      omega
    · simpa using (List.mem_filter.mp hc).2

end Sys2Proof.Machine
end

section
/-! A pending access of module or outside memory performs at its location (R61, R129). -/
namespace Sys2Proof.Machine

/-- An access that has its location, and that no tile holds, is performed there. -/
theorem State.accTarget_mem {s : State} {a : Acc} {w : Wg} {loc : Nat} (hw : s.wg? a.wg = some w)
    (hl : a.loc = some loc) (ht : s.tileAt w a.va = none) (ho : s.tileOn a.core loc = none) :
    s.accTarget a = .mem loc := by
  simp only [State.accTarget, hw, hl, ht, ho, Option.isNone_none, if_true]

/-- An access of reachable memory outside the register pages acts by its kind. -/
theorem State.performAcc_mem {s : State} {a : Acc} {w : Wg} {loc : Nat} (hw : s.wg? a.wg = some w)
    (hb : s.behind a = false) (hl : a.loc = some loc) (ht : s.tileAt w a.va = none)
    (ho : s.tileOn a.core loc = none) (hu : s.unreachable loc = false) (hg : s.ms.regPage loc = none) :
    s.performAcc a = (match a.kind with
      | .load sg =>
        let s := if a.acq then (s.used w a.va a.access).acquire a.core a.scope else s.used w a.va a.access
        let r := s.lookMem a.asid a.va a.core loc a.width
        (r.1.dropAcc a.id).fillDest a.wg a.lane a.dst (loadVal sg r.2.1) r.2.2
      | .store => (s.used w a.va a.access).accStore a loc
      | _ => (s.used w a.va a.access).accUpdate a loc) := by
  simp only [State.performAcc, hb, State.accTarget_mem hw hl ht ho, hu, hg, hw, Bool.false_eq_true, if_false] <;> rfl

/-- A clean update at the home returns the old element when it may (R326). -/
theorem State.accUpdate_home {s t : State} {a : Acc} {loc old : Nat} {p : Bool} (hp : a.poison = false)
    (hl : a.isLocal = false)
    (hu : s.homeUpdate a.core loc a.width a.kind a.data a.cmp false = (t, old, p))
    (ho : (isOutside loc && p) = false) :
    s.accUpdate a loc = t.accReturns a (loadVal false (bytesLE a.width old)) p := by
  simp only [State.accUpdate, hp, hl, hu, ho, Bool.and_false, Bool.false_and, Bool.or_false, Bool.false_eq_true,
    if_false]

end Sys2Proof.Machine
end

section
/-! O29. -/
namespace Sys2Proof.Machine

/-- Settles O29: each event finds its access and performs it at its place. -/
theorem pendingAccessesArePerformed : Obligations.PendingAccessesArePerformed := by
  unfold Obligations.PendingAccessesArePerformed
  refine ⟨fun s id a ha => ⟨?_, ?_, ?_, ?_⟩, fun s a w loc hw hb ht ho hl hu hg hp => ⟨?_, ?_, ?_, ?_⟩⟩
  · intro sg loc w hk hl hport hw hb ht ho hu hg
    have hload : a.isLoad = true := by simp only [Acc.isLoad, hk]
    have hacc : a.access = .read := by simp only [Acc.access, hk]
    have hrun : exec (.loadDataReturn id) s = .next (s.performAcc a) := by
      simp only [exec, execLoadDataReturn, ha, hload, hl, hu, hport, Bool.not_false, Bool.and_true, if_true]
    rw [hrun, State.performAcc_mem hw hb hl ht ho hu hg]
    simp only [hk, hacc]
  · intro loc hload hlocal hl
    simp only [exec, execWriteAcknowledgement, ha, hload, hlocal, Bool.not_false, Bool.true_or, Bool.and_true, if_true]
  · intro hlocal hport
    simp only [exec, execOwnershipGrant, ha, hlocal, hport, Bool.not_false, Bool.and_true, if_true]
  · intro loc hl hu hnow
    simp only [exec, execFabricLoadTimeout, ha, hl, Option.any_some, hu, Nat.not_lt.mpr hnow, decide_false,
      Bool.not_true, Bool.or_false, Bool.false_eq_true, if_false]
  · intro hk htgt hlate
    have hacc : a.access = .write := by simp only [Acc.access, hk]
    rw [State.performAcc_mem hw hb hl ht ho hu hg]
    simp only [hk, hacc, State.accStore, hp, htgt, hlate, Bool.and_false, decide_false, Bool.or_false,
      Bool.false_eq_true, if_false]
  · intro op ty t old p hk hupd hout
    have hacc : a.access = .both := by simp only [Acc.access, hk]
    have hlocal : a.isLocal = false := by simp only [Acc.isLocal, hk]
    rw [State.performAcc_mem hw hb hl ht ho hu hg]
    simp only [hk, hacc]
    exact State.accUpdate_home hp hlocal (by rw [hk]; exact hupd) hout
  · intro op ty hk hsys hin s1 hline
    have hctl : s.controls a = some loc := by
      simp only [State.controls, hk, State.accTarget_mem hw hl ht ho, hsys, hin, hu, hg, hb, decide_true,
        Bool.not_false, Option.isNone_none, Bool.and_self, if_true]
    simp only [State.performBatch, hctl, State.atController]
    simp only [s1] at hline ⊢
    simp only [hline, Bool.false_eq_true, if_false, Option.getD_some]
  · intro op ty t old p hk hupd hout
    have hacc : a.access = .both := by simp only [Acc.access, hk]
    have hlocal : a.isLocal = false := by simp only [Acc.isLocal, hk]
    rw [State.performAcc_mem hw hb hl ht ho hu hg]
    simp only [hk, hacc]
    exact State.accUpdate_home hp hlocal (by rw [hk]; exact hupd) hout

end Sys2Proof.Machine
end

section
/-! The pages of a CMAINT and of the operations that overlap it (R74, R75, R337). -/
namespace Sys2Proof.Machine

/-- An entry's place does not depend on the pages in fault service. -/
theorem MemSys.entryLoc_faults (ms : MemSys) (fs : List (BitVec 16 × Nat)) (sp : Space) (va : W64) (l : Nat) :
    ({ ms with faults := fs } : MemSys).entryLoc sp va l = ms.entryLoc sp va l := by
  rfl

/-- A page that translates. -/
def MaintPage.ofRange (r : Nat × Nat) : MaintPage := .range r.1 r.2

/-- An operation with pages that all translate. -/
def maintOfRanges (u : Maint × List (Nat × Nat)) : Maint × List MaintPage := (u.1, u.2.map MaintPage.ofRange)

/-- An operation that shares no instruction with another is alone in its union. -/
theorem maintUnion_single (m : Maint) (n : Nat) : maintUnion [m] n [m] = [m] := by
  induction n with
  | zero => rfl
  | succ n ih =>
    have hnew : ([m].filter fun b => [m].any (Maint.overlaps b) && !([m].any (·.id == b.id))) = [] := by simp
    rw [maintUnion, hnew, List.append_nil, ih]

/-- Pages that translate act range by range. -/
theorem State.maintAct_ranges (s : State) (m : Maint) (rs : List (Nat × Nat)) :
    s.maintAct m (rs.map MaintPage.ofRange) = rs.foldl (fun s r => s.maintRange m r.1 r.2) s := by
  rw [State.maintAct, List.foldl_map]
  rfl

/-- Nothing is found in pages that all translate, when nothing is found in a page that does. -/
theorem filterMap_findSome_ranges {β : Type} (g : Maint × List MaintPage → MaintPage → Option β)
    (us : List (Maint × List (Nat × Nat))) (hg : ∀ u r, g u (.ofRange r) = none) :
    (us.map maintOfRanges).filterMap (fun x => x.2.findSome? (g x)) = [] := by
  simp only [List.filterMap_eq_nil_iff, List.mem_map, List.findSome?_eq_none_iff]
  rintro _ ⟨u, -, rfl⟩ p hp
  obtain ⟨r, -, rfl⟩ := List.mem_map.mp hp
  exact hg _ r

/-- Pages that all translate hold nothing, when a page that does holds nothing. -/
theorem flatMap_filterMap_ranges {β : Type} (g : Maint × List MaintPage → MaintPage → Option β)
    (us : List (Maint × List (Nat × Nat))) (hg : ∀ u r, g u (.ofRange r) = none) :
    (us.map maintOfRanges).flatMap (fun x => x.2.filterMap (g x)) = [] := by
  simp only [List.flatMap_eq_nil_iff, List.filterMap_eq_nil_iff, List.mem_map]
  rintro _ ⟨u, -, rfl⟩ p hp
  obtain ⟨r, -, rfl⟩ := List.mem_map.mp hp
  exact hg _ r

/-- The operations touch the pages of their own range, whatever these translate to. -/
theorem State.foldl_maintTouch_ranges (s : State) (us : List (Maint × List (Nat × Nat))) :
    (us.map maintOfRanges).foldl (fun s x => s.maintTouch x.1) s = us.foldl (fun s u => s.maintTouch u.1) s := by
  rw [List.foldl_map]
  rfl

/-- Operations whose pages all translate act range by range. -/
theorem State.foldl_maintAct_ranges (s : State) (us : List (Maint × List (Nat × Nat))) :
    (us.map maintOfRanges).foldl (fun s x => s.maintAct x.1 x.2) s =
      us.foldl (fun s u => u.2.foldl (fun s r => s.maintRange u.1 r.1 r.2) s) s := by
  rw [List.foldl_map]
  exact foldl_congr' (fun u _ t => State.maintAct_ranges t u.1 u.2) s

end Sys2Proof.Machine
end

section
/-! O30. -/
namespace Sys2Proof.Machine

/-- Settles O30: a walk, a service and a maintenance complete as they find their page. -/
theorem translationAndMaintenanceEvents : Obligations.TranslationAndMaintenanceEvents := by
  unfold Obligations.TranslationAndMaintenanceEvents
  refine ⟨fun s => ⟨?_, ?_⟩, fun s id m hm => ⟨?_, ?_, ?_⟩⟩
  · intro k m sp hk hwalk hsp
    simp only [exec, execTranslationMissComplete, hk, hwalk, hsp, Bool.not_true, Bool.false_eq_true, if_false] <;> rfl
  · intro asid va hfault
    refine ⟨?_, ?_⟩
    · intro lw sp a hsp hloc
      simp only [exec, execPageFaultServiceComplete, hfault, hsp, Bool.not_true, Bool.false_eq_true, if_false]
      split
      · next b hb =>
        obtain rfl : a = b := by
          have hsame := (MemSys.entryLoc_faults s.ms _ sp (BitVec.ofNat 64 va) lw.level).symm.trans hb
          exact Option.some.inj (hloc.symm.trans hsame)
        rfl
      · next hb =>
        have hsame := (MemSys.entryLoc_faults s.ms _ sp (BitVec.ofNat 64 va) lw.level).symm.trans hb
        exact absurd (hloc.symm.trans hsame) (by simp)
    · simp only [exec, execPageFaultServiceComplete, hfault, Bool.not_true, Bool.false_eq_true, if_false]
  · intro us hus
    have hunion : (maintUnion _ _ [m]).map (fun x => (x, s.maintPagesOf x)) = us.map maintOfRanges := hus
    simp only [exec, execCacheMaintenanceComplete, hm, hunion]
    rw [filterMap_findSome_ranges, flatMap_filterMap_ranges]
    · simp only [List.isEmpty_nil, Bool.not_true, Bool.false_eq_true, if_false, State.foldl_maintTouch_ranges,
        State.foldl_maintAct_ranges,
        List.filter_map, List.any_map, Function.comp_def, maintOfRanges, List.all_map]
      rfl
    · intro u r
      rfl
    · intro u r
      rfl
  · intro va hall hpages
    simp only [exec, execCacheMaintenanceComplete, hm, hall, List.length_singleton, maintUnion_single, List.map_cons,
      List.map_nil, hpages]
    rfl
  · intro c tv hall hpages
    simp only [exec, execCacheMaintenanceComplete, hm, hall, List.length_singleton, maintUnion_single, List.map_cons,
      List.map_nil, hpages]
    rfl

end Sys2Proof.Machine
end

section
/-! What reset leaves, and the words written out in the spec. -/
namespace Sys2Proof.Machine

/-- Words that encode a well-formed instruction decode to it. -/
theorem decodeWords_of_encode {i : Instr} {ws : List W64} (he : encode i = ws) (hc : i.code.isSome = true)
    (hw : i.wf = true) : decodeWords ws = .ok i :=
  he ▸ encodeDecodeRoundTrip i hc hw

/-- Every core is in its initial state at reset. -/
theorem State.reset_core (c : Nat) : State.reset.core c = {} := by
  simp only [State.core, State.reset, List.getD_eq_getElem?_getD, List.getElem?_replicate]
  split <;> rfl

/-- Settles O5: the reset state is read off; its memory lists nothing. -/
theorem resetState : Obligations.ResetState := by
  unfold Obligations.ResetState
  refine ⟨rfl, rfl, fun _ => rfl, rfl, rfl, rfl, rfl, rfl, fun c _ => ?_, rfl, rfl, rfl⟩
  rw [State.reset_core]
  exact ⟨rfl, rfl, rfl⟩

/-- Settles O1: each word is the encoding of its instruction. -/
theorem decodesSpecWords : Obligations.DecodesSpecWords := by
  unfold Obligations.DecodesSpecWords
  refine ⟨?_, ?_, ?_, ?_, ?_, ?_, ?_, ?_, ?_, ?_, ?_, ?_, ?_, ?_, ?_, ?_, ?_, ?_, ?_, ?_, ?_⟩
  all_goals exact decodeWords_of_encode (by decide) (by decide) (by decide)

end Sys2Proof.Machine
end

section
/-! A line is served, a tile written back and a core cleaned without touching a lane: what they change of a workgroup are
its tiles, and of a node its CODE, where a write to an unreachable module was dropped (R468). -/
namespace Sys2Proof.Machine

/-- Every lane is as it was, and every node but for CODE 5. -/
structure State.LanesKept (s t : State) : Prop where
  lanes : ∀ id, (t.wg? id).map Wg.lanes = (s.wg? id).map Wg.lanes
  nodes : ∀ id n, s.node? id = some n →
    ∃ m, t.node? id = some m ∧ m.killed = n.killed ∧ m.log = n.log ∧ (m.code = n.code ∨ m.code = 5)

theorem State.LanesKept.of_eq {s t : State} (hw : t.ex.wgs = s.ex.wgs) (hn : t.ex.nodes = s.ex.nodes) : s.LanesKept t where
  lanes id := by simp only [State.wg?, hw]
  nodes id n h := ⟨n, by simpa only [State.node?, hn] using h, rfl, rfl, .inl rfl⟩

theorem State.LanesKept.refl (s : State) : s.LanesKept s := .of_eq rfl rfl

theorem State.LanesKept.trans {s t u : State} (h : s.LanesKept t) (k : t.LanesKept u) : s.LanesKept u where
  lanes id := (k.lanes id).trans (h.lanes id)
  nodes id n hn := by
    obtain ⟨m, hm, hkill, hlog, hcode⟩ := h.nodes id n hn
    obtain ⟨m', hm', hkill', hlog', hcode'⟩ := k.nodes id m hm
    refine ⟨m', hm', hkill'.trans hkill, hlog'.trans hlog, ?_⟩
    rcases hcode' with hcode' | hcode'
    · exact hcode'.symm ▸ hcode
    · exact .inr hcode'

theorem State.LanesKept.foldl {α : Type} (f : State → α → State) (l : List α) (hf : ∀ s a, State.LanesKept s (f s a))
    (s : State) : s.LanesKept (l.foldl f s) := by
  induction l generalizing s with
  | nil => exact .refl s
  | cons a l ih => exact (hf s a).trans (ih _)

theorem State.LanesKept.ite {s a b : State} {c : Prop} [Decidable c] (ha : s.LanesKept a) (hb : s.LanesKept b) :
    s.LanesKept (if c then a else b) := by
  split
  · exact ha
  · exact hb

theorem State.lanesKept_modMs (s : State) (f : MemSys → MemSys) : s.LanesKept (s.modMs f) := .of_eq rfl rfl

/-- A change of a workgroup outside its lanes. -/
theorem State.lanesKept_modWg (s : State) (id : Nat) (f : Wg → Wg) (hid : ∀ w, (f w).id = w.id)
    (hl : ∀ w, (f w).lanes = w.lanes) : s.LanesKept (s.modWg id f) where
  lanes k := by
    rw [State.wg_modWg s id k f hid]
    cases s.wg? k with
    | none => rfl
    | some w =>
      simp only [Option.map_some]
      split
      · rw [hl]
      · rfl
  nodes k n h := ⟨n, h, rfl, rfl, .inl rfl⟩

/-- The same, where the state changes elsewhere too. -/
theorem State.lanesKept_of_modWg {s t : State} {id : Nat} {f : Wg → Wg} (hw : t.ex.wgs = (s.modWg id f).ex.wgs)
    (hn : t.ex.nodes = s.ex.nodes) (hid : ∀ w, (f w).id = w.id) (hl : ∀ w, (f w).lanes = w.lanes) : s.LanesKept t :=
  (State.lanesKept_modWg s id f hid hl).trans (.of_eq hw hn)

theorem State.lanesKept_modTile (s : State) (wg idx : Nat) (f : Tile → Tile) : s.LanesKept (s.modTile wg idx f) :=
  State.lanesKept_modWg s wg _ (fun _ => rfl) fun _ => rfl

/-- A node that fails with CODE 5 keeps its log and its count of kills. -/
theorem State.lanesKept_fail (s : State) (id : Nat) : s.LanesKept (s.modNode id (·.fail 5)) where
  lanes _ := rfl
  nodes k n h := by
    rw [State.node_modNode s id k (·.fail 5) fun _ => rfl, h]
    simp only [Option.map_some]
    split
    · exact ⟨_, rfl, rfl, rfl, .inr (by simp [Node.fail])⟩
    · exact ⟨n, rfl, rfl, rfl, .inl rfl⟩

theorem State.lanesKept_regTouch (s : State) (g : RegPage) (off : Nat) (bell : Bool) : s.LanesKept (s.regTouch g off bell) :=
  .ite (.of_eq rfl rfl) (.ite (.of_eq rfl rfl) (.of_eq rfl rfl))

theorem State.lanesKept_tileTouch (s : State) (t : Tile) (loc : Nat) : s.LanesKept (s.tileTouch t loc) := by
  unfold State.tileTouch
  split
  · exact .foldl _ _ (fun s _ => State.lanesKept_regTouch s _ _ _) s
  · exact .refl s

theorem State.lanesKept_noteWalk (s : State) (sp : Space) (va : W64) : s.LanesKept (s.noteWalk sp va) := by
  unfold State.noteWalk
  split
  · exact .of_eq rfl rfl
  · exact .refl s

/-- Serving a line keeps the lanes. -/
def Serve.LanesKept (srv : Serve) : Prop := ∀ (s : State) (line : Nat) (keep : Option Nat), s.LanesKept (srv s line keep)

theorem State.lanesKept_recallRaw (s : State) (line : Nat) (keep : Option Nat) : s.LanesKept (s.recallRaw line keep) := by
  refine State.LanesKept.trans (.foldl _ _ (fun s w => .foldl _ _ (fun s t => ?_) s) s) (State.lanesKept_modMs _ _)
  split
  · exact .refl s
  · exact (State.lanesKept_modTile s w.id t.idx (·.dropLine _)).trans (.of_eq rfl rfl)

section
variable {srv : Serve} (hs : srv.LanesKept)
include hs

theorem State.lanesKept_walkBy (s : State) (unit : Nat) (sp : Space) (va : W64) : s.LanesKept (s.walkBy srv unit sp va) := by
  refine .ite (.refl s) (State.LanesKept.trans ?_ (State.lanesKept_modMs _ _))
  exact State.LanesKept.trans (.foldl _ _ (fun s _ => (hs s _ _).trans (State.lanesKept_modMs _ _)) s)
    (State.lanesKept_noteWalk _ _ _)

theorem State.lanesKept_touchBy (s : State) (unit : Nat) (sp : Space) (va : W64) (k : Access) :
    s.LanesKept (s.touchBy srv unit sp va k) := by
  unfold State.touchBy
  split
  · exact .ite (.refl s) ((hs s _ _).trans (State.lanesKept_modMs _ _))
  · exact .refl s

theorem State.lanesKept_xlateWith (s : State) (unit : Nat) (sp : Space) (va : W64) (k : Access) :
    s.LanesKept (s.xlateWith srv unit sp va k).2 := by
  have hheld : ∀ s : State, s.LanesKept
      (if (s.ms.tlbLookup unit sp.asid va).isSome then s.modMs (·.tlbKeep unit sp.asid va) else s.walkBy srv unit sp va) :=
    fun s => .ite (State.lanesKept_modMs _ _) (State.lanesKept_walkBy hs s _ _ _)
  have hwalk := (State.lanesKept_modMs s fun ms => { ms with tag := sp.part }).trans (hheld _)
  unfold State.xlateWith
  simp only []
  split
  · exact hwalk.trans (State.lanesKept_touchBy hs _ _ _ _ _)
  · exact hwalk

theorem State.lanesKept_recallTile (s : State) (w : Wg) (t : Tile) (line k : Nat) :
    s.LanesKept (s.recallTile srv w t line k) := by
  have hx := (State.lanesKept_xlateWith hs s w.core (s.space w) t.vpage .write).trans
    (State.lanesKept_modMs _ fun ms => { ms with tag := s.ms.tag })
  unfold State.recallTile
  simp only []
  split
  · exact ((hx.trans (State.lanesKept_tileTouch _ _ _)).trans (State.lanesKept_modMs _ _)).trans (State.lanesKept_modTile _ _ _ _)
  · exact (hx.trans (State.lanesKept_modMs _ _)).trans (State.lanesKept_modTile _ _ _ _)
  · exact hx.trans (State.lanesKept_modTile _ _ _ _)

theorem State.lanesKept_recallBy (s : State) (line : Nat) (keep : Option Nat) : s.LanesKept (s.recallBy srv line keep) := by
  refine State.LanesKept.trans (.foldl _ _ (fun s w => .foldl _ _ (fun s t => ?_) s) s) (State.lanesKept_modMs _ _)
  split
  · exact .refl s
  · exact State.lanesKept_recallTile hs s _ _ _ _

theorem State.lanesKept_roomBy (s : State) (line : Nat) : s.LanesKept (s.roomBy srv line) := by
  refine .ite (.refl s) (State.LanesKept.trans (State.lanesKept_modMs _ _) (.foldl _ _ (fun s x => ?_) _))
  exact .ite (.refl s) ((State.lanesKept_recallBy hs s _ _).trans (State.lanesKept_modMs _ _))

end

/-- The serving of a line keeps the lanes, however deep the recalls stand. -/
theorem State.serveN_lanesKept (n : Nat) : Serve.LanesKept (State.serveN n) := by
  induction n with
  | zero => exact State.lanesKept_recallRaw
  | succ n ih => exact fun s line keep => (State.lanesKept_roomBy ih s line).trans (State.lanesKept_recallBy ih _ line keep)

theorem State.recall_lanesKept : Serve.LanesKept State.recall := fun s line keep => State.serveN_lanesKept _ s line keep

theorem State.lanesKept_blame (s t : State) (wg : Nat) (h : s.LanesKept t) : s.LanesKept (s.blame wg t) := by
  unfold State.blame
  simp only []
  split
  · split
    · exact h
    · exact (h.trans (State.lanesKept_fail t _)).trans (.of_eq rfl rfl)
  · exact h

theorem State.lanesKept_drainTile (s : State) (w : Wg) (t : Tile) : s.LanesKept (s.drainTile w t).1 := by
  have hx := State.lanesKept_xlateWith State.recall_lanesKept s (engineUnit w.core) (s.space w) t.vpage .write
  unfold State.drainTile
  split
  · exact .refl s
  · simp only []
    split
    · split
      · exact hx.trans (State.lanesKept_blame _ _ _ (.of_eq rfl rfl))
      · refine hx.trans ((State.lanesKept_tileTouch _ _ _).trans (.foldl _ _ (fun s k => ?_) _))
        exact (State.lanesKept_roomBy State.recall_lanesKept s _).trans (State.lanesKept_modMs _ _)
    · exact hx

theorem State.lanesKept_writeBack (s : State) (x : L1Sector) : s.LanesKept (s.writeBack x) :=
  ((State.lanesKept_modMs s _).trans (State.recall_lanesKept _ (lineOf x.loc) (some x.core))).trans (.of_eq rfl rfl)

theorem State.lanesKept_cleanCore (s : State) (core : Nat) (owned : Bool) : s.LanesKept (s.cleanCore core owned) :=
  .foldl _ _ State.lanesKept_writeBack s

theorem State.lanesKept_reportHalted (s : State) (core : Nat) : s.LanesKept (s.reportHalted core) :=
  .ite (.of_eq rfl rfl) (.refl s)

/-- The end of a workgroup leaves its lanes as they are. -/
theorem State.lanesKept_endWg (s : State) (id : Nat) : s.LanesKept (s.endWg id) := by
  unfold State.endWg
  split
  · exact .refl s
  · rename_i w _
    have htiles : s.LanesKept (w.tiles.foldl (fun (s : State) t => if s.drainHeld w t then s else (s.drainTile w t).1) s) :=
      .foldl _ _ (fun s t => .ite (.refl s) (State.lanesKept_drainTile s w t)) s
    have hclean := htiles.trans (State.lanesKept_cleanCore _ w.core true)
    simp only []
    refine State.LanesKept.trans ?_ (State.lanesKept_reportHalted _ _)
    exact hclean.trans (State.lanesKept_of_modWg rfl rfl (fun _ => rfl) fun _ => rfl)

/-! ### The end of a lane -/

theorem Wg.lanes_issueCv (w : Wg) (free seq cv : Nat) : (w.issueCv free seq cv).lanes = w.lanes := by
  unfold Wg.issueCv
  simp only []
  split <;> rfl

theorem Wg.lanes_dropCv (w : Wg) (free seq lane : Nat) : (w.dropCv free seq lane).lanes = w.lanes := by
  unfold Wg.dropCv
  generalize List.range 8 = cs
  induction cs generalizing w with
  | nil => rfl
  | cons c cs ih =>
    rw [List.foldl_cons, ih]
    simp only []
    split
    · split
      · rfl
      · split
        · rw [Wg.lanes_issueCv]
        · rfl
    · rfl

end Sys2Proof.Machine
end

section
/-! A lane that is killed has exited, and its node's log says why (R412). -/
namespace Sys2Proof.Machine

theorem Lane.exited_endHelper {l : Lane} (h : l.exited = true) : (if l.helper then l.ended else l).exited = true := by
  split
  · rfl
  · exact h

/-- A lane that has exited stays so while the helpers of a quad end. -/
theorem exited_endHelpers (q i : Nat) (js : List Nat) (ls : List Lane) (h : (ls.getD i {}).exited = true) :
    ((js.foldl (fun ls j => upd ls (4 * q + j) fun l => if l.helper then l.ended else l) ls).getD i {}).exited = true := by
  induction js generalizing ls with
  | nil => exact h
  | cons j js ih =>
    refine ih _ ?_
    by_cases hlt : 4 * q + j < ls.length
    · rw [upd_getD _ _ _ _ _ hlt]
      split
      · next hij => exact Lane.exited_endHelper (hij ▸ h)
      · exact h
    · have hsame : upd ls (4 * q + j) (fun l => if l.helper then l.ended else l) = ls := by
        rw [upd_eq_set _ _ _ {}, List.set_eq_of_length_le (Nat.not_lt.mp hlt)]
      exact (congrArg (fun ls => (ls.getD i {}).exited) hsame).trans h

/-- The workgroup in which lane `i` ends, with the helpers that shadow it. -/
def Wg.endLane (w : Wg) (i k : Nat) (isShadow : Bool) (free next : Nat) : Wg :=
  let w := { w with lanes := upd w.lanes i Lane.ended, bars := w.bars.map (fun (b : Barrier) => b.leave k) }
  let w := if isShadow then
      { w with lanes := (List.range 4).foldl (fun ls j => upd ls (4 * (i / 4) + j) fun l => if l.helper then l.ended else l) w.lanes }
    else w
  w.dropCv free next i

theorem Wg.id_issueCv (w : Wg) (free seq cv : Nat) : (w.issueCv free seq cv).id = w.id := by
  unfold Wg.issueCv
  simp only []
  split <;> rfl

theorem Wg.id_dropCv (w : Wg) (free seq lane : Nat) : (w.dropCv free seq lane).id = w.id := by
  unfold Wg.dropCv
  generalize List.range 8 = cs
  induction cs generalizing w with
  | nil => rfl
  | cons c cs ih =>
    rw [List.foldl_cons, ih]
    simp only []
    split
    · split
      · rfl
      · split
        · rw [Wg.id_issueCv]
        · rfl
    · rfl

theorem Wg.id_endLane (w : Wg) (i k : Nat) (isShadow : Bool) (free next : Nat) :
    (w.endLane i k isShadow free next).id = w.id := by
  unfold Wg.endLane
  rw [Wg.id_dropCv]
  cases isShadow <;> rfl

theorem Wg.exited_endLane (w : Wg) (i k : Nat) (isShadow : Bool) (free next : Nat) (hi : i < w.lanes.length) :
    ((w.endLane i k isShadow free next).lane i).exited = true := by
  have hend : ((upd w.lanes i Lane.ended).getD i {}).exited = true := by
    rw [upd_getD _ _ _ _ _ hi, if_pos rfl]
    rfl
  unfold Wg.endLane Wg.lane
  rw [Wg.lanes_dropCv]
  cases isShadow with
  | false => exact hend
  | true => exact exited_endHelpers _ _ _ _ hend

/-- The state in which lane `i` of a workgroup has ended, before the workgroup ends. -/
def State.laneEnded (s : State) (id i : Nat) (w : Wg) : State :=
  let s1 := s.modWg id (·.endLane i (barKey id i) (w.shadow (i / 4) == some i) s.ck.free s.ck.nextId)
  { (s1.freshIds 8).tickFree with
    net := { s1.net with trees := s1.net.trees.map fun (b : Barrier) => b.leave (barKey id i) } }

/-- The workgroup whose lane has ended. -/
theorem State.wg_laneEnded {s : State} {id i : Nat} {w : Wg} (hw : s.wg? id = some w) :
    (s.laneEnded id i w).wg? id =
      some (w.endLane i (barKey id i) (w.shadow (i / 4) == some i) s.ck.free s.ck.nextId) :=
  State.wg_modWg_self hw (·.endLane i (barKey id i) (w.shadow (i / 4) == some i) s.ck.free s.ck.nextId)
    fun x => Wg.id_endLane x _ _ _ _ _

/-- What follows the end of a lane is at most the end of its workgroup. -/
theorem State.exitLane_kept {s : State} {id i : Nat} {w : Wg} (hw : s.wg? id = some w) (hl : (w.lane i).exited = false) :
    (s.laneEnded id i w).LanesKept (s.exitLane id i) := by
  have hex : s.exitLane id i = match (s.laneEnded id i w).wg? id with
      | none => s.laneEnded id i w
      | some x => if x.lanes.any Lane.live then s.laneEnded id i w else (s.laneEnded id i w).endWg id := by
    simp only [State.exitLane, hw, hl, Bool.false_eq_true, if_false]
    rfl
  rw [hex, State.wg_laneEnded hw]
  exact .ite (.refl _) (State.lanesKept_endWg _ id)

/-- A lane that ends has exited, and the nodes keep their logs: what the end of its workgroup writes back may fail one. -/
theorem State.exitLane_exits {s : State} {id i : Nat} {w : Wg} (hw : s.wg? id = some w) (hi : i < w.lanes.length)
    (hl : (w.lane i).exited = false) :
    (∃ u, (s.exitLane id i).wg? id = some u ∧ (u.lane i).exited = true) ∧
      ∀ k n, s.node? k = some n →
        ∃ m, (s.exitLane id i).node? k = some m ∧ m.killed = n.killed ∧ m.log = n.log ∧ (m.code = n.code ∨ m.code = 5) := by
  have hkept := State.exitLane_kept hw hl
  refine ⟨?_, fun k n hn => hkept.nodes k n hn⟩
  have hlanes := hkept.lanes id
  rw [State.wg_laneEnded hw] at hlanes
  obtain ⟨u, hu, hul⟩ := Option.map_eq_some_iff.mp hlanes
  refine ⟨u, hu, ?_⟩
  have hlane : u.lane i = (w.endLane i (barKey id i) (w.shadow (i / 4) == some i) s.ck.free s.ck.nextId).lane i := by
    simp only [Wg.lane, hul]
  rw [hlane]
  exact Wg.exited_endLane _ _ _ _ _ _ hi

end Sys2Proof.Machine
end

section
/-! O11. -/
namespace Sys2Proof.Machine

theorem Lane.toOs_of {l : Lane} {cause : Nat} (h : bits l.tbase 51 9 = 0 ∨ l.tstatus.getLsbD 63 = true ∨ cause = 13) :
    l.toOs cause = true := by
  rcases h with h | h | h <;> simp [Lane.toOs, h]

/-- A node whose lane a trap kills. -/
def Node.logTrap (n : Node) (e : TrapLog) : Node :=
  ({ n with log := n.log ++ [e], killed := if e.cause = 13 then min (n.killed + 1) 0xFFFFFFFF else n.killed } : Node).fail
    (if e.cause = 13 && n.segment then 5 else 2)

theorem Node.code_logTrap (n : Node) (e : TrapLog) (h : n.code = 0) : (n.logTrap e).code = 2 ∨ (n.logTrap e).code = 5 := by
  simp only [Node.logTrap, Node.fail, h, decide_true, Bool.true_or, if_true]
  split
  · exact .inr rfl
  · exact .inl rfl

/-- Flits given back leave a lane with everything else. -/
theorem Wg.lane_giveBack (w : Wg) (i : Nat) (hi : i < w.lanes.length) :
    (w.giveBack i).lane i = { w.lane i with flits := [] } :=
  (Wg.lane_modLane { w with qrx := returnFlits (w.lane i).flits w.qrx } i i (fun l => { l with flits := [] }) hi).trans
    (if_pos rfl)

theorem Wg.length_giveBack (w : Wg) (i : Nat) : (w.giveBack i).lanes.length = w.lanes.length := upd_length _ _ _

/-- A trap that goes to the module OS ends its lane and is logged in its node. -/
theorem State.takeTrap_toOs {s : State} {id i cause : Nat} {w : Wg} {n : Node} (hw : s.wg? id = some w)
    (hi : i < w.lanes.length) (hlive : (w.lane i).live = true) (hn : s.node? w.node = some n)
    (hos : (w.lane i).toOs cause = true) (tval : W64) (clt eng : Bool) :
    (∃ u, (s.takeTrap id i cause tval clt eng).wg? id = some u ∧ (u.lane i).exited = true) ∧
      ∃ m, (s.takeTrap id i cause tval clt eng).node? w.node = some m ∧
        m.killed = (if cause = 13 then min (n.killed + 1) 0xFFFFFFFF else n.killed) ∧
        m.log = n.log ++ [{ wg := w.index, lane := i, cause := cause, tval := tval, tpc := pcMask (w.lane i).pc }] ∧
        (n.code = 0 → m.code = 2 ∨ m.code = 5) := by
  simp only [Lane.live, Bool.and_eq_true, Bool.not_eq_true'] at hlive
  obtain ⟨hexit, hhelp⟩ := hlive
  have hlane := Wg.lane_giveBack w i hi
  let e : TrapLog := { wg := w.index, lane := i, cause := cause, tval := tval, tpc := pcMask (w.lane i).pc }
  let s1 := s.modWg id (·.giveBack i)
  let t := s1.modNode w.node (·.logTrap e)
  have hw1 : s1.wg? id = some (w.giveBack i) := State.wg_modWg_self hw _ fun x => Wg.giveBack_id x i
  have hexit1 : ((w.giveBack i).lane i).exited = false := by rw [hlane]; exact hexit
  have htrap : s.takeTrap id i cause tval clt eng = t.exitLane id i := by
    simp only [State.takeTrap, hw, hhelp, hexit, hos, Bool.or_self, Bool.false_eq_true, if_false, if_true]
    change s1.kill id i cause tval = _
    simp only [State.kill, hw1, hlane, hexit, Bool.false_eq_true, if_false]
    rfl
  have hi1 : i < (w.giveBack i).lanes.length := (Wg.length_giveBack w i).symm ▸ hi
  obtain ⟨hout, hnodes⟩ := State.exitLane_exits (s := t) (w := w.giveBack i) hw1 hi1 hexit1
  have hnode : t.node? w.node = some (n.logTrap e) := by
    have hid : (n.id == w.node) = true := by simpa using List.find?_some hn
    have hmod := State.node_modNode s1 w.node w.node (·.logTrap e) fun _ => rfl
    have hsame : s1.node? w.node = some n := hn
    rw [hsame, Option.map_some, if_pos hid] at hmod
    exact hmod
  obtain ⟨m, hm, hkill, hlog, hcode⟩ := hnodes _ _ hnode
  rw [htrap]
  refine ⟨hout, m, hm, hkill, hlog, fun h0 => ?_⟩
  rcases hcode with hcode | hcode
  · exact hcode.symm ▸ Node.code_logTrap n e h0
  · exact .inr hcode

/-- Settles O11: the trap kills the lane, whose node is written before its lane ends. -/
theorem trapsOfTheModuleOs : Obligations.TrapsOfTheModuleOs := by
  unfold Obligations.TrapsOfTheModuleOs
  refine ⟨?_, trapInstructions⟩
  intro s id i w n cause tval clt eng hw hi hlive hn hos
  exact State.takeTrap_toOs hw hi hlive hn (Lane.toOs_of hos) tval clt eng

end Sys2Proof.Machine
end

section
/-! A workgroup that is replaced. -/
namespace Sys2Proof.Machine

theorem State.wg_setWg (s : State) (w : Wg) (k : Nat) :
    (s.setWg w).wg? k = (s.wg? k).map fun x => if x.id == w.id then w else x := by
  have hmod : s.setWg w = s.modWg w.id fun x => if x.id == w.id then w else x := by
    simp only [State.setWg, State.modWg]
    congr 3
    funext x
    split <;> rfl
  have hid : ∀ x : Wg, (if x.id == w.id then w else x).id = x.id := by
    intro x
    split
    · next h => exact (by simpa using h : x.id = w.id).symm
    · rfl
  rw [hmod, State.wg_modWg s w.id k _ hid]
  cases s.wg? k with
  | none => rfl
  | some x =>
    simp only [Option.map_some]
    split <;> rfl

/-- A workgroup that is replaced by one of its identifier. -/
theorem State.wg_setWg_self {s : State} {w x : Wg} (hx : s.wg? w.id = some x) : (s.setWg w).wg? w.id = some w := by
  have hid : (x.id == w.id) = true := by simpa using wg?_id hx
  rw [State.wg_setWg, hx, Option.map_some, if_pos hid]

theorem State.wg_setWg_other (s : State) (w : Wg) {k : Nat} (hk : k ≠ w.id) : (s.setWg w).wg? k = s.wg? k := by
  rw [State.wg_setWg]
  cases h : s.wg? k with
  | none => rfl
  | some x =>
    have hne : ¬(x.id == w.id) = true := by
      rw [wg?_id h]
      simpa using hk
    rw [Option.map_some, if_neg hne]

end Sys2Proof.Machine
end

section
/-! The meeting of GSHAPE (R174, R175, R295). -/
namespace Sys2Proof.Machine

theorem mapLanes_length (f : Nat → Lane → Lane) (k : Nat) (ls : List Lane) : (mapLanes f k ls).length = ls.length := by
  induction ls generalizing k with
  | nil => rfl
  | cons l ls ih => exact congrArg (· + 1) (ih (k + 1))

/-- A lane that waits nowhere arrives at the meeting. -/
theorem Lane.meet_free {l : Lane} (h : l.wait = .none) (width : Nat) (g : Gang) :
    l.meet width g = { l with wait := .gshape width g.next g.nextClause g.k } := by
  simp only [Lane.meet, h]

/-- A lane that arrived leaves the meeting for the next slot. -/
theorem Lane.leaveMeet_meet {l : Lane} (h : l.wait = .none) (width : Nat) (g : Gang) :
    (l.meet width g).leaveMeet = l.goOn g.next g.nextClause g.k := by
  rw [Lane.meet_free h]
  rfl

/-- The workgroup whose gang has arrived at the meeting. -/
def Wg.met (w : Wg) (g : Gang) (width : Nat) : Wg :=
  { w with lanes := mapLanes (fun i l => if g.lanes.contains i && l.live then l.meet width g else l) 0 w.lanes }

theorem Wg.length_met (w : Wg) (g : Gang) (width : Nat) : (w.met g width).lanes.length = w.lanes.length :=
  mapLanes_length _ _ _

theorem Wg.lane_met (w : Wg) (g : Gang) (width : Nat) {i : Nat} (hi : i < w.lanes.length) :
    (w.met g width).lane i = if g.lanes.contains i && (w.lane i).live then (w.lane i).meet width g else w.lane i := by
  have hmet : (w.met g width).lane i = (mapLanes _ 0 w.lanes).getD i {} := rfl
  rw [hmet, List.getD_eq_getElem?_getD, mapLanes_getElem?, List.getElem?_eq_getElem hi, lane_getElem w i hi]
  simp only [Nat.zero_add, Option.map_some, Option.getD_some]

/-- A lane that arrives lives on. -/
theorem Lane.live_meet (l : Lane) (width : Nat) (g : Gang) : (l.meet width g).live = l.live := by
  unfold Lane.meet
  split <;> rfl

theorem Wg.live_met (w : Wg) (g : Gang) (width : Nat) {i : Nat} (hi : i < w.lanes.length) :
    ((w.met g width).lane i).live = (w.lane i).live := by
  rw [Wg.lane_met w g width hi]
  split
  · exact Lane.live_meet _ _ _
  · rfl

/-- A workgroup of the width its live lanes named, its lanes past the meeting. -/
def Wg.pastMeeting (w : Wg) (width : Nat) : Wg :=
  let w1 := if width = w.width then w else w.reshape width
  ({ w1 with lanes := w1.lanes.map Lane.leaveMeet } : Wg).syncHelpers

theorem Wg.width_pastMeeting (w : Wg) (width : Nat) : (w.pastMeeting width).width = width := by
  unfold Wg.pastMeeting
  split
  · next h => exact h.symm
  · rfl

theorem Wg.id_pastMeeting (w : Wg) (width : Nat) : (w.pastMeeting width).id = w.id := by
  unfold Wg.pastMeeting
  split <;> rfl

theorem Wg.lanes_reshape (w : Wg) (width : Nat) : (if width = w.width then w else w.reshape width).lanes = w.lanes := by
  split <;> rfl

theorem Lane.helper_goOn (l : Lane) (n c : W64) (k : Nat) : (l.goOn n c k).helper = l.helper := by
  unfold Lane.goOn
  simp only []
  split
  · rfl
  · split <;> rfl

theorem Lane.helper_leaveMeet (l : Lane) : l.leaveMeet.helper = l.helper := by
  unfold Lane.leaveMeet
  split
  · exact Lane.helper_goOn _ _ _ _
  · rfl

theorem Wg.lane_pastMeeting (w : Wg) (width : Nat) {i : Nat} (hi : i < w.lanes.length) (hh : (w.lane i).helper = false) :
    (w.pastMeeting width).lane i = (w.lane i).leaveMeet := by
  have hlane : ({ (if width = w.width then w else w.reshape width) with
      lanes := (if width = w.width then w else w.reshape width).lanes.map Lane.leaveMeet } : Wg).lane i = (w.lane i).leaveMeet := by
    simp only [Wg.lane, Wg.lanes_reshape, List.getD_eq_getElem?_getD, List.getElem?_map, List.getElem?_eq_getElem hi,
      Option.map_some, Option.getD_some]
  unfold Wg.pastMeeting
  rw [Wg.syncHelpers_lane]
  · exact hlane
  · rw [hlane, Lane.helper_leaveMeet, hh]

/-- The meeting of a workgroup whose live lanes have all arrived with one width ends. -/
theorem State.closeMeeting_all {s : State} {w : Wg} {id width : Nat} (hw : s.wg? id = some w)
    (hpend : w.scalarsPending = false) (hany : ∃ i < w.lanes.length, (w.lane i).live = true)
    (hall : ∀ i < w.lanes.length, (w.lane i).live = true → (w.lane i).meetWidth = some width) :
    s.closeMeeting id = s.setWg (w.pastMeeting width) := by
  have hmem : ∀ i ∈ (List.range w.lanes.length).filter (fun i => (w.lane i).live), (w.lane i).meetWidth = some width := by
    intro i hi
    obtain ⟨hr, hl⟩ := List.mem_filter.mp hi
    exact hall i (List.mem_range.mp hr) hl
  obtain ⟨i, hi, hl⟩ := hany
  have hi' : i ∈ (List.range w.lanes.length).filter (fun i => (w.lane i).live) :=
    List.mem_filter.mpr ⟨List.mem_range.mpr hi, hl⟩
  have hnone : ((List.range w.lanes.length).filter fun i => (w.lane i).live).any (fun i => (w.lane i).meetWidth.isNone) = false := by
    rw [List.any_eq_false]
    intro j hj
    rw [hmem j hj]
    simp
  have hfirst : ((List.range w.lanes.length).filter fun i => (w.lane i).live).findSome? (fun i => (w.lane i).meetWidth) = some width := by
    revert hmem hi'
    generalize (List.range w.lanes.length).filter (fun i => (w.lane i).live) = live
    intro hmem hi'
    cases live with
    | nil => exact absurd hi' List.not_mem_nil
    | cons j js => simp only [List.findSome?_cons, hmem j List.mem_cons_self]
  have hevery : ((List.range w.lanes.length).filter fun i => (w.lane i).live).all (fun i => (w.lane i).meetWidth == some width) = true := by
    rw [List.all_eq_true]
    intro j hj
    rw [hmem j hj]
    exact beq_self_eq_true _
  simp only [State.closeMeeting, hw, hnone, hpend, hfirst, hevery, Bool.or_self, Bool.false_eq_true, if_false, if_true]
  rfl

end Sys2Proof.Machine
end

section
/-! O18. -/
namespace Sys2Proof.Machine

/-- Settles O18: every live lane has arrived with the same width, so the meeting ends. -/
theorem shapeChangesAtTheMeeting : Obligations.ShapeChangesAtTheMeeting := by
  unfold Obligations.ShapeChangesAtTheMeeting
  intro s f g w hg hw hck
  refine ⟨fun hgn => ?_, fun hgn hpend hany hall => ?_⟩
  · simp only [exec, execGshape, withGang_eq hg hw, hck, hgn, if_true]
  · have hid := wg?_id hw
    have hwid : s.wg? w.id = some w := hid.symm ▸ hw
    let width := shapeWidth f.var.toNat
    let m := w.met g width
    have hmet : ∀ i < w.lanes.length, (w.lane i).live = true → m.lane i = (w.lane i).meet width g := by
      intro i hi hl
      rw [Wg.lane_met w g width hi, hl, List.contains_iff_mem.mpr (hall i hi hl).1, Bool.and_self, if_pos rfl]
    have hm : (s.modWg w.id (·.met g width)).wg? w.id = some m := State.wg_modWg_self hwid _ fun _ => rfl
    have hone : ∃ i < m.lanes.length, (m.lane i).live = true := by
      obtain ⟨l, hl, hlive⟩ := List.any_eq_true.mp hany
      obtain ⟨i, hi, rfl⟩ := List.mem_iff_getElem.mp hl
      refine ⟨i, (Wg.length_met w g width).symm ▸ hi, ?_⟩
      rw [Wg.live_met w g width hi, lane_getElem w i hi, hlive]
    have harrived : ∀ i < m.lanes.length, (m.lane i).live = true → (m.lane i).meetWidth = some width := by
      intro i hi hl
      rw [Wg.length_met] at hi
      rw [Wg.live_met w g width hi] at hl
      rw [hmet i hi hl, Lane.meet_free (hall i hi hl).2]
      rfl
    have hclose := State.closeMeeting_all hm hpend hone harrived
    have hpast : (m.pastMeeting width).id = w.id := Wg.id_pastMeeting m width
    refine ⟨(s.modWg w.id (·.met g width)).setWg (m.pastMeeting width), m.pastMeeting width, ?_, ?_,
      Wg.width_pastMeeting m width, ?_⟩
    · simp only [exec, execGshape, withGang_eq hg hw, hck, hgn, Bool.false_eq_true, if_false]
      exact congrArg Host.Outcome.next hclose
    · rw [← hid, ← hpast]
      exact State.wg_setWg_self (hpast.symm ▸ hm)
    · intro i hi hl
      have hh : (m.lane i).helper = false := by
        have hml : (m.lane i).live = true := (Wg.live_met w g width hi).trans hl
        simp only [Lane.live, Bool.and_eq_true, Bool.not_eq_true'] at hml
        exact hml.2
      rw [Wg.lane_pastMeeting m width ((Wg.length_met w g width).symm ▸ hi) hh, hmet i hi hl,
        Lane.leaveMeet_meet (hall i hi hl).2]
      rfl

end Sys2Proof.Machine
end

section
/-! What an issued gang leaves of the state when its lanes only write registers and send flits (R272). -/
namespace Sys2Proof.Machine

/-- Flits given back change the receive queues only. -/
theorem giveBacks_lanes (g : Gang) (w : Wg) (out : Nat → Lane → LOut) (w1 : Wg) :
    (giveBacks g w out w1).id = w1.id ∧ (giveBacks g w out w1).lanes = w1.lanes := by
  unfold giveBacks
  generalize g.lanes = ls
  induction ls with
  | nil => exact ⟨rfl, rfl⟩
  | cons i ls ih =>
    rw [List.foldr_cons]
    split
    · exact ih
    · exact ih

/-- The workgroup once each of its lanes has taken its outcome. -/
def Wg.ranLanes (w : Wg) (g : Gang) (now : Nat) (out : Nat → Lane → LOut) : Wg :=
  (giveBacks g w out { w with lanes := mapLanes (laneAfter g w now out) 0 w.lanes }).syncHelpers

theorem Wg.id_ranLanes (w : Wg) (g : Gang) (now : Nat) (out : Nat → Lane → LOut) : (w.ranLanes g now out).id = w.id :=
  (giveBacks_lanes g w out _).1

/-- A lane that is no helper takes its own outcome. -/
theorem Wg.lane_ranLanes (w : Wg) (g : Gang) (now : Nat) (out : Nat → Lane → LOut) {i : Nat} (hi : i < w.lanes.length)
    (hh : (laneAfter g w now out i (w.lane i)).helper = false) :
    (w.ranLanes g now out).lane i = laneAfter g w now out i (w.lane i) := by
  have hlane : (giveBacks g w out { w with lanes := mapLanes (laneAfter g w now out) 0 w.lanes }).lane i =
      laneAfter g w now out i (w.lane i) := by
    rw [Wg.lane, (giveBacks_lanes g w out _).2, List.getD_eq_getElem?_getD, mapLanes_getElem?,
      List.getElem?_eq_getElem hi, lane_getElem w i hi]
    simp only [Nat.zero_add, Option.map_some, Option.getD_some]
  rw [Wg.ranLanes, Wg.syncHelpers_lane]
  · exact hlane
  · rw [hlane, hh]

/-- A place past the workgroup's lanes stays empty. -/
theorem Wg.lane_ranLanes_beyond (w : Wg) (g : Gang) (now : Nat) (out : Nat → Lane → LOut) {i : Nat}
    (hi : ¬i < w.lanes.length) : (w.ranLanes g now out).lane i = w.lane i := by
  have hout : ∀ ls : List Lane, ls.length = w.lanes.length → ls.getD i {} = {} := by
    intro ls hl
    rw [List.getD_eq_getElem?_getD, List.getElem?_eq_none (by rw [hl]; exact Nat.not_lt.mp hi)]
    rfl
  have hlen : (w.ranLanes g now out).lanes.length = w.lanes.length := by
    have hafter := mapLanes_length (laneAfter g w now out) 0 w.lanes
    have hback := congrArg List.length (giveBacks_lanes g w out { w with lanes := mapLanes (laneAfter g w now out) 0 w.lanes }).2
    exact (mapLanes_length _ _ _).trans (hback.trans hafter)
  exact (hout _ hlen).trans (hout _ rfl).symm

/-- A lane outside the gang that is no helper stays as it is. -/
theorem Wg.lane_ranLanes_outside (w : Wg) (g : Gang) (now : Nat) (out : Nat → Lane → LOut) {i : Nat} (hi : i ∉ g.lanes)
    (hh : (w.lane i).helper = false) : (w.ranLanes g now out).lane i = w.lane i := by
  by_cases hlt : i < w.lanes.length
  · have hsame : laneAfter g w now out i (w.lane i) = w.lane i := by
      have hc : g.lanes.contains i = false := by
        rw [← Bool.not_eq_true, List.contains_iff_mem]
        exact hi
      simp only [laneAfter, hc, Bool.not_false, if_true]
    rw [Wg.lane_ranLanes w g now out hlt (hsame.symm ▸ hh), hsame]
  · exact Wg.lane_ranLanes_beyond w g now out hlt

theorem State.runLanes_eq (s : State) (g : Gang) (w : Wg) (out : Nat → Lane → LOut) :
    s.runLanes g w out = g.lanes.foldl (laneEnd g w out)
      ((g.lanes.flatMap (laneFx g w out)).foldl (fun s x => s.applyFx w.id w.core x) (s.setWg (w.ranLanes g s.ck.now out))) := rfl

/-- The state is the same but for the flits on their way, and for the scalars and queues of one workgroup. -/
structure State.PlainlySame (id : Nat) (s t : State) : Prop where
  ms : t.ms = s.ms
  hub : t.hub = s.hub
  rt : t.rt = s.rt
  cp : t.cp = s.cp
  log : t.log = s.log
  nodes : t.ex.nodes = s.ex.nodes
  cores : t.ex.cores = s.ex.cores
  ops : t.ex.ops = s.ex.ops
  ringWrites : t.ex.ringWrites = s.ex.ringWrites
  links : t.net.links = s.net.links
  trees : t.net.trees = s.net.trees
  others : ∀ k, k ≠ id → t.wg? k = s.wg? k
  lanes : (t.wg? id).map Wg.lanes = (s.wg? id).map Wg.lanes

theorem State.PlainlySame.refl (id : Nat) (s : State) : s.PlainlySame id s :=
  ⟨rfl, rfl, rfl, rfl, rfl, rfl, rfl, rfl, rfl, rfl, rfl, fun _ _ => rfl, rfl⟩

theorem State.PlainlySame.trans {id : Nat} {s t u : State} (h : s.PlainlySame id t) (k : t.PlainlySame id u) :
    s.PlainlySame id u :=
  ⟨k.ms.trans h.ms, k.hub.trans h.hub, k.rt.trans h.rt, k.cp.trans h.cp, k.log.trans h.log, k.nodes.trans h.nodes,
    k.cores.trans h.cores, k.ops.trans h.ops, k.ringWrites.trans h.ringWrites, k.links.trans h.links, k.trees.trans h.trees,
    fun j hj => (k.others j hj).trans (h.others j hj), k.lanes.trans h.lanes⟩

/-- An effect of a lane that is a scalar or a flit. -/
def Fx.plain : Fx → Bool
  | .act _ => false
  | .acquire _ => false
  | _ => true

theorem State.plainlySame_applyFx (s : State) (id core : Nat) (x : Nat × Fx) (hx : x.2.plain = true) :
    s.PlainlySame id (s.applyFx id core x) := by
  obtain ⟨i, x⟩ := x
  cases x with
  | scal n r =>
    refine ⟨rfl, rfl, rfl, rfl, rfl, rfl, rfl, rfl, rfl, rfl, rfl, fun k hk => ?_, ?_⟩
    · exact State.wg_modWg_other s id k (fun w => w.putScalar (w.grpOf i) n r) (fun _ => rfl) hk
    · exact (State.lanesKept_modWg s id (fun w => w.putScalar (w.grpOf i) n r) (fun _ => rfl) fun _ => rfl).lanes id
  | send q v =>
    simp only [State.applyFx]
    split
    · exact .refl id s
    · split
      · exact .refl id s
      · unfold State.sendFlit
        split
        · exact .refl id s
        · exact ⟨rfl, rfl, rfl, rfl, rfl, rfl, rfl, rfl, rfl, rfl, rfl, fun _ _ => rfl, rfl⟩
  | acquire sc => exact absurd hx Bool.false_ne_true
  | act f => exact absurd hx Bool.false_ne_true
  | stored tile loc n p => exact .refl id s

theorem State.plainlySame_foldl_applyFx (id core : Nat) (xs : List (Nat × Fx)) (s : State)
    (hxs : ∀ x ∈ xs, x.2.plain = true) : s.PlainlySame id (xs.foldl (fun s x => s.applyFx id core x) s) := by
  induction xs generalizing s with
  | nil => exact .refl id s
  | cons x xs ih =>
    exact (State.plainlySame_applyFx s id core x (hxs x List.mem_cons_self)).trans
      (ih _ fun y hy => hxs y (List.mem_cons_of_mem _ hy))

/-- Lanes that go on end nothing. -/
theorem foldl_laneEnd_done (g : Gang) (w : Wg) (out : Nat → Lane → LOut) (ls : List Nat) (s : State)
    (h : ∀ i ∈ ls, ∃ l fx, out i (w.lane i) = .done l fx) : ls.foldl (laneEnd g w out) s = s := by
  induction ls generalizing s with
  | nil => rfl
  | cons i ls ih =>
    obtain ⟨l, fx, hi⟩ := h i List.mem_cons_self
    have hone : laneEnd g w out s i = s := by
      simp only [laneEnd, hi, ite_self]
    rw [List.foldl_cons, hone, ih s fun j hj => h j (List.mem_cons_of_mem _ hj)]

/-- The effects of lanes whose outcomes are plain results are plain. -/
theorem laneFx_plain (g : Gang) (w : Wg) (out : Nat → Lane → LOut)
    (h : ∀ i ∈ g.lanes, ∃ l fx, out i (w.lane i) = .done l fx ∧ fx.all Fx.plain = true) :
    ∀ x ∈ g.lanes.flatMap (laneFx g w out), x.2.plain = true := by
  intro x hx
  obtain ⟨i, hi, hxi⟩ := List.mem_flatMap.mp hx
  obtain ⟨l, fx, ho, hp⟩ := h i hi
  simp only [laneFx, ho, LOut.fx] at hxi
  split at hxi
  · exact absurd hxi List.not_mem_nil
  · obtain ⟨y, hy, rfl⟩ := List.mem_map.mp hxi
    exact List.all_eq_true.mp hp y hy

/-! ### Popping flits, and the injector -/

theorem Wg.lane_modLane_other (w : Wg) (i : Nat) (f : Lane → Lane) {j : Nat} (hj : j ≠ i) :
    (w.modLane i f).lane j = w.lane j := by
  rcases w.lane_modLane_cases i j f with ⟨-, h⟩ | ⟨h, -⟩
  · exact absurd h hj
  · exact h

/-- The workgroup is the same but for one lane and for what no lane holds. -/
def Wg.sameBut (i : Nat) (w u : Wg) : Prop := u.id = w.id ∧ ∀ j, j ≠ i → u.lane j = w.lane j

theorem Wg.sameBut_trans {i : Nat} {w u x : Wg} (h : w.sameBut i u) (k : u.sameBut i x) : w.sameBut i x :=
  ⟨k.1.trans h.1, fun j hj => (k.2 j hj).trans (h.2 j hj)⟩

theorem Wg.sameBut_modLane (w : Wg) (i : Nat) (f : Lane → Lane) : w.sameBut i (w.modLane i f) :=
  ⟨rfl, fun _ hj => Wg.lane_modLane_other w i f hj⟩

theorem sameBut_popLane (i : Nat) (qs : List Nat) (w : Wg) : w.sameBut i (popLane w i qs) := by
  induction qs generalizing w with
  | nil => exact ⟨rfl, fun _ _ => rfl⟩
  | cons q qs ih =>
    unfold popLane
    split
    · next x xs _ =>
      exact Wg.sameBut_trans (Wg.sameBut_modLane { w with qrx := w.qrx.set q xs } i fun l => { l with flits := l.flits ++ [(q, x)] })
        (ih _)
    · exact ⟨rfl, fun _ _ => rfl⟩

/-- A fold over lanes, each step of which changes its own lane only. -/
theorem foldl_sameBut (step : Wg → Nat → Wg) (h : ∀ w i, Wg.sameBut i w (step w i)) (ls : List Nat) (w : Wg) :
    (ls.foldl step w).id = w.id ∧ ∀ j, j ∉ ls → (ls.foldl step w).lane j = w.lane j := by
  induction ls generalizing w with
  | nil => exact ⟨rfl, fun _ _ => rfl⟩
  | cons i ls ih =>
    obtain ⟨hid, hl⟩ := h w i
    obtain ⟨hid', hl'⟩ := ih (step w i)
    exact ⟨hid'.trans hid, fun j hj => (hl' j fun hm => hj (List.mem_cons_of_mem _ hm)).trans
      (hl j fun he => hj (he ▸ List.mem_cons_self))⟩

/-- Popping flits changes the lanes of the gang only. -/
theorem popFlits_outside (g : Gang) (sp : LaneSpec) (f : Fields) (w : Wg) :
    (popFlits g sp f w).id = w.id ∧ ∀ j, j ∉ g.lanes → (popFlits g sp f w).lane j = w.lane j := by
  unfold popFlits
  split
  · exact ⟨rfl, fun _ _ => rfl⟩
  · refine foldl_sameBut _ (fun w i => ?_) g.lanes w
    have hunowe := Wg.sameBut_modLane w i Lane.unowe
    simp only []
    split
    · exact hunowe
    · split
      · exact hunowe
      · exact Wg.sameBut_trans hunowe (sameBut_popLane i _ _)

/-- An operation that is checked changes the state of its core's injector only. -/
theorem checked_cores (s : State) (g : Gang) (w : Wg) (unit : Nat) (f : Fields) (out : Nat → Lane → LOut) :
    checked s g w unit f out = { s with ex := { s.ex with cores := (checked s g w unit f out).ex.cores } } := by
  unfold checked State.drawn
  split
  · rfl
  · split
    · rfl
    · rfl

/-- A workgroup whose registers are replaced by those of the gang's outcomes: the rest of the state is as it was. -/
theorem State.runLanes_plain {s : State} {g : Gang} {w : Wg} {out : Nat → Lane → LOut}
    (h : ∀ i ∈ g.lanes, ∃ l fx, out i (w.lane i) = .done l fx ∧ fx.all Fx.plain = true) :
    State.PlainlySame w.id (s.setWg (w.ranLanes g s.ck.now out)) (s.runLanes g w out) := by
  have hdone : ∀ i ∈ g.lanes, ∃ l fx, out i (w.lane i) = .done l fx := fun i hi =>
    let ⟨l, fx, ho, _⟩ := h i hi
    ⟨l, fx, ho⟩
  rw [State.runLanes_eq, foldl_laneEnd_done g w out g.lanes _ hdone]
  exact State.plainlySame_foldl_applyFx w.id w.core _ _ (laneFx_plain g w out h)

end Sys2Proof.Machine
end

section
/-! What a written result leaves of its lane (R252). -/
namespace Sys2Proof.Machine

/-- Nothing of a lane but its registers, its predicates, and what is known of their producers. -/
structure Lane.RegsApart (l l' : Lane) : Prop where
  pc : l'.pc = l.pc
  clause : l'.clause = l.clause
  d : l'.d = l.d
  lo : l'.lo = l.lo
  h : l'.h = l.h
  tcause : l'.tcause = l.tcause
  tval : l'.tval = l.tval
  tpc : l'.tpc = l.tpc
  tstatus : l'.tstatus = l.tstatus
  tbase : l'.tbase = l.tbase
  tsave : l'.tsave = l.tsave
  nopre : l'.nopre = l.nopre
  rep : l'.rep = l.rep
  exited : l'.exited = l.exited
  helper : l'.helper = l.helper
  wait : l'.wait = l.wait

theorem Lane.RegsApart.refl (l : Lane) : l.RegsApart l :=
  ⟨rfl, rfl, rfl, rfl, rfl, rfl, rfl, rfl, rfl, rfl, rfl, rfl, rfl, rfl, rfl, rfl⟩

theorem Lane.RegsApart.trans {l l' l'' : Lane} (a : l.RegsApart l') (b : l'.RegsApart l'') : l.RegsApart l'' :=
  ⟨b.pc.trans a.pc, b.clause.trans a.clause, b.d.trans a.d, b.lo.trans a.lo, b.h.trans a.h, b.tcause.trans a.tcause,
    b.tval.trans a.tval, b.tpc.trans a.tpc, b.tstatus.trans a.tstatus, b.tbase.trans a.tbase, b.tsave.trans a.tsave,
    b.nopre.trans a.nopre, b.rep.trans a.rep, b.exited.trans a.exited, b.helper.trans a.helper, b.wait.trans a.wait⟩

theorem Lane.regsApart_put (l : Lane) (free e : Nat) (r : Reg) : l.RegsApart (l.put free e r) :=
  ⟨rfl, rfl, rfl, rfl, rfl, rfl, rfl, rfl, rfl, rfl, rfl, rfl, rfl, rfl, rfl, rfl⟩

theorem Lane.regsApart_setPred (l : Lane) (n : Nat) (b : Bool) : l.RegsApart (l.setPred n b) := by
  unfold Lane.setPred
  split
  · exact .refl l
  · exact ⟨rfl, rfl, rfl, rfl, rfl, rfl, rfl, rfl, rfl, rfl, rfl, rfl, rfl, rfl, rfl, rfl⟩

theorem Lane.at_put_other (l : Lane) (free : Nat) {e e' : Nat} (r : Reg) (h : e' ≠ e) : (l.put free e r).at e' = l.at e' := by
  simp only [Lane.at, Lane.put, List.getD_eq_getElem?_getD, List.getElem?_set_ne (Ne.symm h)]

theorem Lane.at_setPred (l : Lane) (n e : Nat) (b : Bool) : (l.setPred n b).at e = l.at e := by
  unfold Lane.setPred
  split <;> rfl

/-- Another predicate of the eight stays. -/
theorem Lane.pred_setPred_other (l : Lane) {n k : Nat} (b : Bool) (hn : n < 8) (hk : k < 8) (h : k ≠ n) :
    (l.setPred n b).pred k = l.pred k := by
  unfold Lane.setPred
  split
  · rfl
  · have hbit : ((1#8) <<< n).getLsbD k = false := by
      simp [BitVec.getLsbD_shiftLeft, BitVec.getLsbD_one]
      omega
    have hcond : (if b then (1#8) <<< n else 0).getLsbD k = false := by
      cases b
      · exact BitVec.getLsbD_zero
      · exact hbit
    simp only [Lane.pred, BitVec.getLsbD_or, BitVec.getLsbD_and, BitVec.getLsbD_not, hbit, hcond, hk, decide_true,
      Bool.not_false, Bool.and_true, Bool.or_false]

/-- What a written result leaves, by the place it is written to. -/
def writtenPlaces (l l' : Lane) (o : Operand) (wide : Bool) (v : W64) (fx : List Fx) : Prop :=
  (∀ e, (∀ n : Fin 32, o = .v n → e ≠ l.entry n.val ∧ (wide = true → e ≠ l.entry (n.val + 1))) → l'.at e = l.at e) ∧
  (∀ k, k < 8 → (∀ n : Fin 8, o = .p n → k ≠ n.val) → l'.pred k = l.pred k) ∧
  ∀ x ∈ fx, (∃ n : Fin 192, o = .s n ∧ ∃ k r, x = .scal k r ∧ (k = n.val ∨ k = n.val + 1)) ∨
    ∃ q : Fin 4, o = .qtx q ∧ x = .send q.val (lo32 v)

theorem write_places {cx : Cx} {l l' : Lane} {o : Operand} {wide p : Bool} {v tag : W64} {fx : List Fx}
    (h : write cx l o wide v p tag = .done l' fx) : l.RegsApart l' ∧ writtenPlaces l l' o wide v fx := by
  cases o with
  | v n =>
    injection h with hl hfx
    subst hfx hl
    cases wide with
    | false =>
      exact ⟨Lane.regsApart_put _ _ _ _, fun e he => Lane.at_put_other _ _ _ (he n rfl).1, fun _ _ _ => rfl,
        fun x hx => absurd hx List.not_mem_nil⟩
    | true =>
      refine ⟨(Lane.regsApart_put _ _ _ _).trans (Lane.regsApart_put _ _ _ _), fun e he => ?_, fun _ _ _ => rfl,
        fun x hx => absurd hx List.not_mem_nil⟩
      obtain ⟨hlow, hhigh⟩ := he n rfl
      exact (Lane.at_put_other _ _ _ (hhigh rfl)).trans (Lane.at_put_other _ _ _ hlow)
  | s n =>
    injection h with hl hfx
    subst hfx hl
    refine ⟨.refl l, fun _ _ => rfl, fun _ _ _ => rfl, fun x hx => .inl ⟨n, rfl, ?_⟩⟩
    rcases List.mem_cons.mp hx with rfl | hx
    · exact ⟨n.val, _, rfl, .inl rfl⟩
    · cases wide with
      | false => exact absurd hx List.not_mem_nil
      | true => exact ⟨n.val + 1, _, List.mem_singleton.mp hx, .inr rfl⟩
  | p n =>
    cases p with
    | true => exact absurd h LOut.noConfusion
    | false =>
      injection h with hl hfx
      subst hfx hl
      exact ⟨Lane.regsApart_setPred _ _ _, fun _ _ => Lane.at_setPred _ _ _ _,
        fun k hk hne => Lane.pred_setPred_other l _ n.isLt hk (hne n rfl), fun x hx => absurd hx List.not_mem_nil⟩
  | qtx q =>
    injection h with hl hfx
    subst hfx hl
    exact ⟨.refl l, fun _ _ => rfl, fun _ _ _ => rfl, fun x hx => .inr ⟨q, rfl, List.mem_singleton.mp hx⟩⟩
  | _ =>
    injection h with hl hfx
    subst hl hfx
    exact ⟨.refl l, fun _ _ => rfl, fun _ _ _ => rfl, fun x hx => absurd hx List.not_mem_nil⟩

end Sys2Proof.Machine
end

section
/-! O13. -/
namespace Sys2Proof.Machine

theorem State.plainlySame_spendFree (s : State) (id : Nat) (g : Gang) (w : Wg) : s.PlainlySame id (s.spendFree g w) := by
  unfold State.spendFree
  split
  · exact ⟨rfl, rfl, rfl, rfl, rfl, rfl, rfl, rfl, rfl, rfl, rfl, fun _ _ => rfl, rfl⟩
  · exact .refl id s

/-- Settles O13: the lanes' outcomes are plain, so only the workgroup, the flits and the injector are touched. -/
theorem registerInstructionFrame : Obligations.RegisterInstructionFrame := by
  unfold Obligations.RegisterInstructionFrame
  refine ⟨?_, ?_⟩
  · intro s g w sp f hw p plain c hplain t
    have hid : w.id = g.wg := wg?_id hw
    obtain ⟨hpid, hpout⟩ := popFlits_outside g sp f w
    have hpw : p.id = w.id := hpid
    have hcx : s.wg? p.id = some w := by rw [hpw, hid, hw]
    have hout : ∀ i ∈ g.lanes, ∃ l fx, laneRuns (s.cxOf g p f) sp f i (p.lane i) = .done l fx ∧ fx.all Fx.plain = true := hplain
    have hc : c = { s with ex := { s.ex with cores := c.ex.cores } } := checked_cores _ _ _ _ _ _
    have hcw : ∀ k, c.wg? k = s.wg? k := fun k => by rw [hc]; rfl
    let r := p.ranLanes g c.ck.now (laneRuns (s.cxOf g p f) sp f)
    have hrun : State.PlainlySame p.id (c.setWg r) t :=
      (State.runLanes_plain hout).trans (State.plainlySame_spendFree _ _ _ _)
    have hrid : r.id = p.id := Wg.id_ranLanes p g _ _
    have hset : ∀ k, k ≠ w.id → (c.setWg r).wg? k = s.wg? k := fun k hk =>
      (State.wg_setWg_other c r (by rw [hrid, hpw]; exact hk)).trans (hcw k)
    have hr : (c.setWg r).wg? w.id = some r := by
      rw [← hpw, ← hrid]
      exact State.wg_setWg_self (by rw [hrid]; exact (hcw _).trans hcx)
    have hlanes := hrun.lanes
    rw [hpw, hr] at hlanes
    obtain ⟨u, hu, hul⟩ := Option.map_eq_some_iff.mp hlanes
    have hcs : c.ms = s.ms ∧ c.hub = s.hub ∧ c.rt = s.rt ∧ c.cp = s.cp ∧ c.log = s.log ∧ c.ex.nodes = s.ex.nodes ∧
        c.ex.ops = s.ex.ops ∧ c.ex.ringWrites = s.ex.ringWrites ∧ c.net = s.net := by
      rw [hc]
      exact ⟨rfl, rfl, rfl, rfl, rfl, rfl, rfl, rfl, rfl⟩
    obtain ⟨cms, chub, crt, ccp, clog, cnodes, cops, crings, cnet⟩ := hcs
    refine ⟨hrun.ms.trans cms, hrun.hub.trans chub, hrun.rt.trans crt, hrun.cp.trans ccp, hrun.log.trans clog,
      hrun.nodes.trans cnodes, hrun.cores, hrun.ops.trans cops, hrun.ringWrites.trans crings,
      hrun.links.trans (congrArg _ cnet), hrun.trees.trans (congrArg _ cnet), fun k hk => ?_, u, hu, fun i hi hh => ?_⟩
    · exact (hrun.others k (by rw [hpw]; exact hk)).trans (hset k hk)
    · have hpi : p.lane i = w.lane i := hpout i hi
      have hui : u.lane i = r.lane i := by simp only [Wg.lane, hul]
      rw [hui, Wg.lane_ranLanes_outside p g _ _ hi (hpi ▸ hh), hpi]
  · intro cx l l' o wide p v tag fx h
    obtain ⟨hapart, hplaces⟩ := write_places h
    exact ⟨hapart.pc, hapart.clause, hapart.d, hapart.lo, hapart.h, hapart.tcause, hapart.tval, hapart.tpc, hapart.tstatus,
      hapart.tbase, hapart.tsave, hapart.nopre, hapart.rep, hapart.exited, hapart.helper, hapart.wait, hplaces⟩

end Sys2Proof.Machine
end

section
/-! The effects of a per-lane instruction: those of its body, and the acquires of its reads (R142, R144). -/
namespace Sys2Proof.Machine

/-- Every effect of an outcome is of a kind. -/
def LOut.fxAll (P : Fx → Prop) (o : LOut) : Prop := ∀ x ∈ o.fx, P x

section
variable {P : Fx → Prop}

theorem LOut.fxAll_of_nil {o : LOut} (h : o.fx = []) : o.fxAll P := fun _ hx => absurd (h ▸ hx) List.not_mem_nil

theorem LOut.fxAll_unread {o : LOut} (h : o.fxAll P) (l : Lane) : (o.unread l).fxAll P := by
  cases o with
  | wait l' fx =>
    simp only [LOut.unread]
    split
    · exact h
    · exact h
  | _ => exact h

theorem LOut.fxAll_addFx {o : LOut} {fx : List Fx} (h : o.fxAll P) (hfx : ∀ x ∈ fx, P x) : (o.addFx fx).fxAll P := by
  have happ : ∀ fs : List Fx, (∀ x ∈ fs, P x) → ∀ x ∈ fx ++ fs, P x := fun fs hfs x hx =>
    (List.mem_append.mp hx).elim (hfx x) (hfs x)
  cases o with
  | done l fs => exact happ fs h
  | go l fs => exact happ fs h
  | wait l fs =>
    intro x hx
    simp only [LOut.addFx, LOut.fx] at hx
    split at hx
    · exact happ fs h x hx
    · exact h x hx
  | _ => exact h

theorem LOut.fxAll_forHelper {o : LOut} (h : o.fxAll P) (cx : Cx) (f : Fields) (r : DRole) (l : Lane) :
    (o.forHelper cx f r l).fxAll P := by
  unfold LOut.forHelper
  split
  · exact h
  · cases o with
    | done l' fx => exact fun x hx => h x (List.mem_filter.mp hx).1
    | trap => exact LOut.fxAll_of_nil rfl
    | trapFx => exact LOut.fxAll_of_nil rfl
    | _ => exact h

theorem LOut.fxAll_guarded {o : LOut} (h : o.fxAll P) (hacq : ∀ n, P (.acquire n)) (f : Fields) (l : Lane) :
    (LOut.guarded f l o).fxAll P := by
  have hcons : ∀ fx : List Fx, (∀ x ∈ fx, P x) → ∀ x ∈ Fx.acquire 4 :: fx, P x := fun fx hfx x hx =>
    (List.mem_cons.mp hx).elim (fun he => he ▸ hacq 4) (hfx x)
  unfold LOut.guarded
  split
  · exact h
  · cases o with
    | done l' fx => exact hcons fx h
    | go l' fx => exact hcons fx h
    | _ => exact h

/-- The acquires that reads make. -/
theorem readAcq_all (hacq : ∀ n, P (.acquire n)) (hread : ∀ op, P (.act (·.handleRead op))) (xs : List Src) (i : Nat) :
    ∀ x ∈ readAcq xs i, P x := by
  intro x hx
  rcases List.mem_append.mp hx with hx | hx
  · split at hx
    · exact absurd hx List.not_mem_nil
    · exact List.mem_singleton.mp hx ▸ hacq _
  · obtain ⟨op, -, rfl⟩ := List.mem_map.mp hx
    exact hread op

/-- A limit that fails is a trap of the lane. -/
theorem limitStop_trap {cx : Cx} {sp : LaneSpec} {f : Fields} {i : Nat} {l : Lane} {o : LOut}
    (h : limitStop cx sp f i l = some o) : o = .trap l 3 (slotVal cx.g 4) false := by
  unfold limitStop at h
  rcases Option.or_eq_some_iff.mp h with hu | ⟨-, hu⟩
  · unfold unboundStop at hu
    split at hu
    · cases hu
    · split at hu
      · exact (Option.some.inj hu).symm
      · cases hu
    · cases hu
  · split at hu
    · exact (Option.some.inj hu).symm
    · cases hu

/-- A lane that is held up has no effect outside itself. -/
theorem laneStop_fx {cx : Cx} {sp : LaneSpec} {f : Fields} {i : Nat} {l : Lane} {xs : List Src} {o : LOut}
    (h : laneStop cx sp f i l xs = some o) : o.fx = [] := by
  unfold laneStop at h
  split at h
  · next o' ho =>
    cases h
    rw [limitStop_trap ho]
    rfl
  · split at h
    · cases h; rfl
    · cases h; rfl
    · split at h
      · cases h; rfl
      · cases h

theorem guardStop_fx {f : Fields} {l : Lane} {o : LOut} (h : guardStop f l = some o) : o.fx = [] := by
  unfold guardStop at h
  split at h
  · cases h
  · split at h
    · cases h; rfl
    · split at h
      · cases h; rfl
      · cases h

/-- The effects of one lane at an instruction are its body's and its reads'. -/
theorem laneOut_fxAll {sp : LaneSpec} (hacq : ∀ n, P (.acquire n)) (hread : ∀ op, P (.act (·.handleRead op)))
    (hbody : ∀ cx i l f v, (sp.body cx i l f v).fxAll P) (cx : Cx) (f : Fields) (i : Nat) (l : Lane) :
    (laneOut cx sp f i l).fxAll P := by
  unfold laneOut
  split
  · exact LOut.fxAll_forHelper (LOut.fxAll_of_nil rfl) _ _ _ _
  · simp only []
    split
    · next o ho => exact LOut.fxAll_forHelper (LOut.fxAll_of_nil (guardStop_fx ho)) _ _ _ _
    · refine LOut.fxAll_guarded ?_ hacq _ _
      split
      · exact LOut.fxAll_of_nil rfl
      · refine LOut.fxAll_forHelper ?_ _ _ _ _
        unfold laneBody
        split
        · next o ho => exact LOut.fxAll_of_nil (laneStop_fx ho)
        · exact LOut.fxAll_addFx (LOut.fxAll_unread (hbody _ _ _ _ _) _) (readAcq_all hacq hread _ _)

theorem laneFx_all {g : Gang} {w : Wg} {out : Nat → Lane → LOut} (h : ∀ i ∈ g.lanes, (out i (w.lane i)).fxAll P) :
    ∀ x ∈ g.lanes.flatMap (laneFx g w out), P x.2 := by
  intro x hx
  obtain ⟨i, hi, hxi⟩ := List.mem_flatMap.mp hx
  have hout := h i hi
  unfold laneFx at hxi
  split at hxi
  · cases ho : out i (w.lane i) with
    | wait l fx =>
      rw [ho] at hxi hout
      simp only [] at hxi
      split at hxi
      · exact absurd hxi List.not_mem_nil
      · obtain ⟨y, hy, rfl⟩ := List.mem_map.mp hxi
        exact hout y hy
    | _ =>
      rw [ho] at hxi
      exact absurd hxi List.not_mem_nil
  · obtain ⟨y, hy, rfl⟩ := List.mem_map.mp hxi
    exact hout y hy

end

/-- A result that is written: the effects are scalars and flits. -/
theorem write_fxAll {P : Fx → Prop} (hscal : ∀ n r, P (.scal n r)) (hsend : ∀ q v, P (.send q v)) (cx : Cx) (l : Lane)
    (o : Operand) (wide p : Bool) (v tag : W64) : (write cx l o wide v p tag).fxAll P := by
  cases o with
  | s n =>
    intro x hx
    rcases List.mem_cons.mp hx with rfl | hx
    · exact hscal _ _
    · cases wide with
      | false => exact absurd hx List.not_mem_nil
      | true => exact List.mem_singleton.mp hx ▸ hscal _ _
  | qtx q => exact fun x hx => List.mem_singleton.mp hx ▸ hsend _ _
  | p n => cases p <;> exact LOut.fxAll_of_nil rfl
  | _ => exact LOut.fxAll_of_nil rfl

end Sys2Proof.Machine
end

section
/-! A live lane that an issued gang does not touch, and one whose quad drops out (R61, R171). -/
namespace Sys2Proof.Machine

/-- A live lane of a workgroup is as it was. -/
def State.KeepsLane (s t : State) (id j : Nat) : Prop :=
  ∀ w, s.wg? id = some w → (w.lane j).live = true → ∃ u, t.wg? id = some u ∧ u.lane j = w.lane j

theorem State.KeepsLane.refl (s : State) (id j : Nat) : s.KeepsLane s id j := fun w hw _ => ⟨w, hw, rfl⟩

theorem State.KeepsLane.trans {s t u : State} {id j : Nat} (h : s.KeepsLane t id j) (k : t.KeepsLane u id j) :
    s.KeepsLane u id j := by
  intro w hw hl
  obtain ⟨x, hx, hxl⟩ := h w hw hl
  obtain ⟨y, hy, hyl⟩ := k x hx (hxl ▸ hl)
  exact ⟨y, hy, hyl.trans hxl⟩

theorem State.LanesKept.keepsLane {s t : State} (h : s.LanesKept t) (id j : Nat) : s.KeepsLane t id j := by
  intro w hw _
  have hl := h.lanes id
  rw [hw] at hl
  obtain ⟨u, hu, hul⟩ := Option.map_eq_some_iff.mp hl
  exact ⟨u, hu, by simp only [Wg.lane, hul]⟩

/-- A change of a workgroup that leaves the lane. -/
theorem State.keepsLane_modWg (s : State) {id j : Nat} {f : Wg → Wg} (hid : ∀ w, (f w).id = w.id)
    (hl : ∀ w : Wg, (w.lane j).live = true → (f w).lane j = w.lane j) : s.KeepsLane (s.modWg id f) id j :=
  fun w hw hlive => ⟨f w, State.wg_modWg_self hw f hid, hl w hlive⟩

theorem Lane.helper_of_live {l : Lane} (h : l.live = true) : l.helper = false := by
  simp only [Lane.live, Bool.and_eq_true, Bool.not_eq_true'] at h
  exact h.2

/-- The helpers of a quad end; a lane that is no helper stays. -/
theorem getD_endHelpers (q i : Nat) (js : List Nat) (ls : List Lane) (h : (ls.getD i {}).helper = false) :
    (js.foldl (fun ls j => upd ls (4 * q + j) fun l => if l.helper then l.ended else l) ls).getD i {} = ls.getD i {} := by
  induction js generalizing ls with
  | nil => rfl
  | cons j js ih =>
    have hone : (upd ls (4 * q + j) fun l => if l.helper then l.ended else l).getD i {} = ls.getD i {} := by
      by_cases hlt : 4 * q + j < ls.length
      · rw [upd_getD _ _ _ _ _ hlt]
        split
        · rw [if_neg (by rw [h]; exact Bool.false_ne_true)]
        · rfl
      · rw [upd_eq_set _ _ _ {}, List.set_eq_of_length_le (Nat.not_lt.mp hlt)]
    exact (ih _ (hone.symm ▸ h)).trans hone

theorem Wg.lane_endLane_other (w : Wg) {i j : Nat} (k : Nat) (isShadow : Bool) (free next : Nat) (hj : j ≠ i)
    (hh : (w.lane j).helper = false) : (w.endLane i k isShadow free next).lane j = w.lane j := by
  have hend : (upd w.lanes i Lane.ended).getD j {} = w.lane j := Wg.lane_modLane_other w i Lane.ended hj
  unfold Wg.endLane Wg.lane
  rw [Wg.lanes_dropCv]
  cases isShadow with
  | false => exact hend
  | true => exact (getD_endHelpers _ _ _ _ (hend.symm ▸ hh)).trans hend

/-- The end of a lane leaves the others as they are. -/
theorem State.keepsLane_exitLane (s : State) (id : Nat) {i j : Nat} (hj : j ≠ i) : s.KeepsLane (s.exitLane id i) id j := by
  cases hw : s.wg? id with
  | none =>
    intro x hx
    cases hw.symm.trans hx
  | some w =>
    by_cases hl : (w.lane i).exited = true
    · simp only [State.exitLane, hw, hl, if_true]
      exact .refl s id j
    · have hended : s.KeepsLane (s.laneEnded id i w) id j := by
        intro x hx hlive
        exact ⟨_, State.wg_laneEnded hw, Option.some.inj (hw.symm.trans hx) ▸
          Wg.lane_endLane_other w _ _ _ _ hj (Lane.helper_of_live (Option.some.inj (hw.symm.trans hx) ▸ hlive))⟩
      exact hended.trans ((State.exitLane_kept hw (Bool.not_eq_true _ ▸ hl)).keepsLane id j)

/-- A trap of a lane leaves the others as they are. -/
theorem State.keepsLane_takeTrap (s : State) (id : Nat) {i j : Nat} (hj : j ≠ i) (cause : Nat) (tval : W64)
    (clt eng : Bool) : s.KeepsLane (s.takeTrap id i cause tval clt eng) id j := by
  have hback : s.KeepsLane (s.modWg id (·.giveBack i)) id j :=
    State.keepsLane_modWg s (fun x => Wg.giveBack_id x i) fun w _ =>
      Wg.lane_modLane_other { w with qrx := returnFlits (w.lane i).flits w.qrx } i _ hj
  rcases s.takeTrap_cases id i cause tval clt eng with h | ⟨w, -, -, h⟩ | ⟨w, -, -, h⟩
  · rw [h]
    exact .refl s id j
  · rw [h]
    refine hback.trans ?_
    unfold State.kill
    split
    · exact .refl _ id j
    · split
      · exact .refl _ id j
      · exact State.KeepsLane.trans (t := (s.modWg id (·.giveBack i)).modNode _ _) (fun x hx _ => ⟨x, hx, rfl⟩)
          (State.keepsLane_exitLane _ id hj)
  · rw [h]
    refine hback.trans (State.keepsLane_modWg _ (fun _ => rfl) fun w hl => ?_)
    have hmod := Wg.lane_modLane_other w i (fun l => l.deliver cause tval clt eng) hj
    exact (Wg.syncHelpers_lane _ j (hmod.symm ▸ Lane.helper_of_live hl)).trans hmod

/-- An effect that leaves every lane. -/
def Fx.keepsLanes : Fx → Prop
  | .act f => ∀ s : State, s.LanesKept (f s)
  | _ => True

theorem State.lanesKept_applyFx (s : State) (id core : Nat) (x : Nat × Fx) (hx : x.2.keepsLanes) :
    s.LanesKept (s.applyFx id core x) := by
  obtain ⟨i, x⟩ := x
  cases x with
  | scal n r => exact State.lanesKept_modWg s id (fun w => w.putScalar (w.grpOf i) n r) (fun _ => rfl) fun _ => rfl
  | send q v =>
    simp only [State.applyFx]
    split
    · exact .refl s
    · split
      · exact .refl s
      · unfold State.sendFlit
        split
        · exact .refl s
        · exact .of_eq rfl rfl
  | acquire sc => exact .ite (State.lanesKept_modMs s _) (.refl s)
  | act f => exact hx s
  | stored tile loc n p => exact .refl s

theorem State.lanesKept_foldl_applyFx (id core : Nat) (xs : List (Nat × Fx)) (hxs : ∀ x ∈ xs, x.2.keepsLanes) (s : State) :
    s.LanesKept (xs.foldl (fun s x => s.applyFx id core x) s) := by
  induction xs generalizing s with
  | nil => exact .refl s
  | cons x xs ih =>
    exact (State.lanesKept_applyFx s id core x (hxs x List.mem_cons_self)).trans (ih (fun y hy => hxs y (List.mem_cons_of_mem _ hy)) _)

/-- What ends with the instruction are lanes of quads that did not drop out. -/
theorem State.keepsLane_laneEnd (g : Gang) (w : Wg) (out : Nat → Lane → LOut) (i j : Nat) (s : State)
    (hj : quadStays g w out (j / 4) = true) : s.KeepsLane (laneEnd g w out s i) w.id j := by
  unfold laneEnd
  by_cases hq : quadStays g w out (i / 4) = true
  · rw [if_pos hq]
    exact .refl s w.id j
  · have hne : j ≠ i := fun h => hq (h ▸ hj)
    rw [if_neg hq]
    split
    · split
      · exact State.keepsLane_takeTrap s w.id hne _ _ _ _
      · exact .refl s w.id j
    · split
      · exact State.keepsLane_takeTrap s w.id hne _ _ _ _
      · exact .refl s w.id j
    · exact State.keepsLane_exitLane s w.id hne
    · exact .refl s w.id j

theorem State.keepsLane_foldl_laneEnd (g : Gang) (w : Wg) (out : Nat → Lane → LOut) (j : Nat) (is : List Nat) (s : State)
    (hj : quadStays g w out (j / 4) = true) : s.KeepsLane (is.foldl (laneEnd g w out) s) w.id j := by
  induction is generalizing s with
  | nil => exact .refl s w.id j
  | cons i is ih => exact (State.keepsLane_laneEnd g w out i j s hj).trans (ih _)

/-- A lane of a quad that drops out is, after the issued gang, what its outcome has left of it. -/
theorem State.runLanes_lane {s : State} {g : Gang} {w x : Wg} {out : Nat → Lane → LOut} {j : Nat} (hx : s.wg? w.id = some x)
    (hfx : ∀ x ∈ g.lanes.flatMap (laneFx g w out), x.2.keepsLanes) (hq : quadStays g w out (j / 4) = true)
    (hlive : ((w.ranLanes g s.ck.now out).lane j).live = true) :
    ∃ u, (s.runLanes g w out).wg? w.id = some u ∧ u.lane j = (w.ranLanes g s.ck.now out).lane j := by
  have hr : (s.setWg (w.ranLanes g s.ck.now out)).wg? w.id = some (w.ranLanes g s.ck.now out) := by
    have hid := Wg.id_ranLanes w g s.ck.now out
    rw [← hid]
    exact State.wg_setWg_self (by rw [hid]; exact hx)
  have hkeeps : State.KeepsLane (s.setWg (w.ranLanes g s.ck.now out)) (s.runLanes g w out) w.id j :=
    ((State.lanesKept_foldl_applyFx w.id w.core _ hfx _).keepsLane w.id j).trans
      (State.keepsLane_foldl_laneEnd g w out j g.lanes _ hq)
  exact hkeeps _ hr hlive

end Sys2Proof.Machine
end

section
/-! O12. -/
namespace Sys2Proof.Machine

/-- An outcome that leaves a lane that stays as it was. -/
def LOut.staysAs (l : Lane) : LOut → Prop
  | .stay l' => l' = l
  | .wait _ _ => False
  | _ => True

/-- An outcome that is a result or a trap. -/
def LOut.moves : LOut → Bool
  | .stay _ => false
  | .wait _ _ => false
  | _ => true

theorem LOut.staysAs_of_moves {o : LOut} (h : o.moves = true) (l : Lane) : o.staysAs l := by
  cases o with
  | stay => exact absurd h Bool.false_ne_true
  | wait => exact absurd h Bool.false_ne_true
  | _ => trivial

theorem LOut.staysAs_forHelper {o : LOut} {l : Lane} (h : o.staysAs l) (cx : Cx) (f : Fields) (r : DRole) :
    (o.forHelper cx f r l).staysAs l := by
  unfold LOut.forHelper
  split
  · exact h
  · cases o with
    | stay l' => exact h
    | wait l' fx => exact h
    | _ => trivial

theorem LOut.staysAs_guarded {o : LOut} {l : Lane} (h : o.staysAs l) (f : Fields) : (LOut.guarded f l o).staysAs l := by
  unfold LOut.guarded
  split
  · exact h
  · cases o with
    | stay l' => exact h
    | wait l' fx => exact h
    | _ => trivial

theorem LOut.moves_unread_addFx {o : LOut} (h : o.moves = true) (l : Lane) (fx : List Fx) :
    ((o.unread l).addFx fx).moves = true := by
  cases o with
  | stay => exact absurd h Bool.false_ne_true
  | wait => exact absurd h Bool.false_ne_true
  | _ => rfl

theorem write_moves (cx : Cx) (l : Lane) (o : Operand) (wide p : Bool) (v tag : W64) :
    (write cx l o wide v p tag).moves = true := by
  cases o with
  | p n => cases p <;> rfl
  | _ => rfl

/-- A lane with an empty source, none of whose sources is a receive queue, stays as it was. -/
theorem stayFor_noQueue {cx : Cx} {sp : LaneSpec} {f : Fields} {i : Nat} {l : Lane} {xs : List Src}
    (hxs : xs.any (fun x => isQrx x.o) = false) (hempty : xs.any (Src.empty cx) = true) :
    stayFor cx sp f i l xs = .stay l := by
  obtain ⟨x, hx, he⟩ := List.any_eq_true.mp hempty
  have hq : isQrx x.o = false := by simpa using List.any_eq_false.mp hxs x hx
  have hall : xs.all (fun x => isQrx x.o || !x.empty cx) = false :=
    List.all_eq_false.mpr ⟨x, hx, by simp [hq, he]⟩
  simp only [stayFor, hall, Bool.false_and, Bool.false_eq_true, if_false]

theorem stopOf_wait {cx : Cx} {i : Nat} {xs : List Src} (h : stopOf cx i xs = some .wait) :
    xs.any (Src.empty cx) = true := by
  unfold stopOf at h
  split at h
  · cases h
  · split at h
    · next he => exact he
    · split at h
      · cases h
      · cases h

/-- A lane that is held up, none of whose sources is a receive queue, stays as it was. -/
theorem laneStop_staysAs {cx : Cx} {sp : LaneSpec} {f : Fields} {i : Nat} {l : Lane} {xs : List Src} {o : LOut}
    (hxs : xs.any (fun x => isQrx x.o) = false) (h : laneStop cx sp f i l xs = some o) : o.staysAs l := by
  unfold laneStop at h
  split at h
  · next o' ho =>
    cases h
    rw [limitStop_trap ho]
    trivial
  · split at h
    · next hstop =>
      cases h
      rw [stayFor_noQueue hxs (stopOf_wait hstop)]
      rfl
    · cases h; trivial
    · split at h
      · cases h; rfl
      · cases h

/-- No field of the instruction names a receive queue. -/
def noQueues (f : Fields) : Prop := isQrx f.a = false ∧ isQrx f.b = false ∧ isQrx f.c = false

theorem isQrx_shiftV (o : Operand) (k : Nat) : isQrx (o.shiftV k) = isQrx o := by
  cases o <;> rfl

theorem noQueues_rep {f : Fields} (h : noQueues f) (sg : Sig) (r : Nat) : noQueues (repFields sg f r) := by
  unfold repFields
  split
  · exact h
  · simpa only [noQueues, isQrx_shiftV] using h

/-- A source without further ones is one of the three fields, with its trap bit. -/
theorem sources_fields {cx : Cx} {sp : LaneSpec} {f : Fields} {i : Nat} {l : Lane} (hmore : sp.more f = []) {x : Src}
    (hx : x ∈ sources cx sp f i l) :
    x.o = f.a ∧ x.trap = f.ta ∨ x.o = f.b ∧ x.trap = f.tb ∨ x.o = f.c ∧ x.trap = f.tc := by
  simp only [sources, hmore, List.map_nil, List.append_nil, List.mem_append] at hx
  rcases hx with (hx | hx) | hx
  · split at hx
    · split at hx
      · rw [List.mem_singleton.mp hx]
        exact .inl ⟨rfl, rfl⟩
      · exact absurd hx List.not_mem_nil
    · exact absurd hx List.not_mem_nil
  · split at hx
    · rw [List.mem_singleton.mp hx]
      exact .inr (.inl ⟨rfl, rfl⟩)
    · exact absurd hx List.not_mem_nil
  · split at hx
    · rw [List.mem_singleton.mp hx]
      exact .inr (.inr ⟨rfl, rfl⟩)
    · exact absurd hx List.not_mem_nil

theorem sources_noQueues (cx : Cx) {sp : LaneSpec} {f : Fields} (h : noQueues f) (hmore : sp.more f = []) (i : Nat)
    (l : Lane) : (sources cx sp f i l).any (fun x => isQrx x.o) = false := by
  obtain ⟨ha, hb, hc⟩ := h
  rw [List.any_eq_false]
  intro x hx
  rcases sources_fields hmore hx with ⟨ho, -⟩ | ⟨ho, -⟩ | ⟨ho, -⟩
  · simp [ho, ha]
  · simp [ho, hb]
  · simp [ho, hc]

theorem guardStop_always {f : Fields} (h : f.gp = 7) (l : Lane) : guardStop f l = none := by
  simp only [guardStop, h, if_true]

theorem repFields_gp (sg : Sig) (f : Fields) (r : Nat) : (repFields sg f r).gp = f.gp := by
  unfold repFields
  split <;> rfl

/-- A lane of an instruction without queues whose guard is p7 goes on, traps, or stays as it was. -/
theorem laneOut_staysAs {sp : LaneSpec} {f : Fields} (hf : noQueues f) (hgp : f.gp = 7) (hmore : ∀ f, sp.more f = [])
    (hbody : ∀ cx i l f v, (sp.body cx i l f v).moves = true) (cx : Cx) (i : Nat) (l : Lane) :
    (laneOut cx sp f i l).staysAs l := by
  unfold laneOut
  split
  · exact LOut.staysAs_forHelper (LOut.staysAs_of_moves rfl _) _ _ _
  · simp only [guardStop_always ((repFields_gp sp.sig f l.rep).trans hgp)]
    refine LOut.staysAs_guarded ?_ _
    split
    · trivial
    · refine LOut.staysAs_forHelper ?_ _ _ _
      unfold laneBody
      split
      · next o ho => exact laneStop_staysAs (sources_noQueues cx (noQueues_rep hf _ _) (hmore _) i l) ho
      · exact LOut.staysAs_of_moves (LOut.moves_unread_addFx (hbody _ _ _ _ _) _ _) _

/-- A lane of a quad that drops out, and that its outcome leaves as it was. -/
theorem laneAfter_staysAs {g : Gang} {w : Wg} {out : Nat → Lane → LOut} {j : Nat} (now : Nat)
    (hq : quadStays g w out (j / 4) = true) {l : Lane} (h : (out j l).staysAs l) :
    laneAfter g w now out j l = l ∨ laneAfter g w now out j l = l.stalled now := by
  unfold laneAfter
  rw [if_pos hq]
  split
  · exact .inl rfl
  · refine .inr ?_
    split
    · next l' ho =>
      rw [ho] at h
      exact congrArg (Lane.stalled now) h
    · next l' fx ho =>
      rw [ho] at h
      exact h.elim
    · rfl

/-- A lane that is at the first repetition, whose guard is p7, and whose vector register A is empty stays. -/
theorem laneOut_emptyA {cx : Cx} {sp : LaneSpec} {f : Fields} {i : Nat} {l : Lane} {n : Fin 32} (hrep : l.rep = 0)
    (hgp : f.gp = 7) (hgn : f.gn = false) (hh : l.helper = false) (hlim : limitStop cx sp f i l = none)
    (htrap : (sources cx sp f i l).any (·.trap) = false)
    (hsrc : ∃ x ∈ sources cx sp f i l, x.l = l ∧ x.o = .v n) (hempty : (l.reg n.val).full = false) :
    (laneOut cx sp f i l).stays = true := by
  have hfields : repFields sp.sig f 0 = f := if_pos rfl
  have hpast : repPast sp.sig f 0 = false := rfl
  have hguard : l.guard f = true := by
    simp [Lane.guard, Lane.pred, hgp, hgn]
  have hnone : (sources cx sp f i l).find? (Src.traps cx) = none := by
    rw [List.find?_eq_none]
    intro x hx
    simpa [Src.traps] using fun ht => absurd ht (by simpa using List.any_eq_false.mp htrap x hx)
  have hany : (sources cx sp f i l).any (Src.empty cx) = true := by
    obtain ⟨x, hx, hl, ho⟩ := hsrc
    exact List.any_eq_true.mpr ⟨x, hx, by simp [Src.empty, srcEmpty, ho, hl, hempty]⟩
  have hstop : stopOf cx i (sources cx sp f i l) = some .wait := by
    simp only [stopOf, hnone, hany, if_true]
  have hbody : laneBody cx sp f i l (sources cx sp f i l) = stayFor cx sp f i l (sources cx sp f i l) := by
    simp only [laneBody, laneStop, hlim, hstop]
  simp only [laneOut, hrep, hpast, hfields, guardStop_always hgp, hguard, hbody, LOut.forHelper, hh, Bool.not_true,
    Bool.not_false, Bool.false_eq_true, if_false, if_true, stayFor, LOut.guarded]
  split <;> rfl

theorem popFlits_noQueues {f : Fields} (h : noQueues f) (g : Gang) (sp : LaneSpec) (w : Wg) : popFlits g sp f w = w := by
  obtain ⟨ha, hb, hc⟩ := h
  simp only [popFlits, ha, hb, hc, Bool.or_self, Bool.not_false, if_true]

theorem State.keepsLane_spendFree (s : State) (g : Gang) (w : Wg) (id j : Nat) : s.KeepsLane (s.spendFree g w) id j := by
  unfold State.spendFree
  split
  · exact fun x hx _ => ⟨x, hx, rfl⟩
  · exact .refl s id j

theorem iaddSpec_moves (f : Fields) (cx : Cx) (i : Nat) (l : Lane) (f' : Fields) (v : Vals) :
    ((iaddSpec f).body cx i l f' v).moves = true := write_moves _ _ _ _ _ _ _

theorem State.lanesKept_handleRead (s : State) (op : Nat) : s.LanesKept (s.handleRead op) :=
  .ite (.of_eq rfl rfl) (.refl s)

/-- The effects of an IADD leave every lane. -/
theorem iadd_fx_keepsLanes (f : Fields) (cx : Cx) (g : Gang) (w : Wg) :
    ∀ x ∈ g.lanes.flatMap (laneFx g w (laneOut cx (iaddSpec f) f)), x.2.keepsLanes :=
  laneFx_all fun _ _ => laneOut_fxAll (fun _ => trivial) (fun op s => State.lanesKept_handleRead s op)
    (fun _ _ _ _ _ => write_fxAll (fun _ _ => trivial) (fun _ _ => trivial) _ _ _ _ _ _ _) _ _ _ _

/-- An IADD's register A is a source of its own lane when no A modifier names another (R258). -/
theorem iadd_source {cx : Cx} {f : Fields} {n : Fin 32} (ha : f.a = .v n) (hq : f.q = 0) (i : Nat) (l : Lane) :
    ∃ x ∈ sources cx (iaddSpec f) f i l, x.l = l ∧ x.o = .v n := by
  refine ⟨{ i := i, l := l, o := f.a, wide := (iaddSpec f).sig.a.wide, trap := f.ta, nth := 0 }, ?_, rfl, ha⟩
  have hgive : (iaddSpec f).giver cx f i l = some (i, l) := by
    have hcls : (AMod.of f.q).cls = 0 := by rw [hq]; rfl
    simp only [iaddSpec, aluSpec, aSource, hcls, decide_true, Bool.or_true, if_true]
  refine List.mem_append_left _ (List.mem_append_left _ (List.mem_append_left _ ?_))
  rw [hgive]
  exact List.mem_singleton_self _

/-- An IADD has no limit but that its send register is bound (R121). -/
theorem iadd_limit {cx : Cx} {f : Fields} (hdst : ∀ q : Fin 4, f.dst = .qtx q → (cx.w.qtx.getD q.val none).isSome = true)
    (i : Nat) (l : Lane) : limitStop cx (iaddSpec f) f i l = none := by
  have hbound : unboundStop cx (iaddSpec f).sig.dst f l = none := by
    unfold unboundStop
    split
    · rfl
    · next q hd _ =>
      have hnone : (cx.w.qtx.getD q.val none).isNone = false := by
        rw [← Option.not_isSome, hdst q hd]
        rfl
      simp only [hnone, Bool.and_false, Bool.false_eq_true, if_false]
    · rfl
  rw [limitStop, hbound]
  rfl

theorem sources_trapless (cx : Cx) {sp : LaneSpec} {f : Fields} (hta : f.ta = false) (htb : f.tb = false)
    (htc : f.tc = false) (hmore : sp.more f = []) (i : Nat) (l : Lane) :
    (sources cx sp f i l).any (·.trap) = false := by
  rw [List.any_eq_false]
  intro x hx
  rcases sources_fields hmore hx with ⟨-, ht⟩ | ⟨-, ht⟩ | ⟨-, ht⟩
  · simp [ht, hta]
  · simp [ht, htb]
  · simp [ht, htc]

/-- Settles O12: the lane's source is empty, so its quad drops out with every lane as it was. -/
theorem emptySourceWaits : Obligations.EmptySourceWaits := by
  unfold Obligations.EmptySourceWaits
  intro s f g w i n hg hw hck hquiet hgp hgn ha hq hta htb htc hqb hqc hdst hi hlive hrep hempty
  have hf : noQueues f := ⟨by rw [ha]; rfl, hqb, hqc⟩
  let cx := s.cxOf g w f
  let out := laneOut cx (iaddSpec f) f
  let c := checked s g w (unitOf (iaddSpec f) f) f out
  have hexec : exec (.iadd f) s = .next ((c.runLanes g w out).spendFree g w) := by
    simp only [exec, execIadd, laneExec, laneExecWith, withGang_eq hg hw, hck, popFlits_noQueues hf]
    refine (residue_quiet s g w _ f out _ _ rfl (execLanes_mem g w f out) hquiet).trans ?_
    rw [cxOf_checked]
  have hlim : limitStop cx (iaddSpec f) f i (w.lane i) = none := iadd_limit hdst i _
  have hstay : (out i (w.lane i)).stays = true :=
    laneOut_emptyA hrep hgp hgn (Lane.helper_of_live hlive) hlim (sources_trapless cx hta htb htc rfl i _)
      (iadd_source ha hq i _) hempty
  have hquad : ∀ j, j / 4 = i / 4 → quadStays g w out (j / 4) = true := by
    intro j hj
    exact List.any_eq_true.mpr ⟨i, hi, by rw [hj]; simp [hstay]⟩
  have hcw : c.wg? w.id = some w := by
    have hc : c = _ := checked_cores s g w _ f out
    rw [hc, wg?_id hw]
    exact hw
  have hran : ∀ j, j / 4 = i / 4 → (w.lane j).live = true →
      (w.ranLanes g c.ck.now out).lane j = w.lane j ∨ (w.ranLanes g c.ck.now out).lane j = (w.lane j).stalled c.ck.now := by
    intro j hj hl
    by_cases hlt : j < w.lanes.length
    · have hafter := laneAfter_staysAs c.ck.now (hquad j hj)
        (laneOut_staysAs hf hgp (fun _ => rfl) (iaddSpec_moves f) cx j (w.lane j))
      have hh : (laneAfter g w c.ck.now out j (w.lane j)).helper = false := by
        rcases hafter with h | h
        · rw [h, Lane.helper_of_live hl]
        · rw [h]
          exact Lane.helper_of_live hl
      rw [Wg.lane_ranLanes w g c.ck.now out hlt hh]
      exact hafter
    · exact .inl (Wg.lane_ranLanes_beyond w g c.ck.now out hlt)
  have hkept : ∀ j, j / 4 = i / 4 → (w.lane j).live = true →
      ∃ u, ((c.runLanes g w out).spendFree g w).wg? w.id = some u ∧ u.lane j = (w.ranLanes g c.ck.now out).lane j := by
    intro j hj hl
    have hlive' : ((w.ranLanes g c.ck.now out).lane j).live = true := by
      rcases hran j hj hl with h | h <;> rw [h] <;> exact hl
    obtain ⟨x, hx, hxl⟩ := State.runLanes_lane hcw (iadd_fx_keepsLanes f cx g w) (hquad j hj) hlive'
    obtain ⟨u, hu, hul⟩ := State.keepsLane_spendFree _ g w w.id j x hx (hxl ▸ hlive')
    exact ⟨u, hu, hul.trans hxl⟩
  obtain ⟨u, hu, -⟩ := hkept i rfl hlive
  refine ⟨_, u, hexec, hu, fun j hj hl => ?_⟩
  obtain ⟨u', hu', hul⟩ := hkept j hj hl
  obtain rfl := Option.some.inj (hu.symm.trans hu')
  rw [hul]
  rcases hran j hj hl with h | h <;> rw [h] <;> exact ⟨rfl, rfl, rfl, rfl⟩

end Sys2Proof.Machine
end

section
/-! The head of a command packet, and the fields below its length (R195). -/
namespace Sys2Proof.Machine

section
variable {type len args : Nat} (ht : type < 2 ^ 8) (hl : len < 2 ^ 12) (ha : args < 2 ^ 40)
include ht hl ha

theorem toNat_pktHead : (pktHead type len args).toNat = type * 2 ^ 56 + len * 2 ^ 44 + args := by
  rw [pktHead, BitVec.toNat_ofNat]
  omega

/-- Type and length of a packet; the four bits between its length and its arguments are zero. -/
theorem pktHead_fields : bits (pktHead type len args) 63 56 = type ∧ bits (pktHead type len args) 55 44 = len ∧
    bits (pktHead type len args) 43 40 = 0 := by
  simp only [bits_eq_div_mod, toNat_pktHead ht hl ha]
  omega

/-- A field of the arguments. -/
theorem bits_pktHead {hi lo : Nat} (hlo : lo ≤ hi) (hhi : hi < 40) :
    bits (pktHead type len args) hi lo = args / 2 ^ lo % 2 ^ (hi + 1 - lo) := by
  have hdvd : 2 ^ (hi + 1) ∣ type * 2 ^ 56 + len * 2 ^ 44 :=
    Nat.dvd_add (Nat.dvd_mul_left_of_dvd (Nat.pow_dvd_pow 2 (by omega)) _) (Nat.dvd_mul_left_of_dvd (Nat.pow_dvd_pow 2 (by omega)) _)
  have hmod : (pktHead type len args).toNat % 2 ^ (hi + 1) = args % 2 ^ (hi + 1) := by
    rw [toNat_pktHead ht hl ha, Nat.add_mod, Nat.mod_eq_zero_of_dvd hdvd, Nat.zero_add, Nat.mod_mod]
  have hsplit : ∀ n : Nat, n / 2 ^ lo % 2 ^ (hi + 1 - lo) = n % 2 ^ (hi + 1) / 2 ^ lo := by
    intro n
    rw [← Nat.mod_mul_right_div_self, ← Nat.pow_add]
    congr 3
    omega
  rw [bits_eq_div_mod, hsplit, hsplit, hmod]

theorem getLsbD_pktHead {k : Nat} (hk : k < 40) : (pktHead type len args).getLsbD k = args.testBit k := by
  have h := bits_pktHead ht hl ha (Nat.le_refl k) hk
  rw [bits_eq_div_mod, Nat.add_sub_cancel_left] at h
  rw [← BitVec.testBit_toNat, Nat.testBit_eq_decide_div_mod_eq, Nat.testBit_eq_decide_div_mod_eq]
  exact congrArg (fun n => decide (n = 1)) h

end

/-- The length stands in bits 55:44. -/
theorem length_pktHead {type len args : Nat} (ht : type < 2 ^ 8) (hl : len < 2 ^ 12) (ha : args < 2 ^ 40) :
    (pktHead type len args).toNat / 2 ^ 44 % 2 ^ 12 = len := by
  rw [toNat_pktHead ht hl ha]
  omega

/-- A flag in its place. -/
theorem bitN_eq (b : Bool) (n : Nat) : bitN b n = b.toNat * 2 ^ n ∧ b.toNat ≤ 1 := by
  cases b <;> simp [bitN]

theorem addrOk_of_fits {a : W64} {align : Nat} (h : addrFits a align = true) : addrOk a align = true := by
  simp only [addrFits, Bool.and_eq_true, decide_eq_true_eq, beq_iff_eq] at h
  simp only [addrOk, bits_high_zero h.1, h.2, BEq.rfl, Bool.and_self]

end Sys2Proof.Machine
end

section
/-! What each type of packet decodes to (Tables 9-2 to 9-6). -/
namespace Sys2Proof.Machine

/-- The first word of a packet of a type, with the words that follow it. -/
structure IsHead (h : W64) (type : Nat) (ws : List W64) : Prop where
  check : (bits h 43 40 != 0 || bits h 55 44 != ws.length + 1) = false
  type : bits h 63 56 = type

theorem isHead_pktHead {type args : Nat} {ws : List W64} (ht : type < 2 ^ 8) (hl : ws.length + 1 < 2 ^ 12)
    (ha : args < 2 ^ 40) : IsHead (pktHead type (ws.length + 1) args) type ws := by
  obtain ⟨hty, hle, hz⟩ := pktHead_fields ht hl ha
  exact ⟨by rw [hle, hz]; simp, hty⟩

section
variable {q : Nat} {h : W64}

theorem decodePacket_nop {ws : List W64} (hh : IsHead h 0 ws) : decodePacket q h ws = some (.nopPacket q (ws.length + 1)) := by
  unfold decodePacket
  rw [hh.check, if_neg Bool.false_ne_true, hh.type]
  rfl

theorem decodePacket_launch {ws : List W64} (hh : IsHead h 1 ws) :
    decodePacket q h ws = (launchPkt h false ws).map (.launch q) := by
  unfold decodePacket
  rw [hh.check, if_neg Bool.false_ne_true, hh.type]
  rfl

theorem decodePacket_indirectLaunch {ws : List W64} (hh : IsHead h 2 ws) :
    decodePacket q h ws = (launchPkt h true ws).map (.indirectLaunch q) := by
  unfold decodePacket
  rw [hh.check, if_neg Bool.false_ne_true, hh.type]
  rfl

theorem decodePacket_fence {ws : List W64} (hh : IsHead h 3 ws) (hz : bits h 35 0 = 0) (hn : bits h 39 36 ≤ 11) :
    decodePacket q h ws = (fenceCtrs (bits h 39 36 + 1) ws).map (.fencePacket q) := by
  unfold decodePacket
  rw [hh.check, if_neg Bool.false_ne_true, hh.type]
  exact if_neg (by simp [hz, hn])

theorem decodePacket_loop {w : W64} (hh : IsHead h 4 [w]) (hz : bits h 38 32 = 0)
    (hw : (if h.getLsbD 39 then !addrOk w 4 else hi32 w != 0) = false) :
    decodePacket q h [w] = some (.loopPacket q (h.getLsbD 39) (lo32 h) w) := by
  unfold decodePacket
  rw [hh.check, if_neg Bool.false_ne_true, hh.type]
  exact if_neg (by rw [hz, hw]; simp)

theorem decodePacket_if {a v : W64} (hh : IsHead h 5 [a, v]) (hz : bits h 35 32 = 0)
    (ha : addrOk a (if h.getLsbD 39 then 8 else 4) = true) :
    decodePacket q h [a, v] = some (.ifPacket q (h.getLsbD 39) (h.extractLsb' 36 3) (lo32 h) a v) := by
  unfold decodePacket
  rw [hh.check, if_neg Bool.false_ne_true, hh.type]
  exact if_neg (by rw [hz, ha]; simp)

theorem decodePacket_segmentBegin (hh : IsHead h 6 []) (hz : bits h 31 0 = 0) :
    decodePacket q h [] = some (.segmentBegin q (h.extractLsb' 36 4) (h.extractLsb' 32 4)) := by
  unfold decodePacket
  rw [hh.check, if_neg Bool.false_ne_true, hh.type]
  exact if_neg (by simp [hz])

theorem decodePacket_segmentEnd (hh : IsHead h 7 []) (hz : bits h 35 0 = 0) :
    decodePacket q h [] = some (.segmentEnd q (h.extractLsb' 36 4)) := by
  unfold decodePacket
  rw [hh.check, if_neg Bool.false_ne_true, hh.type]
  exact if_neg (by simp [hz])

theorem decodePacket_replay (hh : IsHead h 8 []) (hz : bits h 35 0 = 0) :
    decodePacket q h [] = some (.replay q (h.extractLsb' 36 4)) := by
  unfold decodePacket
  rw [hh.check, if_neg Bool.false_ne_true, hh.type]
  exact if_neg (by simp [hz])

theorem decodePacket_ckpt {a : W64} (hh : IsHead h 9 [a]) (hz : bits h 38 0 = 0) (ha : addrOk a 64 = true) :
    decodePacket q h [a] = some (.ckptPacket q (h.getLsbD 39) a) := by
  unfold decodePacket
  rw [hh.check, if_neg Bool.false_ne_true, hh.type]
  exact if_neg (by simp [hz, ha])

theorem decodePacket_signal {a v : W64} (hh : IsHead h 10 [a, v]) (hz : bits h 35 11 = 0) :
    decodePacket q h [a, v] = match bits h 38 37 with
      | 0 => if addrOk a 8 then some (.signalWrite64 q (signalPkt h a v)) else none
      | 1 => if addrOk a 8 then some (.signalRedAdd q (signalPkt h a v)) else none
      | 2 => if addrOk a 4 then some (.signalWrite32 q (signalPkt h a v)) else none
      | _ => none := by
  unfold decodePacket
  rw [hh.check, if_neg Bool.false_ne_true, hh.type]
  exact if_neg (by simp [hz])

end

end Sys2Proof.Machine
end

section
/-! The control packets (Tables 9-2, 9-6). -/
namespace Sys2Proof.Machine

/-- A packet whose words decode to it. -/
def RoundTrips (q : Nat) (i : Instr) (type args : Nat) (ws : List W64) : Prop :=
  decodePacket q (pktHead type (ws.length + 1) args) ws = some i

theorem nopPacket_roundTrips (q n : Nat) (h : n < 4095) : RoundTrips q (.nopPacket q (n + 1)) 0 0 (List.replicate n 0) := by
  have hlen : (List.replicate n (0 : W64)).length + 1 < 2 ^ 12 := by
    rw [List.length_replicate]
    omega
  refine (decodePacket_nop (isHead_pktHead (by decide) hlen (by decide))).trans ?_
  rw [List.length_replicate]

theorem segmentBegin_roundTrips (q : Nat) (k r : BitVec 4) :
    RoundTrips q (.segmentBegin q k r) 6 (k.toNat * 2 ^ 36 + r.toNat * 2 ^ 32) [] := by
  have ha : k.toNat * 2 ^ 36 + r.toNat * 2 ^ 32 < 2 ^ 40 := by omega
  have hbits := fun hi lo => bits_pktHead (type := 6) (len := 1) (by decide) (by decide) ha (hi := hi) (lo := lo)
  have hz := (hbits 31 0 (by decide) (by decide)).trans (c := 0) (by omega)
  have hk := (hbits 39 36 (by decide) (by decide)).trans (c := k.toNat) (by omega)
  have hr := (hbits 35 32 (by decide) (by decide)).trans (c := r.toNat) (by omega)
  refine (decodePacket_segmentBegin (isHead_pktHead (by decide) (by decide) ha) hz).trans ?_
  exact (congrArg (fun k => some (Instr.segmentBegin q k _)) (BitVec.eq_of_toNat_eq hk)).trans
    (congrArg (fun r => some (Instr.segmentBegin q k r)) (BitVec.eq_of_toNat_eq hr))

theorem segmentEnd_roundTrips (q : Nat) (k : BitVec 4) : RoundTrips q (.segmentEnd q k) 7 (k.toNat * 2 ^ 36) [] := by
  have ha : k.toNat * 2 ^ 36 < 2 ^ 40 := by omega
  have hbits := fun hi lo => bits_pktHead (type := 7) (len := 1) (by decide) (by decide) ha (hi := hi) (lo := lo)
  have hz := (hbits 35 0 (by decide) (by decide)).trans (c := 0) (by omega)
  have hk := (hbits 39 36 (by decide) (by decide)).trans (c := k.toNat) (by omega)
  refine (decodePacket_segmentEnd (isHead_pktHead (by decide) (by decide) ha) hz).trans ?_
  exact congrArg (fun k => some (Instr.segmentEnd q k)) (BitVec.eq_of_toNat_eq hk)

theorem replay_roundTrips (q : Nat) (k : BitVec 4) : RoundTrips q (.replay q k) 8 (k.toNat * 2 ^ 36) [] := by
  have ha : k.toNat * 2 ^ 36 < 2 ^ 40 := by omega
  have hbits := fun hi lo => bits_pktHead (type := 8) (len := 1) (by decide) (by decide) ha (hi := hi) (lo := lo)
  have hz := (hbits 35 0 (by decide) (by decide)).trans (c := 0) (by omega)
  have hk := (hbits 39 36 (by decide) (by decide)).trans (c := k.toNat) (by omega)
  refine (decodePacket_replay (isHead_pktHead (by decide) (by decide) ha) hz).trans ?_
  exact congrArg (fun k => some (Instr.replay q k)) (BitVec.eq_of_toNat_eq hk)

theorem loopPacket_roundTrips (q : Nat) (m : Bool) (b : W32) (w : W64)
    (hw : (if m then addrFits w 4 else decide (w.toNat < 2 ^ 32)) = true) :
    RoundTrips q (.loopPacket q m b w) 4 (bitN m 39 + b.toNat) [w] := by
  obtain ⟨hflag, hle⟩ := bitN_eq m 39
  have ha : bitN m 39 + b.toNat < 2 ^ 40 := by omega
  have hbits := fun hi lo => bits_pktHead (type := 4) (len := 2) (by decide) (by decide) ha (hi := hi) (lo := lo)
  have hz := (hbits 38 32 (by decide) (by decide)).trans (c := 0) (by omega)
  have hb := (hbits 31 0 (by decide) (by decide)).trans (c := b.toNat) (by omega)
  have hm : (pktHead 4 2 (bitN m 39 + b.toNat)).getLsbD 39 = m :=
    (getLsbD_pktHead (by decide) (by decide) ha (by decide)).trans (testBit_of (by omega))
  have hok : (if (pktHead 4 2 (bitN m 39 + b.toNat)).getLsbD 39 then !addrOk w 4 else hi32 w != 0) = false := by
    rw [hm]
    cases m with
    | true => simp only [if_true, addrOk_of_fits hw, Bool.not_true]
    | false =>
      have hlt : w.toNat < 2 ^ 32 := by simpa using hw
      have hhi : bits w 63 32 = 0 := by
        rw [bits_eq_div_mod]
        omega
      have hzero : hi32 w = 0 := BitVec.eq_of_toNat_eq hhi
      simp [hzero]
  refine (decodePacket_loop (isHead_pktHead (by decide) (show 2 < 2 ^ 12 by decide) ha) hz hok).trans ?_
  exact (congrArg (fun m => some (Instr.loopPacket q m _ w)) hm).trans
    (congrArg (fun b => some (Instr.loopPacket q m b w)) (BitVec.eq_of_toNat_eq hb))

theorem ifPacket_roundTrips (q : Nat) (w64 : Bool) (c : BitVec 3) (k : W32) (a v : W64)
    (haddr : addrFits a (if w64 then 8 else 4) = true) :
    RoundTrips q (.ifPacket q w64 c k a v) 5 (bitN w64 39 + c.toNat * 2 ^ 36 + k.toNat) [a, v] := by
  obtain ⟨hflag, hle⟩ := bitN_eq w64 39
  have ha : bitN w64 39 + c.toNat * 2 ^ 36 + k.toNat < 2 ^ 40 := by omega
  have hbits := fun hi lo => bits_pktHead (type := 5) (len := 3) (by decide) (by decide) ha (hi := hi) (lo := lo)
  have hz := (hbits 35 32 (by decide) (by decide)).trans (c := 0) (by omega)
  have hc := (hbits 38 36 (by decide) (by decide)).trans (c := c.toNat) (by omega)
  have hk := (hbits 31 0 (by decide) (by decide)).trans (c := k.toNat) (by omega)
  have hw : (pktHead 5 3 (bitN w64 39 + c.toNat * 2 ^ 36 + k.toNat)).getLsbD 39 = w64 :=
    (getLsbD_pktHead (by decide) (by decide) ha (by decide)).trans (testBit_of (by omega))
  refine (decodePacket_if (isHead_pktHead (by decide) (show 3 < 2 ^ 12 by decide) ha) hz
    (hw.symm ▸ addrOk_of_fits haddr)).trans ?_
  exact ((congrArg (fun w64 => some (Instr.ifPacket q w64 _ _ a v)) hw).trans
    (congrArg (fun c => some (Instr.ifPacket q w64 c _ a v)) (BitVec.eq_of_toNat_eq hc))).trans
    (congrArg (fun k => some (Instr.ifPacket q w64 c k a v)) (BitVec.eq_of_toNat_eq hk))

theorem ckptPacket_roundTrips (q : Nat) (wait : Bool) (a : W64) (haddr : addrFits a 64 = true) :
    RoundTrips q (.ckptPacket q wait a) 9 (bitN wait 39) [a] := by
  obtain ⟨hflag, hle⟩ := bitN_eq wait 39
  have ha : bitN wait 39 < 2 ^ 40 := by omega
  have hz := (bits_pktHead (type := 9) (len := 2) (by decide) (by decide) ha (hi := 38) (lo := 0) (by decide) (by decide)).trans
    (c := 0) (by omega)
  have hw : (pktHead 9 2 (bitN wait 39)).getLsbD 39 = wait :=
    (getLsbD_pktHead (by decide) (by decide) ha (by decide)).trans (testBit_of (by omega))
  refine (decodePacket_ckpt (isHead_pktHead (by decide) (show 2 < 2 ^ 12 by decide) ha) hz (addrOk_of_fits haddr)).trans ?_
  exact congrArg (fun wait => some (Instr.ckptPacket q wait a)) hw

/-- The arguments of a SIGNAL's first word. -/
def signalArgs (op : Nat) (p : SignalPkt) : Nat := bitN p.allprev 39 + op * 2 ^ 37 + bitN p.irq 36 + p.vec.toNat

/-- The operation and the fields of a SIGNAL's first word (R206). -/
theorem signal_fields {op : Nat} (hop : op < 3) (p : SignalPkt) :
    signalArgs op p < 2 ^ 40 ∧ bits (pktHead 10 3 (signalArgs op p)) 35 11 = 0 ∧
      bits (pktHead 10 3 (signalArgs op p)) 38 37 = op ∧
      signalPkt (pktHead 10 3 (signalArgs op p)) p.addr p.value = p := by
  obtain ⟨hall, hallLe⟩ := bitN_eq p.allprev 39
  obtain ⟨hirq, hirqLe⟩ := bitN_eq p.irq 36
  have hargs : signalArgs op p = p.allprev.toNat * 2 ^ 39 + op * 2 ^ 37 + p.irq.toNat * 2 ^ 36 + p.vec.toNat := by
    rw [signalArgs, hall, hirq]
  have ha : signalArgs op p < 2 ^ 40 := by omega
  have hbits := fun hi lo => bits_pktHead (type := 10) (len := 3) (by decide) (by decide) ha (hi := hi) (lo := lo)
  have hget := fun k => getLsbD_pktHead (type := 10) (len := 3) (by decide) (by decide) ha (k := k)
  have hvec := (hbits 10 0 (by decide) (by decide)).trans (c := p.vec.toNat) (by omega)
  refine ⟨ha, (hbits 35 11 (by decide) (by decide)).trans (by omega),
    (hbits 38 37 (by decide) (by decide)).trans (by omega), ?_⟩
  have h39 := (hget 39 (by decide)).trans (testBit_of (b := p.allprev) (by omega))
  have h36 := (hget 36 (by decide)).trans (testBit_of (b := p.irq) (by omega))
  have hv : (pktHead 10 3 (signalArgs op p)).extractLsb' 0 11 = p.vec := BitVec.eq_of_toNat_eq hvec
  rw [signalPkt, h39, h36, hv]

theorem signalWrite64_roundTrips (q : Nat) (p : SignalPkt) (haddr : addrFits p.addr 8 = true) :
    RoundTrips q (.signalWrite64 q p) 10 (signalArgs 0 p) [p.addr, p.value] := by
  obtain ⟨ha, hz, hop, hp⟩ := signal_fields (op := 0) (by decide) p
  refine (decodePacket_signal (isHead_pktHead (by decide) (show 3 < 2 ^ 12 by decide) ha) hz).trans ?_
  rw [show ([p.addr, p.value] : List W64).length + 1 = 3 from rfl, hop, hp]
  exact if_pos (addrOk_of_fits haddr)

theorem signalRedAdd_roundTrips (q : Nat) (p : SignalPkt) (haddr : addrFits p.addr 8 = true) :
    RoundTrips q (.signalRedAdd q p) 10 (signalArgs 1 p) [p.addr, p.value] := by
  obtain ⟨ha, hz, hop, hp⟩ := signal_fields (op := 1) (by decide) p
  refine (decodePacket_signal (isHead_pktHead (by decide) (show 3 < 2 ^ 12 by decide) ha) hz).trans ?_
  rw [show ([p.addr, p.value] : List W64).length + 1 = 3 from rfl, hop, hp]
  exact if_pos (addrOk_of_fits haddr)

theorem signalWrite32_roundTrips (q : Nat) (p : SignalPkt) (haddr : addrFits p.addr 4 = true) :
    RoundTrips q (.signalWrite32 q p) 10 (signalArgs 2 p) [p.addr, p.value] := by
  obtain ⟨ha, hz, hop, hp⟩ := signal_fields (op := 2) (by decide) p
  refine (decodePacket_signal (isHead_pktHead (by decide) (show 3 < 2 ^ 12 by decide) ha) hz).trans ?_
  rw [show ([p.addr, p.value] : List W64).length + 1 = 3 from rfl, hop, hp]
  exact if_pos (addrOk_of_fits haddr)

/-! ### FENCE (R205) -/

/-- The words of a FENCE's counter. -/
def ctrWords (c : FenceCtr) : List W64 :=
  [BitVec.ofNat 64 (bitN c.w64 63 + c.cmp.toNat * 2 ^ 60 + c.addr.toNat), c.value, c.deadline]

/-- The first word of a counter is its reading. -/
theorem ctrWord_fields (c : FenceCtr) :
    bits (BitVec.ofNat 64 (bitN c.w64 63 + c.cmp.toNat * 2 ^ 60 + c.addr.toNat)) 59 52 = 0 ∧
      (BitVec.ofNat 64 (bitN c.w64 63 + c.cmp.toNat * 2 ^ 60 + c.addr.toNat)).getLsbD 63 = c.w64 ∧
      (BitVec.ofNat 64 (bitN c.w64 63 + c.cmp.toNat * 2 ^ 60 + c.addr.toNat)).toNat % 8 = c.addr.toNat % 8 ∧
      (BitVec.ofNat 64 (bitN c.w64 63 + c.cmp.toNat * 2 ^ 60 + c.addr.toNat)).toNat % 4 = c.addr.toNat % 4 ∧
      fenceCtr (BitVec.ofNat 64 (bitN c.w64 63 + c.cmp.toNat * 2 ^ 60 + c.addr.toNat)) c.value c.deadline = c := by
  obtain ⟨hflag, hle⟩ := bitN_eq c.w64 63
  generalize hn : bitN c.w64 63 + c.cmp.toNat * 2 ^ 60 + c.addr.toNat = n
  have hlt : n < 2 ^ 64 := by omega
  have hnat : (BitVec.ofNat 64 n).toNat = n := by
    rw [BitVec.toNat_ofNat, Nat.mod_eq_of_lt hlt]
  have hbits : ∀ hi lo, bits (BitVec.ofNat 64 n) hi lo = n / 2 ^ lo % 2 ^ (hi + 1 - lo) := fun hi lo => by
    rw [bits_eq_div_mod, hnat]
  have hcmp := (hbits 62 60).trans (c := c.cmp.toNat) (by omega)
  have haddr := (hbits 51 0).trans (c := c.addr.toNat) (by omega)
  have h63 : (BitVec.ofNat 64 n).getLsbD 63 = c.w64 := by
    rw [← BitVec.testBit_toNat, hnat]
    exact testBit_of (by omega)
  have hc : (BitVec.ofNat 64 n).extractLsb' 60 3 = c.cmp := BitVec.eq_of_toNat_eq hcmp
  have hd : (BitVec.ofNat 64 n).extractLsb' 0 52 = c.addr := BitVec.eq_of_toNat_eq haddr
  refine ⟨(hbits 59 52).trans (by omega), h63, ?_, ?_, ?_⟩
  · rw [hnat]; omega
  · rw [hnat]; omega
  · rw [fenceCtr, h63, hc, hd]

theorem fenceCtrs_words (cs : List FenceCtr) (hcs : cs.all FenceCtr.wf = true) :
    fenceCtrs cs.length (cs.flatMap ctrWords) = some cs := by
  induction cs with
  | nil => rfl
  | cons c cs ih =>
    simp only [List.all_cons, Bool.and_eq_true] at hcs
    obtain ⟨hc, hcs⟩ := hcs
    obtain ⟨hz, h63, h8, h4, hctr⟩ := ctrWord_fields c
    have halign : c.addr.toNat % (if c.w64 then 8 else 4) = 0 := by simpa [FenceCtr.wf] using hc
    have hmod : (BitVec.ofNat 64 (bitN c.w64 63 + c.cmp.toNat * 2 ^ 60 + c.addr.toNat)).toNat % (if c.w64 then 8 else 4) = 0 := by
      cases hw : c.w64 <;> simp only [hw, Bool.false_eq_true, if_false, if_true] at h8 h4 halign ⊢
      · exact h4.trans halign
      · exact h8.trans halign
    have hstep : fenceCtrs (cs.length + 1) (BitVec.ofNat 64 (bitN c.w64 63 + c.cmp.toNat * 2 ^ 60 + c.addr.toNat) :: c.value ::
        c.deadline :: cs.flatMap ctrWords) = (fenceCtrs cs.length (cs.flatMap ctrWords)).map fun cs => c :: cs := by
      rw [fenceCtrs, h63, hz, hmod, hctr]
      simp
    exact hstep.trans (by rw [ih hcs]; rfl)

theorem length_ctrWords (cs : List FenceCtr) : (cs.flatMap ctrWords).length = 3 * cs.length := by
  induction cs with
  | nil => rfl
  | cons c cs ih =>
    simp only [List.flatMap_cons, List.length_append, ih, ctrWords, List.length_cons, List.length_nil]
    omega

theorem fencePacket_roundTrips (q : Nat) (cs : List FenceCtr) (hone : 1 ≤ cs.length) (hmany : cs.length ≤ 12)
    (hcs : cs.all FenceCtr.wf = true) :
    RoundTrips q (.fencePacket q cs) 3 ((cs.length - 1) * 2 ^ 36) (cs.flatMap ctrWords) := by
  have hlen : (cs.flatMap ctrWords).length + 1 < 2 ^ 12 := by
    rw [length_ctrWords]
    omega
  have ha : (cs.length - 1) * 2 ^ 36 < 2 ^ 40 := by omega
  have hbits := fun hi lo => bits_pktHead (type := 3) (by decide) hlen ha (hi := hi) (lo := lo)
  have hn := (hbits 39 36 (by decide) (by decide)).trans (c := cs.length - 1) (by omega)
  have hz := (hbits 35 0 (by decide) (by decide)).trans (c := 0) (by omega)
  refine (decodePacket_fence (isHead_pktHead (by decide) hlen ha) hz (by omega)).trans ?_
  rw [hn, Nat.sub_add_cancel hone, fenceCtrs_words cs hcs]
  rfl

end Sys2Proof.Machine
end

section
/-! Launch packets (Tables 9-3, 9-5). -/
namespace Sys2Proof.Machine

/-! ### Operand declarations and arguments -/

/-- The words of a declared operand. -/
def declWords (o : OperandDecl) : List W64 := [BitVec.ofNat 64 (o.mode.toNat * 2 ^ 62 + o.base.toNat), o.len]

theorem operandDecl_words (o : OperandDecl) (h : o.wf = true) :
    operandDecl (BitVec.ofNat 64 (o.mode.toNat * 2 ^ 62 + o.base.toNat)) o.len = some o := by
  simp only [OperandDecl.wf, Bool.and_eq_true, bne_iff_ne, ne_eq, decide_eq_true_eq] at h
  obtain ⟨hmode, hlow, hhigh⟩ := h
  have hm0 : o.mode.toNat ≠ 0 := fun h0 => hmode (BitVec.eq_of_toNat_eq h0)
  have hl0 : (o.len == 0) = false := by
    rw [beq_eq_false_iff_ne]
    intro h0
    rw [h0] at hlow
    exact absurd hlow (by decide)
  generalize hn : o.mode.toNat * 2 ^ 62 + o.base.toNat = n
  have hlt : n < 2 ^ 64 := by omega
  have hbits : ∀ hi lo, bits (BitVec.ofNat 64 n) hi lo = n / 2 ^ lo % 2 ^ (hi + 1 - lo) := fun hi lo => by
    rw [bits_eq_div_mod, BitVec.toNat_ofNat, Nat.mod_eq_of_lt hlt]
  have hmode' := (hbits 63 62).trans (c := o.mode.toNat) (by omega)
  have hz := (hbits 61 52).trans (c := 0) (by omega)
  have hbase := (hbits 51 0).trans (c := o.base.toNat) (by omega)
  have hm : (BitVec.ofNat 64 n).extractLsb' 62 2 = o.mode := BitVec.eq_of_toNat_eq hmode'
  have hb : (BitVec.ofNat 64 n).extractLsb' 0 52 = o.base := BitVec.eq_of_toNat_eq hbase
  have hck : (bits (BitVec.ofNat 64 n) 63 62 == 0 || bits (BitVec.ofNat 64 n) 61 52 != 0 || o.len == 0 ||
      decide (2 ^ 40 < o.len.toNat)) = false := by
    rw [hmode', hz, hl0]
    simpa [hm0] using hhigh
  simp only [operandDecl, hm, hb]
  rw [if_neg]
  simpa using hck

theorem operandDecls_words (os : List OperandDecl) (h : os.all OperandDecl.wf = true) (rest : List W64) :
    operandDecls os.length (os.flatMap declWords ++ rest) = some os := by
  induction os with
  | nil => rfl
  | cons o os ih =>
    simp only [List.all_cons, Bool.and_eq_true] at h
    simp only [List.flatMap_cons, declWords, List.cons_append, List.nil_append, List.length_cons, operandDecls,
      operandDecl_words o h.1, Option.bind_some]
    rw [ih h.2]
    rfl

theorem length_declWords (os : List OperandDecl) : (os.flatMap declWords).length = 2 * os.length := by
  induction os with
  | nil => rfl
  | cons o os ih =>
    simp only [List.flatMap_cons, List.length_append, ih, declWords, List.length_cons, List.length_nil]
    omega

theorem toNat_pair (a b : W32) : (pair a b).toNat = b.toNat * 2 ^ 32 + a.toNat := by
  rw [pair, BitVec.toNat_append, Nat.shiftLeft_eq, Nat.or_comm, Nat.mul_comm]
  exact (Nat.or_comm _ _).trans (Nat.two_pow_add_eq_or_of_lt a.isLt b.toNat).symm

theorem lo32_pair (a b : W32) : lo32 (pair a b) = a := by
  have h : bits (pair a b) 31 0 = a.toNat := by
    rw [bits_eq_div_mod, toNat_pair]
    omega
  exact BitVec.eq_of_toNat_eq h

theorem hi32_pair (a b : W32) : hi32 (pair a b) = b := by
  have h : bits (pair a b) 63 32 = b.toNat := by
    rw [bits_eq_div_mod, toNat_pair]
    omega
  exact BitVec.eq_of_toNat_eq h

theorem lo32_zx (a : W32) : lo32 (zx a) = a := by
  have h : bits (zx a) 31 0 = a.toNat := by
    rw [bits_eq_div_mod, zx, BitVec.toNat_setWidth]
    omega
  exact BitVec.eq_of_toNat_eq h

theorem hi32_zx (a : W32) : hi32 (zx a) = 0 := by
  have h : bits (zx a) 63 32 = 0 := by
    rw [bits_eq_div_mod, zx, BitVec.toNat_setWidth]
    omega
  exact BitVec.eq_of_toNat_eq h

theorem argList_words : ∀ as : List W32, argList as.length (argWords as) = some as
  | [] => rfl
  | [a] => by simp [argWords, argList, hi32_zx, lo32_zx]
  | a :: b :: as => by
    simp [argWords, argList, argList_words as, hi32_pair, lo32_pair]

theorem length_argWords : ∀ as : List W32, (argWords as).length = (as.length + 1) / 2
  | [] => rfl
  | [a] => by simp [argWords]
  | a :: b :: as => by
    simp only [argWords, List.length_cons, length_argWords as]
    omega

/-! ### The words of a launch -/

/-- The arguments of a launch's first word. -/
def launchArgs (p : LaunchPkt) : Nat :=
  p.args.length * 2 ^ 32 + p.ntree * 2 ^ 26 + p.ops.length * 2 ^ 21 + p.aff.length * 2 ^ 13 + p.ndep * 2 ^ 11 + bitN p.allprev 10

/-- The second word: tag, class, shape, workgroup width and grid. -/
def launchWord1 (p : LaunchPkt) : W64 :=
  BitVec.ofNat 64 (p.tag.toNat * 2 ^ 48 + p.cls.toNat * 2 ^ 46 + p.shape.toNat * 2 ^ 44 + p.wgnm1.toNat * 2 ^ 34 + p.gridm1.toNat)

/-- The third word: what a workgroup is given. -/
def launchWord2 (p : LaunchPkt) : W64 :=
  BitVec.ofNat 64 (p.scal * 2 ^ 56 + p.drift * 2 ^ 40 + p.tiles * 2 ^ 32 + p.priv.toNat)

/-- The fifth word: the tags it depends on, and its frame. -/
def launchWord4 (p : LaunchPkt) : W64 :=
  BitVec.ofNat 64 ((p.dtags.getD 0 0).toNat * 2 ^ 48 + (p.dtags.getD 1 0).toNat * 2 ^ 32 + (p.dtags.getD 2 0).toNat * 2 ^ 16 + p.frame.toNat)

/-- What follows the fixed words. -/
def launchTail (p : LaunchPkt) : List W64 := p.ops.flatMap declWords ++ (p.aff ++ argWords p.args)

/-- The words after the first. -/
def launchBody (ind : Bool) (p : LaunchPkt) : List W64 :=
  p.entry :: launchWord1 p :: launchWord2 p :: p.staddr :: launchWord4 p :: ((if ind then [p.gaddr] else []) ++ launchTail p)

theorem bits_ofNat {n : Nat} (h : n < 2 ^ 64) (hi lo : Nat) :
    bits (BitVec.ofNat 64 n) hi lo = n / 2 ^ lo % 2 ^ (hi + 1 - lo) := by
  rw [bits_eq_div_mod, BitVec.toNat_ofNat, Nat.mod_eq_of_lt h]

theorem launchWord1_fields (p : LaunchPkt) :
    bits (launchWord1 p) 33 24 = 0 ∧ bits (launchWord1 p) 23 0 = p.gridm1.toNat ∧
      (launchWord1 p).extractLsb' 48 16 = p.tag ∧ (launchWord1 p).extractLsb' 46 2 = p.cls ∧
      (launchWord1 p).extractLsb' 44 2 = p.shape ∧ (launchWord1 p).extractLsb' 34 10 = p.wgnm1 ∧
      (launchWord1 p).extractLsb' 0 24 = p.gridm1 := by
  have hbits := bits_ofNat (n := p.tag.toNat * 2 ^ 48 + p.cls.toNat * 2 ^ 46 + p.shape.toNat * 2 ^ 44 +
    p.wgnm1.toNat * 2 ^ 34 + p.gridm1.toNat) (by omega)
  have htag := (hbits 63 48).trans (c := p.tag.toNat) (by omega)
  have hcls := (hbits 47 46).trans (c := p.cls.toNat) (by omega)
  have hshape := (hbits 45 44).trans (c := p.shape.toNat) (by omega)
  have hwgn := (hbits 43 34).trans (c := p.wgnm1.toNat) (by omega)
  have hgrid := (hbits 23 0).trans (c := p.gridm1.toNat) (by omega)
  exact ⟨(hbits 33 24).trans (by omega), hgrid, BitVec.eq_of_toNat_eq htag, BitVec.eq_of_toNat_eq hcls,
    BitVec.eq_of_toNat_eq hshape, BitVec.eq_of_toNat_eq hwgn, BitVec.eq_of_toNat_eq hgrid⟩

theorem launchWord2_fields (p : LaunchPkt) (hscal : p.scal ≤ 192) (hdrift : p.drift < 2 ^ 16) (htiles : p.tiles < 2 ^ 8) :
    bits (launchWord2 p) 63 56 = p.scal ∧ bits (launchWord2 p) 55 40 = p.drift ∧ bits (launchWord2 p) 39 32 = p.tiles ∧
      bits (launchWord2 p) 31 0 = p.priv.toNat ∧ lo32 (launchWord2 p) = p.priv := by
  have hbits := bits_ofNat (n := p.scal * 2 ^ 56 + p.drift * 2 ^ 40 + p.tiles * 2 ^ 32 + p.priv.toNat) (by omega)
  have hpriv := (hbits 31 0).trans (c := p.priv.toNat) (by omega)
  exact ⟨(hbits 63 56).trans (by omega), (hbits 55 40).trans (by omega), (hbits 39 32).trans (by omega), hpriv,
    BitVec.eq_of_toNat_eq hpriv⟩

theorem launchWord4_fields (p : LaunchPkt) (hd : p.dtags.length = 3) :
    bits (launchWord4 p) 15 12 = 0 ∧ (launchWord4 p).extractLsb' 0 12 = p.frame ∧
      [(launchWord4 p).extractLsb' 48 16, (launchWord4 p).extractLsb' 32 16, (launchWord4 p).extractLsb' 16 16] = p.dtags := by
  obtain ⟨d0, d1, d2, hdt⟩ : ∃ d0 d1 d2, p.dtags = [d0, d1, d2] := by
    match h : p.dtags, hd with
    | [d0, d1, d2], _ => exact ⟨d0, d1, d2, rfl⟩
  have hword : launchWord4 p = BitVec.ofNat 64 (d0.toNat * 2 ^ 48 + d1.toNat * 2 ^ 32 + d2.toNat * 2 ^ 16 + p.frame.toNat) := by
    rw [launchWord4, hdt]
    rfl
  have hbits := bits_ofNat (n := d0.toNat * 2 ^ 48 + d1.toNat * 2 ^ 32 + d2.toNat * 2 ^ 16 + p.frame.toNat) (by omega)
  have h0 := (hbits 63 48).trans (c := d0.toNat) (by omega)
  have h1 := (hbits 47 32).trans (c := d1.toNat) (by omega)
  have h2 := (hbits 31 16).trans (c := d2.toNat) (by omega)
  have hf := (hbits 11 0).trans (c := p.frame.toNat) (by omega)
  rw [hword, hdt]
  refine ⟨(hbits 15 12).trans (by omega), BitVec.eq_of_toNat_eq hf, ?_⟩
  have e0 : (BitVec.ofNat 64 (d0.toNat * 2 ^ 48 + d1.toNat * 2 ^ 32 + d2.toNat * 2 ^ 16 + p.frame.toNat)).extractLsb' 48 16 = d0 :=
    BitVec.eq_of_toNat_eq h0
  have e1 : (BitVec.ofNat 64 (d0.toNat * 2 ^ 48 + d1.toNat * 2 ^ 32 + d2.toNat * 2 ^ 16 + p.frame.toNat)).extractLsb' 32 16 = d1 :=
    BitVec.eq_of_toNat_eq h1
  have e2 : (BitVec.ofNat 64 (d0.toNat * 2 ^ 48 + d1.toNat * 2 ^ 32 + d2.toNat * 2 ^ 16 + p.frame.toNat)).extractLsb' 16 16 = d2 :=
    BitVec.eq_of_toNat_eq h2
  rw [e0, e1, e2]

/-- The fields of a launch's first word. -/
structure LaunchHead (p : LaunchPkt) (h : W64) : Prop where
  narg : bits h 39 32 = p.args.length
  ntree : bits h 31 26 = p.ntree
  nops : bits h 25 21 = p.ops.length
  naff : bits h 20 13 = p.aff.length
  ndep : bits h 12 11 = p.ndep
  allprev : h.getLsbD 10 = p.allprev
  low : bits h 9 0 = 0

theorem length_launchBody (ind : Bool) (p : LaunchPkt) :
    (launchBody ind p).length = (if ind then 6 else 5) + 2 * p.ops.length + p.aff.length + (p.args.length + 1) / 2 := by
  cases ind <;> simp only [launchBody, launchTail, List.length_cons, List.length_append, length_declWords, length_argWords,
    Bool.false_eq_true, if_false, if_true, List.length_nil] <;> omega

/-- A launch's words decode to it. -/
theorem launchPkt_words {p : LaunchPkt} {ind : Bool} {h : W64} (hw : p.wf ind = true) (hh : LaunchHead p h) :
    launchPkt h ind (launchBody ind p) = some p := by
  simp only [LaunchPkt.wf, Bool.and_eq_true, decide_eq_true_eq] at hw
  obtain ⟨⟨⟨⟨⟨htree, hdep, hscal, hdrift, htiles, hdtags, hops, haff, hargs, hpriv⟩, hentry⟩, hstaddr⟩, hdecl⟩, hind⟩ := hw
  obtain ⟨narg, ntree, nops, naff, ndep, allprev, low⟩ := hh
  obtain ⟨w1z, w1g, w1tag, w1cls, w1shape, w1wgn, w1grid⟩ := launchWord1_fields p
  obtain ⟨w2scal, w2drift, w2tiles, w2low, w2priv⟩ := launchWord2_fields p hscal hdrift htiles
  obtain ⟨w4z, w4frame, w4tags⟩ := launchWord4_fields p hdtags
  have hlen := length_launchBody ind p
  have hdrop : (launchBody ind p).drop (if ind then 6 else 5) = launchTail p := by
    cases ind <;> rfl
  have hafter : (launchTail p).drop (2 * p.ops.length) = p.aff ++ argWords p.args := by
    rw [launchTail, List.drop_append_of_le_length (Nat.le_of_eq (length_declWords _).symm),
      List.drop_of_length_le (Nat.le_of_eq (length_declWords _))]
    rfl
  have hargW : (launchTail p).drop (2 * p.ops.length + p.aff.length) = argWords p.args := by
    rw [← List.drop_drop, hafter, List.drop_left]
  have haffW : ((launchTail p).drop (2 * p.ops.length)).take p.aff.length = p.aff := by
    rw [hafter, List.take_left]
  have hops' : operandDecls p.ops.length (launchTail p) = some p.ops := operandDecls_words p.ops hdecl _
  have e0 : (launchBody ind p).getD 0 0 = p.entry := rfl
  have e1 : (launchBody ind p).getD 1 0 = launchWord1 p := rfl
  have e2 : (launchBody ind p).getD 2 0 = launchWord2 p := rfl
  have e3 : (launchBody ind p).getD 3 0 = p.staddr := rfl
  have e4 : (launchBody ind p).getD 4 0 = launchWord4 p := rfl
  have hg : (if ind then (launchBody ind p).getD 5 0 else 0) = p.gaddr := by
    cases ind with
    | false => exact (beq_iff_eq.mp hind).symm
    | true => rfl
  have hgOk : (ind && !addrOk ((launchBody ind p).getD 5 0) 4) = false := by
    cases ind with
    | false => rfl
    | true =>
      simp only [if_true, Bool.and_eq_true] at hind
      have e5 : (launchBody true p).getD 5 0 = p.gaddr := rfl
      rw [e5, addrOk_of_fits hind.1]
      rfl
  have hgrid : (ind && p.gridm1.toNat != 0) = false := by
    cases ind with
    | false => rfl
    | true =>
      simp only [if_true, Bool.and_eq_true] at hind
      rw [beq_iff_eq.mp hind.2]
      rfl
  simp only [launchPkt, narg, ntree, nops, naff, ndep, allprev, low, hlen, hdrop, hops', hargW, haffW, argList_words, e0, e1,
    e2, e3, e4, hg, hgOk, hgrid, w1z, w1g, w1tag, w1cls, w1shape, w1wgn, w1grid, w2scal, w2drift, w2tiles, w2low, w2priv, w4z,
    w4frame, w4tags, hpriv, addrOk_of_fits hentry, addrOk_of_fits hstaddr, Nat.not_lt.mpr hargs, Nat.not_lt.mpr htree,
    Nat.not_lt.mpr hops, Nat.not_lt.mpr hscal, decide_false, bne_self_eq_false, Bool.not_true, Bool.or_self,
    Bool.false_eq_true, if_false]

theorem launchHead_pktHead {type len : Nat} {p : LaunchPkt} (ht : type < 2 ^ 8) (hl : len < 2 ^ 12) (hargs : p.args.length ≤ 192)
    (htree : p.ntree ≤ 32) (hops : p.ops.length ≤ 16) (haff : p.aff.length < 2 ^ 8) (hdep : p.ndep ≤ 3) :
    launchArgs p < 2 ^ 40 ∧ LaunchHead p (pktHead type len (launchArgs p)) := by
  obtain ⟨hflag, hle⟩ := bitN_eq p.allprev 10
  have hval : launchArgs p = p.args.length * 2 ^ 32 + p.ntree * 2 ^ 26 + p.ops.length * 2 ^ 21 + p.aff.length * 2 ^ 13 +
      p.ndep * 2 ^ 11 + p.allprev.toNat * 2 ^ 10 := by
    rw [launchArgs, hflag]
  have ha : launchArgs p < 2 ^ 40 := by omega
  have hbits := fun hi lo => bits_pktHead ht hl ha (hi := hi) (lo := lo)
  exact ⟨ha, (hbits 39 32 (by decide) (by decide)).trans (by omega), (hbits 31 26 (by decide) (by decide)).trans (by omega),
    (hbits 25 21 (by decide) (by decide)).trans (by omega), (hbits 20 13 (by decide) (by decide)).trans (by omega),
    (hbits 12 11 (by decide) (by decide)).trans (by omega),
    (getLsbD_pktHead ht hl ha (by decide)).trans (testBit_of (by omega)),
    (hbits 9 0 (by decide) (by decide)).trans (by omega)⟩

/-- The first word of a well-formed launch. -/
theorem launch_head {p : LaunchPkt} {ind : Bool} (hw : p.wf ind = true) {type : Nat} (ht : type < 2 ^ 8) :
    (launchBody ind p).length + 1 < 2 ^ 12 ∧ launchArgs p < 2 ^ 40 ∧
      LaunchHead p (pktHead type ((launchBody ind p).length + 1) (launchArgs p)) := by
  simp only [LaunchPkt.wf, Bool.and_eq_true, decide_eq_true_eq] at hw
  obtain ⟨⟨⟨⟨⟨htree, hdep, -, -, -, -, hops, haff, hargs, -⟩, -⟩, -⟩, -⟩, -⟩ := hw
  have hlen : (launchBody ind p).length + 1 < 2 ^ 12 := by
    rw [length_launchBody]
    cases ind <;> simp only [Bool.false_eq_true, if_false, if_true] <;> omega
  exact ⟨hlen, launchHead_pktHead ht hlen hargs htree hops haff hdep⟩

theorem launch_roundTrips (q : Nat) (p : LaunchPkt) (hw : p.wf false = true) :
    RoundTrips q (.launch q p) 1 (launchArgs p) (launchBody false p) := by
  obtain ⟨hlen, ha, hh⟩ := launch_head hw (type := 1) (by decide)
  refine (decodePacket_launch (isHead_pktHead (by decide) hlen ha)).trans ?_
  rw [launchPkt_words hw hh]
  rfl

theorem indirectLaunch_roundTrips (q : Nat) (p : LaunchPkt) (hw : p.wf true = true) :
    RoundTrips q (.indirectLaunch q p) 2 (launchArgs p) (launchBody true p) := by
  obtain ⟨hlen, ha, hh⟩ := launch_head hw (type := 2) (by decide)
  refine (decodePacket_indirectLaunch (isHead_pktHead (by decide) hlen ha)).trans ?_
  rw [launchPkt_words hw hh]
  rfl

end Sys2Proof.Machine
end

section
/-! O4. -/
namespace Sys2Proof.Machine

/-- The words of a packet that decodes give it back, with its length. -/
theorem decodes_of_roundTrips {q type args : Nat} {i : Instr} {h : W64} {vs ws : List W64} (hr : RoundTrips q i type args vs)
    (he : pktHead type (vs.length + 1) args :: vs = h :: ws) (ht : type < 2 ^ 8) (hl : vs.length + 1 < 2 ^ 12)
    (ha : args < 2 ^ 40) : ∃ q, decodePacket q h ws = some i ∧ h.toNat / 2 ^ 44 % 2 ^ 12 = ws.length + 1 := by
  obtain ⟨rfl, rfl⟩ := List.cons.inj he
  exact ⟨q, hr, length_pktHead ht hl ha⟩

/-- The encoder's words of a launch are those of its fields. -/
theorem launchWords_eq (type : Nat) (ind : Bool) (p : LaunchPkt) :
    launchWords type ind p = pktHead type ((launchBody ind p).length + 1) (launchArgs p) :: launchBody ind p := by
  have hbody : launchBody ind p = [p.entry, launchWord1 p, launchWord2 p, p.staddr, launchWord4 p] ++
      (if ind then [p.gaddr] else []) ++ p.ops.flatMap declWords ++ p.aff ++ argWords p.args := by
    simp only [launchBody, launchTail, List.append_assoc, List.cons_append, List.nil_append]
  rw [hbody]
  rfl

/-- Settles O4: each packet by the round trip of its type. -/
theorem packetRoundTrip : Obligations.PacketRoundTrip := by
  unfold Obligations.PacketRoundTrip
  intro i h ws he hwf
  unfold encodePacket at he
  split at he
  · next q n =>
    obtain ⟨-, hone, hmany⟩ : q < 64 ∧ 1 ≤ n ∧ n ≤ 4095 := of_decide_eq_true hwf
    obtain ⟨n, rfl⟩ : ∃ m, n = m + 1 := ⟨n - 1, by omega⟩
    have hlen : (List.replicate n (0 : W64)).length = n := List.length_replicate
    exact decodes_of_roundTrips (nopPacket_roundTrips q n (by omega)) (hlen.symm ▸ he) (by decide) (by omega) (by decide)
  · next q p =>
    have hp : p.wf false = true := (Bool.and_eq_true_iff.mp hwf).2
    obtain ⟨hlen, ha, -⟩ := launch_head hp (type := 1) (by decide)
    exact decodes_of_roundTrips (launch_roundTrips q p hp) ((launchWords_eq 1 false p).symm.trans he) (by decide) hlen ha
  · next q p =>
    have hp : p.wf true = true := (Bool.and_eq_true_iff.mp hwf).2
    obtain ⟨hlen, ha, -⟩ := launch_head hp (type := 2) (by decide)
    exact decodes_of_roundTrips (indirectLaunch_roundTrips q p hp) ((launchWords_eq 2 true p).symm.trans he) (by decide) hlen ha
  · next q cs =>
    obtain ⟨hq, hcs⟩ := Bool.and_eq_true_iff.mp hwf
    obtain ⟨-, hone, hmany⟩ := of_decide_eq_true hq
    have hlen := length_ctrWords cs
    have hhead : 1 + 3 * cs.length = (cs.flatMap ctrWords).length + 1 := by omega
    exact decodes_of_roundTrips (fencePacket_roundTrips q cs hone hmany hcs) (hhead ▸ he) (by decide) (by omega) (by omega)
  · next q m b w =>
    obtain ⟨-, hw⟩ := Bool.and_eq_true_iff.mp hwf
    obtain ⟨hflag, hle⟩ := bitN_eq m 39
    exact decodes_of_roundTrips (loopPacket_roundTrips q m b w hw) he (by decide) (show 2 < 2 ^ 12 by decide) (by omega)
  · next q w64 c k a v =>
    obtain ⟨-, ha⟩ := Bool.and_eq_true_iff.mp hwf
    obtain ⟨hflag, hle⟩ := bitN_eq w64 39
    exact decodes_of_roundTrips (ifPacket_roundTrips q w64 c k a v ha) he (by decide) (show 3 < 2 ^ 12 by decide) (by omega)
  · next q k r =>
    exact decodes_of_roundTrips (segmentBegin_roundTrips q k r) he (by decide) (by decide) (by omega)
  · next q k =>
    exact decodes_of_roundTrips (segmentEnd_roundTrips q k) he (by decide) (by decide) (by omega)
  · next q k =>
    exact decodes_of_roundTrips (replay_roundTrips q k) he (by decide) (by decide) (by omega)
  · next q w a =>
    obtain ⟨-, ha⟩ := Bool.and_eq_true_iff.mp hwf
    obtain ⟨hflag, hle⟩ := bitN_eq w 39
    exact decodes_of_roundTrips (ckptPacket_roundTrips q w a ha) he (by decide) (show 2 < 2 ^ 12 by decide) (by omega)
  · next q p =>
    obtain ⟨-, ha⟩ := Bool.and_eq_true_iff.mp hwf
    exact decodes_of_roundTrips (signalWrite64_roundTrips q p ha) he (by decide) (show 3 < 2 ^ 12 by decide)
      (signal_fields (by decide) p).1
  · next q p =>
    obtain ⟨-, ha⟩ := Bool.and_eq_true_iff.mp hwf
    exact decodes_of_roundTrips (signalRedAdd_roundTrips q p ha) he (by decide) (show 3 < 2 ^ 12 by decide)
      (signal_fields (by decide) p).1
  · next q p =>
    obtain ⟨-, ha⟩ := Bool.and_eq_true_iff.mp hwf
    exact decodes_of_roundTrips (signalWrite32_roundTrips q p ha) he (by decide) (show 3 < 2 ^ 12 by decide)
      (signal_fields (by decide) p).1
  · exact absurd he (by simp)

end Sys2Proof.Machine
end

section
/-! A picker's choice that the picker makes runs the decoded word (R245, R248, R268). -/
namespace Sys2Proof.Machine

/-- Settles O2: each check of `State.issue` passes by a hypothesis, and the slot's word decodes. -/
theorem stepRunsTheDecodedInstruction : Obligations.StepRunsTheDecodedInstruction := by
  unfold Obligations.StepRunsTheDecodedInstruction
  intro s s1 rest pc quads w j h ws i hag hw s0 l header old qs hj hmay hout hclause hck u taken lanes n hne hport
  have hs0 : s0.wg? w.id = some w := hw
  have hchk : (if l.code.isEmpty then clauseCheck h ws else none) = none := by
    split
    · next hc => exact hck (List.isEmpty_iff.mp hc)
    · rfl
  have hlanes : lanes.isEmpty = false := by
    cases hl : lanes with
    | nil => exact absurd hl hne
    | cons => rfl
  have hstep : step s = settled s (s0.issue w.id pc quads).run! := by
    simp only [step, hag]
    rfl
  have hissue : s0.issue w.id pc quads = if header then s1.issueSlot (u.openClause lanes pc) lanes 0 l.clause h ws 0
      else if hdrSlots h ≤ n then .done (s1.modWg w.id fun w => { w with lanes := mapLanes (fun i l =>
        if lanes.contains i then { l with clause := pc, code := [], gang := 0 } else l) 0 w.lanes })
      else s1.issueSlot u lanes old l.clause h ws n := by
    have hpick : ¬(!s0.mayIssue w header || s0.outranked w (quarterOf j) pc qs) = true := by simp [hmay, hout]
    have hfetch : s0.clauseOf w (w.lane j) = (.ok (h, ws), s1) := hclause
    have hcheck : (if (w.lane j).code.isEmpty then clauseCheck h ws else none) = none := hchk
    have hfree : ¬(!s1.portFree u.core (quarterOf j) (ws.getD n 0)) = true := by
      rw [hport]
      exact Bool.false_ne_true
    unfold State.issue
    rw [hs0]
    dsimp only
    rw [hj]
    dsimp only
    rw [hfetch]
    refine (if_neg hpick).trans ?_
    dsimp only
    refine (if_neg (hlanes.symm ▸ Bool.false_ne_true)).trans ?_
    rw [hcheck]
    dsimp only
    exact if_neg hfree
  refine ⟨fun hheader hdec => ?_, fun hheader hn hdec => ?_⟩
  · rw [hstep, hissue, if_pos hheader]
    unfold State.issueSlot
    rw [show decodeInstr (ws.getD 0 0) (ws.drop (0 + 1)) = .ok i from hdec]
    rfl
  · rw [hstep, hissue, if_neg (hheader.symm ▸ Bool.false_ne_true), if_neg (Nat.not_le.mpr hn)]
    unfold State.issueSlot
    rw [hdec]
    rfl

end Sys2Proof.Machine
end

section
/-! Every action of the machine goes on: the arms of `exec` first, then what the agenda or the empty agenda runs. -/
namespace Sys2Proof.Machine

/-- The outcome is a next state. -/
def GoesOn (o : Out) : Prop := ∃ t, o = .next t

theorem goesOn_next (t : State) : GoesOn (.next t) := ⟨t, rfl⟩

/-! ### Events and packets, in every state: each branch of their meaning ends in a next state -/

theorem State.atPacket_goesOn (s : State) (q : Nat) (k : Queue → State) : GoesOn (s.atPacket q k) := by
  unfold State.atPacket
  split <;> exact goesOn_next _

theorem execDriftRingWrite_goesOn (asid ring : Nat) (s : State) : GoesOn (execDriftRingWrite asid ring s) := by
  unfold execDriftRingWrite
  repeat' (first | with_reducible exact goesOn_next _ | split)

theorem execKmergeBatch_goesOn (op : Nat) (s : State) : GoesOn (execKmergeBatch op s) := by
  unfold execKmergeBatch
  repeat' (first | with_reducible exact goesOn_next _ | split)

theorem execIteratorPullCommit_goesOn (wg slot : Nat) (s : State) : GoesOn (execIteratorPullCommit wg slot s) := by
  unfold execIteratorPullCommit
  dsimp only
  repeat' (first | with_reducible exact goesOn_next _ | split)

theorem execArrayStepComplete_goesOn (core quarter : Nat) (s : State) : GoesOn (execArrayStepComplete core quarter s) := by
  unfold execArrayStepComplete
  repeat' (first | with_reducible exact goesOn_next _ | split)

theorem execArraySlotPreemption_goesOn (core quarter : Nat) (s : State) : GoesOn (execArraySlotPreemption core quarter s) := by
  unfold execArraySlotPreemption
  dsimp only
  repeat' (first | with_reducible exact goesOn_next _ | split)

theorem State.itrOp_goesOn (s : State) (wg slot op : Nat) : GoesOn (s.itrOp wg slot op) := by
  unfold State.itrOp
  repeat' (first | with_reducible exact goesOn_next _ | exact execIteratorPullCommit_goesOn _ _ _ | split)

theorem execEngineOperationComplete_goesOn (op : Nat) (s : State) : GoesOn (execEngineOperationComplete op s) := by
  unfold execEngineOperationComplete
  repeat' (first | with_reducible exact goesOn_next _ | exact State.itrOp_goesOn _ _ _ _ | split)

theorem execTileFillComplete_goesOn (wg idx : Nat) (s : State) : GoesOn (execTileFillComplete wg idx s) := by
  unfold execTileFillComplete
  dsimp only
  repeat' (first | with_reducible exact goesOn_next _ | split)

theorem execTileDrainComplete_goesOn (wg idx : Nat) (s : State) : GoesOn (execTileDrainComplete wg idx s) := by
  unfold execTileDrainComplete
  dsimp only
  repeat' (first | with_reducible exact goesOn_next _ | split)

theorem execTileRelease_goesOn (wg idx : Nat) (s : State) : GoesOn (execTileRelease wg idx s) := by
  unfold execTileRelease
  repeat' (first | with_reducible exact goesOn_next _ | split)

theorem execVeerRequestServe_goesOn (link : Nat) (s : State) : GoesOn (execVeerRequestServe link s) := by
  unfold execVeerRequestServe
  dsimp only
  repeat' (first | with_reducible exact goesOn_next _ | split)

theorem execLaneGroupTurnStart_goesOn (link grp : Nat) (s : State) : GoesOn (execLaneGroupTurnStart link grp s) := by
  unfold execLaneGroupTurnStart
  dsimp only
  repeat' (first | with_reducible exact goesOn_next _ | split)

theorem execLaneGroupTurnComplete_goesOn (link grp : Nat) (s : State) : GoesOn (execLaneGroupTurnComplete link grp s) := by
  unfold execLaneGroupTurnComplete
  repeat' (first | with_reducible exact goesOn_next _ | split)

theorem execVeerHoldExpiry_goesOn (link : Nat) (s : State) : GoesOn (execVeerHoldExpiry link s) := by
  unfold execVeerHoldExpiry
  repeat' (first | with_reducible exact goesOn_next _ | split)

theorem execAdaptiveTurn_goesOn (link grp : Nat) (s : State) : GoesOn (execAdaptiveTurn link grp s) := by
  unfold execAdaptiveTurn
  dsimp only
  repeat' (first | with_reducible exact goesOn_next _ | split)

theorem execLaneGroupRetire_goesOn (link grp : Nat) (s : State) : GoesOn (execLaneGroupRetire link grp s) := by
  unfold execLaneGroupRetire
  repeat' (first | with_reducible exact goesOn_next _ | split)

theorem execRecalibrationStart_goesOn (link grp : Nat) (s : State) : GoesOn (execRecalibrationStart link grp s) := by
  unfold execRecalibrationStart
  dsimp only
  repeat' (first | with_reducible exact goesOn_next _ | split)

theorem execRecalibrationEnd_goesOn (link : Nat) (s : State) : GoesOn (execRecalibrationEnd link s) := by
  unfold execRecalibrationEnd
  dsimp only
  repeat' (first | with_reducible exact goesOn_next _ | split)

theorem execLinkOutOfService_goesOn (link : Nat) (s : State) : GoesOn (execLinkOutOfService link s) := by
  unfold execLinkOutOfService
  dsimp only
  repeat' (first | with_reducible exact goesOn_next _ | split)

theorem execLinkRestore_goesOn (link grp : Nat) (s : State) : GoesOn (execLinkRestore link grp s) := by
  unfold execLinkRestore
  repeat' (first | with_reducible exact goesOn_next _ | split)

theorem execMetadataDelivery_goesOn (die ring : Nat) (s : State) : GoesOn (execMetadataDelivery die ring s) := by
  unfold execMetadataDelivery
  dsimp only
  repeat' (first | with_reducible exact goesOn_next _ | split)

theorem execGateLogitPop_goesOn (die : Nat) (s : State) : GoesOn (execGateLogitPop die s) := by
  unfold execGateLogitPop
  dsimp only
  repeat' (first | with_reducible exact goesOn_next _ | split)

theorem execRingConfiguration_goesOn (die ring : Nat) (c : RingCfg) (s : State) : GoesOn (execRingConfiguration die ring c s) := by
  unfold execRingConfiguration
  repeat' (first | with_reducible exact goesOn_next _ | split)

theorem execLoadDataReturn_goesOn (id : Nat) (s : State) : GoesOn (execLoadDataReturn id s) := by
  unfold execLoadDataReturn
  repeat' (first | with_reducible exact goesOn_next _ | split)

theorem execWriteAcknowledgement_goesOn (id : Nat) (s : State) : GoesOn (execWriteAcknowledgement id s) := by
  unfold execWriteAcknowledgement
  repeat' (first | with_reducible exact goesOn_next _ | split)

theorem execOwnershipGrant_goesOn (id : Nat) (s : State) : GoesOn (execOwnershipGrant id s) := by
  unfold execOwnershipGrant
  repeat' (first | with_reducible exact goesOn_next _ | split)

theorem execFabricLoadTimeout_goesOn (id : Nat) (s : State) : GoesOn (execFabricLoadTimeout id s) := by
  unfold execFabricLoadTimeout
  repeat' (first | with_reducible exact goesOn_next _ | split)

theorem execCacheMaintenanceComplete_goesOn (id : Nat) (s : State) : GoesOn (execCacheMaintenanceComplete id s) := by
  unfold execCacheMaintenanceComplete
  dsimp only
  repeat' (first | with_reducible exact goesOn_next _ | split)

theorem execTranslationMissComplete_goesOn (k : Nat) (s : State) : GoesOn (execTranslationMissComplete k s) := by
  unfold execTranslationMissComplete
  repeat' (first | with_reducible exact goesOn_next _ | split)

theorem execPageFaultServiceComplete_goesOn (asid va : Nat) (leaf : Option LeafWrite) (s : State) : GoesOn (execPageFaultServiceComplete asid va leaf s) := by
  unfold execPageFaultServiceComplete
  dsimp only
  repeat' (first | with_reducible exact goesOn_next _ | split)

theorem execCkptIncrement_goesOn (k : Nat) (s : State) : GoesOn (execCkptIncrement k s) := by
  unfold execCkptIncrement
  repeat' (first | with_reducible exact goesOn_next _ | split)

theorem execWorkgroupSave_goesOn (wg : Nat) (why : SaveCause) (s : State) : GoesOn (execWorkgroupSave wg why s) := by
  unfold execWorkgroupSave
  dsimp only
  repeat' (first | with_reducible exact goesOn_next _ | split)

theorem execNopreBoundExpiry_goesOn (wg : Nat) (s : State) : GoesOn (execNopreBoundExpiry wg s) := by
  unfold execNopreBoundExpiry
  repeat' (first | with_reducible exact goesOn_next _ | split)

theorem execInfieldTestDue_goesOn (core : Nat) (s : State) : GoesOn (execInfieldTestDue core s) := by
  unfold execInfieldTestDue
  dsimp only
  repeat' (first | with_reducible exact goesOn_next _ | split)

theorem execInfieldTestResult_goesOn (core : Nat) (pass : Bool) (s : State) : GoesOn (execInfieldTestResult core pass s) := by
  unfold execInfieldTestResult
  repeat' (first | with_reducible exact goesOn_next _ | split)

theorem execHaltedCoreReturn_goesOn (core : Nat) (s : State) : GoesOn (execHaltedCoreReturn core s) := by
  unfold execHaltedCoreReturn
  repeat' (first | with_reducible exact goesOn_next _ | split)

theorem execIteratorSlotMove_goesOn (wg core : Nat) (s : State) : GoesOn (execIteratorSlotMove wg core s) := by
  unfold execIteratorSlotMove
  repeat' (first | with_reducible exact goesOn_next _ | split)

theorem execMigrationStart_goesOn (region frame : Nat) (s : State) : GoesOn (execMigrationStart region frame s) := by
  unfold execMigrationStart
  dsimp only
  repeat' (first | with_reducible exact goesOn_next _ | split)

theorem execMigrationCopyComplete_goesOn (region : Nat) (s : State) : GoesOn (execMigrationCopyComplete region s) := by
  unfold execMigrationCopyComplete
  repeat' (first | with_reducible exact goesOn_next _ | split)

theorem execMigrationAbandon_goesOn (region : Nat) (s : State) : GoesOn (execMigrationAbandon region s) := by
  unfold execMigrationAbandon
  repeat' (first | with_reducible exact goesOn_next _ | split)

theorem execStickReplacement_goesOn (stick : Nat) (s : State) : GoesOn (execStickReplacement stick s) := by
  unfold execStickReplacement
  repeat' (first | with_reducible exact goesOn_next _ | split)

theorem execMemoryLinkRetrainFail_goesOn (stick : Nat) (s : State) : GoesOn (execMemoryLinkRetrainFail stick s) := by
  unfold execMemoryLinkRetrainFail
  repeat' (first | with_reducible exact goesOn_next _ | split)

theorem execCompressedStateSetup_goesOn (stick : Nat) (base pool overflow : W64) (s : State) : GoesOn (execCompressedStateSetup stick base pool overflow s) := by
  unfold execCompressedStateSetup
  repeat' (first | with_reducible exact goesOn_next _ | split)

theorem execOverflowSlotSupplied_goesOn (stick slot : Nat) (s : State) : GoesOn (execOverflowSlotSupplied stick slot s) := by
  unfold execOverflowSlotSupplied
  repeat' (first | with_reducible exact goesOn_next _ | split)

theorem execCompressedPageRepack_goesOn (page : Nat) (s : State) : GoesOn (execCompressedPageRepack page s) := by
  unfold execCompressedPageRepack
  dsimp only
  repeat' (first | with_reducible exact goesOn_next _ | split)

theorem execAsidRegistration_goesOn (asid : BitVec 16) (desc : Option SpaceDesc) (s : State) : GoesOn (execAsidRegistration asid desc s) := by
  unfold execAsidRegistration
  repeat' (first | with_reducible exact goesOn_next _ | split)

theorem execFabricPortRetire_goesOn (port : Nat) (s : State) : GoesOn (execFabricPortRetire port s) := by
  unfold execFabricPortRetire
  repeat' (first | with_reducible exact goesOn_next _ | split)

theorem execPowerOn_goesOn (patch : W32) (signed : Bool) (die : Nat) (s : State) : GoesOn (execPowerOn patch signed die s) := by
  unfold execPowerOn
  repeat' (first | with_reducible exact goesOn_next _ | split)

theorem execOvercastEnd_goesOn (dies : List Nat) (retired : List (Nat × Nat)) (s : State) : GoesOn (execOvercastEnd dies retired s) := by
  unfold execOvercastEnd
  repeat' (first | with_reducible exact goesOn_next _ | split)

theorem execDieOffline_goesOn (die : Nat) (s : State) : GoesOn (execDieOffline die s) := by
  unfold execDieOffline
  repeat' (first | with_reducible exact goesOn_next _ | split)

theorem execAttestationReport_goesOn (challenge : W64) (s : State) : GoesOn (execAttestationReport challenge s) := by
  unfold execAttestationReport
  repeat' (first | with_reducible exact goesOn_next _ | split)

theorem execUncorrectableSramError_goesOn (g : SramGranule) (s : State) : GoesOn (execUncorrectableSramError g s) := by
  unfold execUncorrectableSramError
  repeat' (first | with_reducible exact goesOn_next _ | split)

theorem execWidxPoll_goesOn (q : Nat) (s : State) : GoesOn (execWidxPoll q s) := by
  unfold execWidxPoll
  repeat' (first | with_reducible exact goesOn_next _ | split)

theorem execDoorbell_goesOn (cp off width : Nat) (s : State) : GoesOn (execDoorbell cp off width s) := by
  unfold execDoorbell
  split
  · exact execWidxPoll_goesOn _ _
  · exact goesOn_next _

theorem execQueueResume_goesOn (q : Nat) (s : State) : GoesOn (execQueueResume q s) := by
  unfold execQueueResume
  repeat' (first | with_reducible exact goesOn_next _ | split)

theorem execQueueHaltedByModuleOs_goesOn (q : Nat) (s : State) : GoesOn (execQueueHaltedByModuleOs q s) := by
  unfold execQueueHaltedByModuleOs
  repeat' (first | with_reducible exact goesOn_next _ | split)

theorem execQueueBinding_goesOn (q asid : Nat) (desc : W64) (s : State) : GoesOn (execQueueBinding q asid desc s) := by
  unfold execQueueBinding
  dsimp only
  repeat' (first | with_reducible exact goesOn_next _ | split)

theorem execFenceCounterPoll_goesOn (q : Nat) (s : State) : GoesOn (execFenceCounterPoll q s) := by
  unfold execFenceCounterPoll
  repeat' (first | with_reducible exact goesOn_next _ | split)

theorem execFenceDeadline_goesOn (q : Nat) (s : State) : GoesOn (execFenceDeadline q s) := by
  unfold execFenceDeadline
  repeat' (first | with_reducible exact goesOn_next _ | split)

theorem execNodeReady_goesOn (n : Nat) (s : State) : GoesOn (execNodeReady n s) := by
  unfold execNodeReady
  dsimp only
  repeat' (first | with_reducible exact goesOn_next _ | split)

theorem execNodeDispatch_goesOn (n : Nat) (places : List Placement) (s : State) : GoesOn (execNodeDispatch n places s) := by
  unfold execNodeDispatch
  repeat' (first | with_reducible exact goesOn_next _ | split)

theorem execNodeComplete_goesOn (n : Nat) (s : State) : GoesOn (execNodeComplete n s) := by
  unfold execNodeComplete
  dsimp only
  repeat' (first | with_reducible exact goesOn_next _ | split)

theorem execSegmentRetry_goesOn (q : Nat) (s : State) : GoesOn (execSegmentRetry q s) := by
  unfold execSegmentRetry
  repeat' (first | with_reducible exact goesOn_next _ | split)

theorem execClassPreemption_goesOn (n wgi core : Nat) (s : State) : GoesOn (execClassPreemption n wgi core s) := by
  unfold execClassPreemption
  dsimp only
  repeat' (first | with_reducible exact goesOn_next _ | split)

theorem execBarrierArrivalCount_goesOn (tree : Bool) (wg idx lane : Nat) (s : State) : GoesOn (execBarrierArrivalCount tree wg idx lane s) := by
  unfold execBarrierArrivalCount
  dsimp only
  repeat' (first | with_reducible exact goesOn_next _ | split)

theorem execQueueFlitDelivery_goesOn (k : Nat) (s : State) : GoesOn (execQueueFlitDelivery k s) := by
  unfold execQueueFlitDelivery
  repeat' (first | with_reducible exact goesOn_next _ | split)

/-- What is no word of a program goes on in every state. -/
theorem exec_goesOn_of_noCode (i : Instr) (hi : i.code = none) (s : State) : GoesOn (exec i s) := by
  cases i with
  | nopPacket _ _ | launch _ _ | indirectLaunch _ _ | fencePacket _ _ | loopPacket _ _ _ _ | ifPacket _ _ _ _ _ _
    | segmentBegin _ _ _ | segmentEnd _ _ | replay _ _ | ckptPacket _ _ _ | signalWrite64 _ _ | signalRedAdd _ _
    | signalWrite32 _ _ =>
    exact State.atPacket_goesOn _ _ _
  | arrayStep _ _ | mxmultChunk _ _ | joinTimeout _ _ | dozeExpiry _ _ | migrationEpoch _ | stickDrain _
    | treeBarrierRelease _ | treeBarrierRearm _ | localBarrierRelease _ _ | localBarrierRearm _ _
    | workgroupRestore _ _ | glq _ _ _ | mres _ _ | ridxWrite _ _ _ | controlBlockAccessIgnored _ _
    | coprocessorReserveRetry _ | partitionTableWrite _ _ | hostSnoop _ | hostMemoryAccess _ | domainIdAssign _
    | livePatch _ _ | powerCapEvaluation _ _ _ | inputPowerLimitExpiry _ | telemetryPublish _ _
    | connectorHealthReport _ _ | memoryLinkCrcReplay _ | doldrumsEntry _ _ | fabricRemoteAccess _
    | fabricModuleUnreachable _ | hubCoreMemoryAccess _ | powerLoss =>
    exact goesOn_next _
  | driftRingWrite _ _ => exact execDriftRingWrite_goesOn _ _ _
  | kmergeBatch _ => exact execKmergeBatch_goesOn _ _
  | iteratorPullCommit _ _ => exact execIteratorPullCommit_goesOn _ _ _
  | arrayStepComplete _ _ => exact execArrayStepComplete_goesOn _ _ _
  | arraySlotPreemption _ _ => exact execArraySlotPreemption_goesOn _ _ _
  | engineOperationComplete _ => exact execEngineOperationComplete_goesOn _ _
  | tileFillComplete _ _ => exact execTileFillComplete_goesOn _ _ _
  | tileDrainComplete _ _ => exact execTileDrainComplete_goesOn _ _ _
  | tileRelease _ _ => exact execTileRelease_goesOn _ _ _
  | veerRequestServe _ => exact execVeerRequestServe_goesOn _ _
  | laneGroupTurnStart _ _ => exact execLaneGroupTurnStart_goesOn _ _ _
  | laneGroupTurnComplete _ _ => exact execLaneGroupTurnComplete_goesOn _ _ _
  | veerHoldExpiry _ => exact execVeerHoldExpiry_goesOn _ _
  | adaptiveTurn _ _ => exact execAdaptiveTurn_goesOn _ _ _
  | laneGroupRetire _ _ => exact execLaneGroupRetire_goesOn _ _ _
  | recalibrationStart _ _ => exact execRecalibrationStart_goesOn _ _ _
  | recalibrationEnd _ => exact execRecalibrationEnd_goesOn _ _
  | linkOutOfService _ => exact execLinkOutOfService_goesOn _ _
  | linkRestore _ _ => exact execLinkRestore_goesOn _ _ _
  | metadataDelivery _ _ => exact execMetadataDelivery_goesOn _ _ _
  | gateLogitPop _ => exact execGateLogitPop_goesOn _ _
  | ringConfiguration _ _ _ => exact execRingConfiguration_goesOn _ _ _ _
  | loadDataReturn _ => exact execLoadDataReturn_goesOn _ _
  | writeAcknowledgement _ => exact execWriteAcknowledgement_goesOn _ _
  | ownershipGrant _ => exact execOwnershipGrant_goesOn _ _
  | fabricLoadTimeout _ => exact execFabricLoadTimeout_goesOn _ _
  | cacheMaintenanceComplete _ => exact execCacheMaintenanceComplete_goesOn _ _
  | translationMissComplete _ => exact execTranslationMissComplete_goesOn _ _
  | pageFaultServiceComplete _ _ _ => exact execPageFaultServiceComplete_goesOn _ _ _ _
  | ckptIncrement _ => exact execCkptIncrement_goesOn _ _
  | workgroupSave _ _ => exact execWorkgroupSave_goesOn _ _ _
  | nopreBoundExpiry _ => exact execNopreBoundExpiry_goesOn _ _
  | infieldTestDue _ => exact execInfieldTestDue_goesOn _ _
  | infieldTestResult _ _ => exact execInfieldTestResult_goesOn _ _ _
  | haltedCoreReturn _ => exact execHaltedCoreReturn_goesOn _ _
  | iteratorSlotMove _ _ => exact execIteratorSlotMove_goesOn _ _ _
  | migrationStart _ _ => exact execMigrationStart_goesOn _ _ _
  | migrationCopyComplete _ => exact execMigrationCopyComplete_goesOn _ _
  | migrationAbandon _ => exact execMigrationAbandon_goesOn _ _
  | stickReplacement _ => exact execStickReplacement_goesOn _ _
  | memoryLinkRetrainFail _ => exact execMemoryLinkRetrainFail_goesOn _ _
  | compressedStateSetup _ _ _ _ => exact execCompressedStateSetup_goesOn _ _ _ _ _
  | overflowSlotSupplied _ _ => exact execOverflowSlotSupplied_goesOn _ _ _
  | compressedPageRepack _ => exact execCompressedPageRepack_goesOn _ _
  | asidRegistration _ _ => exact execAsidRegistration_goesOn _ _ _
  | fabricPortRetire _ => exact execFabricPortRetire_goesOn _ _
  | powerOn _ _ _ => exact execPowerOn_goesOn _ _ _ _
  | overcastEnd _ _ => exact execOvercastEnd_goesOn _ _ _
  | dieOffline _ => exact execDieOffline_goesOn _ _
  | attestationReport _ => exact execAttestationReport_goesOn _ _
  | uncorrectableSramError _ => exact execUncorrectableSramError_goesOn _ _
  | widxPoll _ => exact execWidxPoll_goesOn _ _
  | doorbell _ _ _ => exact execDoorbell_goesOn _ _ _ _
  | queueResume _ => exact execQueueResume_goesOn _ _
  | queueHaltedByModuleOs _ => exact execQueueHaltedByModuleOs_goesOn _ _
  | queueBinding _ _ _ => exact execQueueBinding_goesOn _ _ _ _
  | fenceCounterPoll _ => exact execFenceCounterPoll_goesOn _ _
  | fenceDeadline _ => exact execFenceDeadline_goesOn _ _
  | nodeReady _ => exact execNodeReady_goesOn _ _
  | nodeDispatch _ _ => exact execNodeDispatch_goesOn _ _ _
  | nodeComplete _ => exact execNodeComplete_goesOn _ _
  | segmentRetry _ => exact execSegmentRetry_goesOn _ _
  | classPreemption _ _ _ => exact execClassPreemption_goesOn _ _ _ _
  | barrierArrivalCount _ _ _ _ => exact execBarrierArrivalCount_goesOn _ _ _ _ _
  | queueFlitDelivery _ => exact execQueueFlitDelivery_goesOn _ _
  | _ => cases hi

/-! ### Instructions, once their gang is issued -/

/-- A gang is issued to a workgroup that exists. -/
def State.Ganged (s : State) : Prop := ∃ g w, s.ex.gang = some g ∧ s.wg? g.wg = some w

theorem State.Ganged.withGang {s : State} (h : s.Ganged) {k : Gang → Wg → Out} (hk : ∀ g w, GoesOn (k g w)) :
    GoesOn (s.withGang k) := by
  obtain ⟨g, w, hg, hw⟩ := h
  rw [withGang_eq hg hw]
  exact hk g w

theorem State.Ganged.laneExecWith {s : State} (h : s.Ganged) (sp : LaneSpec) (f : Fields)
    (post : Nat → List Fx → State → State) : GoesOn (laneExecWith sp f post s) := by
  obtain ⟨g, w, hg, hw⟩ := h
  exact laneExecWith_next sp f post hg hw

theorem State.Ganged.laneExec {s : State} (h : s.Ganged) (sp : LaneSpec) (f : Fields) : GoesOn (laneExec sp f s) :=
  h.laneExecWith sp f _

theorem State.Ganged.onceExec {s : State} (h : s.Ganged) (o : Once) (f : Fields) : GoesOn (onceExec o f s) :=
  h.laneExec o.spec f

theorem State.Ganged.groupExec {s : State} (h : s.Ganged) (sp : GroupSpec) (f : Fields) : GoesOn (groupExec sp f s) := by
  obtain ⟨g, w, hg, hw⟩ := h
  exact groupExec_next sp f hg hw

theorem State.Ganged.mov {s : State} (h : s.Ganged) (f : Fields) : GoesOn (execMov f s) := by
  unfold execMov
  split <;> exact h.laneExec _ _

theorem State.Ganged.gshape {s : State} (h : s.Ganged) (f : Fields) : GoesOn (execGshape f s) :=
  h.withGang fun g w => by
    split
    · exact goesOn_next _
    · split <;> exact goesOn_next _

theorem State.Ganged.halt {s : State} (h : s.Ganged) (f : Fields) : GoesOn (execHalt f s) :=
  h.withGang fun g w => by
    split
    · exact goesOn_next _
    · split <;> exact goesOn_next _

/-- Every word of a program goes on where its gang is issued, and whatever is none goes on anyway. -/
theorem State.Ganged.exec {s : State} (h : s.Ganged) (i : Instr) : GoesOn (exec i s) := by
  cases i with
  | mov f => exact h.mov f
  | gshape f => exact h.gshape f
  | halt f => exact h.halt f
  | rdspec _ => exact h.withGang fun _ _ => h.laneExec _ _
  | wspill _ | st _ | sts _ | stl _ => exact h.laneExecWith _ _ _
  | voteAll _ | voteAny _ | voteBallot _ | voteCount _ | matchOp _ | lshfl _ | gred _ | gscan _ | v2s _ =>
    exact h.groupExec _ _
  | tclaim _ | tfill _ | tdrain _ | tfree _ | mxldw _ | mxmult _ | mxprom _ | mxzero _ | cvset _ | kdrain _ | kcfg _
    | kflush _ | kmergeBlock _ | kmergeRing _ | kclear _ | itrsrcRange _ | itrsrcList _ | itrsrcBitmap _
    | itrmapAffine _ | itrmapGather _ | itrfilt _ | itrzip _ | itrchain _ | itrflat _ | itrenough _ | itrsave _
    | itrload _ | cpy _ | cpy2d _ | veer _ | tlbinvPage _ | tlbinvAs _ | tlbinvAll _ | ckpt _ =>
    exact h.onceExec _ _
  | nop _ | sel _ | iadd _ | isub _ | imul _ | imulhi _ | imad _ | imin _ | imax _ | iabs _ | iaddc _ | lea _
    | icmp _ | clamp _ | land _ | lor _ | lxor _ | ltab _ | shl _ | shr _ | sar _ | rot _ | bfe _ | bfi _ | popc _
    | clz _ | brev _ | permb _ | plop _ | pmovToPredicate _ | pmovFromPredicate _ | bra _ _ | brx _ | call _ _
    | callx _ | ret _ | join _ _ | exitOp _ | yield _ | doze _ | repOp _ | elect _ | wfill _ | fadd _ | fsub _
    | fmul _ | ffma _ | fmin _ | fmax _ | fabs _ | fneg _ | fcmp _ | fclass _ | fround _ | fscale _ | frcp _ | frsq _
    | fexp2 _ | flog2 _ | ftanh _ | cvtf _ | cvtfi _ | cvtif _ | pack8 _ | pack4 _ | unpk8 _ | unpk4 _ | dot4 _
    | dot8 _ | idot4 _ | idot8 _ | pfma _ | lperm _ | qswap _ | qbcast _ | ld _ | lds _ | ldu _ | ldl _ | pref _
    | atom _ | atomcas _ | red _ | atoms _ | fence _ | cmaintClean _ | cmaintInv _ | cmaintClinv _ | barinit _
    | barreg _ | bararr _ | barwait _ | barsync _ | bardrop _ | qbind _ | qpoll _ | tstat _ | rbres _ | rbpub _
    | rbtake _ | rbfree _ | rbmeta _ | mxmul _ | mxrd _ | mxstat _ | mxfence _ | cvqry _ | kacc _ | kprobe _
    | kstat _ | itrnext _ | veerq _ | fwait _ | ftest _ | fcancel _ | trapOp _ | tret _ | csrr _ | csrw _
    | csrwTpcTbase _ | csrwTstatus _ | csrwErrseed _ | csrwErrrate _ | tlbprobe _ | nopreBegin _ | nopreEnd _
    | bkpt _ | errinjReg _ | errinjOnce _ | errinjTwice _ | errinjSector _ =>
    exact h.laneExec _ _
  | _ => exact exec_goesOn_of_noCode _ rfl s

/-! ### Fetching keeps the workgroups -/

/-- What a walk of code keeps: a relation that translations, opened homes and fault reports keep, the fetch keeps. -/
structure FetchKept (R : State → State → Prop) : Prop where
  refl : ∀ s, R s s
  trans : ∀ {s t u}, R s t → R t u → R s u
  xlate : ∀ (s : State) core sp va, R s (s.xlateBy core sp va .fetch).2
  openHome : ∀ (s : State) loc, R s (s.openHome loc)
  faultNote : ∀ (s : State) asid va, R s (s.modMs (·.faultNote asid va))

/-- What holds of the state of a pair holds of the state it is matched as. -/
theorem of_snd_eq {α : Type} {P : State → Prop} {p : α × State} {a : α} {t : State} (heq : p = (a, t)) (h : P p.2) : P t := by
  subst heq
  exact h

section
variable {R : State → State → Prop} (hR : FetchKept R) (core : Nat) (sp : Space) (walked : List Nat)
include hR

theorem FetchKept.fetchWord (s : State) (va : W64) : R s (s.fetchWord core sp walked va).2 := by
  unfold State.fetchWord
  split
  · exact hR.trans (hR.xlate _ _ _ _) (hR.openHome _ _)
  · exact hR.faultNote _ _ _
  · exact hR.refl s
  · exact hR.refl s
  · exact hR.refl s

theorem FetchKept.fetchWords (n : Nat) (s : State) (va : W64) : R s (s.fetchWords core sp walked n va).2 := by
  induction n generalizing s va with
  | zero => exact hR.refl s
  | succ n ih =>
    have hword := hR.fetchWord core sp walked s va
    unfold State.fetchWords
    split
    · next w t heq =>
      have hrest := hR.trans (of_snd_eq heq hword) (ih t (va + 8))
      split
      · next heq' => exact of_snd_eq heq' hrest
      · next heq' => exact of_snd_eq heq' hrest
    · next heq => exact of_snd_eq heq hword

theorem FetchKept.fetchClause (s : State) (va : W64) : R s (s.fetchClause core sp walked va).2 := by
  have hword := hR.fetchWord core sp walked s va
  unfold State.fetchClause
  split
  · next h t heq =>
    have hrest := hR.trans (of_snd_eq heq hword) (hR.fetchWords core sp walked (hdrSlots h) t (va + 8))
    split
    · next heq' => exact of_snd_eq heq' hrest
    · next heq' => exact of_snd_eq heq' hrest
  · next heq => exact of_snd_eq heq hword

theorem FetchKept.clauseOf (s : State) (w : Wg) (l : Lane) : R s (s.clauseOf w l).2 := by
  unfold State.clauseOf
  split
  · exact hR.refl s
  · exact hR.fetchClause _ _ _ s _

end

theorem State.lanesKept_fetch : FetchKept State.LanesKept where
  refl := State.LanesKept.refl
  trans := State.LanesKept.trans
  xlate s _ _ _ := State.lanesKept_xlateWith State.recall_lanesKept s _ _ _ _
  openHome s _ := (State.recall_lanesKept s _ _).trans (State.lanesKept_modMs _ _)
  faultNote s _ _ := State.lanesKept_modMs s _

/-- A workgroup is there after a step that keeps every lane. -/
theorem State.LanesKept.wg_isSome {s t : State} (h : s.LanesKept t) {id : Nat} {w : Wg} (hw : s.wg? id = some w) :
    ∃ w', t.wg? id = some w' := by
  have hl := h.lanes id
  rw [hw] at hl
  exact (Option.map_eq_some_iff.mp hl).imp fun _ h => h.1

/-! ### What an action comes to -/

/-- An action goes on: what it runs is issued to a gang, or is no word of a program. -/
def Act.Sound : Act → Prop
  | .run i s => s.Ganged ∨ i.code = none
  | .done _ => True

theorem Act.Sound.goesOn {a : Act} (h : a.Sound) : GoesOn a.run! := by
  cases a with
  | done s => exact goesOn_next s
  | run i s => exact h.elim (fun hg => hg.exec i) fun hc => exec_goesOn_of_noCode i hc s

theorem Act.sound_ite {c : Prop} [Decidable c] {a b : Act} (ha : a.Sound) (hb : b.Sound) : (if c then a else b).Sound := by
  split
  · exact ha
  · exact hb

theorem Act.sound_ite' {c : Prop} [Decidable c] {a b : Act} (ha : c → a.Sound) (hb : ¬ c → b.Sound) :
    (if c then a else b).Sound := by
  split
  · exact ha ‹_›
  · exact hb ‹_›

/-- At a slot the gang is set, and its workgroup is there. -/
theorem State.atSlot_ganged {s : State} {w w0 : Wg} (hw : s.wg? w.id = some w0) (lanes : List Nat) (old : Nat) (clause h : W64)
    (ws : List W64) (n : Nat) : (s.atSlot w lanes old clause h ws n).Ganged := by
  have hid : (s.issuedWg w lanes old h ws (gangAt w lanes clause h ws n)).id = w.id := by
    unfold State.issuedWg
    simp only []
    split <;> rfl
  have hset := State.wg_setWg_self (s := s.freshId) (hid.symm ▸ hw)
  exact ⟨_, _, rfl, hid ▸ hset⟩

theorem State.issueSlot_sound {s : State} {w w0 : Wg} (hw : s.wg? w.id = some w0) (lanes : List Nat) (old : Nat) (clause h : W64)
    (ws : List W64) (n : Nat) : (s.issueSlot w lanes old clause h ws n).Sound := by
  unfold State.issueSlot
  dsimp only
  split
  · exact .inl (State.atSlot_ganged hw _ _ _ _ _ _)
  · trivial

theorem State.issue_sound (s : State) (wg : Nat) (pc : W64) (quads : List Nat) : (s.issue wg pc quads).Sound := by
  unfold State.issue
  split
  · trivial
  · next w hw =>
    split
    · trivial
    · next j hj =>
      have hkept := State.lanesKept_fetch.clauseOf s w (w.lane j)
      refine Act.sound_ite trivial ?_
      split
      · trivial
      · trivial
      · trivial
      · next h ws t heq =>
        obtain ⟨w', hw'⟩ := State.LanesKept.wg_isSome (of_snd_eq heq hkept) hw
        have hid : w'.id = wg := by simpa using List.find?_some hw'
        dsimp only
        simp only [hw', Option.getD_some]
        refine Act.sound_ite trivial ?_
        split
        · trivial
        · refine Act.sound_ite trivial (Act.sound_ite ?_ (Act.sound_ite trivial ?_))
          · exact State.issueSlot_sound (w0 := w') (hid.symm ▸ hw') _ _ _ _ _ _
          · exact State.issueSlot_sound (w0 := w') (hid.symm ▸ hw') _ _ _ _ _ _

/-- What the words of a packet decode to is no word of a program: packet type by packet type (R195 to R207). -/
theorem decodePacket_noCode {q : Nat} {h : W64} {ws : List W64} {p : Instr} (hp : decodePacket q h ws = some p) : p.code = none := by
  unfold decodePacket at hp
  rw [Option.ite_none_left_eq_some] at hp
  replace hp := hp.2
  generalize bits h 63 56 = k at hp
  match k, ws, hp with
  | 0, _, hp => cases hp; rfl
  | 1, _, hp => obtain ⟨_, _, rfl⟩ := Option.map_eq_some_iff.mp hp; rfl
  | 2, _, hp => obtain ⟨_, _, rfl⟩ := Option.map_eq_some_iff.mp hp; rfl
  | 3, ws, hp =>
    obtain ⟨_, hp⟩ := Option.ite_none_left_eq_some.mp hp
    obtain ⟨_, _, rfl⟩ := Option.map_eq_some_iff.mp hp; rfl
  | 4, [w], hp => obtain ⟨_, hp⟩ := Option.ite_none_left_eq_some.mp hp; cases hp; rfl
  | 5, [a, v], hp => obtain ⟨_, hp⟩ := Option.ite_none_left_eq_some.mp hp; cases hp; rfl
  | 6, [], hp => obtain ⟨_, hp⟩ := Option.ite_none_left_eq_some.mp hp; cases hp; rfl
  | 7, [], hp => obtain ⟨_, hp⟩ := Option.ite_none_left_eq_some.mp hp; cases hp; rfl
  | 8, [], hp => obtain ⟨_, hp⟩ := Option.ite_none_left_eq_some.mp hp; cases hp; rfl
  | 9, [a], hp => obtain ⟨_, hp⟩ := Option.ite_none_left_eq_some.mp hp; cases hp; rfl
  | 10, [a, v], hp =>
    obtain ⟨_, hp⟩ := Option.ite_none_left_eq_some.mp hp
    generalize bits h 38 37 = m at hp
    match m, hp with
    | 0, hp => obtain ⟨_, hp⟩ := Option.ite_none_right_eq_some.mp hp; cases hp; rfl
    | 1, hp => obtain ⟨_, hp⟩ := Option.ite_none_right_eq_some.mp hp; cases hp; rfl
    | 2, hp => obtain ⟨_, hp⟩ := Option.ite_none_right_eq_some.mp hp; cases hp; rfl

theorem State.parse_sound (s : State) (q : Nat) : (s.parse q).Sound := by
  unfold State.parse
  split
  · trivial
  · dsimp only
    refine Act.sound_ite trivial ?_
    split
    · trivial
    · trivial
    · refine Act.sound_ite trivial (Act.sound_ite trivial (Act.sound_ite trivial ?_))
      split
      · trivial
      · trivial
      · refine Act.sound_ite trivial (Act.sound_ite (.inr rfl) ?_)
        split
        · next hp => exact .inr (decodePacket_noCode hp)
        · trivial

theorem State.act_sound (s : State) (a : Action) : (s.act a).Sound := by
  cases a with
  | issue wg pc quads => exact s.issue_sound wg pc quads
  | parse q => exact Act.sound_ite (State.parse_sound _ q) trivial
  | event i =>
    refine Act.sound_ite' (fun hi => .inr ?_) fun _ => trivial
    simpa using (Bool.and_eq_true_iff.mp hi).1
  | _ => trivial

/-! ### The empty agenda -/

/-- An event that is waiting is the meaning of an instruction that is no word of a program, or what an engine missed arrives. -/
def Ev.OfModel (f : Ev) : Prop := (∃ i, i.code = none ∧ f = exec i) ∨ ∃ c u n, f = fun s => .next (s.engineArrives c u n)

theorem Ev.OfModel.goesOn {f : Ev} (h : f.OfModel) (s : State) : GoesOn (f s) := by
  obtain ⟨i, hi, rfl⟩ | ⟨c, u, n, rfl⟩ := h
  · exact exec_goesOn_of_noCode i hi s
  · exact goesOn_next _

def EvsOfModel (l : List Ev) : Prop := ∀ f ∈ l, Ev.OfModel f

theorem EvsOfModel.nil : EvsOfModel [] := fun _ h => nomatch h

theorem EvsOfModel.cons {f : Ev} {l : List Ev} (i : Instr) (hi : i.code = none) (hf : f = exec i) (hl : EvsOfModel l) :
    EvsOfModel (f :: l) := by
  intro g hg
  rcases List.mem_cons.mp hg with rfl | hg
  · exact .inl ⟨i, hi, hf⟩
  · exact hl g hg

theorem EvsOfModel.one {f : Ev} (i : Instr) (hi : i.code = none) (hf : f = exec i) : EvsOfModel [f] := .cons i hi hf .nil

theorem EvsOfModel.append {l m : List Ev} (hl : EvsOfModel l) (hm : EvsOfModel m) : EvsOfModel (l ++ m) :=
  fun f hf => (List.mem_append.mp hf).elim (hl f) (hm f)

theorem EvsOfModel.map {α : Type} (l : List α) {f : α → Ev} (i : α → Instr) (hi : ∀ a, (i a).code = none) (hf : ∀ a, f a = exec (i a)) :
    EvsOfModel (l.map f) := by
  intro g hg
  obtain ⟨a, -, rfl⟩ := List.mem_map.mp hg
  exact .inl ⟨i a, hi a, hf a⟩

theorem EvsOfModel.flatMap {α : Type} (l : List α) {f : α → List Ev} (hf : ∀ a, EvsOfModel (f a)) : EvsOfModel (l.flatMap f) := by
  intro g hg
  obtain ⟨a, -, hg⟩ := List.mem_flatMap.mp hg
  exact hf a g hg

theorem EvsOfModel.ite {c : Prop} [Decidable c] {l m : List Ev} (hl : EvsOfModel l) (hm : EvsOfModel m) :
    EvsOfModel (if c then l else m) := by
  split
  · exact hl
  · exact hm

theorem memEvents_ofModel (s : State) : EvsOfModel (memEvents s) := by
  refine .append (.append (.append (.append (.append ?_ ?_) ?_) ?_) ?_) ?_
  · exact .map _ .translationMissComplete (fun _ => rfl) fun _ => rfl
  · intro f hf
    obtain ⟨a, -, rfl⟩ := List.mem_map.mp hf
    unfold accEvent
    split
    · split
      · exact .inl ⟨.fabricLoadTimeout a.id, rfl, rfl⟩
      · exact .inl ⟨.loadDataReturn a.id, rfl, rfl⟩
    · split
      · exact .inl ⟨.ownershipGrant a.id, rfl, rfl⟩
      · exact .inl ⟨.writeAcknowledgement a.id, rfl, rfl⟩
  · exact .map _ (fun m => .cacheMaintenanceComplete m.id) (fun _ => rfl) fun _ => rfl
  · exact .map _ (fun x => .driftRingWrite x.asid.toNat x.ring.toNat) (fun _ => rfl) fun _ => rfl
  · refine .flatMap _ fun c f hf => ?_
    obtain ⟨u, -, hu⟩ := List.mem_filterMap.mp hf
    exact .inr ⟨c, u, _, (Option.some.inj (Option.ite_none_left_eq_some.mp hu).2).symm⟩
  · intro f hf
    obtain ⟨m, -, rfl⟩ := List.mem_map.mp hf
    split
    · exact .inl ⟨.migrationAbandon m.region, rfl, rfl⟩
    · exact .inl ⟨.migrationCopyComplete m.region, rfl, rfl⟩

theorem opEvents_ofModel (s : State) : EvsOfModel (opEvents s) := by
  refine .append (.flatMap _ fun o => ?_) (.map _ .ckptIncrement (fun _ => rfl) fun _ => rfl)
  split
  · exact .one (.engineOperationComplete o.id) rfl rfl
  · exact .one (.engineOperationComplete o.id) rfl rfl
  · exact .one (.kmergeBatch o.id) rfl rfl
  · exact .one (.veerRequestServe _) rfl rfl
  · exact .nil

theorem barEvents_ofModel (tree : Bool) (b : Barrier) (wg idx : Nat) : EvsOfModel (barEvents tree b wg idx) := by
  refine .append (.append ?_ (.ite ?_ .nil)) (.ite ?_ .nil)
  · exact .map _ (fun k => .barrierArrivalCount tree (k / 1024) idx (k % 1024)) (fun _ => rfl) fun _ => rfl
  · cases tree
    · exact .one (.localBarrierRelease wg idx) rfl rfl
    · exact .one (.treeBarrierRelease idx) rfl rfl
  · cases tree
    · exact .one (.localBarrierRearm wg idx) rfl rfl
    · exact .one (.treeBarrierRearm idx) rfl rfl

theorem tileEvents_ofModel (w : Wg) : EvsOfModel (tileEvents w) := by
  refine .flatMap _ fun t => .ite (.one (.tileRelease w.id t.idx) rfl rfl) ?_
  split
  · exact .one (.tileFillComplete w.id t.idx) rfl rfl
  · exact .one (.tileDrainComplete w.id t.idx) rfl rfl
  · exact .ite .nil (.one (.tileDrainComplete w.id t.idx) rfl rfl)

theorem mxEvents_ofModel (w : Wg) (c : Nat) : EvsOfModel (mxEvents w c) := by
  refine .flatMap _ fun q => .append (.append (.ite ?_ .nil) (.ite ?_ .nil)) ?_
  · exact .one (.arraySlotPreemption c q) rfl rfl
  · exact .one (.arrayStepComplete c q) rfl rfl
  · intro f hf
    obtain ⟨x, -, rfl⟩ := List.mem_map.mp hf
    split
    · split
      · exact .inl ⟨.mxmultChunk c q, rfl, rfl⟩
      · exact .inl ⟨.arrayStep c q, rfl, rfl⟩
    · exact .inl ⟨.engineOperationComplete x.step.op, rfl, rfl⟩

/-- The event of a lane's wait whose time is over. -/
theorem waitEvents_ofModel (w : Wg) (i : Nat) (x : Wait) : EvsOfModel (match x with
    | .join _ 0 => [execJoinTimeout w.id (i / 4)]
    | .doze 0 => [execDozeExpiry w.id i]
    | _ => []) := by
  cases x with
  | join t n =>
    cases n with
    | zero => exact .one (.joinTimeout w.id (i / 4)) rfl rfl
    | succ n => exact .nil
  | doze n =>
    cases n with
    | zero => exact .one (.dozeExpiry w.id i) rfl rfl
    | succ n => exact .nil
  | _ => exact .nil

theorem laneEvents_ofModel (w : Wg) : EvsOfModel (laneEvents w) := .flatMap _ fun i => waitEvents_ofModel w i _

theorem wgEvents_ofModel (s : State) (w : Wg) : EvsOfModel (wgEvents s w) := by
  refine .append (.append (.append ?_ (tileEvents_ofModel w)) ?_) (.flatMap _ fun i => barEvents_ofModel _ _ _ _)
  · split
    · exact .map _ (.workgroupRestore w.id) (fun _ => rfl) fun _ => rfl
    · refine .append (.append (.append (mxEvents_ofModel w _) (laneEvents_ofModel w)) (.ite ?_ .nil)) ?_
      · exact .map _ (.iteratorSlotMove w.id) (fun _ => rfl) fun _ => rfl
      · split
        · exact .cons (.workgroupSave w.id _) rfl rfl (.one (.nopreBoundExpiry w.id) rfl rfl)
        · exact .nil
    · exact mxEvents_ofModel w _
  · exact .map _ (.iteratorPullCommit w.id) (fun _ => rfl) fun _ => rfl

theorem linkEvents_ofModel (s : State) : EvsOfModel (linkEvents s) := by
  refine .flatMap _ fun k => .append (.append (.append (.append (.append ?_ ?_) (.ite ?_ .nil)) (.ite ?_ .nil)) (.ite ?_ .nil))
    (.ite .nil ?_)
  · exact .map _ (.laneGroupTurnStart k) (fun _ => rfl) fun _ => rfl
  · exact .map _ (.laneGroupTurnComplete k) (fun _ => rfl) fun _ => rfl
  · exact .one (.veerHoldExpiry k) rfl rfl
  · exact .one (.linkOutOfService k) rfl rfl
  · exact .one (.recalibrationEnd k) rfl rfl
  · exact .one (.veerRequestServe k) rfl rfl

theorem ringEvents_ofModel (s : State) : EvsOfModel (ringEvents s) := by
  refine .append ?_ (.flatMap _ fun d => .ite ?_ (.ite .nil ?_))
  · exact .map _ (fun k => .metadataDelivery (k / 64) (k % 64)) (fun _ => rfl) fun _ => rfl
  · exact .one (.coprocessorReserveRetry d) rfl rfl
  · exact .one (.gateLogitPop d) rfl rfl

theorem nodeEvents_ofModel (s : State) : EvsOfModel (nodeEvents s) := by
  refine .flatMap _ fun n => ?_
  split
  · exact .one (.nodeReady n.id) rfl rfl
  · refine .cons (.nodeDispatch n.id _) rfl rfl (.ite ?_ .nil)
    exact .map _ (.classPreemption n.id n.map.length) (fun _ => rfl) fun _ => rfl
  · exact .one (.nodeComplete n.id) rfl rfl
  · exact .nil

theorem queueEvents_ofModel (s : State) : EvsOfModel (queueEvents s) := by
  refine .flatMap _ fun x => .append (.cons (.widxPoll x.1) rfl rfl (.one (.segmentRetry x.1) rfl rfl)) ?_
  split
  · exact .cons (.fenceCounterPoll x.1) rfl rfl (.one (.fenceDeadline x.1) rfl rfl)
  · exact .nil

theorem netEvents_ofModel (s : State) : EvsOfModel (netEvents s) :=
  .append (.map _ .queueFlitDelivery (fun _ => rfl) fun _ => rfl) (.flatMap _ fun _ => barEvents_ofModel _ _ _ _)

theorem State.events_ofModel (s : State) : EvsOfModel s.events := by
  unfold State.events
  split
  · exact .one (.powerOn s.hub.rollback true 0) rfl rfl
  · exact .one (.overcastEnd [0, 1, 2, 3] []) rfl rfl
  · exact .append (.append (.append (.append (.append (.append (.append (memEvents_ofModel s) (opEvents_ofModel s))
      (.flatMap _ fun w => wgEvents_ofModel s w)) (linkEvents_ofModel s)) (ringEvents_ofModel s)) (nodeEvents_ofModel s))
      (queueEvents_ofModel s)) (netEvents_ofModel s)

theorem State.idle_goesOn (s : State) : GoesOn s.idle := by
  unfold State.idle
  split
  · next f hf => exact (s.events_ofModel f (List.mem_of_getElem? hf)).goesOn _
  · unfold State.idleAct
    split
    · exact (State.act_sound _ _).goesOn
    · exact goesOn_next _

theorem settled_goesOn (s : State) {o : Out} (h : GoesOn o) : GoesOn (settled s o) := by
  obtain ⟨t, rfl⟩ := h
  exact goesOn_next _

/-- Settles O7: an instruction runs only where its gang was issued, which is all that an instruction could fault for; packets
and events go on in every state. -/
theorem everyStepGoesOn : Obligations.EveryStepGoesOn := by
  intro s
  refine settled_goesOn s ?_
  split
  · exact s.idle_goesOn
  · exact (State.act_sound _ _).goesOn

end Sys2Proof.Machine
end

section
/-! The canonical form of memory over an issued gang: it is kept when the effects of every lane keep it. -/
namespace Sys2Proof.Machine

/-- What holds of the state of a pair holds of the state it is matched as. -/
theorem of_fst_eq {α : Type} {P : State → Prop} {p : State × α} {a : α} {t : State} (heq : p = (t, a)) (h : P p.1) : P t := by
  subst heq
  exact h

/-- A next state has its memory in the canonical form. -/
def MemKept (o : Out) : Prop := ∀ t, o = .next t → t.memOk

theorem memKept_next {t : State} (h : t.memOk) : MemKept (.next t) := fun _ ht => Host.Outcome.next.inj ht ▸ h

theorem memKept_ite {c : Prop} [Decidable c] {a b : Out} (ha : MemKept a) (hb : MemKept b) : MemKept (if c then a else b) := by
  split
  · exact ha
  · exact hb

/-- An effect keeps the form. -/
def Fx.KeepsMem : Fx → Prop
  | .act f => ∀ s : State, s.memOk → (f s).memOk
  | _ => True

/-- The effects of a lane's outcome keep the form. -/
abbrev LOut.KeepsMem (o : LOut) : Prop := o.fxAll Fx.KeepsMem

variable {s : State}

theorem State.memOk_sendFlit (h : s.memOk) (id lane idx rq : Nat) (v : W32) : (s.sendFlit id lane idx rq v).memOk := by
  unfold State.sendFlit
  split <;> exact h

theorem State.memOk_applyFx (h : s.memOk) (id core : Nat) {x : Nat × Fx} (hx : x.2.KeepsMem) : (s.applyFx id core x).memOk := by
  obtain ⟨i, x⟩ := x
  cases x with
  | scal n r => exact h
  | send q v =>
    unfold State.applyFx
    dsimp only
    split
    · exact h
    · split
      · exact h
      · exact State.memOk_sendFlit h _ _ _ _ _
  | acquire sc => exact State.memOk_ite h h
  | act f => exact hx s h
  | stored tile loc n p => exact h

theorem State.memOk_foldl_applyFx (id core : Nat) (xs : List (Nat × Fx)) (hxs : ∀ x ∈ xs, x.2.KeepsMem) (h : s.memOk) :
    (xs.foldl (fun s x => s.applyFx id core x) s).memOk := by
  induction xs generalizing s with
  | nil => exact h
  | cons x xs ih =>
    exact ih (fun y hy => hxs y (List.mem_cons_of_mem _ hy)) (State.memOk_applyFx h id core (hxs x List.mem_cons_self))

theorem State.memOk_laneEnd (h : s.memOk) (g : Gang) (w : Wg) (out : Nat → Lane → LOut) (i : Nat) : (laneEnd g w out s i).memOk := by
  unfold laneEnd
  split
  · exact h
  · split
    · exact State.memOk_ite (State.memOk_takeTrap h _ _ _ _ _ _) h
    · exact State.memOk_ite (State.memOk_takeTrap h _ _ _ _ _ _) h
    · exact State.memOk_exitLane h _ _
    · exact h

/-- An issued gang keeps the form when the effects of its lanes do. -/
theorem State.memOk_runLanes (h : s.memOk) (g : Gang) (w : Wg) {out : Nat → Lane → LOut}
    (hout : ∀ i ∈ g.lanes, (out i (w.lane i)).KeepsMem) : (s.runLanes g w out).memOk :=
  State.memOk_foldl _ _ (fun _ i h => State.memOk_laneEnd h g w out i)
    (State.memOk_foldl_applyFx _ _ _ (laneFx_all hout) (s := s.setWg _) h)

theorem State.memOk_trapAll (h : s.memOk) (g : Gang) (w : Wg) (cause : Nat) (tval : W64) (zero : Lane → Lane) :
    (s.trapAll g w cause tval zero).memOk :=
  State.memOk_runLanes h g w fun i _ => by
    split <;> exact LOut.fxAll_of_nil rfl

theorem State.memOk_drawn (h : s.memOk) (w : Wg) (n : Nat) : (s.drawn w n).memOk := State.memOk_ite h h

theorem State.memOk_spendFree (h : s.memOk) (g : Gang) (w : Wg) : (s.spendFree g w).memOk := State.memOk_ite h h

theorem State.memOk_handleRead (h : s.memOk) (op : Nat) : (s.handleRead op).memOk := State.memOk_ite h h

theorem memKept_withGang {k : Gang → Wg → Out} (hk : ∀ g w, s.wg? g.wg = some w → MemKept (k g w)) : MemKept (s.withGang k) := by
  unfold State.withGang
  split
  · intro t ht
    cases ht
  · split
    · intro t ht
      cases ht
    · next hw => exact hk _ _ hw

theorem memKept_residue (h : s.memOk) (g : Gang) (w : Wg) (unit : Nat) (execs : List Nat) {k : State → Wg → Out}
    (hk : ∀ (t : State) w, t.memOk → MemKept (k t w)) : MemKept (s.residue g w unit execs k) := by
  unfold State.residue
  dsimp only
  refine memKept_ite (hk _ _ h) (memKept_ite (hk _ _ (State.memOk_drawn h _ _)) (memKept_ite ?_ (hk _ _ ?_)))
  · exact memKept_next h
  · exact h

/-- The effects of what an instruction's lanes do keep the form. -/
def LaneSpec.KeepsMem (sp : LaneSpec) : Prop := ∀ cx i l f v, (sp.body cx i l f v).KeepsMem

theorem LaneSpec.KeepsMem.laneOut {sp : LaneSpec} (hsp : sp.KeepsMem) (cx : Cx) (f : Fields) (i : Nat) (l : Lane) :
    (laneOut cx sp f i l).KeepsMem :=
  laneOut_fxAll (fun _ => trivial) (fun op _ h => State.memOk_handleRead h op) hsp cx f i l

theorem LaneSpec.KeepsMem.laneExecWith {sp : LaneSpec} (hsp : sp.KeepsMem) (f : Fields) {post : Nat → List Fx → State → State}
    (hpost : ∀ core fx (s : State), s.memOk → (post core fx s).memOk) (h : s.memOk) : MemKept (laneExecWith sp f post s) := by
  refine memKept_withGang fun g w _ => ?_
  dsimp only
  split
  · exact memKept_next (State.memOk_trapAll h _ _ _ _ _)
  · refine memKept_residue h _ _ _ _ fun t w ht => memKept_next ?_
    exact State.memOk_spendFree (hpost _ _ _ (State.memOk_runLanes ht _ _ fun i _ => hsp.laneOut _ _ _ _)) _ _

theorem LaneSpec.KeepsMem.laneExec {sp : LaneSpec} (hsp : sp.KeepsMem) (f : Fields) (h : s.memOk) : MemKept (laneExec sp f s) :=
  hsp.laneExecWith f (fun _ _ _ h => h) h

/-! ### Outcomes without a memory effect -/

theorem keepsMem_done (l : Lane) : (LOut.done l []).KeepsMem := LOut.fxAll_of_nil rfl
theorem keepsMem_go (l : Lane) : (LOut.go l []).KeepsMem := LOut.fxAll_of_nil rfl
theorem keepsMem_stay (l : Lane) : (LOut.stay l).KeepsMem := LOut.fxAll_of_nil rfl
theorem keepsMem_exit (l : Lane) : (LOut.exit l).KeepsMem := LOut.fxAll_of_nil rfl
theorem keepsMem_trap (l : Lane) (c : Nat) (t : W64) (e : Bool) : (LOut.trap l c t e).KeepsMem := LOut.fxAll_of_nil rfl

theorem keepsMem_write (cx : Cx) (l : Lane) (o : Operand) (wide p : Bool) (v tag : W64) : (write cx l o wide v p tag).KeepsMem :=
  write_fxAll (fun _ _ => trivial) (fun _ _ => trivial) cx l o wide p v tag

/-- An outcome with one effect on the state. -/
theorem keepsMem_done_act (l : Lane) {f : State → State} (hf : ∀ s : State, s.memOk → (f s).memOk) : (LOut.done l [.act f]).KeepsMem :=
  fun _ hx => List.mem_singleton.mp hx ▸ hf

theorem keepsMem_wait_act (l : Lane) {f : State → State} (hf : ∀ s : State, s.memOk → (f s).memOk) : (LOut.wait l [.act f]).KeepsMem :=
  fun _ hx => List.mem_singleton.mp hx ▸ hf

/-! ### Instructions that act once for the gang, and group-wide ones -/

/-- Effects that keep the form. -/
abbrev FxsKeepMem (fx : List Fx) : Prop := ∀ x ∈ fx, x.KeepsMem

theorem fxsKeepMem_nil : FxsKeepMem [] := fun _ hx => absurd hx List.not_mem_nil

theorem fxsKeepMem_cons {x : Fx} {fx : List Fx} (hx : x.KeepsMem) (hfx : FxsKeepMem fx) : FxsKeepMem (x :: fx) :=
  fun y hy => (List.mem_cons.mp hy).elim (fun he => he ▸ hx) (hfx y)

theorem fxsKeepMem_act {f : State → State} (hf : ∀ s : State, s.memOk → (f s).memOk) : FxsKeepMem [.act f] :=
  fxsKeepMem_cons hf fxsKeepMem_nil

theorem fxsKeepMem_append {fx fy : List Fx} (hx : FxsKeepMem fx) (hy : FxsKeepMem fy) : FxsKeepMem (fx ++ fy) :=
  fun x h => (List.mem_append.mp h).elim (hx x) (hy x)

/-- What a lane waits for, and starts meanwhile, keeps the form. -/
def Dec.KeepsMem : Dec → Prop
  | .hold fx => FxsKeepMem fx
  | .wait fx => FxsKeepMem fx
  | _ => True

/-- What the acting lane starts, what a waiting lane starts, and what every lane receives keep the form. -/
structure Once.KeepsMem (o : Once) : Prop where
  act : ∀ cx i l f v (s : State), s.memOk → (o.act cx i l f v s).memOk
  dec : ∀ cx i l f v, (o.dec cx i l f v).KeepsMem
  out : ∀ cx l f v, (o.out cx l f v).KeepsMem

theorem Once.KeepsMem.lane {o : Once} (ho : o.KeepsMem) (cx : Cx) (i : Nat) (l : Lane) (f : Fields) (v : Vals) :
    (o.lane cx i l f v).KeepsMem := by
  unfold Once.lane
  split
  · exact keepsMem_done l
  · dsimp only
    have hdec := ho.dec cx i l f v
    split
    · exact keepsMem_trap _ _ _ _
    · split
      · exact ho.out _ _ _ _
      · next hd => exact (hd ▸ hdec : Dec.KeepsMem (.hold _))
      · next hd => exact (hd ▸ hdec : Dec.KeepsMem (.wait _))
      · exact keepsMem_trap _ _ _ _

theorem Once.KeepsMem.spec {o : Once} (ho : o.KeepsMem) : o.spec.KeepsMem := by
  intro cx i l f v
  have hlane := ho.lane cx i l f (o.used cx f i)
  show LOut.KeepsMem (match o.lane cx i l f (o.used cx f i) with
    | .done l' fx => if o.lead cx f == some i then .done l' (fx ++ [.act (o.act cx i l f (o.used cx f i))]) else .done l' fx
    | x => x)
  cases hl : o.lane cx i l f (o.used cx f i) with
  | done l' fx =>
    rw [hl] at hlane
    dsimp only
    split
    · exact fxsKeepMem_append hlane (fxsKeepMem_act (ho.act cx i l f _))
    · exact hlane
  | _ =>
    rw [hl] at hlane
    exact hlane

theorem Once.KeepsMem.onceExec {o : Once} (ho : o.KeepsMem) (f : Fields) (h : s.memOk) : MemKept (onceExec o f s) :=
  ho.spec.laneExec f h

theorem arrivalStop_fx {cx : Cx} {sp : LaneSpec} {f : Fields} {i : Nat} {l : Lane} {o : LOut}
    (h : arrivalStop cx sp f i l = some o) : o.fx = [] := by
  unfold arrivalStop at h
  split at h
  · cases h
  · split at h
    · next hg => exact Option.some.inj h ▸ guardStop_fx hg
    · split at h
      · cases h
      · split at h
        · next hl => exact Option.some.inj h ▸ congrArg LOut.fx (limitStop_trap hl)
        · split at h
          · cases h; rfl
          · cases h; rfl
          · split at h
            · cases h; rfl
            · cases h

theorem keepsMem_readAcq (xs : List Src) (i : Nat) : FxsKeepMem (readAcq xs i) :=
  readAcq_all (fun _ => trivial) (fun op _ h => State.memOk_handleRead h op) xs i

theorem keepsMem_groupDone (cx : Cx) (sg : Sig) (f : Fields) (i : Nat) (l : Lane) (r : Option (W64 × Bool × W64)) {fx : List Fx}
    (hfx : FxsKeepMem fx) : (groupDone cx sg f i l r fx).KeepsMem := by
  unfold groupDone
  split
  · exact hfx
  · refine LOut.fxAll_addFx ?_ hfx
    unfold groupGive
    split
    · exact LOut.fxAll_forHelper (keepsMem_write _ _ _ _ _ _ _) _ _ _ _
    · exact keepsMem_done _

theorem keepsMem_groupOut (cx : Cx) (sp : GroupSpec) (f : Fields) (i : Nat) (l : Lane) : (groupOut cx sp f i l).KeepsMem := by
  have htrap : ∀ cx f r l l' c t e, (LOut.forHelper cx f r l (.trap l' c t e)).KeepsMem :=
    fun _ _ _ _ l' c t e => LOut.fxAll_forHelper (keepsMem_trap l' c t e) _ _ _ _
  unfold groupOut
  split
  · exact htrap _ _ _ _ _ _ _ _
  · dsimp only
    split
    · exact keepsMem_groupDone _ _ _ _ _ _ fxsKeepMem_nil
    · split
      · exact htrap _ _ _ _ _ _ _ _
      · split
        · next hs => exact LOut.fxAll_forHelper (LOut.fxAll_of_nil (arrivalStop_fx hs)) _ _ _ _
        · split
          · exact htrap _ _ _ _ _ _ _ _
          · split
            · split
              · exact htrap _ _ _ _ _ _ _ _
              · exact keepsMem_done _
            · split
              · exact keepsMem_done _
              · split
                · exact keepsMem_groupDone _ _ _ _ _ _ (keepsMem_readAcq _ _)
                · exact keepsMem_readAcq _ _

theorem memKept_groupExec (sp : GroupSpec) (f : Fields) (h : s.memOk) : MemKept (groupExec sp f s) := by
  refine memKept_withGang fun g w _ => ?_
  dsimp only
  split
  · exact memKept_next (State.memOk_trapAll h _ _ _ _ _)
  · refine memKept_residue h _ _ _ _ fun t w ht => memKept_next ?_
    exact State.memOk_spendFree (State.memOk_runLanes ht _ _ fun i _ => keepsMem_groupOut _ _ _ _ _) _ _

end Sys2Proof.Machine
end

section
/-! Instructions that leave memory to others: moves, arithmetic, control, queries. -/
namespace Sys2Proof.Machine

theorem keepsMem_ite {c : Prop} [Decidable c] {a b : LOut} (ha : a.KeepsMem) (hb : b.KeepsMem) : (if c then a else b).KeepsMem := by
  split
  · exact ha
  · exact hb

theorem keepsMem_writePred (l : Lane) (o : Operand) (b : Bool) (v : Vals) : (writePred l o b v).KeepsMem := by
  unfold writePred
  split
  · exact keepsMem_ite (keepsMem_trap _ _ _ _) (keepsMem_done _)
  · exact keepsMem_done _

theorem keepsMem_registerTarget (l : Lane) (v : Vals) {k : LOut} (hk : k.KeepsMem) : (registerTarget l v k).KeepsMem :=
  keepsMem_ite (keepsMem_trap _ _ _ _) (keepsMem_ite (keepsMem_trap _ _ _ _) hk)

theorem keepsMem_callTo (cx : Cx) (l : Lane) (t : W64) : (callTo cx l t).KeepsMem :=
  keepsMem_ite (keepsMem_trap _ _ _ _) (keepsMem_ite (keepsMem_stay _) (keepsMem_go _))

/-- The same effects, whatever the lane that is left. -/
theorem LOut.KeepsMem.relane {o : LOut} (h : o.KeepsMem) (f : Lane → Lane) :
    (match o with
     | .done l fx => LOut.done (f l) fx
     | o => o).KeepsMem := by
  cases o <;> exact h

theorem keepsMem_writeCarry (cx : Cx) (l : Lane) (f : Fields) (wide : Bool) (r : W64 × Bool) (v : Vals) :
    (writeCarry cx l f wide r v).KeepsMem := by
  unfold writeCarry
  refine keepsMem_ite (keepsMem_trap _ _ _ _) ?_
  split
  · exact (keepsMem_write cx l f.dst wide false r.1 0).relane _
  · exact keepsMem_done _

theorem keepsMem_handleScalar (cx : Cx) (f : Fields) (i : Nat) (a : W64) : FxsKeepMem (handleScalar cx f i a).2 := by
  unfold handleScalar
  split
  · split
    · exact fxsKeepMem_nil
    · exact fxsKeepMem_act fun s h => State.memOk_tickFree h
  · exact fxsKeepMem_nil

theorem aluSpec_keepsMem (sg : Sig) (fn : Vals → W64) : (aluSpec sg fn).KeepsMem := fun _ _ _ _ _ => keepsMem_write _ _ _ _ _ _ _

theorem predSpec_keepsMem (sg : Sig) (fn : Vals → Bool) : (predSpec sg fn).KeepsMem := fun _ _ _ _ _ => keepsMem_writePred _ _ _ _

theorem packSpec_keepsMem (n w : Nat) (ds : List Nat) (f : Fields) (oc : Bool) : (packSpec n w ds f oc).KeepsMem :=
  fun _ _ _ _ _ => keepsMem_write _ _ _ _ _ _ _

theorem unpackSpec_keepsMem (n w : Nat) (ss : List Nat) (f : Fields) (oc : Bool) : (unpackSpec n w ss f oc).KeepsMem := by
  intro cx i l f v
  show LOut.KeepsMem (unpackBody n w cx i l f v)
  unfold unpackBody
  dsimp only
  split <;> exact keepsMem_done _

theorem nopSpec_keepsMem (f : Fields) : (nopSpec f).KeepsMem := fun _ _ _ _ _ => keepsMem_done _
theorem selSpec_keepsMem (f : Fields) : (selSpec f).KeepsMem := fun _ _ _ _ _ => keepsMem_write _ _ _ _ _ _ _
theorem iaddcSpec_keepsMem (f : Fields) : (iaddcSpec f).KeepsMem := fun _ _ _ _ _ => keepsMem_writeCarry _ _ _ _ _ _
theorem rdspecSpec_keepsMem (f : Fields) (c d : W64) : (rdspecSpec f c d).KeepsMem := fun _ _ _ _ _ => keepsMem_write _ _ _ _ _ _ _
theorem qswapSpec_keepsMem (f : Fields) : (qswapSpec f).KeepsMem := fun _ _ _ _ _ => keepsMem_write _ _ _ _ _ _ _
theorem qbcastSpec_keepsMem (f : Fields) : (qbcastSpec f).KeepsMem := fun _ _ _ _ _ => keepsMem_write _ _ _ _ _ _ _
theorem lpermSpec_keepsMem (f : Fields) : (lpermSpec f).KeepsMem := fun _ _ _ _ _ => keepsMem_write _ _ _ _ _ _ _
theorem electSpec_keepsMem (f : Fields) : (electSpec f).KeepsMem := fun _ _ _ _ _ => keepsMem_writePred _ _ _ _

theorem movHandleSpec_keepsMem (f : Fields) : (movHandleSpec f).KeepsMem := by
  intro cx i l f v
  show LOut.KeepsMem (match f.dst, f.a with
    | .h d, .h a => .done (l.setHandle d.val (l.handle a.val)) []
    | _, _ => .done l [])
  split <;> exact keepsMem_done _

theorem movSpec_keepsMem (f : Fields) : (movSpec f).KeepsMem := fun cx i l f v =>
  keepsMem_ite (keepsMem_done _) (LOut.fxAll_addFx (keepsMem_write _ _ _ _ _ _ _) (keepsMem_handleScalar cx f i v.a))

theorem memKept_execMov (f : Fields) {s : State} (h : s.memOk) : MemKept (execMov f s) :=
  memKept_ite ((movHandleSpec_keepsMem f).laneExec f h) ((movSpec_keepsMem f).laneExec f h)

/-! ### Control -/

theorem braSpec_keepsMem (f : Fields) (off : BitVec 24) : (braSpec f off).KeepsMem := fun _ _ _ _ _ => keepsMem_go _
theorem brxSpec_keepsMem (f : Fields) : (brxSpec f).KeepsMem := fun _ _ _ _ _ => keepsMem_registerTarget _ _ (keepsMem_go _)
theorem callSpec_keepsMem (f : Fields) (off : BitVec 24) : (callSpec f off).KeepsMem := fun _ _ _ _ _ => keepsMem_callTo _ _ _
theorem callxSpec_keepsMem (f : Fields) : (callxSpec f).KeepsMem := fun _ _ _ _ _ =>
  keepsMem_ite (keepsMem_trap _ _ _ _) (keepsMem_registerTarget _ _ (keepsMem_callTo _ _ _))
theorem retSpec_keepsMem (f : Fields) : (retSpec f).KeepsMem := fun _ _ _ _ _ =>
  keepsMem_ite (keepsMem_trap _ _ _ _) (keepsMem_ite (keepsMem_trap _ _ _ _) (keepsMem_ite (keepsMem_trap _ _ _ _) (keepsMem_go _)))
theorem joinSpec_keepsMem (f : Fields) (off : BitVec 24) : (joinSpec f off).KeepsMem := fun _ _ _ _ _ => keepsMem_go _
theorem exitSpec_keepsMem (f : Fields) : (exitSpec f).KeepsMem := fun _ _ _ _ _ => keepsMem_ite (keepsMem_done _) (keepsMem_exit _)
theorem yieldSpec_keepsMem (f : Fields) : (yieldSpec f).KeepsMem := fun _ _ _ _ _ => keepsMem_done _
theorem dozeSpec_keepsMem (f : Fields) : (dozeSpec f).KeepsMem := fun _ _ _ _ _ => keepsMem_ite (keepsMem_trap _ _ _ _) (keepsMem_done _)
theorem repSpec_keepsMem (f : Fields) : (repSpec f).KeepsMem := fun _ _ _ _ _ => keepsMem_done _

/-! ### Queries -/

theorem qpollSpec_keepsMem (f : Fields) : (qpollSpec f).KeepsMem := by
  intro cx i l f v
  show LOut.KeepsMem (match f.a with
    | .qrx n => write cx l f.dst false (BitVec.ofNat 64 (cx.w.qrx.getD n.val []).length) false 0
    | _ => .done l [])
  split
  · exact keepsMem_write _ _ _ _ _ _ _
  · exact keepsMem_done _

theorem mxstatSpec_keepsMem (f : Fields) : (mxstatSpec f).KeepsMem := fun _ _ _ _ _ =>
  keepsMem_ite (keepsMem_trap _ _ _ _) (keepsMem_ite (keepsMem_stay _) (keepsMem_write _ _ _ _ _ _ _))
theorem mxfenceSpec_keepsMem (f : Fields) : (mxfenceSpec f).KeepsMem := fun _ _ _ _ _ => keepsMem_ite (keepsMem_done _) (keepsMem_stay _)
theorem cvqrySpec_keepsMem (f : Fields) : (cvqrySpec f).KeepsMem := fun _ _ _ _ _ =>
  keepsMem_ite (keepsMem_trap _ _ _ _) (keepsMem_write _ _ _ _ _ _ _)
theorem kstatSpec_keepsMem (f : Fields) : (kstatSpec f).KeepsMem := fun _ _ _ _ _ =>
  keepsMem_ite (keepsMem_trap _ _ _ _) (keepsMem_write _ _ _ _ _ _ _)
theorem veerqSpec_keepsMem (s : State) (f : Fields) : (veerqSpec s f).KeepsMem := fun _ _ _ _ _ => keepsMem_write _ _ _ _ _ _ _
theorem tstatSpec_keepsMem (s : State) (f : Fields) : (tstatSpec s f).KeepsMem := fun _ _ _ _ _ =>
  keepsMem_ite (keepsMem_trap _ _ _ _) (keepsMem_write _ _ _ _ _ _ _)
theorem csrrSpec_keepsMem (s : State) (f : Fields) : (csrrSpec s f).KeepsMem := fun _ _ _ _ _ => keepsMem_write _ _ _ _ _ _ _

theorem kprobeSpec_keepsMem (t : Option DTable) (f : Fields) : (kprobeSpec t f).KeepsMem := by
  intro cx i l f v
  unfold kprobeSpec
  dsimp only
  split
  · exact keepsMem_ite (keepsMem_done _) (keepsMem_ite (keepsMem_trap _ _ _ _) (keepsMem_ite (keepsMem_stay _) (keepsMem_done _)))
  · exact keepsMem_done _

/-! ### System -/

theorem trapSpec_keepsMem (f : Fields) : (trapSpec f).KeepsMem := fun _ _ _ _ _ => keepsMem_ite (keepsMem_done _) (keepsMem_trap _ _ _ _)
theorem bkptSpec_keepsMem (f : Fields) : (bkptSpec f).KeepsMem := fun _ _ _ _ _ => keepsMem_ite (keepsMem_done _) (keepsMem_trap _ _ _ _)
theorem tretSpec_keepsMem (s : State) (f : Fields) : (tretSpec s f).KeepsMem := fun _ _ _ _ _ =>
  keepsMem_ite (keepsMem_done _) (keepsMem_ite (keepsMem_trap _ _ _ _) (keepsMem_go _))
theorem csrwSpec_keepsMem (f : Fields) : (csrwSpec f).KeepsMem := fun _ _ _ _ _ =>
  keepsMem_ite (keepsMem_done _) (keepsMem_ite (keepsMem_done _) (keepsMem_done_act _ fun _ h => h))
theorem csrwTpcTbaseSpec_keepsMem (f : Fields) : (csrwTpcTbaseSpec f).KeepsMem := fun _ _ _ _ _ =>
  keepsMem_ite (keepsMem_done _) (keepsMem_ite (keepsMem_trap _ _ _ _) (keepsMem_done _))
theorem csrwTstatusSpec_keepsMem (f : Fields) : (csrwTstatusSpec f).KeepsMem := fun _ _ _ _ _ =>
  keepsMem_ite (keepsMem_done _) (keepsMem_done _)
theorem csrwErrseedSpec_keepsMem (f : Fields) : (csrwErrseedSpec f).KeepsMem := fun _ _ _ _ _ =>
  keepsMem_ite (keepsMem_done _) (keepsMem_done_act _ fun _ h => h)
theorem csrwErrrateSpec_keepsMem (f : Fields) : (csrwErrrateSpec f).KeepsMem := fun _ _ _ _ _ =>
  keepsMem_ite (keepsMem_done _) (keepsMem_done_act _ fun _ h => h)
theorem nopreEndSpec_keepsMem (f : Fields) : (nopreEndSpec f).KeepsMem := fun _ _ _ _ _ =>
  keepsMem_ite (keepsMem_done _) (keepsMem_done _)
theorem errinjOnceSpec_keepsMem (f : Fields) : (errinjOnceSpec f).KeepsMem := fun _ _ _ _ _ =>
  keepsMem_ite (keepsMem_done _) (keepsMem_done _)
theorem errinjTwiceSpec_keepsMem (f : Fields) : (errinjTwiceSpec f).KeepsMem := fun _ _ _ _ _ =>
  keepsMem_ite (keepsMem_done _) (keepsMem_done _)

theorem errinjRegSpec_keepsMem (f : Fields) : (errinjRegSpec f).KeepsMem := by
  intro cx i l f v
  unfold errinjRegSpec
  refine keepsMem_ite (keepsMem_done _) ?_
  split
  · exact keepsMem_done _
  · exact fxsKeepMem_cons trivial fxsKeepMem_nil
  · exact keepsMem_done _

end Sys2Proof.Machine
end

section
/-! Memory instructions: what they start, complete and mark keeps the form. -/
namespace Sys2Proof.Machine

variable {s : State}

theorem State.memOk_fillDest (h : s.memOk) (wg lane : Nat) (d : Dest) (v : W64) (p : Bool) : (s.fillDest wg lane d v p).memOk := by
  cases d with
  | p n =>
    unfold State.fillDest
    dsimp only
    split
    · refine State.memOk_takeTrap ?_ _ _ _ _ _ _
      exact h
    · exact h
  | q idx rq => exact State.memOk_sendFlit h _ _ _ _ _
  | _ => exact h

theorem State.memOk_completeOp (h : s.memOk) (wg op : Nat) (v : W32) (err : Option ErrMark) (scope : Nat) :
    (s.completeOp wg op v err scope).memOk := h

theorem State.memOk_tileLost (h : s.memOk) (wg : Nat) (cs : List TileCmd) : (s.tileLost wg cs).memOk :=
  State.memOk_foldl _ _ (fun _ _ h => State.memOk_ite h (State.memOk_completeOp h _ _ _ _ _)) h

theorem State.memOk_tileAct (h : s.memOk) (wg idx : Nat) (t : Tile) (c : TileCmd) (rest : List TileCmd) :
    (s.tileAct wg idx t c rest).memOk := by
  unfold State.tileAct
  split
  · exact h
  · exact State.memOk_ite h h
  · refine State.memOk_tileLost ?_ _ _
    exact h

theorem State.memOk_tileTurn (wg idx n : Nat) : ∀ {s : State}, s.memOk → (s.tileTurn wg idx n).memOk := by
  induction n with
  | zero => exact fun h => h
  | succ n ih =>
    intro s h
    unfold State.tileTurn
    split
    · exact h
    · split
      · exact h
      · exact State.memOk_ite (ih (State.memOk_tileAct h _ _ _ _ _)) h

theorem State.memOk_tileNamed (h : s.memOk) (wg idx key : Nat) : (s.tileNamed wg idx key).memOk := State.memOk_tileTurn _ _ _ h

theorem State.memOk_addDrained (h : s.memOk) (op : Nat) (sp : Space) (addr : W64) (new : List Byte) :
    (s.addDrained op sp addr new).memOk := State.memOk_ite h h

theorem State.memOk_closeMeeting (h : s.memOk) (id : Nat) : (s.closeMeeting id).memOk := by
  unfold State.closeMeeting
  split
  · exact h
  · dsimp only
    refine State.memOk_ite h ?_
    split
    · exact h
    · refine State.memOk_ite h (State.memOk_foldl _ _ (fun _ _ h => State.memOk_takeTrap h _ _ _ _ _ _) ?_)
      exact h

theorem memKept_execGshape (f : Fields) (h : s.memOk) : MemKept (execGshape f s) := by
  refine memKept_withGang fun g w _ => ?_
  split
  · exact memKept_next (State.memOk_trapAll h _ _ _ _ _)
  · refine memKept_ite (memKept_next (State.memOk_runLanes h _ _ fun _ _ => keepsMem_done _)) (memKept_next (State.memOk_closeMeeting ?_ _))
    exact h

/-! ### The place of an access -/

/-- What a lane starts while it waits for its place keeps the form. -/
def Target.KeepsMem : Target → Prop
  | .wait fx => FxsKeepMem fx
  | _ => True

theorem Target.keepsMem_ite {c : Prop} [Decidable c] {a b : Target} (ha : a.KeepsMem) (hb : b.KeepsMem) :
    (if c then a else b).KeepsMem := by
  split
  · exact ha
  · exact hb

theorem fxKeepsMem_tileWaiter (wg idx id lane : Nat) : (Fx.act fun s => s.tileWaiter wg idx id lane).KeepsMem := fun _ h => h

theorem MemSys.mem_addMiss (ms : MemSys) (core : Nat) (asid : BitVec 16) (va : W64) (wg lane : Nat) :
    (ms.addMiss core asid va wg lane).mem = ms.mem := by
  unfold MemSys.addMiss
  dsimp only
  split
  · rfl
  · split <;> rfl

theorem State.memOk_addMiss (h : s.memOk) (core : Nat) (asid : BitVec 16) (va : W64) (wg lane : Nat) :
    (s.modMs (·.addMiss core asid va wg lane)).memOk :=
  State.memOk_modMs h _ fun ms hm => MemSys.mem_addMiss ms core asid va wg lane ▸ hm

theorem fxKeepsMem_addMiss (core : Nat) (asid : BitVec 16) (va : W64) (wg lane : Nat) :
    (Fx.act fun s => s.modMs (·.addMiss core asid va wg lane)).KeepsMem := fun _ h => State.memOk_addMiss h _ _ _ _ _

theorem fxKeepsMem_faultNote (asid : BitVec 16) (va : W64) : (Fx.act fun s => s.modMs (·.faultNote asid va)).KeepsMem :=
  fun _ h => State.memOk_faultNote h _ _

theorem tileWrites_keepsMem (s : State) (w : Wg) (i : Nat) (l : Lane) (u : Wg) (t : Tile) (off : Nat) {mark : Fx} (hm : mark.KeepsMem)
    {x : Target} (hx : s.tileWrites w i l u t off mark = some x) : x.KeepsMem := by
  unfold State.tileWrites at hx
  dsimp only at hx
  split at hx
  · obtain ⟨-, hx⟩ := Option.ite_none_right_eq_some.mp hx
    exact Option.some.inj hx ▸ fxsKeepMem_cons hm fxsKeepMem_nil
  · split at hx
    · obtain ⟨-, hx⟩ := Option.ite_none_right_eq_some.mp hx
      exact Option.some.inj hx ▸ fxsKeepMem_cons hm fxsKeepMem_nil
    · exact Option.some.inj hx ▸ fxsKeepMem_cons (fxKeepsMem_faultNote _ _) (fxsKeepMem_cons hm fxsKeepMem_nil)
    · exact Option.some.inj hx ▸ fxsKeepMem_cons (fxKeepsMem_addMiss _ _ _ _ _) (fxsKeepMem_cons hm fxsKeepMem_nil)
    · exact Option.some.inj hx ▸ trivial
    · exact Option.some.inj hx ▸ trivial

theorem tileTarget_keepsMem (s : State) (w : Wg) (i : Nat) (l : Lane) (u : Wg) (t : Tile) (va : W64) (k : Access) :
    (s.tileTarget w i l u t va k).KeepsMem := by
  have hmark := fxKeepsMem_tileWaiter u.id t.idx w.id i
  unfold State.tileTarget
  dsimp only
  split
  · exact fxsKeepMem_nil
  · split
    · exact fxsKeepMem_cons (fun _ h => h) (fxsKeepMem_cons hmark fxsKeepMem_nil)
    · refine Target.keepsMem_ite (fxsKeepMem_cons hmark fxsKeepMem_nil) (Target.keepsMem_ite ?_ trivial)
      cases hw : s.tileWrites w i l u t (va.toNat % 4096) (.act fun s => s.tileWaiter u.id t.idx w.id i) with
      | none => trivial
      | some x => exact tileWrites_keepsMem s w i l u t _ hmark hw
    · exact fxsKeepMem_cons hmark fxsKeepMem_nil

theorem target_keepsMem (s : State) (w : Wg) (i : Nat) (l : Lane) (va tval : W64) (k : Access) : (s.target w i l va tval k).KeepsMem := by
  unfold State.target
  split
  · exact tileTarget_keepsMem _ _ _ _ _ _ _ _
  · dsimp only
    split
    · split
      · exact tileTarget_keepsMem _ _ _ _ _ _ _ _
      · split <;> trivial
    · trivial
    · trivial
    · trivial
    · exact fxsKeepMem_cons (fxKeepsMem_addMiss _ _ _ _ _) fxsKeepMem_nil

theorem stashTarget_keepsMem (s : State) (w : Wg) (i : Nat) (l : Lane) (va : W64) (k : Access) : (s.stashTarget w i l va k).KeepsMem := by
  unfold State.stashTarget
  split
  · trivial
  · split
    · trivial
    · exact tileTarget_keepsMem _ _ _ _ _ _ _ _

/-! ### Loads, stores and updates at their place -/

theorem keepsMem_markDest (l : Lane) (d : Dest) : FxsKeepMem (markDest l d).2 := by
  cases d with
  | s k n wide =>
    refine fxsKeepMem_cons trivial ?_
    cases wide
    · exact fxsKeepMem_nil
    · exact fxsKeepMem_cons trivial fxsKeepMem_nil
  | _ => exact fxsKeepMem_nil

theorem State.memOk_lookAt (h : s.memOk) (w : Wg) (va : W64) (asid : BitVec 16) (loc n i : Nat) (d : Dest) (signed : Bool) :
    State.memOk (((s.used w va .read).lookMem asid va w.core loc n).1.fillDest w.id i d
      (loadVal signed ((s.used w va .read).lookMem asid va w.core loc n).2.1) ((s.used w va .read).lookMem asid va w.core loc n).2.2) :=
  State.memOk_fillDest (State.memOk_lookMem (State.memOk_used h _ _ _) _ _ _ _ _) _ _ _ _ _

/-- A release where the access asks for it. -/
theorem State.memOk_releaseIf (h : s.memOk) (rel : Bool) (core scope : Nat) : (if rel then s.release core scope else s).memOk :=
  State.memOk_ite (State.memOk_release h _ _) h

/-- An access that a fault holds, or a migration. -/
theorem State.memOk_heldAcc (h : s.memOk) (fault : Bool) (asid : BitVec 16) (va : W64) (a : Acc) :
    State.memOk ((if fault then s.modMs (·.faultNote asid va) else s).addAcc a) :=
  State.memOk_addAcc (State.memOk_ite (State.memOk_faultNote h _ _) h) _

theorem loadOut_keepsMem (s : State) (cx : Cx) (i : Nat) (l : Lane) (d : Dest) (va : W64) (n : Nat) (signed acq : Bool) (scope : Nat)
    {t : Target} (ht : t.KeepsMem) (readers : List Nat) : (loadOut s cx i l d va n signed acq scope t readers).KeepsMem := by
  cases t with
  | wait fx => exact ht
  | trap c tv => exact keepsMem_trap _ _ _ _
  | tile u idx off =>
    exact fxsKeepMem_cons
      (fun s h => State.memOk_tileNamed (State.memOk_fillDest (State.memOk_tileUpdate h _ _ _ _ _ _ _ _) _ _ _ _ _) _ _ _)
      (fxsKeepMem_cons trivial fxsKeepMem_nil)
  | mem loc =>
    refine keepsMem_ite ?_ ?_
    · exact fxsKeepMem_append (keepsMem_markDest l d) (fxsKeepMem_act fun s h => State.memOk_addAcc (State.memOk_used h _ _ _) _)
    · exact keepsMem_done_act _ fun s h => State.memOk_lookAt h _ _ _ _ _ _ _ _
  | held fault =>
    exact fxsKeepMem_append (keepsMem_markDest l d) (fxsKeepMem_act fun s h => State.memOk_heldAcc h _ _ _ _)

theorem loadLane_keepsMem (s : State) (cx : Cx) (i : Nat) (l : Lane) (d : Dest) (va : W64) (n : Nat) (signed acq : Bool) (scope : Nat) :
    (loadLane s cx i l d va n signed acq scope).KeepsMem := by
  unfold loadLane
  split
  · exact keepsMem_ite (keepsMem_stay _) (keepsMem_done_act _ fun s h => State.memOk_fillDest h _ _ _ _ _)
  · exact keepsMem_ite (keepsMem_stay _) (loadOut_keepsMem _ _ _ _ _ _ _ _ _ _ (target_keepsMem _ _ _ _ _ _ _) _)

theorem queued_keepsMem (s : State) (cx : Cx) (l : Lane) {o : LOut} (ho : o.KeepsMem) : (queued s cx l o).KeepsMem := by
  cases o with
  | done l' fx => exact keepsMem_ite (keepsMem_stay _) ho
  | _ => exact ho

theorem storeOut_keepsMem (s : State) (cx : Cx) (i : Nat) (l : Lane) (va : W64) (n : Nat) (data : W64) (p : Bool) (tag : W64)
    (rel : Bool) (scope : Nat) {t : Target} (ht : t.KeepsMem) : (storeOut s cx i l va n data p tag rel scope t).KeepsMem := by
  cases t with
  | wait fx => exact ht
  | trap c tv => exact keepsMem_trap _ _ _ _
  | tile u idx off =>
    exact fxsKeepMem_cons (fun s h => State.memOk_tileNamed (State.memOk_tileStore (State.memOk_releaseIf h _ _ _) _ _ _ _ _) _ _ _)
      (fxsKeepMem_cons trivial fxsKeepMem_nil)
  | mem loc =>
    refine keepsMem_ite (keepsMem_trap _ _ _ _) (keepsMem_ite ?_ ?_)
    · exact keepsMem_done_act _ fun s h => State.memOk_addAcc (State.memOk_used (State.memOk_releaseIf h _ _ _) _ _ _) _
    · exact fxsKeepMem_cons (fun s h => State.memOk_storeMem (State.memOk_used (State.memOk_releaseIf h _ _ _) _ _ _) _ _ _ _ _ _ _)
        (fxsKeepMem_cons trivial fxsKeepMem_nil)
  | held fault => exact keepsMem_done_act _ fun s h => State.memOk_heldAcc (State.memOk_releaseIf h _ _ _) _ _ _ _

theorem storeLane_keepsMem (s : State) (cx : Cx) (i : Nat) (l : Lane) (va : W64) (n : Nat) (data : W64) (p : Bool) (tag : W64)
    (rel : Bool) (scope : Nat) : (storeLane s cx i l va n data p tag rel scope).KeepsMem :=
  keepsMem_ite (keepsMem_stay _) (queued_keepsMem _ _ _ (storeOut_keepsMem _ _ _ _ _ _ _ _ _ _ _ (target_keepsMem _ _ _ _ _ _ _)))

theorem updateOut_keepsMem (s : State) (cx : Cx) (i : Nat) (l : Lane) (f : Fields) (d : Dest) (k : AccKind) (va : W64) (n : Nat)
    (data cmp : W64) (p : Bool) (tag : W64) {t : Target} (ht : t.KeepsMem) :
    (updateOut s cx i l f d k va n data cmp p tag t).KeepsMem := by
  cases t with
  | wait fx => exact ht
  | trap c tv => exact keepsMem_trap _ _ _ _
  | tile u idx off =>
    exact fxsKeepMem_cons (fun s h => State.memOk_tileNamed
        (State.memOk_fillDest (State.memOk_tileUpdate (State.memOk_releaseIf h _ _ _) _ _ _ _ _ _ _ _) _ _ _ _ _) _ _ _)
      (fxsKeepMem_cons trivial fxsKeepMem_nil)
  | mem loc =>
    refine keepsMem_ite (keepsMem_trap _ _ _ _) ?_
    exact fxsKeepMem_append (keepsMem_markDest l d)
      (fxsKeepMem_act fun s h => State.memOk_addAcc (State.memOk_used (State.memOk_releaseIf h _ _ _) _ _ _) _)
  | held fault =>
    refine fxsKeepMem_append (keepsMem_markDest l d) (fxsKeepMem_act fun s h => ?_)
    exact State.memOk_heldAcc (State.memOk_releaseIf h (qmRel f.q) cx.w.core (qmScope f.q)) _ _ _ _

theorem updateLane_keepsMem (s : State) (cx : Cx) (i : Nat) (l : Lane) (f : Fields) (d : Dest) (k : AccKind) (va : W64) (n : Nat)
    (data cmp : W64) (p : Bool) (tag : W64) {t : Target} (ht : t.KeepsMem) :
    (updateLane s cx i l f d k va n data cmp p tag t).KeepsMem :=
  keepsMem_ite (keepsMem_stay _) (updateOut_keepsMem _ _ _ _ _ _ _ _ _ _ _ _ _ ht)

theorem stashLane_keepsMem (s : State) (cx : Cx) (i : Nat) (l : Lane) (va : W64) (k : Access) (waits : Bool) {out : Target → LOut}
    (hout : ∀ t : Target, t.KeepsMem → (out t).KeepsMem) : (stashLane s cx i l va k waits out).KeepsMem := by
  unfold stashLane
  refine keepsMem_ite (keepsMem_stay _) ?_
  have ht := stashTarget_keepsMem s cx.w i l va k
  split
  · refine keepsMem_ite (keepsMem_wait_act _ fun _ h => h) (hout _ trivial)
  · exact hout _ ht

theorem addressed_keepsMem (l : Lane) (v : Vals) (va : W64) (n : Nat) {k : LOut} (hk : k.KeepsMem) : (addressed l v va n k).KeepsMem :=
  keepsMem_ite (keepsMem_trap _ _ _ _) (keepsMem_ite (keepsMem_trap _ _ _ _) hk)

theorem privately_keepsMem (s : State) (cx : Cx) (l : Lane) (v : Vals) (o : W64) (n : Nat) {k : LOut} (hk : k.KeepsMem) :
    (privately s cx l v o n k).KeepsMem := addressed_keepsMem _ _ _ _ (keepsMem_ite (keepsMem_trap _ _ _ _) hk)

theorem andThen_keepsMem (l0 : Lane) {o : LOut} (ho : o.KeepsMem) {k : Lane → LOut} (hk : ∀ l, (k l).KeepsMem) :
    (LOut.andThen l0 o k).KeepsMem := by
  cases o with
  | done l fx =>
    have hkl := hk l
    unfold LOut.andThen
    dsimp only
    split
    · exact keepsMem_stay _
    · next he => exact (he ▸ hkl : LOut.KeepsMem (.wait _ _))
    · exact keepsMem_trap _ _ _ _
    · next he => exact (he ▸ hkl : LOut.KeepsMem (.trapFx _ _ _ _))
    · exact LOut.fxAll_addFx hkl ho
  | _ => exact ho

theorem chain_keepsMem (l0 : Lane) (ks : List (Lane → LOut)) (hks : ∀ k ∈ ks, ∀ l, (k l).KeepsMem) : (chain l0 ks).KeepsMem := by
  have hfold : ∀ (ks : List (Lane → LOut)), (∀ k ∈ ks, ∀ l, (k l).KeepsMem) → ∀ o : LOut, o.KeepsMem →
      (ks.foldl (fun o k => LOut.andThen l0 o k) o).KeepsMem := by
    intro ks
    induction ks with
    | nil => exact fun _ o ho => ho
    | cons k ks ih =>
      exact fun hks o ho => ih (fun k' hk' => hks k' (List.mem_cons_of_mem _ hk')) _ (andThen_keepsMem l0 ho (hks k List.mem_cons_self))
  exact hfold ks hks _ (keepsMem_done _)

end Sys2Proof.Machine
end

section
/-! The instructions of memory (R299, R323 to R337), each with the effects of its lanes. -/
namespace Sys2Proof.Machine

variable {s : State}

theorem helperZero_keepsMem (cx : Cx) (l : Lane) (f : Fields) (wide : Bool) : (helperZero cx l f wide).KeepsMem :=
  keepsMem_write _ _ _ _ _ _ _

theorem MemSys.mem_l1Clear (ms : MemSys) (core sec : Nat) : (ms.l1Clear core sec).mem = ms.mem := by
  unfold MemSys.l1Clear
  split <;> rfl

/-- Clearing the poison of a sector that an instruction has covered leaves memory. -/
theorem State.memOk_clearCovered (h : s.memOk) (core : Nat) (fxs : List Fx) : (clearCovered core fxs s).memOk := by
  refine State.memOk_foldl _ _ (fun s x h => ?_) h
  cases x with
  | stored t loc n p =>
    refine State.memOk_ite ?_ h
    cases t with
    | some u => exact h
    | none =>
      refine State.memOk_modMs h _ fun ms hm => ?_
      have hclear := (MemSys.mem_l1Clear ms core (sectorOf loc)).symm ▸ hm
      exact MemSys.wf_ite hclear ((MemSys.mem_setPoison _ (sectorOf loc) false).symm ▸ hclear)
  | _ => exact h

theorem ldSpec_keepsMem (s : State) (f : Fields) : (ldSpec s f).KeepsMem := fun _ _ _ _ _ =>
  keepsMem_ite (helperZero_keepsMem _ _ _ _) (addressed_keepsMem _ _ _ _ (loadLane_keepsMem _ _ _ _ _ _ _ _ _ _))

theorem stSpec_keepsMem (s : State) (f : Fields) : (stSpec s f).KeepsMem := fun _ _ _ _ _ =>
  keepsMem_ite (keepsMem_done _) (addressed_keepsMem _ _ _ _ (storeLane_keepsMem _ _ _ _ _ _ _ _ _ _ _))

theorem ldsSpec_keepsMem (s : State) (f : Fields) : (ldsSpec s f).KeepsMem := fun _ _ _ _ _ =>
  keepsMem_ite (helperZero_keepsMem _ _ _ _)
    (addressed_keepsMem _ _ _ _ (stashLane_keepsMem _ _ _ _ _ _ _ fun _ ht => loadOut_keepsMem _ _ _ _ _ _ _ _ _ _ ht _))

theorem stsSpec_keepsMem (s : State) (f : Fields) : (stsSpec s f).KeepsMem := fun _ _ _ _ _ =>
  keepsMem_ite (keepsMem_done _) (addressed_keepsMem _ _ _ _
    (stashLane_keepsMem _ _ _ _ _ _ _ fun _ ht => queued_keepsMem _ _ _ (storeOut_keepsMem _ _ _ _ _ _ _ _ _ _ _ ht)))

theorem lduLane_keepsMem (s : State) (cx : Cx) (i : Nat) (l : Lane) (f : Fields) (v : Vals) (readers : List Nat) :
    (lduLane s cx i l f v readers).KeepsMem :=
  addressed_keepsMem _ _ _ _ (keepsMem_ite (keepsMem_stay _) (loadOut_keepsMem _ _ _ _ _ _ _ _ _ _ (target_keepsMem _ _ _ _ _ _ _) _))

theorem lduSpec_keepsMem (s : State) (f : Fields) : (lduSpec s f).KeepsMem := by
  intro cx i l f v
  unfold lduSpec
  refine keepsMem_ite (keepsMem_done _) ?_
  have hlane := lduLane_keepsMem s cx i l f v (lduReaders s cx f v)
  split
  · next he =>
    rw [he] at hlane
    exact keepsMem_ite hlane (keepsMem_done _)
  · exact hlane

theorem ldlSpec_keepsMem (s : State) (f : Fields) : (ldlSpec s f).KeepsMem := by
  intro cx i l f v
  have hload := loadLane_keepsMem s cx i
  unfold ldlSpec
  refine keepsMem_ite (helperZero_keepsMem _ _ _ _) (privately_keepsMem _ _ _ _ _ _ (keepsMem_ite ?_ (hload _ _ _ _ _ _ _)))
  split
  · exact andThen_keepsMem _ (hload _ _ _ _ _ _ _) fun _ => hload _ _ _ _ _ _ _
  · exact andThen_keepsMem _ (hload _ _ _ _ _ _ _) fun _ => hload _ _ _ _ _ _ _

theorem stlSpec_keepsMem (s : State) (f : Fields) : (stlSpec s f).KeepsMem := fun cx i _ _ _ =>
  have hstore := storeLane_keepsMem s cx i
  keepsMem_ite (keepsMem_done _) (privately_keepsMem _ _ _ _ _ _ (keepsMem_ite
    (andThen_keepsMem _ (hstore _ _ _ _ _ _ _ _) fun _ => hstore _ _ _ _ _ _ _ _) (hstore _ _ _ _ _ _ _ _)))

theorem wspillSpec_keepsMem (s : State) (f : Fields) : (wspillSpec s f).KeepsMem := by
  intro cx i l f v
  unfold wspillSpec
  refine keepsMem_ite (keepsMem_done _) (keepsMem_ite (keepsMem_trap _ _ _ _) (keepsMem_ite (keepsMem_trap _ _ _ _)
    (keepsMem_ite (keepsMem_stay _) ?_)))
  split
  · exact keepsMem_trap _ _ _ _
  · have hchain := chain_keepsMem l ((List.range 16).map fun j => fun l' =>
        let r := l'.at ((frameEntries l.lo).getD j 0)
        storeLane s cx i l' (privateAddr (s.nodeOf cx.w) cx.w i (frameOffset (s.nodeOf cx.w) l.lo + BitVec.ofNat 64 (4 * j))) 4
          (zx r.val) r.poison 0 false 0) (fun k hk l' => by
      obtain ⟨j, -, rfl⟩ := List.mem_map.mp hk
      exact storeLane_keepsMem _ _ _ _ _ _ _ _ _ _ _)
    dsimp only at hchain ⊢
    split
    · next he =>
      rw [he] at hchain
      exact fxsKeepMem_cons trivial hchain
    · exact hchain

theorem wfillSpec_keepsMem (s : State) (f : Fields) : (wfillSpec s f).KeepsMem := by
  intro cx i l f v
  unfold wfillSpec
  refine keepsMem_ite (keepsMem_ite (keepsMem_done _) (keepsMem_trap _ _ _ _)) (keepsMem_ite (keepsMem_done _)
    (keepsMem_ite (keepsMem_trap _ _ _ _) (keepsMem_ite (keepsMem_stay _) ?_)))
  refine LOut.KeepsMem.relane (chain_keepsMem l _ fun k hk l' => ?_) _
  obtain ⟨j, -, rfl⟩ := List.mem_map.mp hk
  exact loadLane_keepsMem _ _ _ _ _ _ _ _ _ _

theorem State.memOk_prefetch (h : s.memOk) (w : Wg) (i : Nat) (va : W64) (l2 : Bool) : (s.prefetch w i va l2).memOk := by
  unfold State.prefetch
  refine State.memOk_ite h ?_
  split
  · refine State.memOk_ite h (State.memOk_foldl _ _ (fun s k h => State.memOk_ite (State.memOk_openHome h _) (State.memOk_fillSector h _ _ _)) ?_)
    exact h
  · exact h

theorem prefSpec_keepsMem (f : Fields) : (prefSpec f).KeepsMem := fun _ _ _ _ _ =>
  keepsMem_ite (keepsMem_done _) (keepsMem_done_act _ fun _ h => State.memOk_prefetch h _ _ _ _)

theorem atomSpec_keepsMem (s : State) (f : Fields) : (atomSpec s f).KeepsMem := fun _ _ _ _ _ =>
  keepsMem_ite (helperZero_keepsMem _ _ _ _)
    (addressed_keepsMem _ _ _ _ (updateLane_keepsMem _ _ _ _ _ _ _ _ _ _ _ _ _ (target_keepsMem _ _ _ _ _ _ _)))

theorem atomcasSpec_keepsMem (s : State) (f : Fields) : (atomcasSpec s f).KeepsMem := fun _ _ _ _ _ =>
  keepsMem_ite (helperZero_keepsMem _ _ _ _)
    (addressed_keepsMem _ _ _ _ (updateLane_keepsMem _ _ _ _ _ _ _ _ _ _ _ _ _ (target_keepsMem _ _ _ _ _ _ _)))

theorem redSpec_keepsMem (s : State) (f : Fields) : (redSpec s f).KeepsMem := fun _ _ _ _ _ =>
  keepsMem_ite (keepsMem_done _) (addressed_keepsMem _ _ _ _
    (queued_keepsMem _ _ _ (updateLane_keepsMem _ _ _ _ _ _ _ _ _ _ _ _ _ (target_keepsMem _ _ _ _ _ _ _))))

theorem atomsSpec_keepsMem (s : State) (f : Fields) : (atomsSpec s f).KeepsMem := fun _ _ _ _ _ =>
  keepsMem_ite (helperZero_keepsMem _ _ _ _) (addressed_keepsMem _ _ _ _ (keepsMem_ite (keepsMem_stay _)
    (stashLane_keepsMem _ _ _ _ _ _ _ fun _ ht => updateOut_keepsMem _ _ _ _ _ _ _ _ _ _ _ _ _ ht)))

theorem fenceSpec_keepsMem (s : State) (f : Fields) : (fenceSpec s f).KeepsMem := fun _ _ _ _ _ =>
  keepsMem_ite (keepsMem_done _) (keepsMem_ite (keepsMem_stay _) (keepsMem_done_act _ fun _ h =>
    State.memOk_ite (State.memOk_acquire (State.memOk_releaseIf h _ _ _) _ _) (State.memOk_releaseIf h _ _ _)))

/-! ### CMAINT -/

theorem maintPages_keepsMem (s : State) (w : Wg) (i : Nat) (l : Lane) (lo : W64) (n : Nat) : (s.maintPages w i l lo n).KeepsMem := by
  induction n with
  | zero => trivial
  | succ n ih =>
    unfold State.maintPages
    split
    · dsimp only
      split
      · trivial
      · trivial
      · exact fxsKeepMem_act fun s h => State.memOk_addMiss h _ _ _ _ _
      · trivial
    · exact ih

theorem maintPages_wait {s : State} {w : Wg} {i : Nat} {l : Lane} {lo : W64} {n : Nat} {fx : List Fx}
    (h : s.maintPages w i l lo n = .wait fx) : FxsKeepMem fx := by
  have hpages := maintPages_keepsMem s w i l lo n
  rw [h] at hpages
  exact hpages

theorem State.memOk_maintRead (h : s.memOk) (w : Wg) (lo : W64) (n : Nat) : (s.maintRead w lo n).memOk :=
  State.memOk_foldl _ _ (fun _ _ h => State.memOk_ite (State.memOk_faultNote (State.memOk_xlateBy h _ _ _ _) _ _)
    (State.memOk_xlateBy h _ _ _ _)) h

/-- A maintenance that is begun stands in the list of those in progress. -/
theorem State.memOk_addMaint (h : s.memOk) (ck : Clock) (m : Maint) :
    State.memOk { s with ck := ck, ms := { s.ms with maint := s.ms.maint ++ [m] } } := h

theorem cmaintSpec_keepsMem (s : State) (op : Nat) (f : Fields) : (cmaintSpec s op f).KeepsMem := by
  intro cx i l f v
  unfold cmaintSpec
  refine keepsMem_ite (keepsMem_done _) (keepsMem_ite (keepsMem_trap _ _ _ _) (keepsMem_ite (keepsMem_done _)
    (keepsMem_ite (keepsMem_stay _) ?_)))
  split
  · next he => exact maintPages_wait he
  · exact keepsMem_trap _ _ _ _
  · exact keepsMem_done_act _ fun s h => State.memOk_addMaint (State.memOk_maintRead h _ _ _) _ _

end Sys2Proof.Machine
end

section
/-! Rings and the routing co-processor (R352 to R355, R424 to R430), barriers and core queues (R338 to R345). -/
namespace Sys2Proof.Machine

variable {s : State}

theorem State.memOk_modRing (h : s.memOk) (k : Nat) (f : Ring → Ring) : (s.modRing k f).memOk := h

theorem State.memOk_reserve (h : s.memOk) (k : Nat) : (s.reserve k).1.memOk := by
  unfold State.reserve
  split
  · split
    · exact h
    · exact h
  · exact h

theorem State.memOk_trapAt (h : s.memOk) (wg i : Nat) (l : Lane) (cause : Nat) (tval : W64) : (s.trapAt wg i l cause tval).memOk :=
  State.memOk_takeTrap (State.memOk_modWg h _ _) _ _ _ _ _ _

theorem atRing_keepsMem (s : State) (cx : Cx) (i : Nat) (l : Lane) (f : Fields) (v : Vals) (wide : Nat) (rel : Bool)
    {serve : Nat → Nat → State → State} (hs : ∀ ring n (s : State), s.memOk → (serve ring n s).memOk) :
    (atRing s cx i l f v wide rel serve).KeepsMem :=
  keepsMem_ite (keepsMem_done _) (keepsMem_ite (keepsMem_trap _ _ _ _) (keepsMem_ite (keepsMem_trap _ _ _ _)
    (keepsMem_ite (keepsMem_stay _) (keepsMem_done_act _ fun s h => hs _ _ s h))))

theorem rbresSpec_keepsMem (s : State) (f : Fields) : (rbresSpec s f).KeepsMem := by
  intro cx i l f v
  unfold rbresSpec
  dsimp only
  refine atRing_keepsMem s cx i l f v _ _ fun ring n s h => ?_
  have hres := State.memOk_reserve h ring
  split
  · next he => exact State.memOk_acquire (State.memOk_fillDest (of_fst_eq he hres) _ _ _ _ _) _ _
  · next he => exact State.memOk_fillDest (of_fst_eq he hres) _ _ _ _ _

theorem rbpubSpec_keepsMem (s : State) (f : Fields) : (rbpubSpec s f).KeepsMem := by
  intro cx i l f v
  unfold rbpubSpec
  dsimp only
  exact atRing_keepsMem s cx i l f v _ _ fun _ _ _ h =>
    State.memOk_ite (State.memOk_trapAt h _ _ _ _ _) (State.memOk_modRing (State.memOk_release h _ _) _ _)

theorem rbfreeSpec_keepsMem (s : State) (f : Fields) : (rbfreeSpec s f).KeepsMem := by
  intro cx i l f v
  unfold rbfreeSpec
  dsimp only
  exact atRing_keepsMem s cx i l f v _ _ fun _ _ _ h =>
    State.memOk_ite (State.memOk_trapAt h _ _ _ _ _) (State.memOk_modRing (State.memOk_release h _ _) _ _)

theorem rbtakeSpec_keepsMem (s : State) (f : Fields) : (rbtakeSpec s f).KeepsMem := by
  intro cx i l f v
  unfold rbtakeSpec
  dsimp only
  refine atRing_keepsMem s cx i l f v _ _ fun ring n s h => ?_
  split
  · exact State.memOk_acquire (State.memOk_fillDest (State.memOk_modRing h _ _) _ _ _ _ _) _ _
  · exact State.memOk_fillDest h _ _ _ _ _

theorem rbmetaSpec_keepsMem (s : State) (f : Fields) : (rbmetaSpec s f).KeepsMem := by
  intro cx i l f v
  have hring : (atRing s cx i l f v 3 false fun _ _ s => s.acquire cx.w.core 4).KeepsMem :=
    atRing_keepsMem _ _ _ _ _ _ _ _ fun _ _ _ h => State.memOk_acquire h _ _
  unfold rbmetaSpec
  dsimp only
  split
  · next he =>
    rw [he] at hring
    refine keepsMem_ite hring ?_
    split
    · exact keepsMem_stay _
    · exact hring
  · exact hring

/-! ### Control blocks -/

theorem State.memOk_glqPush (h : s.memOk) (k : Nat) (v : W64) {t : State} (ht : s.glqPush k v = some t) : t.memOk := by
  unfold State.glqPush at ht
  split at ht
  · exact Option.some.inj ht ▸ h
  · split at ht
    · cases ht
    · exact Option.some.inj ht ▸ h

theorem State.memOk_glqPushOr (h : s.memOk) (k : Nat) (v : W64) : ((s.glqPush k v).getD s).memOk := by
  cases hp : s.glqPush k v with
  | none => exact h
  | some t => exact State.memOk_glqPush h k v hp

/-- An access to a control block that is made keeps the form. -/
theorem State.memOk_blockAccess (h : s.memOk) (die off : Nat) (a : Acc) {r : State × Nat} (hr : s.blockAccess die off a = some r) :
    r.1.memOk := by
  unfold State.blockAccess at hr
  dsimp only at hr
  split at hr
  · exact Option.some.inj hr ▸ h
  · split at hr
    · exact Option.some.inj hr ▸ h
    · split at hr
      · split at hr
        · cases hr
        · obtain ⟨t, ht, rfl⟩ := Option.map_eq_some_iff.mp hr
          exact State.memOk_glqPush (State.memOk_release h _ _) _ _ ht
      · split at hr
        · exact Option.some.inj hr ▸ State.memOk_modRing (State.memOk_release h _ _) _ _
        · exact Option.some.inj hr ▸ h
    · split at hr
      · exact Option.some.inj hr ▸ h
      · split at hr
        · exact Option.some.inj hr ▸ h
        · split at hr
          · exact Option.some.inj hr ▸ h
          · exact Option.some.inj hr ▸ h
    · exact Option.some.inj hr ▸ h

theorem State.memOk_regAccess (h : s.memOk) (g : RegPage) (off : Nat) (a : Acc) {r : State × Nat} (hr : s.regAccess g off a = some r) :
    r.1.memOk := by
  unfold State.regAccess at hr
  split at hr
  · split at hr
    · exact Option.some.inj hr ▸ h
    · exact Option.some.inj hr ▸ h
  · exact State.memOk_blockAccess h _ _ _ hr

theorem memKept_execGlq (h : s.memOk) (die ring : Nat) (v : W64) : MemKept (execGlq die ring v s) :=
  memKept_next (State.memOk_glqPushOr h _ _)

theorem State.memOk_latch (h : s.memOk) (k : Nat) (w0 w1 : W64) : (s.latch k w0 w1).memOk := by
  refine State.memOk_modRing ?_ k _
  exact State.memOk_ite h h

theorem memKept_execMetadataDelivery (h : s.memOk) (die ring : Nat) : MemKept (execMetadataDelivery die ring s) := by
  unfold execMetadataDelivery
  refine memKept_ite (memKept_next h) ?_
  have hread := fun (s : State) (h : s.memOk) sp va => State.memOk_agentRead h hubUnit sp va 8
  dsimp only
  split
  · next t w1 _ he =>
    have ht := of_fst_eq he (hread _ h _ _)
    refine memKept_ite (memKept_next ht) ?_
    split
    · next he' => exact memKept_next (State.memOk_latch (of_fst_eq he' (hread _ ht _ _)) _ _ _)
    · next he' => exact memKept_next (of_fst_eq he' (hread _ ht _ _))
  · next he => exact memKept_next (of_fst_eq he (hread _ h _ _))

/-! ### The co-processor -/

theorem State.memOk_agentHalves (unit : Nat) (sp : Space) (n : Nat) :
    ∀ {s : State} (va : W64), s.memOk → (s.agentHalves unit sp va n).1.memOk := by
  induction n with
  | zero => exact fun _ h => h
  | succ n ih =>
    intro s va h
    have hread := State.memOk_agentRead h unit sp va 4
    unfold State.agentHalves
    split
    · next he =>
      have hrest := ih (va + 4) (of_fst_eq he hread)
      split
      · next he' => exact of_fst_eq he' hrest
      · exact hrest
    · next he => exact of_fst_eq he hread

theorem State.memOk_copStep (h : s.memOk) (die : Nat) (j : CopJob) : (s.copStep die j).memOk := by
  unfold State.copStep
  split
  · exact h
  · have hres := State.memOk_reserve h j.ring
    split
    · next he =>
      have ht := of_fst_eq (P := State.memOk) he hres
      exact ht
    · next he => exact of_fst_eq he hres
  · refine State.memOk_ite h ?_
    dsimp only
    split
    · next he =>
      have ht := of_fst_eq (P := State.memOk) he (State.memOk_agentPuts h _ _ _ _)
      exact ht
    · next he => exact of_fst_eq he (State.memOk_agentPuts h _ _ _ _)

theorem State.memOk_copRun (die n : Nat) : ∀ {s : State}, s.memOk → (s.copRun die n).memOk := by
  induction n with
  | zero => exact fun h => h
  | succ n ih =>
    intro s h
    unfold State.copRun
    split
    · exact h
    · exact ih (State.memOk_copStep h _ _)

theorem memKept_execGateLogitPop (h : s.memOk) (die : Nat) : MemKept (execGateLogitPop die s) := by
  unfold execGateLogitPop
  split
  · dsimp only
    split
    · next he =>
      have ht := of_fst_eq he (State.memOk_agentHalves _ _ _ _ (by exact h))
      exact memKept_ite (memKept_next ht) (memKept_next (State.memOk_copRun _ _ (by exact ht)))
    · next he =>
      have ht := of_fst_eq he (State.memOk_agentHalves _ _ _ _ (by exact h))
      exact memKept_next ht
  · exact memKept_next h

theorem memKept_execRingConfiguration (h : s.memOk) (die ring : Nat) (c : RingCfg) : MemKept (execRingConfiguration die ring c s) :=
  memKept_ite (memKept_next h) (memKept_next h)

/-! ### Barriers and queues -/

theorem State.memOk_modBar (h : s.memOk) (tree : Bool) (wg idx : Nat) (f : Barrier → Barrier) : (s.modBar tree wg idx f).memOk :=
  State.memOk_ite h h

theorem atBar_keepsMem (s : State) (cx : Cx) (l : Lane) (f : Fields) (v : Vals) {k : Bool → Nat → LOut}
    (hk : ∀ tree idx, (k tree idx).KeepsMem) : (atBar s cx l f v k).KeepsMem :=
  keepsMem_ite (keepsMem_done _) (keepsMem_ite (keepsMem_trap _ _ _ _) (keepsMem_ite (keepsMem_trap _ _ _ _) (hk _ _)))

theorem barinitSpec_keepsMem (s : State) (f : Fields) : (barinitSpec s f).KeepsMem := fun _ _ _ _ _ =>
  atBar_keepsMem _ _ _ _ _ fun _ _ => keepsMem_ite (keepsMem_done_act _ fun _ h => State.memOk_modBar h _ _ _ _) (keepsMem_stay _)

theorem barregSpec_keepsMem (s : State) (f : Fields) : (barregSpec s f).KeepsMem := fun _ _ _ _ _ =>
  atBar_keepsMem _ _ _ _ _ fun _ _ => keepsMem_ite (keepsMem_trap _ _ _ _) (keepsMem_ite (keepsMem_stay _)
    (keepsMem_done_act _ fun _ h => State.memOk_modBar h _ _ _ _))

theorem arriveOut_keepsMem (s : State) (cx : Cx) (i : Nat) (l : Lane) (f : Fields) (tree : Bool) (idx : Nat) :
    (arriveOut s cx i l f tree idx).KeepsMem :=
  keepsMem_ite (keepsMem_trap _ _ _ _) (keepsMem_ite (keepsMem_wait_act _ fun _ h => State.memOk_modBar h _ _ _ _)
    (keepsMem_done_act _ fun _ h => State.memOk_modBar h _ _ _ _))

theorem bararrSpec_keepsMem (s : State) (f : Fields) : (bararrSpec s f).KeepsMem := fun _ _ _ _ _ =>
  atBar_keepsMem _ _ _ _ _ fun _ _ => arriveOut_keepsMem _ _ _ _ _ _ _

theorem waitOut_keepsMem (cx : Cx) (i : Nat) (l : Lane) (tree : Bool) (idx : Nat) {fx : List Fx} (hfx : FxsKeepMem fx) :
    (waitOut cx i l tree idx fx).KeepsMem :=
  fxsKeepMem_append hfx (fxsKeepMem_act fun _ h => State.memOk_modBar h _ _ _ _)

theorem barwaitSpec_keepsMem (s : State) (f : Fields) : (barwaitSpec s f).KeepsMem := fun _ _ _ _ _ =>
  atBar_keepsMem _ _ _ _ _ fun _ _ => waitOut_keepsMem _ _ _ _ _ fxsKeepMem_nil

theorem barsyncSpec_keepsMem (s : State) (f : Fields) : (barsyncSpec s f).KeepsMem := by
  intro cx i l f v
  unfold barsyncSpec
  dsimp only
  refine atBar_keepsMem _ _ _ _ _ fun tree idx => ?_
  have harr := arriveOut_keepsMem s cx i l f tree idx
  split
  · next he =>
    rw [he] at harr
    exact waitOut_keepsMem _ _ _ _ _ harr
  · exact harr

theorem bardropSpec_keepsMem (s : State) (f : Fields) : (bardropSpec s f).KeepsMem := fun _ _ _ _ _ =>
  atBar_keepsMem _ _ _ _ _ fun _ _ => keepsMem_ite (keepsMem_trap _ _ _ _) (keepsMem_done_act _ fun _ h => State.memOk_modBar h _ _ _ _)

theorem qbindSpec_keepsMem (s : State) (f : Fields) : (qbindSpec s f).KeepsMem := by
  intro cx i l f v
  unfold qbindSpec
  refine keepsMem_ite (keepsMem_trap _ _ _ _) ?_
  split
  · exact keepsMem_ite (keepsMem_done _) (keepsMem_done_act _ fun _ h => h)
  · exact keepsMem_done _

theorem State.memOk_releaseBar (h : s.memOk) (tree : Bool) (wg idx : Nat) : (s.releaseBar tree wg idx).memOk := by
  refine State.memOk_modBar (State.memOk_foldl _ _ (fun s k h => ?_) h) _ _ _ _
  dsimp only
  split
  · exact State.memOk_modWg (State.memOk_acquire (State.memOk_modWg h _ _) _ _) _ _
  · exact h

theorem memKept_execBarrierArrivalCount (h : s.memOk) (tree : Bool) (wg idx lane : Nat) :
    MemKept (execBarrierArrivalCount tree wg idx lane s) := by
  unfold execBarrierArrivalCount
  refine memKept_ite (memKept_next h) (memKept_next (State.memOk_modBar ?_ _ _ _ _))
  split
  · exact State.memOk_release h _ _
  · exact h

theorem memKept_execLocalBarrierRelease (h : s.memOk) (wg idx : Nat) : MemKept (execLocalBarrierRelease wg idx s) :=
  memKept_next (State.memOk_ite (State.memOk_releaseBar h _ _ _) h)

theorem memKept_execLocalBarrierRearm (h : s.memOk) (wg idx : Nat) : MemKept (execLocalBarrierRearm wg idx s) :=
  memKept_next (State.memOk_ite (State.memOk_modBar h _ _ _ _) h)

theorem memKept_execTreeBarrierRelease (h : s.memOk) (idx : Nat) : MemKept (execTreeBarrierRelease idx s) :=
  memKept_next (State.memOk_ite (State.memOk_releaseBar h _ _ _) h)

theorem memKept_execTreeBarrierRearm (h : s.memOk) (idx : Nat) : MemKept (execTreeBarrierRearm idx s) :=
  memKept_next (State.memOk_ite (State.memOk_modBar h _ _ _ _) h)

theorem memKept_execQueueFlitDelivery (h : s.memOk) (k : Nat) : MemKept (execQueueFlitDelivery k s) := by
  unfold execQueueFlitDelivery
  split
  · exact memKept_next h
  · refine memKept_ite (memKept_next h) ?_
    dsimp only
    split
    · exact memKept_next h
    · split
      · exact memKept_next h
      · exact memKept_next h
      · exact memKept_next h

end Sys2Proof.Machine
end

section
/-! Save areas, and the system instructions and checkpoint increments (R401 to R406, R418, R464). -/
namespace Sys2Proof.Machine

variable {s : State}

theorem State.memOk_cleanHosts (h : s.memOk) : (s.modMs (·.cleanHosts)).memOk :=
  State.memOk_modMs h _ fun _ hm => MemSys.wf_cleanHosts hm

/-! ### Save areas -/

theorem State.memOk_putArea (h : s.memOk) (w : Wg) (img : List Byte) : (s.putArea w img).1.memOk := by
  unfold State.putArea
  split
  · exact h
  · split
    · exact h
    · dsimp only
      have hputs := fun a sp ws => State.memOk_agentPuts h hubUnit sp a ws
      split
      · next he => exact State.memOk_cleanHosts (State.memOk_agentWrite (of_fst_eq he (hputs _ _ _)) _ _ _ _ _ _)
      · exact hputs _ _ _

theorem State.memOk_fillArea (h : s.memOk) (wg : Nat) : (s.fillArea wg).1.memOk := by
  unfold State.fillArea
  split
  · exact h
  · split
    · exact h
    · exact State.memOk_putArea (State.memOk_modWg h _ _) _ _

theorem State.memOk_readArea (h : s.memOk) (w : Wg) : (s.readArea w).1.memOk := by
  unfold State.readArea
  split
  · exact h
  · split
    · exact h
    · have hwords := fun a sp n => State.memOk_agentWords hubUnit sp n a h
      split
      · next he => exact of_fst_eq he (hwords _ _ _)
      · next he => exact of_fst_eq he (hwords _ _ _)

/-! ### TLBINV, TLBPROBE, NOPRE, ERRINJ, CKPT, HALT -/

theorem State.memOk_dropEntries (h : s.memOk) (m : TlbEntry → Bool) : (s.dropEntries m).memOk :=
  State.memOk_modMs (State.memOk_foldl _ _ (fun _ _ h => State.memOk_cleanCore h _ _) h) _ fun _ hm => hm

theorem tlbinvOp_keepsMem (s : State) (f : Fields) (var : Nat) (a b : SRole) (m : Vals → TlbEntry → Bool)
    (p : Vals → BitVec 16 → W64 → Bool) : (tlbinvOp s f var a b m p).KeepsMem where
  act _ _ _ _ _ _ h := State.memOk_dropEntries h _
  dec _ _ _ _ v := by
    show Dec.KeepsMem (if s.underEntry (p v) then .wait [] else .ok)
    split
    · exact fxsKeepMem_nil
    · trivial
  out _ _ _ _ := keepsMem_done _

theorem State.memOk_settleWalk (h : s.memOk) (core : Nat) (sp : Space) (va : W64) : (s.settleWalk core sp va).memOk := by
  refine State.memOk_foldl _ _ (fun s lv h => ?_) (State.memOk_modMs h _ fun _ hm => hm)
  split
  · exact State.memOk_openHome (State.memOk_evictSector h _ _) _
  · exact h

theorem State.memOk_settleProbe (h : s.memOk) (core : Nat) (asid : BitVec 16) (va : W64) : (s.settleProbe core asid va).memOk := by
  unfold State.settleProbe
  split
  · exact State.memOk_ite (State.memOk_settleWalk h _ _ _) h
  · exact h

theorem tlbprobeSpec_keepsMem (s : State) (f : Fields) : (tlbprobeSpec s f).KeepsMem := fun _ _ _ _ _ =>
  keepsMem_ite (keepsMem_trap _ _ _ _) (LOut.fxAll_addFx (keepsMem_write _ _ _ _ _ _ _)
    (fxsKeepMem_act fun _ h => State.memOk_settleProbe h _ _ _))

theorem nopreBeginSpec_keepsMem (f : Fields) : (nopreBeginSpec f).KeepsMem := by
  intro cx i l f v
  unfold nopreBeginSpec
  refine keepsMem_ite (keepsMem_done _) (keepsMem_ite (keepsMem_trap _ _ _ _) ?_)
  by_cases hr : cx.w.inRegion = true
  · rw [if_pos hr]
    exact keepsMem_done _
  · rw [if_neg hr]
    exact keepsMem_done_act _ fun _ h => h

theorem State.memOk_poisonSector (h : s.memOk) (core loc : Nat) : (s.poisonSector core loc).memOk := by
  refine State.memOk_modMs (State.memOk_recall (State.memOk_evictSector h _ _) _ _) _ fun ms hm => ?_
  rw [MemSys.mem_setPoison, MemSys.mem_l2Fill]
  exact hm

theorem errinjSectorSpec_keepsMem (s : State) (f : Fields) : (errinjSectorSpec s f).KeepsMem := by
  intro cx i l f v
  have hgo : ∀ t : State, t.memOk → (t.agent (engineUnit cx.w.core) (t.space cx.w) v.a .write
      fun s loc => (s.poisonSector cx.w.core loc, .val 0 false)).1.memOk :=
    fun t h => State.memOk_agent h _ _ _ _ _ fun _ _ h => State.memOk_poisonSector h _ _
  unfold errinjSectorSpec
  refine keepsMem_ite (keepsMem_done _) (keepsMem_ite (keepsMem_trap _ _ _ _) ?_)
  dsimp only
  split
  · exact keepsMem_done_act _ hgo
  · exact keepsMem_wait_act _ hgo
  · exact fxsKeepMem_act hgo
  · exact fxsKeepMem_act hgo

theorem ckptOp_keepsMem (s : State) (f : Fields) : (ckptOp s f).KeepsMem where
  act _ _ _ _ _ _ h := h
  dec cx i _ _ v := by
    show Dec.KeepsMem (if v.a.toNat % 64 ≠ 0 then .trap 9 v.a else if issueHolds s cx i then .hold [] else .ok)
    split
    · trivial
    · split
      · exact fxsKeepMem_nil
      · trivial
  out _ _ _ _ := keepsMem_done _

theorem State.memOk_askAll (h : s.memOk) (core : Nat) (why : SaveCause) : (s.askAll core why).memOk := h

theorem memKept_execHalt (f : Fields) (h : s.memOk) : MemKept (execHalt f s) := by
  refine memKept_withGang fun g w _ => ?_
  split
  · exact memKept_next (State.memOk_trapAll h _ _ _ _ _)
  · refine memKept_ite (memKept_next (State.memOk_runLanes h _ _ fun _ _ => keepsMem_done _)) (memKept_next ?_)
    have hexit := State.memOk_foldl (fun (s : State) i => if (w.lane i).live then s.exitLane w.id i else s)
      (List.range w.lanes.length) (fun _ _ h => State.memOk_ite (State.memOk_exitLane h _ _) h) h
    exact State.memOk_reportHalted (State.memOk_askAll (State.memOk_modCore hexit _ _) _ _) _

/-! ### Checkpoint increments -/

theorem State.memOk_endJob (h : s.memOk) (k : Nat) (j : CkptJob) (v : Nat) (err : Option ErrMark) : (s.endJob k j v err).memOk := by
  unfold State.endJob
  dsimp only
  refine State.memOk_ite h ?_
  have hfill := State.memOk_fillArea (s := State.completeOp { s with cp := { s.cp with ckpts := s.cp.ckpts.eraseIdx k } } j.wg j.op
    (BitVec.ofNat 32 (min v 0xFFFFFFFF)) err 5) h j.wg
  split
  · exact hfill
  · exact hfill

theorem State.memOk_setJob (h : s.memOk) (k : Nat) (j : CkptJob) : (s.setJob k j).memOk := h

theorem MemSys.wf_putEntry {ms : MemSys} (h : ms.mem.wf = true) (ent : Nat) (e : W64) : (ms.putEntry ent e).mem.wf = true :=
  MemSys.wf_homeWrite h _ _ _ _

theorem State.memOk_clearD (h : s.memOk) (ent : Nat) : (s.clearD ent).memOk :=
  State.memOk_modMs (State.memOk_recall h _ _) _ fun _ hm => MemSys.wf_putEntry hm _ _

theorem State.memOk_cleanPage (h : s.memOk) (loc n : Nat) : (s.cleanPage loc n).memOk :=
  State.memOk_foldl _ _ (fun _ _ h => State.memOk_writeBack h _) h

theorem State.memOk_logWords (h : s.memOk) (sp : Space) (a : W64) (ws : List W64) : (s.logWords sp a ws).1.memOk := by
  refine memOk_putWords _ (fun s a n v p h => State.memOk_agent h _ _ _ _ _ fun s loc h => ?_) _ _ h
  split
  · exact State.memOk_homeStore h _ _ _ _
  · exact h

theorem State.memOk_pageWords (n : Nat) : ∀ {s : State} (loc : Nat), s.memOk → (s.pageWords loc n).1.memOk := by
  induction n with
  | zero => exact fun _ h => h
  | succ n ih =>
    intro s loc h
    unfold State.pageWords
    split
    · next he => exact ih _ (of_fst_eq he (State.memOk_homeRead h _ _))
    · next he => exact of_fst_eq he (State.memOk_homeRead h _ _)

theorem State.memOk_ckptBegin (h : s.memOk) (k : Nat) (j : CkptJob) : (s.ckptBegin k j).memOk := by
  have hwords := State.memOk_agentWords hubUnit (s.spaceAt j.asid) 6 j.addr h
  unfold State.ckptBegin
  dsimp only
  split
  · next he => exact of_fst_eq he hwords
  · next he => exact State.memOk_endJob (of_fst_eq he hwords) _ _ _ _
  · next he =>
    have ht := of_fst_eq he hwords
    refine State.memOk_ite (State.memOk_endJob ht _ _ _ _) (State.memOk_ite (State.memOk_endJob ht _ _ _ _)
      (State.memOk_ite (State.memOk_endJob ht _ _ _ _) (State.memOk_setJob ?_ _ _)))
    exact State.memOk_foldl _ _ (fun _ _ h => State.memOk_clearD h _) ht

theorem State.memOk_ckptCopy (h : s.memOk) (sp : Space) (k : Nat) (j : CkptJob) (r : CkptRun) (va n : Nat) (rest : List (Nat × Nat)) :
    (s.ckptCopy sp k j r va n rest).memOk := by
  unfold State.ckptCopy
  split
  · next loc _ =>
    have hlog := State.memOk_logWords (State.memOk_pageWords (n / 8) loc (State.memOk_cleanPage h loc n)) sp (r.dest + r.used)
      (r.record va n ((s.cleanPage loc n).pageWords loc (n / 8)).2.1 ((s.cleanPage loc n).pageWords loc (n / 8)).2.2)
    dsimp only
    split
    · next he => exact of_fst_eq he hlog
    · next he => exact State.memOk_setJob (of_fst_eq he hlog) _ _
    · next he => exact State.memOk_setJob (of_fst_eq he hlog) _ _
  · split
    · exact State.memOk_faultNote h _ _
    · exact h
    · exact h

theorem State.memOk_ckptFinish (h : s.memOk) (sp : Space) (k : Nat) (j : CkptJob) (r : CkptRun) : (s.ckptFinish sp k j r).memOk := by
  have hputs := State.memOk_agentPuts h hubUnit sp (j.addr + 32) [(r.used, false), (zx (r.incr + 1), false)]
  unfold State.ckptFinish
  split
  · next he => exact State.memOk_endJob (State.memOk_cleanHosts (of_fst_eq he hputs)) _ _ _ _
  · next he => exact of_fst_eq he hputs
  · next he => exact State.memOk_endJob (of_fst_eq he hputs) _ _ _ _

theorem State.memOk_ckptPage (h : s.memOk) (k : Nat) (j : CkptJob) (r : CkptRun) : (s.ckptPage k j r).memOk := by
  unfold State.ckptPage
  dsimp only
  refine State.memOk_ite h ?_
  split
  · exact State.memOk_ckptFinish h _ _ _ _
  · exact State.memOk_ckptCopy h _ _ _ _ _ _ _

theorem memKept_execCkptIncrement (h : s.memOk) (k : Nat) : MemKept (execCkptIncrement k s) := by
  unfold execCkptIncrement
  split
  · exact memKept_next h
  · refine memKept_ite (memKept_next h) (memKept_next ?_)
    split
    · exact State.memOk_ckptBegin h _ _
    · exact State.memOk_ckptPage h _ _ _

end Sys2Proof.Machine
end

section
/-! The Drift store (R78 to R102, R374 to R379): reservations, table operations, and the engine's batches. -/
namespace Sys2Proof.Machine

variable {s : State}

theorem State.memOk_startOp (h : s.memOk) (op : Nat) (w : Wg) (k : EngineKind) : (s.startOp op w k).memOk := h
theorem State.memOk_setTable (h : s.memOk) (wg t : Nat) (x : Option DTable) : (s.setTable wg t x).memOk := h
theorem State.memOk_modTable (h : s.memOk) (wg t : Nat) (f : DTable → DTable) : (s.modTable wg t f).memOk := h
theorem State.memOk_addRingWrite (h : s.memOk) (x : RingWrite) : (s.addRingWrite x).memOk := h
theorem State.memOk_setKind (h : s.memOk) (op : Nat) (k : EngineKind) : (s.setKind op k).memOk := h

/-! ### Reservations -/

theorem State.memOk_readRing (h : s.memOk) (core : Nat) (sp : Space) (ring : W64) : (s.readRing core sp ring).1.memOk := by
  have hread := fun va => State.memOk_engineRead h core 3 sp va 8
  have h0 := hread ring
  have h1 := hread (ring + 8)
  have h2 := hread (ring + 16)
  have h3 := hread (ring + 24)
  unfold State.readRing
  split
  · next he _ _ _ => exact of_fst_eq he h0
  · next he => exact of_fst_eq he h3
  · next he _ _ => exact of_fst_eq he h2
  · next he _ _ _ => exact of_fst_eq he h1
  · next he _ _ _ _ => exact of_fst_eq he h0

theorem State.memOk_reserveLocs (core : Nat) (sp : Space) (as : List W64) :
    ∀ {s : State}, s.memOk → (s.reserveLocs core sp as).1.memOk := by
  induction as with
  | nil => exact fun h => h
  | cons a as ih => exact fun h => ih (State.memOk_agent h _ _ _ _ _ fun _ _ h => h)

theorem State.memOk_reserveRing (h : s.memOk) (core : Nat) (sp : Space) (ring : W64) (n : Nat) :
    (s.reserveRing core sp ring n).1.memOk := by
  have hread := State.memOk_readRing h core sp ring
  unfold State.reserveRing
  split
  · next he => exact of_fst_eq he hread
  · next he => exact of_fst_eq he hread
  · next t d he =>
    have ht := of_fst_eq he hread
    have hlocs := fun as => State.memOk_reserveLocs core sp as ht
    split
    · exact ht
    · dsimp only
      split
      · exact ht
      · split
        · next he' => exact of_fst_eq he' (hlocs _)
        · next he' => exact of_fst_eq he' (hlocs _)
        · next he' => exact of_fst_eq he' (hlocs _)
        · next he' => exact of_fst_eq he' (hlocs _)

/-! ### KACC -/

/-- What a gang's KACC starts when it waits or traps keeps the form. -/
def KaccDec.KeepsMem : KaccDec → Prop
  | .ok => True
  | .wait fx => FxsKeepMem fx
  | .trap _ _ fx => FxsKeepMem fx

theorem kaccPlan_keepsMem (s : State) (w : Wg) (t : DTable) (n : Nat) (ls : List (Nat × Vals)) :
    (kaccPlan s w t n ls).1.KeepsMem ∧ ∀ ds (s' : State), s'.memOk → ((kaccPlan s w t n ls).2 ds s').memOk := by
  have hres := fun (s : State) (h : s.memOk) k => State.memOk_reserveRing h w.core (s.space w) t.ring k
  unfold kaccPlan
  split
  · exact ⟨fxsKeepMem_nil, fun _ _ h => h⟩
  · dsimp only
    split
    · refine ⟨trivial, fun ds s' h => State.memOk_foldl _ _ (fun s d h => State.memOk_fillDest h _ _ _ _ _) ?_⟩
      exact State.memOk_setTable h _ _ _
    · split
      · exact ⟨fxsKeepMem_act fun s h => State.memOk_modTable (hres s h _) _ _ _, fun _ _ h => h⟩
      · exact ⟨fxsKeepMem_act fun s h => hres s h _, fun _ _ h => h⟩
      · exact ⟨fxsKeepMem_act fun s h => State.memOk_modTable h _ _ _, fun _ _ h => h⟩
      · exact ⟨trivial, fun ds s' h => State.memOk_addRingWrite (State.memOk_setTable (hres s' h _) _ _ _) _⟩

theorem fxsKeepMem_ite {c : Prop} [Decidable c] {fx : List Fx} (h : FxsKeepMem fx) : FxsKeepMem (if c then fx else []) := by
  split
  · exact h
  · exact fxsKeepMem_nil

theorem kaccSpec_keepsMem (s : State) (t : Option DTable) (f : Fields) : (kaccSpec s t f).KeepsMem := by
  intro cx i l f v
  unfold kaccSpec
  dsimp only
  split
  · exact keepsMem_stay _
  · next tb =>
    refine keepsMem_ite (keepsMem_done _) (keepsMem_ite (keepsMem_trap _ _ _ _) ?_)
    obtain ⟨hdec, hact⟩ := kaccPlan_keepsMem s cx.w tb (f.var.toNat % 4) (kaccLanes cx (some tb) f)
    split
    · next he =>
      rw [he] at hdec
      exact fxsKeepMem_ite hdec
    · next he =>
      rw [he] at hdec
      exact fxsKeepMem_ite hdec
    · exact fxsKeepMem_append (keepsMem_markDest _ _) (fxsKeepMem_ite (fxsKeepMem_act (hact _)))

/-! ### Operations on a table -/

theorem Dec.keepsMem_ite {c : Prop} [Decidable c] {a b : Dec} (ha : a.KeepsMem) (hb : b.KeepsMem) : (if c then a else b).KeepsMem := by
  split
  · exact ha
  · exact hb

theorem kdrainOp_keepsMem (s : State) (t : Option DTable) (f : Fields) : (kdrainOp s t f).KeepsMem where
  act _ _ _ _ _ _ h := State.memOk_addDrained (State.memOk_startOp (State.memOk_modTable h _ _ _) _ _ _) _ _ _ _
  dec _ _ _ _ _ := Dec.keepsMem_ite trivial (Dec.keepsMem_ite fxsKeepMem_nil trivial)
  out _ _ _ _ := keepsMem_write _ _ _ _ _ _ _

theorem kcfgOp_keepsMem (s : State) (f : Fields) : (kcfgOp s f).KeepsMem where
  act _ _ _ _ _ _ h := State.memOk_setTable h _ _ _
  dec _ _ _ _ _ := Dec.keepsMem_ite trivial (Dec.keepsMem_ite trivial trivial)
  out _ _ _ _ := keepsMem_done _

theorem State.memOk_addFlushed (h : s.memOk) (op : Nat) (w : Wg) (t : DTable) (first : Nat) (recs : List Rec) :
    (s.addFlushed op w t first recs).memOk := by
  unfold State.addFlushed
  split
  · exact State.memOk_foldl _ _ (fun _ _ h => State.memOk_addDrained h _ _ _ _) h
  · exact h

theorem State.memOk_flushPlan (h : s.memOk) (w : Wg) (t : DTable) : (flushPlan s w t).1.memOk := by
  unfold flushPlan
  split
  · exact h
  · exact State.memOk_reserveRing h _ _ _ _

theorem kflushOp_keepsMem (s : State) (t : Option DTable) (f : Fields) : (kflushOp s t f).KeepsMem where
  act cx i l f v s h := by
    unfold kflushOp
    dsimp only
    split
    · exact h
    · next tb =>
      have hstart := State.memOk_startOp (State.memOk_flushPlan h cx.w tb) s.ck.nextId cx.w (.kflush (f.var.toNat % 4))
      split
      · refine State.memOk_ite (State.memOk_completeOp ?_ _ _ _ _ _) (State.memOk_addRingWrite ?_ _)
        · exact State.memOk_setTable (State.memOk_addFlushed hstart _ _ _ _ _) _ _ _
        · exact State.memOk_setTable (State.memOk_addFlushed hstart _ _ _ _ _) _ _ _
      · exact State.memOk_completeOp (State.memOk_modTable hstart _ _ _) _ _ _ _ _
      · exact hstart
  dec cx i l f v := by
    unfold kflushOp
    dsimp only
    split
    · trivial
    · refine Dec.keepsMem_ite fxsKeepMem_nil ?_
      split
      · exact fxsKeepMem_act fun _ h => State.memOk_modTable h _ _ _
      · exact fxsKeepMem_act fun _ h => State.memOk_flushPlan h _ _
      · trivial
  out _ _ _ _ := keepsMem_done _

theorem kmergeBlockOp_keepsMem (s : State) (t : Option DTable) (f : Fields) : (kmergeBlockOp s t f).KeepsMem where
  act _ _ _ _ _ _ h := State.memOk_ite (State.memOk_completeOp (State.memOk_startOp h _ _ _) _ _ _ _ _) (State.memOk_startOp h _ _ _)
  dec _ _ _ _ _ := Dec.keepsMem_ite trivial (Dec.keepsMem_ite fxsKeepMem_nil trivial)
  out _ _ _ _ := keepsMem_done _

theorem kmergeRingOp_keepsMem (s : State) (t : Option DTable) (f : Fields) : (kmergeRingOp s t f).KeepsMem where
  act _ _ _ _ _ _ h := State.memOk_startOp h _ _ _
  dec _ _ _ _ _ := Dec.keepsMem_ite trivial (Dec.keepsMem_ite fxsKeepMem_nil trivial)
  out _ _ _ _ := keepsMem_done _

theorem kclearOp_keepsMem (t : Option DTable) (f : Fields) : (kclearOp t f).KeepsMem where
  act _ _ _ _ _ _ h := State.memOk_modTable h _ _ _
  dec _ _ _ _ _ := trivial
  out _ _ _ _ := keepsMem_done _

/-! ### The engine -/

theorem State.memOk_putRecords (core : Nat) (l : List (Rec × Nat)) : ∀ {s : State}, s.memOk → (s.putRecords core l).memOk := by
  induction l with
  | nil => exact fun h => h
  | cons x l ih =>
    exact fun h => ih (State.memOk_homeStore (State.memOk_homeStore (State.memOk_evictSector h _ _) _ _ _ _) _ _ _ _)

theorem State.memOk_fillAcq (h : s.memOk) (wg : Nat) (d : Nat × Dest × W32) : (s.fillAcq wg d).memOk := by
  have hfill := State.memOk_fillDest h wg d.1 d.2.1 (zx d.2.2) false
  unfold State.fillAcq
  dsimp only
  split
  · exact hfill
  · exact hfill
  · exact hfill
  · exact hfill

theorem memKept_execDriftRingWrite (h : s.memOk) (asid ring : Nat) : MemKept (execDriftRingWrite asid ring s) := by
  unfold execDriftRingWrite
  split
  · exact memKept_next h
  · refine memKept_ite (memKept_next h) (memKept_next ?_)
    have hput := fun (x : RingWrite) => State.memOk_blame (s0 := s) (State.memOk_homeStore (State.memOk_evictSector
      (State.memOk_putRecords x.core (x.recs.zip x.locs) h) x.core (sectorOf x.wloc)) x.wloc 8 (x.first + x.recs.length) false) x.wg
    have hfold := fun (x : RingWrite) (t : State) (ht : t.memOk) =>
      State.memOk_foldl (fun (s : State) d => s.fillAcq x.wg d) x.dests (fun _ _ h => State.memOk_fillAcq h _ _) ht
    refine State.memOk_ite (hfold _ _ ?_) (State.memOk_completeOp (hfold _ _ ?_) _ _ _ _ _)
    · exact hput _
    · exact hput _

theorem State.memOk_readRecords (core : Nat) (sp : Space) (as : List W64) :
    ∀ {s : State}, s.memOk → (s.readRecords core sp as).1.memOk := by
  induction as with
  | nil => exact fun h => h
  | cons a as ih =>
    intro s h
    have h0 := State.memOk_engineRead h core 3 sp a 8
    have h1 := State.memOk_engineRead h core 3 sp (a + 8) 8
    unfold State.readRecords
    split
    · next he _ =>
      have hrest := ih (of_fst_eq he h0)
      split
      · next he' => exact of_fst_eq he' hrest
      · exact hrest
    · next he => exact of_fst_eq he h1
    · next he _ _ => exact of_fst_eq he h0

theorem State.memOk_writeRidx (h : s.memOk) (o : EngineOp) (sp : Space) (n : Nat) (addr : W64) (left done start : Nat) :
    (s.writeRidx o sp n addr left done start).memOk := by
  have hwrite := State.memOk_engineWrite h o.core sp (addr + 24) 8 ((start + done) % 2 ^ 64) false
  unfold State.writeRidx
  split
  · next he => exact State.memOk_setKind (of_fst_eq he hwrite) _ _
  · next he => exact State.memOk_setKind (of_fst_eq he hwrite) _ _
  · next he => exact State.memOk_completeOp (of_fst_eq he hwrite) _ _ _ _ _

/-- The place of a batch's own records, if it emits any. -/
theorem State.memOk_batchPlan (h : s.memOk) {c : Prop} [Decidable c] (core : Nat) (sp : Space) (ring : W64) (n : Nat) :
    (if c then (s, Reserved.ok 0 [] 0) else s.reserveRing core sp ring n).1.memOk := by
  split
  · exact h
  · exact State.memOk_reserveRing h _ _ _ _

theorem State.memOk_mergeBatch (h : s.memOk) (o : EngineOp) (t : DTable) (n : Nat) (ring : Bool) (addr : W64) (left done start : Nat)
    (rs : List Rec) : (s.mergeBatch o t n ring addr left done start rs).memOk := by
  unfold State.mergeBatch
  dsimp only
  have hplan := State.memOk_batchPlan h (c := (t.ingest rs).2.2.isEmpty = true) o.core (State.mergeBatch.spaceOf s o) t.ring
    (t.ingest rs).2.2.length
  split
  · exact State.memOk_modTable h _ _ _
  · exact hplan
  · exact State.memOk_completeOp (State.memOk_modTable hplan _ _ _) _ _ _ _ _
  · have hwritten := fun (t1 : State) (h1 : t1.memOk) x => State.memOk_ite (c := (t.ingest rs).2.2.isEmpty = true) h1
      (State.memOk_addRingWrite h1 x)
    have hridx := fun (t1 : State) (h1 : t1.memOk) d k => State.memOk_ite (c := ring = true)
      (State.memOk_writeRidx h1 o (State.mergeBatch.spaceOf s o) n addr left d start) (State.memOk_setKind h1 o.id k)
    refine State.memOk_ite (State.memOk_completeOp (hridx _ (hwritten _ ?_ _) _ _) _ _ _ _ _) (hridx _ (hwritten _ ?_ _) _ _)
    · exact State.memOk_setTable hplan _ _ _
    · exact State.memOk_setTable hplan _ _ _

theorem State.memOk_mergeStep (h : s.memOk) (o : EngineOp) (n : Nat) (ring : Bool) (addr : W64) (left : Option Nat) (done start : Nat) :
    (s.mergeStep o n ring addr left done start).memOk := by
  unfold State.mergeStep
  dsimp only
  split
  · exact State.memOk_completeOp h _ _ _ _ _
  · have hdesc : (if ring then s.readRing o.core (State.mergeBatch.spaceOf s o) addr
        else (s, .ok { base := addr, cap := 2 ^ 64, widx := 0, ridx := 0 })).1.memOk := by
      split
      · exact State.memOk_readRing h _ _ _
      · exact h
    split
    · next he => exact of_fst_eq he hdesc
    · next he => exact State.memOk_completeOp (of_fst_eq he hdesc) _ _ _ _ _
    · next he =>
      have ht := of_fst_eq he hdesc
      refine State.memOk_ite (State.memOk_completeOp ht _ _ _ _ _) ?_
      split
      · exact State.memOk_setKind (State.memOk_acquire ht _ _) _ _
      · refine State.memOk_ite (State.memOk_ite ht (State.memOk_completeOp ht _ _ _ _ _)) ?_
        have hrecs := fun as => State.memOk_readRecords o.core (State.mergeBatch.spaceOf s o) as ht
        split
        · next he' => exact of_fst_eq he' (hrecs _)
        · next he' => exact State.memOk_completeOp (of_fst_eq he' (hrecs _)) _ _ _ _ _
        · next he' => exact State.memOk_mergeBatch (of_fst_eq he' (hrecs _)) _ _ _ _ _ _ _ _ _

theorem memKept_execKmergeBatch (h : s.memOk) (op : Nat) : MemKept (execKmergeBatch op s) := by
  unfold execKmergeBatch
  split
  · exact memKept_next h
  · split
    · exact memKept_next (State.memOk_blame (State.memOk_ite (State.memOk_writeRidx h _ _ _ _ _ _ _) (State.memOk_mergeStep h _ _ _ _ _ _ _)) _)
    · exact memKept_next h

end Sys2Proof.Machine
end

section
/-! The iterator engine (R232 to R242, R382 to R387): elements, pulls, images. -/
namespace Sys2Proof.Machine

variable {s : State}

/-! ### Elements -/

/-- The state of a working copy of the cursors has its memory in the canonical form. -/
def Cursor.memOk (c : Cursor) : Prop := c.s.memOk

/-- What holds of the cursor of a pair holds of the cursor it is matched as. -/
theorem Cursor.memOk_of_fst_eq {α : Type} {p : Cursor × α} {c : Cursor} {a : α} (he : p = (c, a)) (h : p.1.memOk) : c.memOk := by
  subst he
  exact h

theorem Cursor.memOk_setObj {c : Cursor} (h : c.memOk) (i : Nat) (o : ItrObj) : (c.setObj i o).memOk := h

theorem Cursor.memOk_read {c : Cursor} (h : c.memOk) (core : Nat) (sp : Space) (va : W64) (lw : Nat) (signed use : Bool) :
    (c.read core sp va lw signed use).1.memOk := by
  have hread := State.memOk_engineRead h core 1 sp va (2 ^ lw)
  unfold Cursor.read
  dsimp only
  split
  · exact h
  · split
    · split
      · exact hread
      · exact hread
    · exact hread
    · exact hread
    · exact hread

theorem Cursor.memOk_row {c : Cursor} (h : c.memOk) (core : Nat) (sp : Space) (o : ItrObj) (x : W64) : (c.row core sp o x).1.memOk := by
  unfold Cursor.row
  dsimp only
  split
  · next he =>
    have h1 := Cursor.memOk_of_fst_eq he (Cursor.memOk_read h _ _ _ _ _ _)
    split
    · next he' =>
      have h2 := Cursor.memOk_of_fst_eq he' (Cursor.memOk_read h1 _ _ _ _ _ _)
      split
      · exact h2
      · exact h2
    · next he' => exact Cursor.memOk_of_fst_eq he' (Cursor.memOk_read h1 _ _ _ _ _ _)
  · next he => exact Cursor.memOk_of_fst_eq he (Cursor.memOk_read h _ _ _ _ _ _)

/-- The next element, whatever object it comes from, keeps the form. -/
theorem nextElem_memOk (core : Nat) (sp : Space) (fuel : Nat) :
    ∀ {c : Cursor} (i : Nat), c.memOk → (nextElem core sp fuel c i).1.memOk := by
  induction fuel with
  | zero => exact fun _ h => h
  | succ fuel ih =>
    intro c i h
    have hread := fun va lw sg use => Cursor.memOk_read h core sp va lw sg use
    have hnext := fun j => ih j h
    unfold nextElem
    dsimp only
    split
    · split
      · exact h
      · exact h
    · split
      · exact h
      · split
        · next he => exact Cursor.memOk_of_fst_eq he (hread _ _ _ _)
        · next he => exact Cursor.memOk_setObj (Cursor.memOk_of_fst_eq he (hread _ _ _ _)) _ _
    · split
      · exact h
      · split
        · next he =>
          have h1 := Cursor.memOk_of_fst_eq he (hread _ _ _ _)
          split
          · exact h1
          · exact ih _ (Cursor.memOk_setObj h1 _ _)
        · next he => exact Cursor.memOk_setObj (Cursor.memOk_of_fst_eq he (hread _ _ _ _)) _ _
    · split
      · next he => exact Cursor.memOk_of_fst_eq he (hnext _)
      · exact hnext _
    · split
      · next he =>
        have h1 := Cursor.memOk_of_fst_eq he (hnext _)
        split
        · exact h1
        · exact Cursor.memOk_read h1 _ _ _ _ _ _
      · exact hnext _
    · split
      · next he =>
        have h1 := Cursor.memOk_of_fst_eq he (hnext _)
        split
        · exact h1
        · have hr := Cursor.memOk_read h1 core sp
          split
          · next he' =>
            have h2 := Cursor.memOk_of_fst_eq he' (hr _ _ _ _)
            split
            · exact h2
            · exact ih _ h2
          · exact hr _ _ _ _
      · exact hnext _
    · split
      · exact h
      · split
        · next he =>
          have h1 := Cursor.memOk_of_fst_eq he (hnext _)
          split
          · exact h1
          · have hr := Cursor.memOk_row h1 core sp
            split
            · next he' =>
              have h2 := Cursor.memOk_of_fst_eq he' (hr _ _)
              exact ih _ h2
            · next he' => exact Cursor.memOk_of_fst_eq he' (hr _ _)
        · exact hnext _
    · split
      · next he =>
        have h1 := Cursor.memOk_of_fst_eq he (hnext _)
        split
        · next he' => exact Cursor.memOk_of_fst_eq he' (ih _ h1)
        · exact ih _ h1
      · exact hnext _
    · split
      · exact hnext _
      · split
        · next he => exact ih _ (Cursor.memOk_setObj (Cursor.memOk_of_fst_eq he (hnext _)) _ _)
        · exact hnext _

/-- What a pull of at least one lane comes to, given the next element and the pull of the lanes after it. -/
def pullStep (bnd first : Bool) (bad : Option (Nat × W64)) (os : List ItrObj)
    (rest : Bool → Option (Nat × W64) → State → List ItrObj → State × Pulled) (r : Cursor × Elem) : State × Pulled :=
  match r.2, bnd && r.1.boundary && !first with
  | .ended, _ => (r.1.s, (Pulled.ok [] os true).orFail bad)
  | _, true => (r.1.s, (Pulled.ok [] os false).orFail bad)
  | .held p, _ => (r.1.s, .held p)
  | .kill t, _ => (r.1.s, (Pulled.kill t).orFail bad)
  | .fail c t, _ =>
    if c = 3 then (r.1.s, (Pulled.fail c t).orFail bad) else rest false (lowestFail bad c t) r.1.s r.1.objs
  | e, _ =>
    match rest false bad r.1.s r.1.objs with
    | (s, .ok es os' b) => (s, .ok (e :: es) os' b)
    | (s, x) => (s, x)

/-- The equation of a pull. The fuel is generalized before `rfl`, which would evaluate its numeral. -/
theorem pullLanes_succ (core : Nat) (sp : Space) (bnd : Bool) (root n : Nat) (first : Bool) (bad : Option (Nat × W64)) (s : State)
    (os : List ItrObj) : pullLanes core sp bnd root (n + 1) first bad s os =
      pullStep bnd first bad os (pullLanes core sp bnd root n) (nextElem core sp nextFuel { s, objs := os, boundary := false } root) := by
  delta pullLanes pullLanes._f
  generalize nextFuel = fuel
  rfl

theorem memOk_pullStep (bnd first : Bool) (bad : Option (Nat × W64)) (os : List ItrObj)
    {rest : Bool → Option (Nat × W64) → State → List ItrObj → State × Pulled} (hrest : ∀ b x (s : State) os, s.memOk → (rest b x s os).1.memOk)
    {r : Cursor × Elem} (hr : r.1.memOk) : (pullStep bnd first bad os rest r).1.memOk := by
  unfold pullStep
  split
  · exact hr
  · exact hr
  · exact hr
  · exact hr
  · split
    · exact hr
    · exact hrest _ _ _ _ hr
  · split
    · next he => exact of_fst_eq he (hrest _ _ _ _ hr)
    · next he => exact of_fst_eq he (hrest _ _ _ _ hr)

theorem memOk_pullLanes (core : Nat) (sp : Space) (bnd : Bool) (root n : Nat) :
    ∀ (first : Bool) (bad : Option (Nat × W64)) (s : State) (os : List ItrObj), s.memOk →
      (pullLanes core sp bnd root n first bad s os).1.memOk := by
  induction n with
  | zero => exact fun _ _ _ _ h => h
  | succ n ih =>
    intro first bad s os h
    rw [pullLanes_succ]
    exact memOk_pullStep _ _ _ _ ih (nextElem_memOk _ _ _ _ h)

/-! ### Instructions -/

theorem State.memOk_modItr (h : s.memOk) (wg k : Nat) (f : ItrSlot → ItrSlot) : (s.modItr wg k f).memOk := h

theorem slotWait_keepsMem (cx : Cx) (i : Nat) : (slotWait cx i).KeepsMem := fxsKeepMem_act fun _ h => State.memOk_modWg h _ _

theorem pushOp_keepsMem (s : State) (f : Fields) (q : Bool) (a b c : SRole) (mk : Vals → ItrObj) : (pushOp s f q a b c mk).KeepsMem where
  act _ _ _ _ _ _ h := State.memOk_modItr h _ _ _
  dec cx i l f v := by
    unfold pushOp
    dsimp only
    refine Dec.keepsMem_ite fxsKeepMem_nil (Dec.keepsMem_ite trivial ?_)
    split
    · trivial
    · exact Dec.keepsMem_ite (slotWait_keepsMem _ _) trivial
  out _ _ _ _ := keepsMem_done _

theorem itrnextDec_keepsMem (cx : Cx) (l : Lane) (f : Fields) (v : Vals) : (itrnextDec cx l f v).KeepsMem := by
  unfold itrnextDec
  dsimp only
  refine Dec.keepsMem_ite trivial (Dec.keepsMem_ite fxsKeepMem_nil (Dec.keepsMem_ite trivial ?_))
  split
  · exact Dec.keepsMem_ite trivial (Dec.keepsMem_ite trivial (Dec.keepsMem_ite fxsKeepMem_nil trivial))
  · trivial

theorem itrnextSpec_keepsMem (f : Fields) : (itrnextSpec f).KeepsMem := by
  intro cx i l f v
  have hdec := itrnextDec_keepsMem cx l f v
  unfold itrnextSpec
  dsimp only
  split
  · exact keepsMem_trap _ _ _ _
  · exact keepsMem_trap _ _ _ _
  · next he _ => exact (he ▸ hdec : Dec.KeepsMem (.wait _))
  · next he _ => exact (he ▸ hdec : Dec.KeepsMem (.hold _))
  · exact keepsMem_ite (keepsMem_done _) (fxsKeepMem_ite (fxsKeepMem_act fun _ h => State.memOk_modItr h _ _ _))

theorem itrenoughOp_keepsMem (f : Fields) : (itrenoughOp f).KeepsMem where
  act _ _ _ _ _ _ h := State.memOk_modItr h _ _ _
  dec _ _ _ _ _ := Dec.keepsMem_ite trivial trivial
  out _ _ _ _ := keepsMem_done _

theorem itrsaveOp_keepsMem (s : State) (f : Fields) : (itrsaveOp s f).KeepsMem where
  act _ _ _ _ _ _ h := State.memOk_modItr (State.memOk_startOp h _ _ _) _ _ _
  dec _ _ _ _ _ := Dec.keepsMem_ite trivial (Dec.keepsMem_ite trivial (Dec.keepsMem_ite fxsKeepMem_nil trivial))
  out _ _ _ _ := keepsMem_done _

theorem itrloadOp_keepsMem (s : State) (f : Fields) : (itrloadOp s f).KeepsMem where
  act _ _ _ _ _ _ h := State.memOk_modItr (State.memOk_startOp h _ _ _) _ _ _
  dec cx i l f v := by
    unfold itrloadOp
    dsimp only
    refine Dec.keepsMem_ite trivial (Dec.keepsMem_ite trivial (Dec.keepsMem_ite fxsKeepMem_nil ?_))
    split
    · exact Dec.keepsMem_ite (slotWait_keepsMem _ _) trivial
    · exact fxsKeepMem_act fun _ h => State.memOk_engineRead h _ _ _ _ _
  out _ _ _ _ := keepsMem_done _

/-! ### The operation at the head of a slot's queue -/

theorem State.memOk_rebindItr (h : s.memOk) (w : Wg) (k : Nat) : (s.rebindItr w k).memOk := State.memOk_ite h h

theorem State.memOk_fillPull (wg pred : Nat) (ps : List PullLane) :
    ∀ {s : State} (es : List Elem), s.memOk → (s.fillPull wg pred ps es).memOk := by
  induction ps with
  | nil => exact fun _ h => h
  | cons p ps ih => exact fun _ h => ih _ (State.memOk_modWg h _ _)

theorem State.memOk_commitPull (h : s.memOk) (w : Wg) (k : Nat) (recv help : List PullLane) (pred : Nat) :
    (s.commitPull w k recv help pred).memOk := by
  have hpull : (if (w.itrSlot k).state = 2 then
        pullLanes w.core (s.space w) (w.itrSlot k).bnd ((w.itrSlot k).objs.length - 1) recv.length true none s (w.itrSlot k).objs
      else (s, .ok [] (w.itrSlot k).objs false)).1.memOk := by
    split
    · exact memOk_pullLanes _ _ _ _ _ _ _ _ _ h
    · exact h
  unfold State.commitPull
  dsimp only
  have hfill := fun (t : State) (ht : t.memOk) es => State.memOk_fillPull w.id pred help []
    (State.memOk_fillPull w.id pred recv es ht)
  split
  · next he => exact State.memOk_modItr (of_fst_eq he hpull) _ _ _
  · next he => exact State.memOk_modItr (hfill _ (of_fst_eq he hpull) _) _ _ _
  · next he =>
    exact State.memOk_modItr (State.memOk_foldl _ _ (fun _ _ h => State.memOk_modWg h _ _) (hfill _ (of_fst_eq he hpull) _)) _ _ _
  · next he =>
    exact State.memOk_foldl _ _ (fun _ _ h => State.memOk_takeTrap h _ _ _ _ _ _)
      (State.memOk_modItr (hfill _ (of_fst_eq he hpull) _) _ _ _)

theorem State.memOk_saveSlot (h : s.memOk) (w : Wg) (k : Nat) (addr : W64) (op : Nat) : (s.saveSlot w k addr op).memOk := by
  have hputs := State.memOk_enginePuts h w.core (s.space w) addr ((w.itrSlot k).image.map fun x => (x, false))
  unfold State.saveSlot
  split
  · next he => exact State.memOk_modItr (of_fst_eq he hputs) _ _ _
  · next he => exact State.memOk_modItr (State.memOk_completeOp (of_fst_eq he hputs) _ _ _ _ _) _ _ _

theorem State.memOk_engineWords (core : Nat) (sp : Space) (n : Nat) :
    ∀ {s : State} (va : W64), s.memOk → (s.engineWords core sp va n).1.memOk := by
  induction n with
  | zero => exact fun _ h => h
  | succ n ih =>
    intro s va h
    have hread := State.memOk_engineRead h core 1 sp va 8
    unfold State.engineWords
    split
    · next he =>
      have hrest := ih (va + 8) (of_fst_eq he hread)
      split
      · next he' => exact of_fst_eq he' hrest
      · exact hrest
    · next he => exact of_fst_eq he hread

theorem State.memOk_loadSlot (h : s.memOk) (w : Wg) (k : Nat) (addr : W64) (op : Nat) (tval : W64) :
    (s.loadSlot w k addr op tval).memOk := by
  have hwords := State.memOk_engineWords w.core (s.space w) 34 addr h
  unfold State.loadSlot
  split
  · next he => exact State.memOk_modItr (of_fst_eq he hwords) _ _ _
  · next he => exact State.memOk_modItr (State.memOk_completeOp (of_fst_eq he hwords) _ _ _ _ _) _ _ _
  · next he =>
    have ht := of_fst_eq he hwords
    split
    · exact State.memOk_modItr (State.memOk_completeOp ht _ _ _ _ _) _ _ _
    · exact State.memOk_ite ht (State.memOk_modItr (State.memOk_completeOp ht _ _ _ _ _) _ _ _)

theorem memKept_execIteratorPullCommit (h : s.memOk) (wg slot : Nat) : MemKept (execIteratorPullCommit wg slot s) := by
  unfold execIteratorPullCommit
  split
  · exact memKept_next h
  · next w _ =>
    refine memKept_ite (memKept_next h) ?_
    have hbind := State.memOk_ite (c := w.ended = true) h (State.memOk_rebindItr h w slot)
    dsimp only
    split
    · exact memKept_next hbind
    · refine memKept_ite (memKept_next hbind) ?_
      split
      · exact memKept_next hbind
      · exact memKept_next (State.memOk_commitPull hbind _ _ _ _ _)
      · exact memKept_next (State.memOk_modItr hbind _ _ _)
      · exact memKept_next (State.memOk_blame (State.memOk_saveSlot hbind _ _ _ _) _)
      · exact memKept_next (State.memOk_loadSlot hbind _ _ _ _ _)

end Sys2Proof.Machine
end

section
/-! The matrix arrays (R356 to R373, R225 to R230, R210, R211): promotions, the steps that are queued, and their completion. -/
namespace Sys2Proof.Machine

variable {s : State}

theorem State.memOk_modMx (h : s.memOk) (wg q : Nat) (f : MxQuarter → MxQuarter) : (s.modMx wg q f).memOk := h
theorem State.memOk_mxQueue (h : s.memOk) (wg q : Nat) (tval : W64) (x : MxStep) : (s.mxQueue wg q tval x).memOk := h
theorem State.memOk_setWeights (h : s.memOk) (core q : Nat) (x : Option (Nat × WDesc × List MxElem)) : (s.setWeights core q x).memOk := h
theorem State.memOk_cellDone (h : s.memOk) (wg q : Nat) : (s.cellDone wg q).memOk := h
theorem State.memOk_stepError (h : s.memOk) (wg q op : Nat) (e : ErrMark) (scope : Nat) : (s.stepError wg q op e scope).memOk := h
theorem State.memOk_dropStep (h : s.memOk) (wg q seq : Nat) : (s.dropStep wg q seq).memOk := h
theorem State.memOk_slotWaits (h : s.memOk) (wg q : Nat) : (s.slotWaits wg q).memOk := h

/-! ### Promotions -/

/-- An optional state of canonical memory, or a state of canonical memory where there is none. -/
theorem State.memOk_getD {o : Option State} {t : State} (ho : ∀ u, o = some u → u.memOk) (ht : t.memOk) : (o.getD t).memOk := by
  cases o with
  | none => exact ht
  | some u => exact ho u rfl

theorem State.memOk_promoAt (h : s.memOk) (core scope : Nat) (p : Promo) (loc : Nat) : (s.promoAt core scope p loc).1.memOk := by
  unfold State.promoAt
  split
  · exact State.memOk_regTouch h _ _ _
  · split
    · exact h
    · have hadd := fun (s : State) (h : s.memOk) => State.memOk_homeUpdate h core loc 4 (.red 0 8) (zx p.val) 0 p.poison
      refine State.memOk_getD (fun u hu => ?_) (hadd s h)
      split at hu
      · exact State.memOk_atController h _ _ hadd _ hu
      · cases hu

theorem State.memOk_promote (core : Nat) (sp : Space) (scope : Nat) (ps : List Promo) :
    ∀ {s : State}, s.memOk → (s.promote core sp scope ps).1.memOk := by
  induction ps with
  | nil => exact fun h => h
  | cons p ps ih => exact fun h => ih (State.memOk_agent h _ _ _ _ _ fun _ _ h => State.memOk_promoAt h _ _ _ _)

theorem State.memOk_bindSlots (h : s.memOk) (core q : Nat) : (s.bindSlots core q).memOk := by
  refine State.memOk_foldl _ _ (fun _ _ h => State.memOk_foldl _ _ (fun _ _ h => State.memOk_foldl _ _ (fun _ _ h => ?_) h) h) h
  split
  · exact State.memOk_ite (State.memOk_modMx h _ _ _) h
  · exact h

/-! ### Instructions -/

theorem State.memOk_gangNamed (h : s.memOk) (cx : Cx) (idxs : List Nat) : (s.gangNamed cx idxs).memOk :=
  State.memOk_foldl _ _ (fun _ _ h => State.memOk_foldl _ _ (fun _ _ h => State.memOk_tileNamed h _ _ _) h) h

theorem fxsKeepMem_slotWaits (wg q : Nat) : FxsKeepMem [.act fun s => s.slotWaits wg q] := fxsKeepMem_act fun _ h => State.memOk_slotWaits h _ _

theorem tileStarts_keepsMem (s : State) (w : Wg) (i : Nat) (l : Lane) (k : Nat) {fx : List Fx} (hfx : tileStarts s w i l k = some fx) :
    FxsKeepMem fx := by
  unfold tileStarts at hfx
  split at hfx
  · exact Option.some.inj hfx ▸ fxsKeepMem_nil
  · next t _ =>
    have ht := tileTarget_keepsMem s w i l w t t.vpage .read
    split at hfx
    · next he =>
      rw [he] at ht
      exact Option.some.inj hfx ▸ ht
    · cases hfx

theorem tilesReady_keepsMem (s : State) (w : Wg) (i : Nat) (l : Lane) (idxs : List Nat) : (tilesReady s w i l idxs).KeepsMem := by
  unfold tilesReady
  refine Dec.keepsMem_ite trivial fun x hx => ?_
  obtain ⟨k, -, hx⟩ := List.mem_flatMap.mp hx
  cases hs : tileStarts s w i l k with
  | none =>
    rw [hs] at hx
    exact fxsKeepMem_act (f := fun s => s.tileWaiter w.id k w.id i) (fun _ h => h) x hx
  | some fx =>
    rw [hs] at hx
    exact tileStarts_keepsMem s w i l k hs x hx

theorem mxldwOp_keepsMem (s : State) (f : Fields) : (mxldwOp s f).KeepsMem where
  act _ _ _ _ _ _ h := State.memOk_mxQueue (State.memOk_modMx (State.memOk_ite (State.memOk_gangNamed h _ _) h) _ _ _) _ _ _ _
  dec _ _ _ _ _ := Dec.keepsMem_ite trivial (Dec.keepsMem_ite trivial (Dec.keepsMem_ite fxsKeepMem_nil
    (Dec.keepsMem_ite (tilesReady_keepsMem _ _ _ _ _) trivial)))
  out _ _ _ _ := keepsMem_done _

theorem mxmulSpec_keepsMem (s : State) (f : Fields) : (mxmulSpec s f).KeepsMem := by
  intro cx i l f v
  unfold mxmulSpec
  dsimp only
  refine keepsMem_ite (keepsMem_done _) (keepsMem_ite (keepsMem_trap _ _ _ _) (keepsMem_ite (keepsMem_trap _ _ _ _)
    (keepsMem_ite (keepsMem_trap _ _ _ _) (keepsMem_ite (keepsMem_trap _ _ _ _) (keepsMem_ite (fxsKeepMem_slotWaits _ _) ?_)))))
  split
  · exact keepsMem_trap _ _ _ _
  · exact keepsMem_done_act _ fun _ h => h

theorem mxmultOp_keepsMem (s : State) (f : Fields) : (mxmultOp s f).KeepsMem where
  act _ _ _ _ _ _ h := State.memOk_mxQueue (State.memOk_gangNamed h _ _) _ _ _ _
  dec _ _ _ _ _ := Dec.keepsMem_ite trivial (Dec.keepsMem_ite fxsKeepMem_nil (Dec.keepsMem_ite (fxsKeepMem_slotWaits _ _)
    (tilesReady_keepsMem _ _ _ _ _)))
  out _ _ _ _ := keepsMem_done _

theorem mxpromOp_keepsMem (s : State) (f : Fields) : (mxpromOp s f).KeepsMem where
  act _ _ _ _ _ _ h := State.memOk_mxQueue h _ _ _ _
  dec _ _ _ _ _ := Dec.keepsMem_ite trivial (Dec.keepsMem_ite fxsKeepMem_nil (Dec.keepsMem_ite (fxsKeepMem_slotWaits _ _) trivial))
  out _ _ _ _ := keepsMem_done _

theorem mxzeroOp_keepsMem (s : State) (f : Fields) : (mxzeroOp s f).KeepsMem where
  act cx i l f v s h := by
    unfold mxzeroOp
    dsimp only
    refine State.memOk_mxQueue ?_ _ _ _ _
    split
    · exact State.memOk_modMx h _ _ _
    · exact h
  dec cx i _ _ _ := by
    have hwait := fxsKeepMem_slotWaits cx.w.id (quarterOf i)
    exact Dec.keepsMem_ite (Dec.keepsMem_ite hwait trivial) (Dec.keepsMem_ite trivial (Dec.keepsMem_ite trivial
      (Dec.keepsMem_ite hwait (Dec.keepsMem_ite hwait trivial))))
  out _ _ _ _ := keepsMem_done _

theorem mxrdSpec_keepsMem (f : Fields) : (mxrdSpec f).KeepsMem := fun _ _ _ _ _ =>
  keepsMem_ite (keepsMem_write _ _ _ _ _ _ _) (keepsMem_ite (keepsMem_trap _ _ _ _) (keepsMem_ite (keepsMem_stay _)
    (fxsKeepMem_append (keepsMem_markDest _ _) (fxsKeepMem_act fun _ h => State.memOk_mxQueue h _ _ _ _))))

theorem cvsetOp_keepsMem (f : Fields) : (cvsetOp f).KeepsMem where
  act _ _ _ _ _ _ h := State.memOk_modWg h _ _
  dec _ _ _ _ _ := Dec.keepsMem_ite trivial trivial
  out _ _ _ _ := keepsMem_done _

/-! ### Steps at the array -/

theorem State.memOk_arrayTake (h : s.memOk) (core q : Nat) (mult : Bool) : (s.arrayTake core q mult).memOk := by
  have hbind := State.memOk_bindSlots h core q
  unfold State.arrayTake
  dsimp only
  refine State.memOk_ite hbind ?_
  split
  · exact hbind
  · exact State.memOk_ite hbind (State.memOk_modMx hbind _ _ _)

theorem memKept_execArrayStep (h : s.memOk) (core quarter : Nat) : MemKept (execArrayStep core quarter s) :=
  memKept_next (State.memOk_arrayTake h _ _ _)

theorem memKept_execMxmultChunk (h : s.memOk) (core quarter : Nat) : MemKept (execMxmultChunk core quarter s) :=
  memKept_next (State.memOk_arrayTake h _ _ _)

theorem memKept_execArraySlotPreemption (h : s.memOk) (core quarter : Nat) : MemKept (execArraySlotPreemption core quarter s) := by
  have hbind := State.memOk_bindSlots h core quarter
  unfold execArraySlotPreemption
  dsimp only
  refine memKept_ite (memKept_next hbind) ?_
  split
  · exact memKept_next hbind
  · exact memKept_next (State.memOk_modWg hbind _ _)

theorem State.memOk_engineSectors (core unit : Nat) (sp : Space) (n : Nat) :
    ∀ {s : State} (va : W64), s.memOk → (s.engineSectors core unit sp va n).1.memOk := by
  induction n with
  | zero => exact fun _ h => h
  | succ n ih =>
    intro s va h
    have hread := State.memOk_engineRead h core unit sp va 32
    unfold State.engineSectors
    split
    · next he =>
      have hrest := ih (va + 32) (of_fst_eq he hread)
      split
      · next he' => exact of_fst_eq he' hrest
      · exact hrest
    · next he => exact of_fst_eq he hread

theorem State.memOk_readWeights (h : s.memOk) (w : Wg) (d : WDesc) : (s.readWeights w d).1.memOk := by
  have hread := State.memOk_engineSectors w.core 2 (s.space w) (2 * rowBytes (recFmt d.srec)) d.addr h
  unfold State.readWeights
  dsimp only
  split
  · split
    · exact h
    · exact h
    · exact h
  · split
    · next he => exact of_fst_eq he hread
    · next he => exact of_fst_eq he hread

theorem State.memOk_ownWeights (h : s.memOk) (w : Wg) (q : Nat) (d : WDesc) (force : Bool) : (s.ownWeights w q d force).1.memOk := by
  have hread := State.memOk_readWeights h w d
  unfold State.ownWeights
  split
  · split
    · exact h
    · split
      · next he => exact State.memOk_setWeights (of_fst_eq he hread) _ _ _
      · next he => exact of_fst_eq he hread
  · split
    · next he => exact State.memOk_setWeights (of_fst_eq he hread) _ _ _
    · next he => exact of_fst_eq he hread

/-- An operation that is made on a slot keeps the form. -/
theorem State.memOk_applyOp (h : s.memOk) (w : Wg) (q k : Nat) (t : MxSlot) (d : WDesc) (arec : W64) (org nb : Nat) (es ws : List MxElem)
    (reload : Bool) (after : MxSlot → MxSlot) {r : State × Nat × Bool × Option ErrMark}
    (hr : s.applyOp w q k t d arec org nb es ws reload after = some r) : r.1.memOk := by
  unfold State.applyOp at hr
  dsimp only at hr
  split at hr
  · cases hr
  · exact Option.some.inj hr ▸ State.memOk_modMx (State.memOk_promote _ _ _ _ h) _ _ _

theorem State.memOk_noteHeld (h : s.memOk) (w : Wg) (t : MxSlot) (d : WDesc) (arec : W64) (org nb : Nat) (es ws : List MxElem) :
    (s.noteHeld w t d arec org nb es ws).memOk := by
  unfold State.noteHeld
  split
  · split
    · exact State.memOk_faultNote h _ _
    · exact h
  · exact h

theorem State.memOk_reloaded (h : s.memOk) (wg q k : Nat) (reload : Bool) : (s.reloaded wg q k reload).memOk :=
  State.memOk_ite (State.memOk_modMx h _ _ _) h

theorem finishLdw_memOk (h : s.memOk) (w : Wg) (q : Nat) (x : MxQueued) (op : Nat) (d : WDesc) : (finishLdw s w q x op d).memOk := by
  have hown := State.memOk_ownWeights (State.memOk_modMx h w.id q fun m => { m with inForce := some d }) w q d true
  unfold finishLdw
  dsimp only
  split
  · next he => exact State.memOk_cellDone (State.memOk_completeOp (of_fst_eq he hown) _ _ _ _ _) _ _
  · next he => exact of_fst_eq he hown
  · next he => exact State.memOk_stepError (State.memOk_setWeights (of_fst_eq he hown) _ _ _) _ _ _ _ _

theorem finishMul_memOk (h : s.memOk) (w : Wg) (q : Nat) (x : MxQueued) (op k rowq nb areg : Nat) (hold : Bool) (brec : W64)
    (latched : Bool) (elems : List MxElem) : (finishMul s w q x op k rowq nb areg hold brec latched elems).memOk := by
  unfold finishMul
  split
  · next d _ _ =>
    have hown := State.memOk_ownWeights h w q d false
    split
    · next he =>
      have ht := of_fst_eq he hown
      dsimp only
      split
      · next he' =>
        have hu := State.memOk_applyOp ht _ _ _ _ _ _ _ _ _ _ _ _ he'
        exact State.memOk_cellDone (State.memOk_completeOp (State.memOk_tickFree hu) _ _ _ _ _) _ _
      · exact State.memOk_noteHeld (State.memOk_reloaded ht _ _ _ _) _ _ _ _ _ _ _ _
    · next he => exact of_fst_eq he hown
    · next he => exact State.memOk_stepError (of_fst_eq he hown) _ _ _ _ _
  · exact State.memOk_stepError h _ _ _ _ _

theorem finishMult_memOk (h : s.memOk) (w : Wg) (q : Nat) (x : MxQueued) (op k rowq nb c count : Nat) (west : Bool) (wt atl : Nat)
    (wrec arec : W64) (spills : Nat) (err : Option ErrMark) :
    (finishMult s w q x op k rowq nb c count west wt atl wrec arec spills err).memOk := by
  unfold finishMult
  split
  · dsimp only
    have hown := fun d => State.memOk_ownWeights h w q d true
    split
    · next he =>
      have ht := of_fst_eq he (hown _)
      split
      · next he' =>
        have hu := State.memOk_modMx (State.memOk_applyOp ht _ _ _ _ _ _ _ _ _ _ _ _ he') w.id q
        refine State.memOk_ite (State.memOk_modMx (State.memOk_cellDone (hu _) _ _) _ _ _) ?_
        exact State.memOk_cellDone (State.memOk_completeOp (hu _) _ _ _ _ _) _ _
      · exact State.memOk_noteHeld ht _ _ _ _ _ _ _ _
    · next he => exact of_fst_eq he (hown _)
    · next he => exact State.memOk_stepError (of_fst_eq he (hown _)) _ _ _ _ _
  · exact State.memOk_stepError h _ _ _ _ _
  · exact h
  · exact State.memOk_stepError h _ _ _ _ _

theorem State.memOk_quarantine (h : s.memOk) (core : Nat) : (s.quarantine core).memOk := h

theorem State.memOk_stepCheck (h : s.memOk) (core q : Nat) (w : Wg) (x : MxQueued) {k : State → State}
    (hk : ∀ s : State, s.memOk → (k s).memOk) : (s.stepCheck core q w x k).memOk := by
  have hmod := fun f => State.memOk_modCore h core f
  refine State.memOk_ite (hk s h) (State.memOk_ite (hk _ (hmod _)) ?_)
  exact State.memOk_quarantine (State.memOk_note (State.memOk_modMx (hmod _) _ _ _) _) _

theorem memKept_execArrayStepComplete (h : s.memOk) (core quarter : Nat) : MemKept (execArrayStepComplete core quarter s) := by
  unfold execArrayStepComplete
  split
  · exact memKept_next h
  · split
    · exact memKept_next h
    · refine memKept_next (State.memOk_blame (State.memOk_stepCheck h _ _ _ _ fun s h => ?_) _)
      split
      · exact finishLdw_memOk h _ _ _ _ _
      · exact finishMul_memOk h _ _ _ _ _ _ _ _ _ _ _ _
      · exact finishMult_memOk h _ _ _ _ _ _ _ _ _ _ _ _ _ _ _ _
      · exact State.memOk_cellDone h _ _

/-! ### Slot operations -/

theorem State.memOk_slotOp (h : s.memOk) (w : Wg) (q : Nat) (x : MxQueued) : (s.slotOp w q x).memOk := by
  unfold State.slotOp
  dsimp only
  refine State.memOk_ite h ?_
  split
  · split
    · exact State.memOk_dropStep (State.memOk_completeOp (State.memOk_modMx h _ _ _) _ _ _ _ _) _ _ _
    · exact State.memOk_dropStep (State.memOk_completeOp (State.memOk_modMx h _ _ _) _ _ _ _ _) _ _ _
    · exact State.memOk_slotWaits h _ _
  · split
    · exact State.memOk_dropStep (State.memOk_completeOp h _ _ _ _ _) _ _ _
    · split
      · split
        · exact State.memOk_faultNote h _ _
        · exact h
      · exact State.memOk_dropStep (State.memOk_completeOp (State.memOk_promote _ _ _ _ h) _ _ _ _ _) _ _ _
  · exact State.memOk_dropStep (State.memOk_fillDest h _ _ _ _ _) _ _ _
  · exact h

theorem State.memOk_slotOpOf (h : s.memOk) (op : Nat) : (s.slotOpOf op).memOk := by
  unfold State.slotOpOf
  split
  · exact State.memOk_blame (State.memOk_slotOp h _ _ _) _
  · exact h

end Sys2Proof.Machine
end

section
/-! Copies, the records of a KDRAIN, and handle reads (R388 to R395, R142). -/
namespace Sys2Proof.Machine

variable {s : State}

theorem State.memOk_startCopy (h : s.memOk) (w : Wg) (dst src : W64) (len rows : Nat) (ds ss : W64) (scope : Nat) :
    (s.startCopy w dst src len rows ds ss scope).memOk :=
  State.memOk_ite (State.memOk_completeOp (State.memOk_startOp h _ _ _) _ _ _ _ _) (State.memOk_startOp h _ _ _)

theorem cpyOp_keepsMem (s : State) (f : Fields) : (cpyOp s f).KeepsMem where
  act _ _ _ _ _ _ h := State.memOk_startCopy h _ _ _ _ _ _ _ _
  dec _ _ _ _ _ := Dec.keepsMem_ite trivial (Dec.keepsMem_ite fxsKeepMem_nil trivial)
  out _ _ _ _ := keepsMem_done _

theorem cpy2dOp_keepsMem (s : State) (f : Fields) : (cpy2dOp s f).KeepsMem where
  act _ _ _ _ _ _ h := State.memOk_startCopy h _ _ _ _ _ _ _ _
  dec _ _ _ _ _ := Dec.keepsMem_ite trivial (Dec.keepsMem_ite fxsKeepMem_nil (Dec.keepsMem_ite trivial trivial))
  out _ _ _ _ := keepsMem_done _

/-! ### Progress of a copy -/

theorem State.memOk_copyPart (h : s.memOk) (core : Nat) (sp : Space) (a : W64) (n : Nat) : (s.copyPart core sp a n).1.memOk := by
  have hread := State.memOk_engineRead h core 0 sp a n
  unfold State.copyPart
  split
  · next he => exact of_fst_eq he hread
  · next he => exact of_fst_eq he hread

theorem State.memOk_copyBytes (h : s.memOk) (core : Nat) (sp : Space) (a : W64) (n : Nat) : (s.copyBytes core sp a n).1.memOk := by
  unfold State.copyBytes
  dsimp only
  split
  · exact State.memOk_copyPart h _ _ _ _
  · split
    · next he =>
      have hrest := fun a n => State.memOk_copyPart (of_fst_eq he (State.memOk_copyPart h _ _ _ _)) core sp a n
      split
      · next he' => exact of_fst_eq he' (hrest _ _)
      · exact hrest _ _
    · exact State.memOk_copyPart h _ _ _ _

theorem State.memOk_evictThenStore (h : s.memOk) (core sec loc n v : Nat) (p : Bool) :
    ((s.evictSector core sec).homeStore loc n v p).memOk := State.memOk_homeStore (State.memOk_evictSector h _ _) _ _ _ _

theorem State.memOk_copyPut (core loc : Nat) (undef : Nat → Bool) (bs : List (Nat × Bool)) :
    ∀ {s : State} (i : Nat), s.memOk → (s.copyPut core loc undef i bs).memOk := by
  induction bs with
  | nil => exact fun _ h => h
  | cons b bs ih => exact fun _ h => ih _ (State.memOk_ite h (State.memOk_evictThenStore h _ _ _ _ _ _))

theorem State.memOk_copyFree (h : s.memOk) (core : Nat) (sp : Space) (dst src : W64) (len rows : Nat) (ds ss : W64) (n : Nat) :
    (s.copyFree core sp dst src len rows ds ss n).memOk := by
  refine State.memOk_foldl _ _ (fun s k h => ?_) h
  split
  · exact State.memOk_ite (State.memOk_tickFree (State.memOk_evictThenStore h _ _ _ _ _ _)) h
  · exact h

theorem State.memOk_performAt (h : s.memOk) (scope : Nat) : (s.performAt scope).memOk := State.memOk_ite (State.memOk_cleanHosts h) h

theorem State.memOk_endCopy (h : s.memOk) (o : EngineOp) (dst src : W64) (len rows : Nat) (ds ss : W64) (scope done : Nat) (v : W32)
    (err : Option ErrMark) : (s.endCopy o dst src len rows ds ss scope done v err).memOk :=
  State.memOk_completeOp (State.memOk_performAt (State.memOk_copyFree h _ _ _ _ _ _ _ _ _) _) _ _ _ _ _

theorem State.memOk_copyStep (h : s.memOk) (o : EngineOp) (dst src : W64) (len rows : Nat) (ds ss : W64) (scope done : Nat) :
    (s.copyStep o dst src len rows ds ss scope done).memOk := by
  have hend := fun (t : State) (ht : t.memOk) done v err => State.memOk_endCopy ht o dst src len rows ds ss scope done v err
  have hbytes := fun sp a n => State.memOk_copyBytes h o.core sp a n
  unfold State.copyStep
  dsimp only
  split
  · next he =>
    have ht := of_fst_eq he (hbytes _ _ _)
    split
    · exact ht
    · exact hend _ ht _ _ _
    · exact hend _ ht _ _ _
  · next he =>
    have ht := of_fst_eq he (hbytes _ _ _)
    have hloc := fun sp d => State.memOk_agent ht (engineUnit o.core) sp d .write (fun s loc => (s, .val loc false)) fun _ _ h => h
    split
    · next he' =>
      have hu := of_fst_eq he' (hloc _ _)
      have hput := fun (c : Prop) (_ : Decidable c) loc undef bs n v p =>
        State.memOk_ite (c := c) (State.memOk_copyPut o.core loc undef bs 0 hu) (State.memOk_evictThenStore hu o.core (sectorOf loc) loc n v p)
      exact State.memOk_ite (hend _ (hput _ _ _ _ _ _ _ _) _ _ _) (State.memOk_setKind (hput _ _ _ _ _ _ _ _) _ _)
    · next he' =>
      have hu := of_fst_eq he' (hloc _ _)
      split
      · exact hu
      · exact hend _ hu _ _ _
      · exact hend _ hu _ _ _

theorem State.memOk_drainRecords (h : s.memOk) (o : EngineOp) (addr : W64) (recs : List Rec) (scope : Nat) :
    (s.drainRecords o addr recs scope).memOk := by
  have hputs := fun sp ws => State.memOk_enginePuts h o.core sp addr ws
  unfold State.drainRecords
  split
  · next he => exact of_fst_eq he (hputs _ _)
  · next he => exact State.memOk_completeOp (State.memOk_performAt (of_fst_eq he (hputs _ _)) _) _ _ _ _ _

/-! ### Handle reads -/

theorem fwaitSpec_keepsMem (f : Fields) : (fwaitSpec f).KeepsMem := fun _ _ _ _ _ => keepsMem_write _ _ _ _ _ _ _

theorem readHandle_keepsMem (l : Lane) (o : Operand) {k : Lane → LOut} (hk : ∀ l, (k l).KeepsMem) : (readHandle l o k).KeepsMem := by
  unfold readHandle
  split
  · exact keepsMem_trap _ _ _ _
  · exact LOut.fxAll_addFx (hk _) (keepsMem_readAcq _ _)

theorem ftestSpec_keepsMem (f : Fields) : (ftestSpec f).KeepsMem := fun _ _ _ _ _ =>
  keepsMem_ite (keepsMem_write _ _ _ _ _ _ _) (readHandle_keepsMem _ _ fun _ => keepsMem_write _ _ _ _ _ _ _)

theorem State.memOk_modLink (h : s.memOk) (k : Nat) (f : Link → Link) : (s.modLink k f).memOk := h

theorem State.memOk_cancelVeer (h : s.memOk) (wg op link : Nat) : (s.cancelVeer wg op link).memOk := by
  unfold State.cancelVeer
  split
  · exact State.memOk_completeOp (State.memOk_modLink h _ _) _ _ _ _ _
  · exact h

theorem State.memOk_ringGone (h : s.memOk) (wg t : Nat) : (s.ringGone wg t).memOk := State.memOk_modTable h _ _ _

theorem State.memOk_cancelOp (h : s.memOk) (op : Nat) : (s.cancelOp op).memOk := by
  unfold State.cancelOp
  split
  · exact h
  · split
    · exact State.memOk_endCopy h _ _ _ _ _ _ _ _ _ _ _
    · exact State.memOk_cancelVeer h _ _ _
    · exact State.memOk_ite (State.memOk_setKind (State.memOk_ringGone h _ _) _ _)
        (State.memOk_completeOp (State.memOk_ringGone h _ _) _ _ _ _ _)
    · exact h

theorem fcancelSpec_keepsMem (f : Fields) : (fcancelSpec f).KeepsMem := by
  intro cx i l f v
  unfold fcancelSpec
  refine keepsMem_ite ?_ (readHandle_keepsMem _ _ fun _ => keepsMem_write _ _ _ _ _ _ _)
  split
  · exact keepsMem_ite (keepsMem_stay _) (keepsMem_wait_act _ fun _ h => State.memOk_cancelOp h _)
  · exact keepsMem_stay _

/-! ### The next step of an operation -/

theorem memKept_itrOp (h : s.memOk) (wg slot op : Nat) : MemKept (s.itrOp wg slot op) := by
  unfold State.itrOp
  split
  · exact memKept_ite (memKept_execIteratorPullCommit h _ _) (memKept_next h)
  · exact memKept_ite (memKept_execIteratorPullCommit h _ _) (memKept_next h)
  · exact memKept_next h

theorem memKept_execEngineOperationComplete (h : s.memOk) (op : Nat) : MemKept (execEngineOperationComplete op s) := by
  unfold execEngineOperationComplete
  split
  · exact memKept_next (State.memOk_slotOpOf h _)
  · split
    · exact memKept_next (State.memOk_blame (State.memOk_copyStep h _ _ _ _ _ _ _ _ _) _)
    · exact memKept_next (State.memOk_blame (State.memOk_drainRecords h _ _ _ _) _)
    · exact memKept_itrOp h _ _ _
    · exact memKept_next h

end Sys2Proof.Machine
end

section
/-! Stash tiles (R346 to R351, R52 to R57) and links (R103 to R115, R391, R392). -/
namespace Sys2Proof.Machine

variable {s : State}

/-! ### Tile instructions -/

theorem State.memOk_claimWaits (h : s.memOk) (g : Gang) (core i idx : Nat) : (s.claimWaits g core i idx).memOk :=
  State.memOk_modWg (State.memOk_ite h (State.memOk_modCore h _ _)) _ _

theorem State.memOk_dropFrame (h : s.memOk) (core loc : Nat) : (s.dropFrame core loc).memOk :=
  State.memOk_foldl _ _ (fun _ _ h => State.memOk_evictSector h _ _) h

theorem State.memOk_dropBlock (h : s.memOk) (w : Wg) (a : W64) : (s.dropBlock w a).memOk := by
  refine State.memOk_getD (fun u hu => ?_) h
  obtain ⟨loc, -, rfl⟩ := Option.map_eq_some_iff.mp hu
  exact State.memOk_dropFrame h _ _

theorem State.memOk_tileEnqueue (h : s.memOk) (wg idx kind op : Nat) (tval : W64) : (s.tileEnqueue wg idx kind op tval).memOk :=
  State.memOk_tileTurn _ _ _ (State.memOk_modTile h _ _ _)

theorem tclaimOp_keepsMem (s : State) (f : Fields) : (tclaimOp s f).KeepsMem where
  act _ _ _ _ _ _ h := State.memOk_modWg (State.memOk_dropBlock h _ _) _ _
  dec _ _ _ _ _ := Dec.keepsMem_ite trivial (Dec.keepsMem_ite trivial (Dec.keepsMem_ite trivial
    (Dec.keepsMem_ite (fxsKeepMem_act fun _ h => State.memOk_claimWaits h _ _ _ _) trivial)))
  out _ _ _ _ := keepsMem_done _

theorem claimedDec_keepsMem (s : State) (cx : Cx) (v : Vals) : (claimedDec s cx v).KeepsMem := Dec.keepsMem_ite trivial trivial

/-- A tile instruction with a handle waits for its tile and for its place without an effect. -/
theorem claimedThen_keepsMem (s : State) (cx : Cx) (v : Vals) {d : Dec} (hd : d.KeepsMem) :
    (match claimedDec s cx v with | .ok => d | d => d).KeepsMem := by
  have hc := claimedDec_keepsMem s cx v
  split
  · exact hd
  · exact hc

theorem tfillOp_keepsMem (s : State) (f : Fields) : (tfillOp s f).KeepsMem where
  act _ _ _ _ _ _ h := State.memOk_tileEnqueue (State.memOk_startOp h _ _ _) _ _ _ _ _
  dec cx i _ _ v := claimedThen_keepsMem s cx v (d := if issueHolds s cx i then .wait [] else .ok) (Dec.keepsMem_ite fxsKeepMem_nil trivial)
  out _ _ _ _ := keepsMem_done _

theorem tdrainOp_keepsMem (s : State) (f : Fields) : (tdrainOp s f).KeepsMem where
  act _ _ _ _ _ _ h := State.memOk_tileEnqueue (State.memOk_startOp h _ _ _) _ _ _ _ _
  dec cx i _ _ v := claimedThen_keepsMem s cx v (d := if issueHolds s cx i then .wait [] else .ok) (Dec.keepsMem_ite fxsKeepMem_nil trivial)
  out _ _ _ _ := keepsMem_done _

theorem tfreeOp_keepsMem (s : State) (f : Fields) : (tfreeOp s f).KeepsMem where
  act _ _ _ _ _ _ h := State.memOk_tileEnqueue h _ _ _ _ _
  dec _ _ _ _ _ := claimedDec_keepsMem _ _ _
  out _ _ _ _ := keepsMem_done _

/-! ### Tile events -/

theorem State.memOk_recallBlock (h : s.memOk) (core loc : Nat) : (s.recallBlock core loc).memOk := by
  refine State.memOk_modMs (State.memOk_foldl _ _ (fun _ _ h => State.memOk_openHome h _) h) _ fun ms hm => ?_
  rw [MemSys.mem_heatAdd]
  exact hm

theorem State.memOk_readBlock (h : s.memOk) (core loc : Nat) : (s.readBlock core loc).1.memOk := by
  unfold State.readBlock
  split
  · exact State.memOk_foldl _ _ (fun _ _ h => State.memOk_regTouch h _ _ _) h
  · exact State.memOk_recallBlock (State.memOk_dropFrame h _ _) _ _

theorem State.memOk_touchTraps (h : s.memOk) (wg idx : Nat) (t : Tile) (cause : Nat) (tval : W64) :
    (s.touchTraps wg idx t cause tval).memOk :=
  State.memOk_modTile (State.memOk_foldl _ _ (fun _ _ h => State.memOk_takeTrap h _ _ _ _ _ _) h) _ _ _

theorem memKept_execTileFillComplete (h : s.memOk) (wg idx : Nat) : MemKept (execTileFillComplete wg idx s) := by
  unfold execTileFillComplete
  split
  · exact memKept_next h
  · next w t _ =>
    refine memKept_ite (memKept_next (State.memOk_tileTurn _ _ _ h)) ?_
    have hx := State.memOk_xlateBy h (engineUnit w.core) (s.space w) t.vpage .read
    dsimp only
    split
    · have hread := fun loc f => State.memOk_modTile (State.memOk_readBlock hx w.core loc) wg idx f
      exact memKept_next (State.memOk_tileTurn _ _ _ (State.memOk_ite (hread _ _) (State.memOk_completeOp (hread _ _) _ _ _ _ _)))
    · exact memKept_next (State.memOk_modTile (State.memOk_faultNote hx _ _) _ _ _)
    · refine memKept_next (State.memOk_tileTurn _ _ _ (State.memOk_ite (State.memOk_touchTraps ?_ _ _ _ _ _)
        (State.memOk_completeOp ?_ _ _ _ _ _)))
      · exact State.memOk_modTile hx _ _ _
      · exact State.memOk_modTile hx _ _ _

/-- A drain that is held notes its fault. -/
theorem memKept_drainHeld (h : s.memOk) (c : Prop) [Decidable c] (asid : BitVec 16) (va : W64) :
    MemKept (.next (if c then s.modMs (·.faultNote asid va) else s)) :=
  memKept_next (State.memOk_ite (State.memOk_faultNote h _ _) h)

theorem memKept_execTileDrainComplete (h : s.memOk) (wg idx : Nat) : MemKept (execTileDrainComplete wg idx s) := by
  unfold execTileDrainComplete
  split
  · exact memKept_next h
  · next w t _ =>
    refine memKept_ite (memKept_next (State.memOk_tileTurn _ _ _ h)) (memKept_ite
      (memKept_next (State.memOk_tileTurn _ _ _ (State.memOk_modTile h _ _ _))) (memKept_ite (memKept_drainHeld h _ _ _) ?_))
    have hdrain := fun f => State.memOk_modTile (State.memOk_drainTile h w t) wg idx f
    have hend := fun (s : State) (h : s.memOk) op v e => State.memOk_ite (c := op = 0) h (State.memOk_completeOp h wg op v e 4)
    exact memKept_ite (memKept_next (State.memOk_tileTurn _ _ _ (hend _ (hdrain _) _ _ _)))
      (memKept_next (State.memOk_tileTurn _ _ _ (hend _ (hend _ (hdrain _) _ _ _) _ _ _)))

theorem memKept_execTileRelease (h : s.memOk) (wg idx : Nat) : MemKept (execTileRelease wg idx s) := by
  unfold execTileRelease
  split
  · exact memKept_next h
  · split
    · exact memKept_next h
    · exact memKept_ite (memKept_drainHeld h _ _ _) (memKept_next (State.memOk_modWg (State.memOk_drainTile h _ _) _ _))

/-! ### Links -/

theorem State.memOk_finishServe (h : s.memOk) (link : Nat) : (s.finishServe link).memOk := by
  unfold State.finishServe
  dsimp only
  split
  · exact h
  · exact State.memOk_ite h (State.memOk_completeOp (State.memOk_modLink h _ _) _ _ _ _ _)

theorem veerOp_keepsMem (s : State) (f : Fields) : (veerOp s f).KeepsMem where
  act _ _ _ _ _ _ h := State.memOk_ite (State.memOk_completeOp (State.memOk_startOp h _ _ _) _ _ _ _ _)
    (State.memOk_modLink (State.memOk_startOp h _ _ _) _ _)
  dec _ _ _ _ _ := Dec.keepsMem_ite fxsKeepMem_nil trivial
  out _ _ _ _ := keepsMem_done _

theorem memKept_execVeerRequestServe (h : s.memOk) (link : Nat) : MemKept (execVeerRequestServe link s) := by
  unfold execVeerRequestServe
  dsimp only
  split
  · exact memKept_next h
  · exact memKept_ite (memKept_next h) (memKept_next (State.memOk_finishServe (State.memOk_modLink h _ _) _))

theorem memKept_execLaneGroupTurnStart (h : s.memOk) (link grp : Nat) : MemKept (execLaneGroupTurnStart link grp s) := by
  unfold execLaneGroupTurnStart
  dsimp only
  split
  · exact memKept_next h
  · exact memKept_ite (memKept_next (State.memOk_modLink h _ _)) (memKept_next h)

theorem memKept_execLaneGroupTurnComplete (h : s.memOk) (link grp : Nat) : MemKept (execLaneGroupTurnComplete link grp s) := by
  unfold execLaneGroupTurnComplete
  split
  · exact memKept_next h
  · split
    · exact memKept_ite (memKept_next h) (memKept_next (State.memOk_finishServe (State.memOk_modLink h _ _) _))
    · exact memKept_next h

theorem memKept_execVeerHoldExpiry (h : s.memOk) (link : Nat) : MemKept (execVeerHoldExpiry link s) := by
  unfold execVeerHoldExpiry
  split
  · exact memKept_next (State.memOk_ite (State.memOk_modLink h _ _) h)
  · exact memKept_next h

theorem memKept_execAdaptiveTurn (h : s.memOk) (link grp : Nat) : MemKept (execAdaptiveTurn link grp s) := by
  unfold execAdaptiveTurn
  dsimp only
  split
  · exact memKept_next h
  · exact memKept_ite (memKept_next (State.memOk_modLink h _ _)) (memKept_next h)

theorem memKept_execLaneGroupRetire (h : s.memOk) (link grp : Nat) : MemKept (execLaneGroupRetire link grp s) := by
  unfold execLaneGroupRetire
  split
  · exact memKept_next h
  · exact memKept_ite (memKept_next h)
      (memKept_next (State.memOk_finishServe (State.memOk_note (State.memOk_modLink h _ _) _) _))

theorem memKept_execRecalibrationStart (h : s.memOk) (link grp : Nat) : MemKept (execRecalibrationStart link grp s) := by
  unfold execRecalibrationStart
  dsimp only
  split
  · exact memKept_next h
  · exact memKept_ite (memKept_next (State.memOk_modLink h _ _)) (memKept_next h)

theorem memKept_execRecalibrationEnd (h : s.memOk) (link : Nat) : MemKept (execRecalibrationEnd link s) := by
  unfold execRecalibrationEnd
  dsimp only
  split
  · exact memKept_next h
  · have hmod := fun (s : State) (h : s.memOk) f => State.memOk_modLink h link f
    refine memKept_next (State.memOk_finishServe (hmod _ ?_ _) _)
    split
    · exact State.memOk_ite (hmod _ (hmod _ h _) _) (State.memOk_ite (hmod _ (hmod _ h _) _) (hmod _ h _))
    · exact hmod _ h _

theorem memKept_execLinkOutOfService (h : s.memOk) (link : Nat) : MemKept (execLinkOutOfService link s) :=
  memKept_ite (memKept_next h) (memKept_next (State.memOk_foldl _ _ (fun _ _ h => State.memOk_completeOp h _ _ _ _ _)
    (State.memOk_note (State.memOk_modLink h _ _) _)))

theorem memKept_execLinkRestore (h : s.memOk) (link grp : Nat) : MemKept (execLinkRestore link grp s) := by
  unfold execLinkRestore
  split
  · exact memKept_next h
  · exact memKept_ite (memKept_next h)
      (memKept_next (State.memOk_finishServe (State.memOk_modLink (State.memOk_modLink h _ _) _ _) _))

end Sys2Proof.Machine
end

section
/-! The memory system's events: pending accesses, cache maintenance, walks and fault service (R31 to R35, R53 to R75, R129). -/
namespace Sys2Proof.Machine

variable {s : State}

/-! ### A pending access -/

theorem State.memOk_dropAcc (h : s.memOk) (id : Nat) : (s.dropAcc id).memOk := h

theorem State.memOk_accViolates (h : s.memOk) (a : Acc) (cause : Nat) (tval : W64) : (s.accViolates a cause tval).memOk :=
  State.memOk_tickFree (State.memOk_foldl _ _ (fun _ _ h => State.memOk_takeTrap h _ _ _ _ _ _)
    (State.memOk_fillDest (State.memOk_dropAcc h _) _ _ _ _ _))

theorem State.memOk_lostWrite (h : s.memOk) (a : Acc) : (s.lostWrite a).memOk :=
  State.memOk_modNode (State.memOk_note (State.memOk_fillDest (State.memOk_dropAcc h _) _ _ _ _ _) _) _ _

theorem State.memOk_accReturns (h : s.memOk) (a : Acc) (v : W64) (p : Bool) : (s.accReturns a v p).memOk := by
  have hfill := State.memOk_fillDest (State.memOk_dropAcc h a.id) a.wg a.lane a.dst v p
  exact State.memOk_ite (State.memOk_acquire hfill _ _) hfill

theorem State.memOk_accStore (h : s.memOk) (a : Acc) (loc : Nat) : (s.accStore a loc).memOk :=
  State.memOk_ite (State.memOk_accViolates h _ _ _) (State.memOk_ite (State.memOk_dropAcc (State.memOk_homeUpdate h _ _ _ _ _ _ _) _)
    (State.memOk_dropAcc (State.memOk_storeMem h _ _ _ _ _ _ _) _))

theorem State.memOk_accUpdate (h : s.memOk) (a : Acc) (loc : Nat) : (s.accUpdate a loc).memOk := by
  have hupd : (if a.isLocal && locTgt loc != 2 then s.localUpdate a.core loc a.width a.kind a.data a.cmp a.poison
      else s.homeUpdate a.core loc a.width a.kind a.data a.cmp a.poison).1.memOk := by
    split
    · exact State.memOk_localUpdate h _ _ _ _ _ _ _
    · exact State.memOk_homeUpdate h _ _ _ _ _ _ _
  exact State.memOk_ite (State.memOk_accViolates h _ _ _) (State.memOk_ite (State.memOk_accViolates hupd _ _ _)
    (State.memOk_accReturns hupd _ _ _))

theorem State.memOk_awaitFar (h : s.memOk) (a : Acc) (loc : Nat) : (s.awaitFar a loc).memOk := h

theorem State.accTarget_keepsMem (s : State) (a : Acc) : (s.accTarget a).KeepsMem := by
  unfold State.accTarget
  split
  · exact fxsKeepMem_nil
  · split
    · exact Target.keepsMem_ite trivial (target_keepsMem _ _ _ _ _ _ _)
    · exact target_keepsMem _ _ _ _ _ _ _

theorem State.memOk_performAcc (h : s.memOk) (a : Acc) : (s.performAcc a).memOk := by
  have htarget := State.accTarget_keepsMem s a
  unfold State.performAcc
  refine State.memOk_ite h ?_
  split
  · next fx he =>
    rw [he] at htarget
    refine State.memOk_foldl_applyFx _ _ _ (fun x hx => ?_) h
    obtain ⟨y, hy, rfl⟩ := List.mem_map.mp hx
    exact htarget y hy
  · split
    · exact State.memOk_ite (State.memOk_faultNote h _ _) h
    · exact h
  · split
    · exact State.memOk_accViolates (State.memOk_noteWalk h _ _) _ _ _
    · exact State.memOk_accViolates h _ _ _
  · exact State.memOk_accReturns (State.memOk_tileUpdate h _ _ _ _ _ _ _ _) _ _ _
  · next loc _ =>
    refine State.memOk_ite (State.memOk_ite (State.memOk_awaitFar h _ _) (State.memOk_lostWrite h _)) ?_
    split
    · split
      · exact h
      · next he => exact State.memOk_accReturns (State.memOk_regAccess h _ _ _ he) _ _ _
    · have hused : (match s.wg? a.wg with | some w => s.used w a.va a.access | none => s).memOk := by
        split
        · exact State.memOk_used h _ _ _
        · exact h
      dsimp only
      split
      · refine State.memOk_fillDest (State.memOk_dropAcc (State.memOk_lookMem ?_ _ _ _ _ _) _) _ _ _ _ _
        exact State.memOk_ite (State.memOk_acquire hused _ _) hused
      · exact State.memOk_accStore hused _ _
      · exact State.memOk_accUpdate hused _ _

theorem State.memOk_performLive (h : s.memOk) (b : Acc) : (s.performLive b).memOk := by
  unfold State.performLive
  split
  · exact State.memOk_performAcc h _
  · exact h

theorem State.memOk_performBatch (h : s.memOk) (a : Acc) : (s.performBatch a).memOk := by
  have hgo : ∀ s : State, s.memOk →
      (((s.ms.acc.filter (s.sameBatch a)).foldl (fun l b => insertLane b l) []).foldl State.performLive s).memOk :=
    fun _ h => State.memOk_foldl _ _ (fun _ _ h => State.memOk_performLive h _) h
  unfold State.performBatch
  dsimp only
  split
  · exact State.memOk_getD (fun _ hu => State.memOk_atController h _ _ hgo _ hu) h
  · exact hgo s h

theorem State.memOk_leavePorts (h : s.memOk) : s.leavePorts.memOk :=
  State.memOk_foldl _ _ (fun _ _ h => State.memOk_performLive h _) (State.memOk_grantEntries h)

theorem State.memOk_clearBatch (s0 : State) (a : Acc) (h : s.memOk) : (State.clearBatch s0 a s).memOk := by
  unfold State.clearBatch
  dsimp only
  refine State.memOk_ite ?_ h
  split
  · refine State.memOk_modMs h _ fun ms hm => ?_
    rw [MemSys.mem_setPoison, MemSys.mem_l1Clear]
    exact hm
  · exact h

theorem memKept_execLoadDataReturn (h : s.memOk) (id : Nat) : MemKept (execLoadDataReturn id s) := by
  unfold execLoadDataReturn
  split
  · exact memKept_next h
  · exact memKept_next (State.memOk_ite (State.memOk_performAcc h _) h)

theorem memKept_execWriteAcknowledgement (h : s.memOk) (id : Nat) : MemKept (execWriteAcknowledgement id s) := by
  unfold execWriteAcknowledgement
  split
  · exact memKept_next h
  · exact memKept_next (State.memOk_ite (State.memOk_clearBatch _ _ (State.memOk_performBatch h _)) h)

theorem memKept_execOwnershipGrant (h : s.memOk) (id : Nat) : MemKept (execOwnershipGrant id s) := by
  unfold execOwnershipGrant
  split
  · exact memKept_next h
  · exact memKept_next (State.memOk_ite (State.memOk_performBatch h _) h)

theorem memKept_execFabricLoadTimeout (h : s.memOk) (id : Nat) : MemKept (execFabricLoadTimeout id s) := by
  unfold execFabricLoadTimeout
  split
  · exact memKept_next h
  · exact memKept_ite (memKept_next h) (memKept_next (State.memOk_ite (State.memOk_fillDest (State.memOk_dropAcc h _) _ _ _ _ _)
      (State.memOk_lostWrite h _)))

/-! ### Cache maintenance -/

theorem State.memOk_maintL1 (h : s.memOk) (core op : Nat) (x : L1Sector) : (s.maintL1 core op x).memOk := by
  unfold State.maintL1
  split
  · exact State.memOk_writeBack h _
  · exact State.memOk_ite (State.memOk_modMs h _ fun _ hm => hm) h
  · exact State.memOk_evictSector h _ _

theorem State.memOk_maintHome (h : s.memOk) (op level line : Nat) : (s.maintHome op level line).memOk := by
  unfold State.maintHome
  split
  · have hown := State.memOk_recallOwned h line none
    exact State.memOk_ite hown (State.memOk_modMs hown _ fun _ hm => MemSys.wf_l2Clean hm _)
  · exact State.memOk_ite h (State.memOk_modMs h _ fun _ hm => hm)
  · exact State.memOk_evictL2 h _

theorem State.memOk_maintRange (h : s.memOk) (m : Maint) (lo hi : Nat) : (s.maintRange m lo hi).memOk := by
  have hl1 := State.memOk_foldl (fun s x => s.maintL1 m.core m.op x)
    (s.ms.l1.filter fun x => x.core == m.core && decide (lo ≤ x.loc) && decide (x.loc < hi)) (fun _ _ h => State.memOk_maintL1 h _ _ _) h
  exact State.memOk_ite hl1 (State.memOk_foldl _ _ (fun _ _ h => State.memOk_maintHome h _ _ _) hl1)

theorem State.memOk_maintTrap (h : s.memOk) (m : Maint) (cause : Nat) (tval : W64) : (s.maintTrap m cause tval).memOk := by
  unfold State.maintTrap
  dsimp only
  refine State.memOk_takeTrap ?_ _ _ _ _ _ _
  refine State.memOk_modMs ?_ _ fun _ hm => hm
  split
  · exact State.memOk_noteWalk h _ _
  · exact h

theorem State.memOk_maintTouch (h : s.memOk) (m : Maint) : (s.maintTouch m).memOk := by
  unfold State.maintTouch
  split
  · exact h
  · exact State.memOk_foldl _ _ (fun _ _ h => State.memOk_xlateBy h _ _ _ _) h

theorem State.memOk_maintAct (h : s.memOk) (m : Maint) (pages : List MaintPage) : (s.maintAct m pages).memOk := by
  refine State.memOk_foldl _ _ (fun s p h => ?_) h
  split
  · exact State.memOk_maintRange h _ _ _
  · exact h

theorem memKept_execCacheMaintenanceComplete (h : s.memOk) (id : Nat) : MemKept (execCacheMaintenanceComplete id s) := by
  unfold execCacheMaintenanceComplete
  split
  · exact memKept_next h
  · refine memKept_ite (memKept_next (State.memOk_foldl _ _ (fun _ _ h => State.memOk_maintTrap h _ _ _) h))
      (memKept_ite (memKept_next (State.memOk_modMs h _ fun ms hm => ?_)) (memKept_next (State.memOk_modMs ?_ _ fun _ hm => hm)))
    · exact MemSys.wf_foldl _ (fun ms va hm => (MemSys.mem_faultNote ms _ va).symm ▸ hm) _ hm
    · exact State.memOk_foldl _ _ (fun _ _ h => State.memOk_maintAct h _ _)
        (State.memOk_foldl _ _ (fun _ _ h => State.memOk_maintTouch h _) h)

/-! ### Walks and fault service -/

theorem memKept_execTranslationMissComplete (h : s.memOk) (k : Nat) : MemKept (execTranslationMissComplete k s) := by
  unfold execTranslationMissComplete
  split
  · exact memKept_next h
  · refine memKept_ite (memKept_next h) (memKept_next (State.memOk_modMs (State.memOk_foldl _ _ (fun _ _ h => State.memOk_modWg h _ _) ?_) _
      fun ms hm => ?_))
    · split
      · exact State.memOk_walkFor h _ _ _
      · exact h
    · split
      · exact hm
      · exact hm

theorem State.memOk_failNode (h : s.memOk) (node code : Nat) : (s.failNode node code).memOk := by
  refine State.memOk_foldl _ _ (fun _ _ h => ?_) (State.memOk_modNode h _ _)
  refine State.memOk_foldl _ _ (fun _ _ h => State.memOk_ite (State.memOk_exitLane h _ _) h) ?_
  exact h

theorem State.memOk_statusFails (h : s.memOk) (asid : BitVec 16) (page : Nat) : (s.statusFails asid page).memOk := State.memOk_ite h h

theorem memKept_execPageFaultServiceComplete (h : s.memOk) (asid va : Nat) (leaf : Option LeafWrite) :
    MemKept (execPageFaultServiceComplete asid va leaf s) := by
  unfold execPageFaultServiceComplete
  refine memKept_ite (memKept_next h) ?_
  dsimp only
  split
  · split
    · refine memKept_next (State.memOk_modMs (State.memOk_homeStore ?_ _ _ _ _) _ fun _ hm => hm)
      exact h
    · exact memKept_next h
  · refine memKept_next (State.memOk_foldl _ _ (fun _ _ h => State.memOk_failNode h _ _) (State.memOk_statusFails ?_ _ _))
    exact h

end Sys2Proof.Machine
end

section
/-! Placing, saving and restoring workgroups, in-field tests and bounded waits (R201, R208, R414 to R421). -/
namespace Sys2Proof.Machine

variable {s : State}

theorem State.memOk_dropClean (h : s.memOk) (core : Nat) : (s.modMs (·.dropClean core)).memOk := h

theorem State.memOk_chooseSplit (h : s.memOk) (c : Nat) : (s.chooseSplit c).memOk :=
  State.memOk_modCore (State.memOk_ite (State.memOk_foldl _ _ (fun _ _ h => State.memOk_evictSector h _ _) h) h) _ _

theorem State.memOk_placeWg (h : s.memOk) (n : Node) (wgi c : Nat) : (s.placeWg n wgi c).memOk := by
  refine State.memOk_dropClean (State.memOk_chooseSplit ?_ _) _
  exact h

/-! ### Saves -/

theorem State.memOk_settleOps (h : s.memOk) (wg : Nat) : (s.settleOps wg).memOk := by
  refine State.memOk_foldl _ _ (fun s o h => ?_) h
  split
  · exact State.memOk_cancelOp h _
  · exact State.memOk_cancelOp h _
  · exact State.memOk_cancelOp h _
  · exact h

theorem State.memOk_dropTraces (h : s.memOk) (w : Wg) : (s.dropTraces w).memOk := h

theorem State.memOk_saveFailed (h : s.memOk) (wg node : Nat) : ((s.note (.saveFailed wg)).failNode node 5).memOk :=
  State.memOk_failNode (State.memOk_note h _) _ _

theorem State.memOk_writeSave (h : s.memOk) (w : Wg) : (s.writeSave w).memOk := by
  have htiles : (w.tiles.foldl (fun s t =>
      let r := s.drainTile w t
      if r.2 then r.1.modTile w.id t.idx Tile.cleaned else r.1) s).memOk :=
    State.memOk_foldl _ _ (fun s t h => State.memOk_ite (State.memOk_modTile (State.memOk_drainTile h w t) _ _ _)
      (State.memOk_drainTile h w t)) h
  have hfill := State.memOk_fillArea (State.memOk_modWg (State.memOk_dropTraces
    (State.memOk_cleanHosts (State.memOk_cleanCore htiles w.core true)) w) w.id Wg.saved) w.id
  unfold State.writeSave
  dsimp only
  split
  · next he => exact State.memOk_reportHalted (of_fst_eq he hfill) _
  · exact State.memOk_modMs h _ fun _ hm => hm
  · exact State.memOk_saveFailed h _ _

theorem memKept_execWorkgroupSave (h : s.memOk) (wg : Nat) (why : SaveCause) : MemKept (execWorkgroupSave wg why s) := by
  unfold execWorkgroupSave
  split
  · exact memKept_next h
  · refine memKept_ite (memKept_next h) (memKept_ite (memKept_next (State.memOk_failNode h _ _)) ?_)
    have hops := State.memOk_settleOps h wg
    dsimp only
    split
    · exact memKept_next hops
    · refine memKept_ite (memKept_next hops) ?_
      split
      · exact memKept_drainHeld hops _ _ _
      · exact memKept_next (State.memOk_writeSave hops _)

/-! ### Restores -/

theorem State.memOk_rebind (h : s.memOk) (wg core : Nat) : (s.rebind wg core).memOk :=
  State.memOk_foldl _ _ (fun _ _ h => State.memOk_ite (State.memOk_slotWaits (State.memOk_bindSlots h _ _) _ _) (State.memOk_bindSlots h _ _)) h

theorem State.memOk_restoreWg (h : s.memOk) (w : Wg) (core : Nat) : (s.restoreWg w core).memOk := by
  refine State.memOk_rebind (State.memOk_dropClean (State.memOk_chooseSplit (State.memOk_foldl _ _ (fun s t h => ?_) ?_) _) _) _ _
  · split
    · exact State.memOk_dropBlock h _ _
    · exact h
  · exact h

theorem State.memOk_restoreFrom (h : s.memOk) (w : Wg) (core : Nat) : (s.restoreFrom w core).memOk := by
  have hread := State.memOk_readArea h w
  unfold State.restoreFrom
  split
  · next he =>
    have ht := of_fst_eq he hread
    exact State.memOk_ite (State.memOk_saveFailed ht _ _) (State.memOk_ite ht (State.memOk_restoreWg ht _ _))
  · next he => exact of_fst_eq he hread
  · next he => exact State.memOk_saveFailed (of_fst_eq he hread) _ _

theorem State.memOk_tryRestore (h : s.memOk) (wg core : Nat) : (s.tryRestore wg core).memOk := by
  unfold State.tryRestore
  split
  · exact h
  · exact State.memOk_ite h (State.memOk_restoreFrom h _ _)

theorem memKept_execWorkgroupRestore (h : s.memOk) (wg core : Nat) : MemKept (execWorkgroupRestore wg core s) :=
  memKept_next (State.memOk_tryRestore h _ _)

/-! ### Regions, tests, halted cores, slot shortage -/

theorem State.memOk_skipTest (h : s.memOk) (core : Nat) : (s.skipTest core).memOk := h

theorem memKept_execNopreBoundExpiry (h : s.memOk) (wg : Nat) : MemKept (execNopreBoundExpiry wg s) := by
  unfold execNopreBoundExpiry
  split
  · exact memKept_next h
  · split
    · have hskip := fun core => State.memOk_ite (c := (s.core core).testing = true) (State.memOk_skipTest h core) h
      exact memKept_ite (memKept_next h) (memKept_ite (memKept_next (hskip _))
        (memKept_next (State.memOk_note (State.memOk_modWg (hskip _) _ _) _)))
    · exact memKept_next h

theorem memKept_execInfieldTestDue (h : s.memOk) (core : Nat) : MemKept (execInfieldTestDue core s) :=
  memKept_ite (memKept_next h) (memKept_ite (memKept_next (State.memOk_note h _)) (memKept_next h))

theorem memKept_execInfieldTestResult (h : s.memOk) (core : Nat) (pass : Bool) : MemKept (execInfieldTestResult core pass s) :=
  memKept_ite (memKept_next h) (memKept_ite (memKept_next (State.memOk_modCore h _ _)) (memKept_next h))

theorem memKept_execHaltedCoreReturn (h : s.memOk) (core : Nat) : MemKept (execHaltedCoreReturn core s) :=
  memKept_ite (memKept_next h) (memKept_next (State.memOk_modCore h _ _))

theorem memKept_execIteratorSlotMove (h : s.memOk) (wg core : Nat) : MemKept (execIteratorSlotMove wg core s) := by
  unfold execIteratorSlotMove
  split
  · exact memKept_next h
  · split
    · exact memKept_ite (memKept_next h) (memKept_next (State.memOk_modWg h _ _))
    · exact memKept_next (State.memOk_ite (State.memOk_tryRestore h _ _) h)
    · exact memKept_next h

end Sys2Proof.Machine
end

section
/-! Homes that move, sticks, and compressed pages (R38 to R46, R77, R473). -/
namespace Sys2Proof.Machine

variable {s : State}

/-! ### Epochs and migrations -/

theorem State.memOk_endEpoch (h : s.memOk) (die : Nat) : (s.endEpoch die).memOk := h

theorem State.memOk_endEpochs (h : s.memOk) : s.endEpochs.memOk :=
  State.memOk_foldl _ _ (fun _ _ h => State.memOk_ite (State.memOk_endEpoch h _) h) h

theorem State.memOk_giveEngines (h : s.memOk) : s.giveEngines.memOk := h

theorem memKept_execMigrationStart (h : s.memOk) (region frame : Nat) : MemKept (execMigrationStart region frame s) := by
  refine memKept_ite (memKept_next h) (memKept_next (State.memOk_giveEngines (State.memOk_foldl _ _
    (fun _ _ h => State.memOk_modMs h _ fun _ hm => MemSys.wf_l2Clean hm _) (State.memOk_foldl _ _ (fun _ _ h => State.memOk_recall h _ _) ?_))))
  exact h

theorem MemSys.wf_moveBytes {ms : MemSys} (h : ms.mem.wf = true) (m : Migration) : (ms.moveBytes m).mem.wf = true :=
  Memory.wf_foldl_write _ _ _ (Memory.wf_filter h _)

theorem MemSys.wf_movePage {ms : MemSys} (h : ms.mem.wf = true) (page : Nat) : (ms.movePage page).mem.wf = true := by
  unfold MemSys.movePage
  split
  · exact MemSys.wf_ite h (MemSys.wf_setSize h _ _ _)
  · exact h

theorem MemSys.wf_movePages {ms : MemSys} (h : ms.mem.wf = true) (m : Migration) (ls : List LeafAt) : (ms.movePages m ls).mem.wf = true := by
  refine MemSys.wf_foldl _ (fun _ _ h => MemSys.wf_movePage h _) _ (MemSys.wf_foldl _ (fun ms o h => ?_) _ ?_)
  · split
    · exact MemSys.wf_overflowPage h _ _
    · exact h
  · exact h

/-- A word that the module OS writes in place keeps the form. -/
theorem MemSys.wf_putWord {ms : MemSys} (h : ms.mem.wf = true) (a : Nat) (bs : List Byte) :
    ({ ms with mem := ms.mem.writeBytes a bs } : MemSys).mem.wf = true := Memory.wf_writeBytes _ h _

theorem State.memOk_moveTables (h : s.memOk) (m : Migration) (ps : List (Nat × Nat)) : (s.moveTables m ps).memOk :=
  State.memOk_foldl _ _ (fun _ _ h => State.memOk_ite (State.memOk_modMs h _ fun _ hm => MemSys.wf_putWord hm _ _) h) h

theorem State.memOk_migrate (h : s.memOk) (m : Migration) : (s.migrate m).memOk := by
  refine State.memOk_giveEngines (State.memOk_modMs (State.memOk_moveTables (State.memOk_foldl _ _ (fun _ _ h => ?_)
    (State.memOk_modMs h _ fun _ hm => MemSys.wf_moveBytes hm m)) _ _) _ fun ms hm => MemSys.wf_movePages ?_ _ _)
  · exact MemSys.wf_putWord (ms := State.ms _) h _ _
  · exact hm

theorem memKept_execMigrationCopyComplete (h : s.memOk) (region : Nat) : MemKept (execMigrationCopyComplete region s) := by
  unfold execMigrationCopyComplete
  split
  · exact memKept_next h
  · exact memKept_ite (memKept_next h) (memKept_next (State.memOk_migrate h _))

theorem State.memOk_abandon (h : s.memOk) (p : Migration → Bool) : (s.abandon p).memOk := State.memOk_ite h h

theorem State.memOk_abandonLate (h : s.memOk) : s.abandonLate.memOk := State.memOk_abandon h _

theorem memKept_execMigrationAbandon (h : s.memOk) (region : Nat) : MemKept (execMigrationAbandon region s) := by
  unfold execMigrationAbandon
  split
  · exact memKept_next h
  · exact memKept_ite (memKept_next h) (memKept_next (State.memOk_abandon h _))

/-! ### Sticks -/

theorem State.memOk_drain (h : s.memOk) (stick : Nat) : (s.drain stick).memOk := by
  unfold State.drain
  dsimp only
  split
  · exact State.memOk_note h _
  · exact State.memOk_ite h h

theorem memKept_execStickReplacement (h : s.memOk) (stick : Nat) : MemKept (execStickReplacement stick s) :=
  memKept_ite (memKept_next h) (memKept_next (State.memOk_modMs h _ fun _ hm => Memory.wf_filter hm _))

theorem memKept_execMemoryLinkRetrainFail (h : s.memOk) (stick : Nat) : MemKept (execMemoryLinkRetrainFail stick s) := by
  refine memKept_ite (memKept_next h) (memKept_next (State.memOk_note (State.memOk_abandon ?_ _) _))
  exact h

/-! ### Compressed pages -/

theorem memKept_execCompressedStateSetup (h : s.memOk) (stick : Nat) (base pool overflow : W64) :
    MemKept (execCompressedStateSetup stick base pool overflow s) := memKept_ite (memKept_next h) (memKept_next h)

theorem MemSys.wf_cleanPage {ms : MemSys} (h : ms.mem.wf = true) (page : Nat) : (ms.cleanPage page).mem.wf = true :=
  MemSys.wf_foldl _ (fun _ _ h => MemSys.wf_l2Clean h _) _ h

theorem memKept_execOverflowSlotSupplied (h : s.memOk) (stick slot : Nat) : MemKept (execOverflowSlotSupplied stick slot s) := by
  unfold execOverflowSlotSupplied
  split
  · exact memKept_next h
  · refine memKept_ite (memKept_next h) ?_
    split
    · refine memKept_next (State.memOk_modMs h _ fun ms hm => MemSys.wf_cleanPage (MemSys.wf_setSize ?_ _ _ _) _)
      exact hm
    · exact memKept_next h

theorem memKept_execCompressedPageRepack (h : s.memOk) (page : Nat) : MemKept (execCompressedPageRepack page s) := by
  unfold execCompressedPageRepack
  split
  · refine memKept_ite (memKept_next h) (memKept_next (State.memOk_modMs h _ fun ms hm => MemSys.wf_setSize ?_ _ _ _))
    exact hm
  · exact memKept_next h

end Sys2Proof.Machine
end

section
/-! The device around the cores: accesses from outside, bring-up, power loss, errors in SRAM (R466 to R473, R150, R459). -/
namespace Sys2Proof.Machine

variable {s : State}

/-! ### Accesses from outside the cores -/

theorem State.memOk_outsideUpdate (h : s.memOk) (loc : Nat) (a : OutsideAccess) (k : AccKind) (cmp : W64) :
    (s.outsideUpdate loc a k cmp).memOk := by
  have hgo := fun (s : State) (h : s.memOk) => State.memOk_homeUpdate h 64 loc a.width k a.data cmp false
  unfold State.outsideUpdate
  dsimp only
  refine State.memOk_ite h ?_
  split
  · exact State.memOk_regTouch h _ _ _
  · split
    · exact State.memOk_ite (hgo s h) (State.memOk_getD (fun _ hu => State.memOk_atController h _ _ hgo _ hu) h)
    · exact hgo s h

theorem State.memOk_outside (h : s.memOk) (loc : Nat) (a : OutsideAccess) : (s.outside loc a).memOk := by
  unfold State.outside
  split
  · exact State.memOk_forPart h _ _ fun _ h => State.memOk_outsideUpdate h _ _ _ _
  · exact State.memOk_ite (State.memOk_forPart h _ _ fun _ h => State.memOk_homeRead h _ _) (State.memOk_cleanHosts h)

theorem State.memOk_snoop (h : s.memOk) (loc : Nat) : (s.snoop loc).memOk :=
  State.memOk_modMs (State.memOk_recallOwned h _ _) _ fun _ hm => MemSys.wf_l2Drop hm _

theorem State.memOk_hostOwn (h : s.memOk) (a : OutsideAccess) : (s.hostOwn a).memOk := by
  have hsnoop := State.memOk_ite (c := s.hub.cxl = true) (State.memOk_snoop h a.addr) h
  unfold State.hostOwn
  dsimp only
  split
  · exact State.memOk_modMs hsnoop _ fun _ hm => MemSys.wf_putWord hm _ _
  · exact hsnoop

theorem memKept_execHostSnoop (h : s.memOk) (addr : Nat) : MemKept (execHostSnoop addr s) :=
  memKept_next (State.memOk_ite (State.memOk_snoop h _) h)

theorem memKept_execHostMemoryAccess (h : s.memOk) (a : OutsideAccess) : MemKept (execHostMemoryAccess a s) :=
  memKept_next (State.memOk_ite h (State.memOk_ite (State.memOk_hostOwn h _) (State.memOk_ite (State.memOk_outside h _ _) h)))

theorem memKept_execFabricRemoteAccess (h : s.memOk) (a : OutsideAccess) : MemKept (execFabricRemoteAccess a s) :=
  memKept_next (State.memOk_ite (State.memOk_outside h _ _) h)

theorem memKept_execHubCoreMemoryAccess (h : s.memOk) (a : OutsideAccess) : MemKept (execHubCoreMemoryAccess a s) :=
  memKept_next (State.memOk_ite h (State.memOk_ite (State.memOk_cleanHosts h) (State.memOk_ite (State.memOk_outside h _ _) h)))

/-! ### Registrations, ports, bring-up, power -/

theorem memKept_execAsidRegistration (h : s.memOk) (asid : BitVec 16) (desc : Option SpaceDesc) : MemKept (execAsidRegistration asid desc s) := by
  unfold execAsidRegistration
  split
  · exact memKept_ite (memKept_next h) (memKept_next h)
  · exact memKept_ite (memKept_next h) (memKept_next h)

theorem memKept_execFabricPortRetire (h : s.memOk) (port : Nat) : MemKept (execFabricPortRetire port s) :=
  memKept_ite (memKept_next h) (memKept_next h)

theorem memKept_execFabricModuleUnreachable (h : s.memOk) (m : BitVec 6) : MemKept (execFabricModuleUnreachable m s) :=
  memKept_next (State.memOk_ite h h)

theorem memKept_execDomainIdAssign (h : s.memOk) (id : BitVec 6) : MemKept (execDomainIdAssign id s) :=
  memKept_next (State.memOk_ite h h)

theorem State.memOk_takePatch (h : s.memOk) (version : W32) (signed : Bool) : (s.takePatch version signed).memOk :=
  State.memOk_ite h (State.memOk_note h _)

theorem memKept_execPowerOn (h : s.memOk) (patch : W32) (signed : Bool) (die : Nat) : MemKept (execPowerOn patch signed die s) := by
  refine memKept_ite (memKept_next h) (memKept_next ?_)
  exact State.memOk_takePatch h patch signed

theorem memKept_execOvercastEnd (h : s.memOk) (dies : List Nat) (retired : List (Nat × Nat)) : MemKept (execOvercastEnd dies retired s) := by
  unfold execOvercastEnd
  refine memKept_ite (memKept_next h) (memKept_next ?_)
  dsimp only
  refine State.memOk_foldl _ _ (fun s x h => ?_) ?_
  · split
    · exact h
    · exact State.memOk_ite h (State.memOk_note (State.memOk_modLink h _ _) _)
  · exact State.memOk_foldl (fun (s : State) d => s.note (.dieRetired d)) _ (fun _ _ h => State.memOk_note h _) h

theorem memKept_execDieOffline (h : s.memOk) (die : Nat) : MemKept (execDieOffline die s) := by
  unfold execDieOffline
  refine memKept_ite (memKept_next h) (memKept_next ?_)
  dsimp only
  refine State.memOk_note (State.memOk_foldl _ _ (fun _ _ h => State.memOk_drain h _) ?_) _
  have hcores := State.memOk_foldl (fun (s : State) c => s.quarantine (16 * die + c)) (List.range 16)
    (fun _ _ h => State.memOk_quarantine h _) h
  exact hcores

theorem memKept_execLivePatch (h : s.memOk) (version : W32) (signed : Bool) : MemKept (execLivePatch version signed s) :=
  memKept_next (State.memOk_ite h (State.memOk_takePatch h _ _))

theorem memKept_execAttestationReport (h : s.memOk) (challenge : W64) : MemKept (execAttestationReport challenge s) :=
  memKept_ite (memKept_next h) (memKept_ite (memKept_next h) (memKept_next h))

theorem memKept_execPowerLoss (h : s.memOk) : MemKept (execPowerLoss s) := memKept_next (Memory.wf_filter h _)

theorem memKept_execInputPowerLimitExpiry (h : s.memOk) (power : Nat) : MemKept (execInputPowerLimitExpiry power s) :=
  memKept_next (State.memOk_ite h h)

theorem memKept_execUncorrectableSramError (h : s.memOk) (g : SramGranule) : MemKept (execUncorrectableSramError g s) := by
  unfold execUncorrectableSramError
  dsimp only
  split
  · exact memKept_next h
  · exact memKept_next h
  · refine memKept_next (State.memOk_modMs h _ fun ms hm => ?_)
    rw [MemSys.mem_setPoison, MemSys.mem_l2Fill]
    exact hm
  · exact memKept_next h
  · exact memKept_next h
  · exact memKept_next h
  · exact memKept_next h
  · split
    · exact memKept_next h
    · exact memKept_next (State.memOk_failNode (State.memOk_ite (State.memOk_note h _) h) _ _)

end Sys2Proof.Machine
end

section
/-! Command packets, queues and nodes (R192 to R209). -/
namespace Sys2Proof.Machine

variable {s : State}

/-! ### Descriptors and the parse point -/

theorem State.memOk_modQueue (h : s.memOk) (q : Nat) (f : Queue → Queue) : (s.modQueue q f).memOk := h

/-- A write to a descriptor that is made where it is owed. -/
theorem State.memOk_owedWrite (h : s.memOk) (owed : Bool) (unit : Nat) (sp : Space) (va : W64) (n v : Nat) (g : Got) :
    (if owed then s.agentWrite unit sp va n v false else (s, g)).1.memOk := by
  split
  · exact State.memOk_agentWrite h _ _ _ _ _ _
  · exact h

theorem State.memOk_writeDesc (h : s.memOk) (q : Nat) : (s.writeDesc q).1.memOk := by
  unfold State.writeDesc
  split
  · exact h
  · exact State.memOk_modQueue (State.memOk_owedWrite (State.memOk_owedWrite h _ _ _ _ _ _ _) _ _ _ _ _ _ _) _ _

theorem State.memOk_haltQueue (h : s.memOk) (q cause pkt : Nat) : (s.haltQueue q cause pkt).memOk := by
  unfold State.haltQueue
  split
  · exact h
  · exact State.memOk_ite h (State.memOk_writeDesc (State.memOk_modQueue h _ _) _)

theorem State.memOk_haltHere (h : s.memOk) (q cause : Nat) : (s.haltHere q cause).memOk := by
  unfold State.haltHere
  split
  · exact h
  · exact State.memOk_haltQueue (State.memOk_modQueue h _ _) _ _ _

theorem State.memOk_passPacket (h : s.memOk) (q len : Nat) : (s.passPacket q len).memOk := by
  have hdesc := fun f g => State.memOk_writeDesc (State.memOk_modQueue (State.memOk_modQueue h q f) q g) q
  exact State.memOk_ite (hdesc _ _) (State.memOk_haltQueue (hdesc _ _) _ _ _)

theorem State.memOk_cpRead (h : s.memOk) (q : Nat) (va : W64) (n : Nat) {k : State → Nat → State}
    (hk : ∀ (s : State) v, s.memOk → (k s v).memOk) : (s.cpRead q va n k).memOk := by
  unfold State.cpRead
  split
  · exact h
  · have hread := fun sp => State.memOk_agentRead h hubUnit sp va n
    split
    · next he => exact hk _ _ (of_fst_eq he (hread _))
    · next he => exact of_fst_eq he (hread _)
    · next he => exact State.memOk_haltHere (of_fst_eq he (hread _)) _ _

theorem memKept_atPacket (h : s.memOk) (q : Nat) {k : Queue → State} (hk : ∀ x, (k x).memOk) : MemKept (s.atPacket q k) := by
  unfold State.atPacket
  split
  · exact memKept_next h
  · exact memKept_next (State.memOk_ite (hk _) h)

/-! ### Control packets -/

theorem memKept_execNopPacket (h : s.memOk) (q len : Nat) : MemKept (execNopPacket q len s) :=
  memKept_atPacket h _ fun _ => State.memOk_passPacket h _ _

theorem memKept_execFencePacket (h : s.memOk) (q : Nat) (cs : List FenceCtr) : MemKept (execFencePacket q cs s) :=
  memKept_atPacket h _ fun _ => State.memOk_modQueue h _ _

theorem memKept_execLoopPacket (h : s.memOk) (q : Nat) (mem : Bool) (body : W32) (word : W64) :
    MemKept (execLoopPacket q mem body word s) := by
  refine memKept_atPacket h _ fun x => ?_
  have hgo := fun (c : Prop) (_ : Decidable c) (s : State) (h : s.memOk) f g =>
    State.memOk_ite (c := c) (State.memOk_passPacket (State.memOk_modQueue h q f) q 2) (State.memOk_passPacket (State.memOk_modQueue h q g) q 2)
  exact State.memOk_ite (State.memOk_haltHere h _ _) (State.memOk_ite (State.memOk_haltHere h _ _)
    (State.memOk_ite (State.memOk_cpRead h _ _ _ fun _ _ h => hgo _ _ _ h _ _) (hgo _ _ _ h _ _)))

theorem memKept_execIfPacket (h : s.memOk) (q : Nat) (w64 : Bool) (cmp : BitVec 3) (skip : W32) (addr value : W64) :
    MemKept (execIfPacket q w64 cmp skip addr value s) :=
  memKept_atPacket h _ fun _ => State.memOk_cpRead h _ _ _ fun _ _ h =>
    State.memOk_ite (State.memOk_passPacket h _ _) (State.memOk_ite (State.memOk_haltHere h _ _)
      (State.memOk_passPacket (State.memOk_modQueue h _ _) _ _))

theorem memKept_execCkptPacket (h : s.memOk) (q : Nat) (wait : Bool) (addr : W64) : MemKept (execCkptPacket q wait addr s) := by
  refine memKept_atPacket h _ fun x => State.memOk_ite h (State.memOk_ite ?_ (State.memOk_passPacket ?_ _ _))
  · exact h
  · exact h

theorem memKept_signal (h : s.memOk) (q : Nat) (p : SignalPkt) {access : State → Space → State × Got}
    (ha : ∀ (s : State) sp, s.memOk → (access s sp).1.memOk) : MemKept (s.signal q p access) := by
  refine memKept_atPacket h _ fun x => State.memOk_ite h ?_
  have hacc := ha _ (s.spaceAt x.asid) (State.memOk_cleanHosts h)
  split
  · next he =>
    have hclean := State.memOk_cleanHosts (of_fst_eq he hacc)
    refine State.memOk_passPacket (State.memOk_ite ?_ hclean) _ _
    exact hclean
  · next he => exact of_fst_eq he hacc
  · next he => exact State.memOk_haltHere (of_fst_eq he hacc) _ _

theorem memKept_execSegmentBegin (h : s.memOk) (q : Nat) (seg retry : BitVec 4) : MemKept (execSegmentBegin q seg retry s) :=
  memKept_atPacket h _ fun _ => State.memOk_ite (State.memOk_haltHere h _ _) (State.memOk_passPacket (State.memOk_modQueue h _ _) _ _)

theorem memKept_execSegmentEnd (h : s.memOk) (q : Nat) (seg : BitVec 4) : MemKept (execSegmentEnd q seg s) := by
  refine memKept_atPacket h _ fun x => ?_
  split
  · exact State.memOk_haltHere h _ _
  · exact State.memOk_ite (State.memOk_haltHere h _ _)
      (State.memOk_passPacket (State.memOk_modQueue (State.memOk_modQueue h _ _) _ _) _ _)

theorem memKept_execReplay (h : s.memOk) (q : Nat) (seg : BitVec 4) : MemKept (execReplay q seg s) := by
  refine memKept_atPacket h _ fun x => ?_
  split
  · exact State.memOk_haltHere h _ _
  · exact State.memOk_ite (State.memOk_passPacket h _ _) (State.memOk_modQueue h _ _)

/-! ### Launches -/

theorem State.memOk_statusOver (h : s.memOk) (asid : BitVec 16) (page : Nat) : (s.statusOver asid page).memOk := h

theorem State.memOk_writeStatus (h : s.memOk) (queue : Nat) (tag asid : BitVec 16) (addr : W64) (code killed : Nat) :
    (s.writeStatus queue tag asid addr code killed).1.memOk := by
  have hwrite := fun sp v => State.memOk_agentWrite (State.memOk_cleanHosts h) hubUnit sp addr 8 v false
  unfold State.writeStatus
  dsimp only
  split
  · exact h
  · split
    · exact State.memOk_note (State.memOk_statusOver h _ _) _
    · split
      · next he => exact State.memOk_statusOver (State.memOk_cleanHosts (of_fst_eq he (hwrite _ _))) _ _
      · next he => exact State.memOk_statusOver (of_fst_eq he (hwrite _ _)) asid (addr.toNat / 65536)
      · next he => exact State.memOk_note (State.memOk_statusOver (of_fst_eq he (hwrite _ _)) _ _) _

theorem State.memOk_addNode (h : s.memOk) (q : Nat) (x : Queue) (p : LaunchPkt) (ind : Bool) : (s.addNode q x p ind).memOk := h

theorem memKept_launchAt (h : s.memOk) (q : Nat) (p : LaunchPkt) (ind : Bool) : MemKept (s.launchAt q p ind) := by
  refine memKept_atPacket h _ fun x => State.memOk_ite h ?_
  split
  · have hstatus := State.memOk_writeStatus h q p.tag x.asid p.staddr 3 0
    exact State.memOk_ite (State.memOk_haltHere hstatus _ _) hstatus
  · exact State.memOk_passPacket (State.memOk_addNode h _ _ _ _) _ _

/-! ### Events of queues -/

theorem memKept_execWidxPoll (h : s.memOk) (q : Nat) : MemKept (execWidxPoll q s) := by
  unfold execWidxPoll
  split
  · exact memKept_next h
  · refine memKept_ite (memKept_next h) (memKept_next ?_)
    have hread := fun sp va => State.memOk_agentRead h hubUnit sp va 8
    split
    · next he => exact State.memOk_modQueue (of_fst_eq he (hread _ _)) _ _
    · next he => exact of_fst_eq he (hread _ _)
    · next he => exact State.memOk_haltQueue (of_fst_eq he (hread _ _)) _ _ _

theorem memKept_execDoorbell (h : s.memOk) (cp off width : Nat) : MemKept (execDoorbell cp off width s) := by
  unfold execDoorbell
  split
  · exact memKept_execWidxPoll h _
  · exact memKept_next h

theorem memKept_execQueueResume (h : s.memOk) (q : Nat) : MemKept (execQueueResume q s) := by
  unfold execQueueResume
  split
  · exact memKept_next h
  · have hwrite := fun sp va => State.memOk_agentWrite h hubUnit sp va 8 0 false
    split
    · next he => exact memKept_next (of_fst_eq he (hwrite _ _))
    · next he => exact memKept_next (State.memOk_modQueue (of_fst_eq he (hwrite _ _)) _ _)

theorem memKept_execQueueHaltedByModuleOs (h : s.memOk) (q : Nat) : MemKept (execQueueHaltedByModuleOs q s) := by
  unfold execQueueHaltedByModuleOs
  split
  · exact memKept_next h
  · have hwrite := fun sp va => State.memOk_agentWrite h hubUnit sp va 8 (2 ^ 63) false
    split
    · next he => exact memKept_next (of_fst_eq he (hwrite _ _))
    · next he => exact memKept_next (State.memOk_modQueue (of_fst_eq he (hwrite _ _)) _ _)

theorem memKept_execQueueBinding (h : s.memOk) (q asid : Nat) (desc : W64) : MemKept (execQueueBinding q asid desc s) := by
  refine memKept_ite (memKept_next h) ?_
  have hwords := fun sp => State.memOk_agentWords hubUnit sp 5 desc h
  split
  · next he =>
    have ht := of_fst_eq (P := State.memOk) he (hwords _)
    exact memKept_next ht
  · next he => exact memKept_next (of_fst_eq he (hwords _))

theorem State.memOk_readCounters (q : Nat) (x : Queue) (cs : List FenceWait) :
    ∀ {s : State}, s.memOk → (s.readCounters q x cs).1.memOk := by
  induction cs with
  | nil => exact fun h => h
  | cons c cs ih =>
    intro s h
    have hread := fun sp n => State.memOk_agentRead h hubUnit sp (c.c.addr.zeroExtend 64) n
    unfold State.readCounters
    split
    · split
      · next he => exact of_fst_eq he (ih h)
      · exact ih h
    · split
      · next he =>
        have hrest := ih (of_fst_eq he (hread _ _))
        split
        · next he' => exact of_fst_eq he' hrest
        · exact hrest
      · next he =>
        have hrest := ih (of_fst_eq he (hread _ _))
        split
        · next he' => exact of_fst_eq he' hrest
        · exact hrest
      · next he => exact of_fst_eq he (hread _ _)

theorem State.memOk_failFence (h : s.memOk) (q : Nat) : (s.failFence q).memOk :=
  State.memOk_ite (State.memOk_modQueue h _ _) (State.memOk_haltHere h _ _)

theorem memKept_execFenceCounterPoll (h : s.memOk) (q : Nat) : MemKept (execFenceCounterPoll q s) := by
  unfold execFenceCounterPoll
  split
  · exact memKept_next h
  · split
    · refine memKept_ite (memKept_next h) (memKept_ite (memKept_next (State.memOk_failFence h _)) ?_)
      have hread := fun x cs => State.memOk_readCounters q x cs h
      split
      · next he => exact memKept_next (State.memOk_haltHere (of_fst_eq he (hread _ _)) _ _)
      · next he =>
        have ht := of_fst_eq he (hread _ _)
        exact memKept_ite (memKept_next (State.memOk_passPacket (State.memOk_modQueue ht _ _) _ _))
          (memKept_next (State.memOk_modQueue ht _ _))
    · exact memKept_next h

theorem memKept_execFenceDeadline (h : s.memOk) (q : Nat) : MemKept (execFenceDeadline q s) := by
  unfold execFenceDeadline
  split
  · exact memKept_next h
  · split
    · exact memKept_next (State.memOk_ite h (State.memOk_failFence h _))
    · exact memKept_next h

theorem State.memOk_ckptRelease (h : s.memOk) (q : Nat) : (s.ckptRelease q).memOk := by
  unfold State.ckptRelease
  split
  · exact h
  · exact State.memOk_ite (State.memOk_passPacket (State.memOk_modQueue h _ _) _ _) h

/-! ### Nodes -/

theorem State.memOk_cancelAfter (queue fuel : Nat) : ∀ {s : State} (bad : List Nat), s.memOk → (s.cancelAfter queue fuel bad).memOk := by
  induction fuel with
  | zero => exact fun _ h => h
  | succ fuel ih =>
    exact fun _ h => State.memOk_ite h (ih _ (State.memOk_foldl _ _ (fun _ _ h => State.memOk_modNode h _ _) h))

theorem State.memOk_finishNode (h : s.memOk) (n : Node) (code : Nat) : (s.finishNode n code).memOk := h

theorem State.memOk_rejectLate (h : s.memOk) (n : Node) (cause : Nat) : (s.rejectLate n cause).memOk := by
  have hstatus := State.memOk_writeStatus h n.queue n.launch.tag n.asid n.launch.staddr 3 0
  exact State.memOk_ite hstatus (State.memOk_haltQueue (State.memOk_cancelAfter _ _ _ (State.memOk_finishNode hstatus _ _)) _ _ _)

theorem memKept_execNodeReady (h : s.memOk) (n : Nat) : MemKept (execNodeReady n s) := by
  unfold execNodeReady
  split
  · exact memKept_next h
  · refine memKept_ite (memKept_next h) (memKept_ite (memKept_next (State.memOk_modNode h _ _)) ?_)
    have hread := fun sp va => State.memOk_agentRead h hubUnit sp va 4
    split
    · next he => exact memKept_next (of_fst_eq he (hread _ _))
    · next he =>
      have ht := of_fst_eq he (hread _ _)
      have hreject := fun x cause => memKept_next (State.memOk_rejectLate ht x cause)
      exact memKept_ite (memKept_next (State.memOk_modNode ht _ _)) (memKept_ite (hreject _ _)
        (memKept_ite (hreject _ _) (memKept_next (State.memOk_modNode ht _ _))))
    · next he => exact memKept_next (State.memOk_rejectLate (of_fst_eq he (hread _ _)) _ _)

theorem State.memOk_placeAll (n : Nat) (ps : List Placement) :
    ∀ {s t : State}, s.memOk → s.placeAll n ps = some t → t.memOk := by
  induction ps with
  | nil => exact fun h ht => Option.some.inj ht ▸ h
  | cons p ps ih =>
    intro s t h ht
    unfold State.placeAll at ht
    split at ht
    · cases ht
    · split at ht
      · exact ih (State.memOk_placeWg h _ _ _) ht
      · cases ht

theorem memKept_execNodeDispatch (h : s.memOk) (n : Nat) (places : List Placement) : MemKept (execNodeDispatch n places s) := by
  unfold execNodeDispatch
  split
  · exact memKept_next h
  · have hreject := fun x cause => memKept_next (State.memOk_rejectLate h x cause)
    refine memKept_ite (memKept_next h) (memKept_ite (hreject _ _) (memKept_ite (hreject _ _) (memKept_ite (memKept_next h)
      (memKept_ite (memKept_next h) ?_))))
    split
    · exact memKept_next h
    · next he => exact memKept_next (State.memOk_modNode (State.memOk_placeAll _ _ h he) _ _)

theorem memKept_execNodeComplete (h : s.memOk) (n : Nat) : MemKept (execNodeComplete n s) := by
  unfold execNodeComplete
  split
  · exact memKept_next h
  · refine memKept_ite (memKept_next h) (memKept_next ?_)
    have hstatus := fun q tag asid addr code killed => State.memOk_writeStatus (State.memOk_foldl (fun (s : State) (w : Wg) => s.cleanCore w.core true)
      (s.ex.wgs.filter fun w => w.node == n) (fun _ _ h => State.memOk_cleanCore h _ _) h) q tag asid addr code killed
    exact State.memOk_ite (State.memOk_finishNode (hstatus _ _ _ _ _ _) _ _) (hstatus _ _ _ _ _ _)

theorem State.memOk_cancelStep (h : s.memOk) (g : SegState) (queue : Nat) : (s.cancelStep g queue).memOk :=
  State.memOk_cancelAfter _ _ _ (State.memOk_foldl _ _ (fun _ _ h => State.memOk_modNode h _ _) h)

theorem State.memOk_retryStep (h : s.memOk) (q : Nat) (g : SegState) (earlier : Bool) : (s.retryStep q g earlier).memOk := by
  have hcancel := State.memOk_cancelStep h g q
  exact State.memOk_ite hcancel (State.memOk_ite (State.memOk_modQueue hcancel _ _)
    (State.memOk_haltQueue (State.memOk_modQueue hcancel _ _) _ _ _))

theorem memKept_execSegmentRetry (h : s.memOk) (q : Nat) : MemKept (execSegmentRetry q s) := by
  unfold execSegmentRetry
  split
  · exact memKept_next h
  · split
    · exact memKept_next (State.memOk_ite (State.memOk_retryStep h _ _ _)
        (State.memOk_ite (State.memOk_modQueue (State.memOk_cancelStep h _ _) _ _) h))
    · split
      · exact memKept_next (State.memOk_retryStep h _ _ _)
      · exact memKept_next h

theorem memKept_execClassPreemption (h : s.memOk) (n wgi core : Nat) : MemKept (execClassPreemption n wgi core s) := by
  unfold execClassPreemption
  split
  · exact memKept_next h
  · exact memKept_ite (memKept_next h) (memKept_next (State.memOk_foldl _ _ (fun _ _ h => State.memOk_modWg h _ _) h))

end Sys2Proof.Machine
end

section
/-! EVERY ARM OF `exec` KEEPS THE CANONICAL FORM: the arms grouped by the lemma that says so. -/
namespace Sys2Proof.Machine

variable {s : State}

theorem memKept_execSignalWrite64 (h : s.memOk) (q : Nat) (p : SignalPkt) : MemKept (execSignalWrite64 q p s) :=
  memKept_signal h _ _ fun _ _ h => State.memOk_agentWrite h _ _ _ _ _ _

theorem memKept_execSignalWrite32 (h : s.memOk) (q : Nat) (p : SignalPkt) : MemKept (execSignalWrite32 q p s) :=
  memKept_signal h _ _ fun _ _ h => State.memOk_agentWrite h _ _ _ _ _ _

theorem memKept_execSignalRedAdd (h : s.memOk) (q : Nat) (p : SignalPkt) : MemKept (execSignalRedAdd q p s) :=
  memKept_signal h _ _ fun _ _ h => State.memOk_agentAdd h _ _ _ _

theorem memKept_exec (i : Instr) (h : s.memOk) : MemKept (exec i s) := by
  cases i with
  | mov _ => exact memKept_execMov _ h
  | gshape _ => exact memKept_execGshape _ h
  | halt _ => exact memKept_execHalt _ h
  | nopPacket _ _ => exact memKept_execNopPacket h _ _
  | fencePacket _ _ => exact memKept_execFencePacket h _ _
  | loopPacket _ _ _ _ => exact memKept_execLoopPacket h _ _ _ _
  | ifPacket _ _ _ _ _ _ => exact memKept_execIfPacket h _ _ _ _ _ _
  | segmentBegin _ _ _ => exact memKept_execSegmentBegin h _ _ _
  | segmentEnd _ _ => exact memKept_execSegmentEnd h _ _
  | replay _ _ => exact memKept_execReplay h _ _
  | ckptPacket _ _ _ => exact memKept_execCkptPacket h _ _ _
  | doorbell _ _ _ => exact memKept_execDoorbell h _ _ _
  | widxPoll _ => exact memKept_execWidxPoll h _
  | queueResume _ => exact memKept_execQueueResume h _
  | fenceCounterPoll _ => exact memKept_execFenceCounterPoll h _
  | fenceDeadline _ => exact memKept_execFenceDeadline h _
  | nodeReady _ => exact memKept_execNodeReady h _
  | nodeDispatch _ _ => exact memKept_execNodeDispatch h _ _
  | nodeComplete _ => exact memKept_execNodeComplete h _
  | segmentRetry _ => exact memKept_execSegmentRetry h _
  | classPreemption _ _ _ => exact memKept_execClassPreemption h _ _ _
  | arrayStep _ _ => exact memKept_execArrayStep h _ _
  | arrayStepComplete _ _ => exact memKept_execArrayStepComplete h _ _
  | arraySlotPreemption _ _ => exact memKept_execArraySlotPreemption h _ _
  | mxmultChunk _ _ => exact memKept_execMxmultChunk h _ _
  | translationMissComplete _ => exact memKept_execTranslationMissComplete h _
  | pageFaultServiceComplete _ _ _ => exact memKept_execPageFaultServiceComplete h _ _ _
  | loadDataReturn _ => exact memKept_execLoadDataReturn h _
  | tileFillComplete _ _ => exact memKept_execTileFillComplete h _ _
  | tileDrainComplete _ _ => exact memKept_execTileDrainComplete h _ _
  | tileRelease _ _ => exact memKept_execTileRelease h _ _
  | migrationStart _ _ => exact memKept_execMigrationStart h _ _
  | migrationCopyComplete _ => exact memKept_execMigrationCopyComplete h _
  | migrationAbandon _ => exact memKept_execMigrationAbandon h _
  | overflowSlotSupplied _ _ => exact memKept_execOverflowSlotSupplied h _ _
  | memoryLinkRetrainFail _ => exact memKept_execMemoryLinkRetrainFail h _
  | driftRingWrite _ _ => exact memKept_execDriftRingWrite h _ _
  | kmergeBatch _ => exact memKept_execKmergeBatch h _
  | engineOperationComplete _ => exact memKept_execEngineOperationComplete h _
  | iteratorPullCommit _ _ => exact memKept_execIteratorPullCommit h _ _
  | iteratorSlotMove _ _ => exact memKept_execIteratorSlotMove h _ _
  | veerRequestServe _ => exact memKept_execVeerRequestServe h _
  | laneGroupTurnStart _ _ => exact memKept_execLaneGroupTurnStart h _ _
  | laneGroupTurnComplete _ _ => exact memKept_execLaneGroupTurnComplete h _ _
  | veerHoldExpiry _ => exact memKept_execVeerHoldExpiry h _
  | adaptiveTurn _ _ => exact memKept_execAdaptiveTurn h _ _
  | laneGroupRetire _ _ => exact memKept_execLaneGroupRetire h _ _
  | recalibrationStart _ _ => exact memKept_execRecalibrationStart h _ _
  | recalibrationEnd _ => exact memKept_execRecalibrationEnd h _
  | linkOutOfService _ => exact memKept_execLinkOutOfService h _
  | linkRestore _ _ => exact memKept_execLinkRestore h _ _
  | barrierArrivalCount _ _ _ _ => exact memKept_execBarrierArrivalCount h _ _ _ _
  | treeBarrierRelease _ => exact memKept_execTreeBarrierRelease h _
  | treeBarrierRearm _ => exact memKept_execTreeBarrierRearm h _
  | localBarrierRelease _ _ => exact memKept_execLocalBarrierRelease h _ _
  | localBarrierRearm _ _ => exact memKept_execLocalBarrierRearm h _ _
  | queueFlitDelivery _ => exact memKept_execQueueFlitDelivery h _
  | workgroupSave _ _ => exact memKept_execWorkgroupSave h _ _
  | workgroupRestore _ _ => exact memKept_execWorkgroupRestore h _ _
  | nopreBoundExpiry _ => exact memKept_execNopreBoundExpiry h _
  | infieldTestDue _ => exact memKept_execInfieldTestDue h _
  | infieldTestResult _ _ => exact memKept_execInfieldTestResult h _ _
  | ckptIncrement _ => exact memKept_execCkptIncrement h _
  | glq _ _ _ => exact memKept_execGlq h _ _ _
  | metadataDelivery _ _ => exact memKept_execMetadataDelivery h _ _
  | gateLogitPop _ => exact memKept_execGateLogitPop h _
  | ringConfiguration _ _ _ => exact memKept_execRingConfiguration h _ _ _
  | asidRegistration _ _ => exact memKept_execAsidRegistration h _ _
  | hostSnoop _ => exact memKept_execHostSnoop h _
  | hostMemoryAccess _ => exact memKept_execHostMemoryAccess h _
  | fabricPortRetire _ => exact memKept_execFabricPortRetire h _
  | fabricLoadTimeout _ => exact memKept_execFabricLoadTimeout h _
  | domainIdAssign _ => exact memKept_execDomainIdAssign h _
  | powerOn _ _ _ => exact memKept_execPowerOn h _ _ _
  | overcastEnd _ _ => exact memKept_execOvercastEnd h _ _
  | livePatch _ _ => exact memKept_execLivePatch h _ _
  | attestationReport _ => exact memKept_execAttestationReport h _
  | dieOffline _ => exact memKept_execDieOffline h _
  | stickReplacement _ => exact memKept_execStickReplacement h _
  | inputPowerLimitExpiry _ => exact memKept_execInputPowerLimitExpiry h _
  | writeAcknowledgement _ => exact memKept_execWriteAcknowledgement h _
  | ownershipGrant _ => exact memKept_execOwnershipGrant h _
  | cacheMaintenanceComplete _ => exact memKept_execCacheMaintenanceComplete h _
  | uncorrectableSramError _ => exact memKept_execUncorrectableSramError h _
  | fabricRemoteAccess _ => exact memKept_execFabricRemoteAccess h _
  | fabricModuleUnreachable _ => exact memKept_execFabricModuleUnreachable h _
  | hubCoreMemoryAccess _ => exact memKept_execHubCoreMemoryAccess h _
  | compressedStateSetup _ _ _ _ => exact memKept_execCompressedStateSetup h _ _ _ _
  | compressedPageRepack _ => exact memKept_execCompressedPageRepack h _
  | queueBinding _ _ _ => exact memKept_execQueueBinding h _ _ _
  | queueHaltedByModuleOs _ => exact memKept_execQueueHaltedByModuleOs h _
  | haltedCoreReturn _ => exact memKept_execHaltedCoreReturn h _
  | powerLoss => exact memKept_execPowerLoss h
  | nop _ => exact (nopSpec_keepsMem _).laneExec _ h
  | sel _ => exact (selSpec_keepsMem _).laneExec _ h
  | iadd _ | isub _ | imul _ | imulhi _ | imad _ | imin _ | imax _ | iabs _ | lea _ | clamp _ | land _ | lor _
    | lxor _ | ltab _ | shl _ | shr _ | sar _ | rot _ | bfe _ | bfi _ | popc _ | clz _ | brev _ | permb _
    | pmovFromPredicate _ | fadd _ | fsub _ | fmul _ | ffma _ | fmin _ | fmax _ | fabs _ | fneg _ | fclass _
    | fround _ | fscale _ | frcp _ | frsq _ | fexp2 _ | flog2 _ | ftanh _ | cvtf _ | cvtfi _ | cvtif _ | dot4 _
    | dot8 _ | idot4 _ | idot8 _ | pfma _ =>
    exact (aluSpec_keepsMem _ _).laneExec _ h
  | iaddc _ => exact (iaddcSpec_keepsMem _).laneExec _ h
  | icmp _ | plop _ | pmovToPredicate _ | fcmp _ =>
    exact (predSpec_keepsMem _ _).laneExec _ h
  | bra _ _ => exact (braSpec_keepsMem _ _).laneExec _ h
  | brx _ => exact (brxSpec_keepsMem _).laneExec _ h
  | call _ _ => exact (callSpec_keepsMem _ _).laneExec _ h
  | callx _ => exact (callxSpec_keepsMem _).laneExec _ h
  | ret _ => exact (retSpec_keepsMem _).laneExec _ h
  | join _ _ => exact (joinSpec_keepsMem _ _).laneExec _ h
  | exitOp _ => exact (exitSpec_keepsMem _).laneExec _ h
  | yield _ => exact (yieldSpec_keepsMem _).laneExec _ h
  | doze _ => exact (dozeSpec_keepsMem _).laneExec _ h
  | repOp _ => exact (repSpec_keepsMem _).laneExec _ h
  | elect _ => exact (electSpec_keepsMem _).laneExec _ h
  | wfill _ => exact (wfillSpec_keepsMem _ _).laneExec _ h
  | pack8 _ | pack4 _ =>
    exact (packSpec_keepsMem _ _ _ _ _).laneExec _ h
  | unpk8 _ | unpk4 _ =>
    exact (unpackSpec_keepsMem _ _ _ _ _).laneExec _ h
  | lperm _ => exact (lpermSpec_keepsMem _).laneExec _ h
  | qswap _ => exact (qswapSpec_keepsMem _).laneExec _ h
  | qbcast _ => exact (qbcastSpec_keepsMem _).laneExec _ h
  | ld _ => exact (ldSpec_keepsMem _ _).laneExec _ h
  | lds _ => exact (ldsSpec_keepsMem _ _).laneExec _ h
  | ldu _ => exact (lduSpec_keepsMem _ _).laneExec _ h
  | ldl _ => exact (ldlSpec_keepsMem _ _).laneExec _ h
  | pref _ => exact (prefSpec_keepsMem _).laneExec _ h
  | atom _ => exact (atomSpec_keepsMem _ _).laneExec _ h
  | atomcas _ => exact (atomcasSpec_keepsMem _ _).laneExec _ h
  | red _ => exact (redSpec_keepsMem _ _).laneExec _ h
  | atoms _ => exact (atomsSpec_keepsMem _ _).laneExec _ h
  | fence _ => exact (fenceSpec_keepsMem _ _).laneExec _ h
  | cmaintClean _ | cmaintInv _ | cmaintClinv _ =>
    exact (cmaintSpec_keepsMem _ _ _).laneExec _ h
  | barinit _ => exact (barinitSpec_keepsMem _ _).laneExec _ h
  | barreg _ => exact (barregSpec_keepsMem _ _).laneExec _ h
  | bararr _ => exact (bararrSpec_keepsMem _ _).laneExec _ h
  | barwait _ => exact (barwaitSpec_keepsMem _ _).laneExec _ h
  | barsync _ => exact (barsyncSpec_keepsMem _ _).laneExec _ h
  | bardrop _ => exact (bardropSpec_keepsMem _ _).laneExec _ h
  | qbind _ => exact (qbindSpec_keepsMem _ _).laneExec _ h
  | qpoll _ => exact (qpollSpec_keepsMem _).laneExec _ h
  | tstat _ => exact (tstatSpec_keepsMem _ _).laneExec _ h
  | rbres _ => exact (rbresSpec_keepsMem _ _).laneExec _ h
  | rbpub _ => exact (rbpubSpec_keepsMem _ _).laneExec _ h
  | rbtake _ => exact (rbtakeSpec_keepsMem _ _).laneExec _ h
  | rbfree _ => exact (rbfreeSpec_keepsMem _ _).laneExec _ h
  | rbmeta _ => exact (rbmetaSpec_keepsMem _ _).laneExec _ h
  | mxmul _ => exact (mxmulSpec_keepsMem _ _).laneExec _ h
  | mxrd _ => exact (mxrdSpec_keepsMem _).laneExec _ h
  | mxstat _ => exact (mxstatSpec_keepsMem _).laneExec _ h
  | mxfence _ => exact (mxfenceSpec_keepsMem _).laneExec _ h
  | cvqry _ => exact (cvqrySpec_keepsMem _).laneExec _ h
  | kacc _ => exact (kaccSpec_keepsMem _ _ _).laneExec _ h
  | kprobe _ => exact (kprobeSpec_keepsMem _ _).laneExec _ h
  | kstat _ => exact (kstatSpec_keepsMem _).laneExec _ h
  | itrnext _ => exact (itrnextSpec_keepsMem _).laneExec _ h
  | veerq _ => exact (veerqSpec_keepsMem _ _).laneExec _ h
  | fwait _ => exact (fwaitSpec_keepsMem _).laneExec _ h
  | ftest _ => exact (ftestSpec_keepsMem _).laneExec _ h
  | fcancel _ => exact (fcancelSpec_keepsMem _).laneExec _ h
  | trapOp _ => exact (trapSpec_keepsMem _).laneExec _ h
  | tret _ => exact (tretSpec_keepsMem _ _).laneExec _ h
  | csrr _ => exact (csrrSpec_keepsMem _ _).laneExec _ h
  | csrw _ => exact (csrwSpec_keepsMem _).laneExec _ h
  | csrwTpcTbase _ => exact (csrwTpcTbaseSpec_keepsMem _).laneExec _ h
  | csrwTstatus _ => exact (csrwTstatusSpec_keepsMem _).laneExec _ h
  | csrwErrseed _ => exact (csrwErrseedSpec_keepsMem _).laneExec _ h
  | csrwErrrate _ => exact (csrwErrrateSpec_keepsMem _).laneExec _ h
  | tlbprobe _ => exact (tlbprobeSpec_keepsMem _ _).laneExec _ h
  | nopreBegin _ => exact (nopreBeginSpec_keepsMem _).laneExec _ h
  | nopreEnd _ => exact (nopreEndSpec_keepsMem _).laneExec _ h
  | bkpt _ => exact (bkptSpec_keepsMem _).laneExec _ h
  | errinjReg _ => exact (errinjRegSpec_keepsMem _).laneExec _ h
  | errinjOnce _ => exact (errinjOnceSpec_keepsMem _).laneExec _ h
  | errinjTwice _ => exact (errinjTwiceSpec_keepsMem _).laneExec _ h
  | errinjSector _ => exact (errinjSectorSpec_keepsMem _ _).laneExec _ h
  | wspill _ => exact (wspillSpec_keepsMem _ _).laneExecWith _ (fun _ _ _ h => State.memOk_clearCovered h _ _) h
  | st _ => exact (stSpec_keepsMem _ _).laneExecWith _ (fun _ _ _ h => State.memOk_clearCovered h _ _) h
  | sts _ => exact (stsSpec_keepsMem _ _).laneExecWith _ (fun _ _ _ h => State.memOk_clearCovered h _ _) h
  | stl _ => exact (stlSpec_keepsMem _ _).laneExecWith _ (fun _ _ _ h => State.memOk_clearCovered h _ _) h
  | tclaim _ => exact (tclaimOp_keepsMem _ _).onceExec _ h
  | tfill _ => exact (tfillOp_keepsMem _ _).onceExec _ h
  | tdrain _ => exact (tdrainOp_keepsMem _ _).onceExec _ h
  | tfree _ => exact (tfreeOp_keepsMem _ _).onceExec _ h
  | mxldw _ => exact (mxldwOp_keepsMem _ _).onceExec _ h
  | mxmult _ => exact (mxmultOp_keepsMem _ _).onceExec _ h
  | mxprom _ => exact (mxpromOp_keepsMem _ _).onceExec _ h
  | mxzero _ => exact (mxzeroOp_keepsMem _ _).onceExec _ h
  | cvset _ => exact (cvsetOp_keepsMem _).onceExec _ h
  | kdrain _ => exact (kdrainOp_keepsMem _ _ _).onceExec _ h
  | kcfg _ => exact (kcfgOp_keepsMem _ _).onceExec _ h
  | kflush _ => exact (kflushOp_keepsMem _ _ _).onceExec _ h
  | kmergeBlock _ => exact (kmergeBlockOp_keepsMem _ _ _).onceExec _ h
  | kmergeRing _ => exact (kmergeRingOp_keepsMem _ _ _).onceExec _ h
  | kclear _ => exact (kclearOp_keepsMem _ _).onceExec _ h
  | itrsrcRange _ | itrsrcList _ | itrsrcBitmap _ | itrmapAffine _ | itrmapGather _ | itrfilt _ | itrzip _
    | itrchain _ | itrflat _ =>
    exact (pushOp_keepsMem _ _ _ _ _ _ _).onceExec _ h
  | itrenough _ => exact (itrenoughOp_keepsMem _).onceExec _ h
  | itrsave _ => exact (itrsaveOp_keepsMem _ _).onceExec _ h
  | itrload _ => exact (itrloadOp_keepsMem _ _).onceExec _ h
  | cpy _ => exact (cpyOp_keepsMem _ _).onceExec _ h
  | cpy2d _ => exact (cpy2dOp_keepsMem _ _).onceExec _ h
  | veer _ => exact (veerOp_keepsMem _ _).onceExec _ h
  | tlbinvPage _ | tlbinvAs _ | tlbinvAll _ =>
    exact (tlbinvOp_keepsMem _ _ _ _ _ _ _).onceExec _ h
  | ckpt _ => exact (ckptOp_keepsMem _ _).onceExec _ h
  | voteAll _ | voteAny _ | voteBallot _ | voteCount _ | matchOp _ | lshfl _ | gred _ | gscan _ | v2s _ =>
    exact memKept_groupExec _ _ h
  | rdspec _ => exact memKept_withGang fun _ _ _ => (rdspecSpec_keepsMem _ _ _).laneExec _ h
  | launch _ _ | indirectLaunch _ _ =>
    exact memKept_launchAt h _ _ _
  | signalWrite64 _ _ => exact memKept_execSignalWrite64 h _ _
  | signalWrite32 _ _ => exact memKept_execSignalWrite32 h _ _
  | signalRedAdd _ _ => exact memKept_execSignalRedAdd h _ _
  | joinTimeout _ _ | dozeExpiry _ _ | mres _ _ | ridxWrite _ _ _ | controlBlockAccessIgnored _ _
    | partitionTableWrite _ _ | powerCapEvaluation _ _ _ | telemetryPublish _ _ | connectorHealthReport _ _
    | memoryLinkCrcReplay _ | doldrumsEntry _ _ =>
    exact memKept_next h
  | migrationEpoch _ => exact memKept_next (State.memOk_ite (State.memOk_endEpoch h _) h)
  | stickDrain _ => exact memKept_next (State.memOk_ite h (State.memOk_drain h _))
  | coprocessorReserveRetry _ => exact memKept_next (State.memOk_copRun _ _ h)

end Sys2Proof.Machine
end

section
/-! EVERY STEP KEEPS THE CANONICAL FORM: the actions of the agenda, the empty agenda, and what settles after them. -/
namespace Sys2Proof.Machine

variable {s : State}

/-! ### What an action comes to -/

/-- The state that an action leaves, or runs an instruction in, has its memory in the canonical form. -/
def Act.KeepsMem : Act → Prop
  | .run _ s => s.memOk
  | .done s => s.memOk

theorem Act.KeepsMem.memKept {a : Act} (h : a.KeepsMem) : MemKept a.run! := by
  cases a with
  | run i s => exact memKept_exec i h
  | done s => exact memKept_next h

theorem Act.keepsMem_ite {c : Prop} [Decidable c] {a b : Act} (ha : a.KeepsMem) (hb : b.KeepsMem) : (if c then a else b).KeepsMem := by
  split
  · exact ha
  · exact hb

/-! ### A picker's choice -/

theorem State.memOk_fetch : FetchKept fun s t => s.memOk → t.memOk where
  refl _ h := h
  trans h1 h2 h := h2 (h1 h)
  xlate _ _ _ _ h := State.memOk_xlateBy h _ _ _ _
  openHome _ _ h := State.memOk_openHome h _
  faultNote _ _ _ h := State.memOk_faultNote h _ _

theorem State.memOk_clauseOf (h : s.memOk) (w : Wg) (l : Lane) : (s.clauseOf w l).2.memOk := State.memOk_fetch.clauseOf s w l h

theorem State.memOk_gangTrap (h : s.memOk) (w : Wg) (lanes : List Nat) (cause : Nat) (tval : W64) : (s.gangTrap w lanes cause tval).memOk :=
  State.memOk_modWg (State.memOk_foldl _ _ (fun _ _ h => State.memOk_takeTrap h _ _ _ _ _ _) (State.memOk_modWg h _ _)) _ _

theorem State.memOk_awaitCode (h : s.memOk) (w : Wg) (lanes : List Nat) (e : Fetched) : (s.awaitCode w lanes e).memOk := by
  refine State.memOk_modWg ?_ _ _
  split
  · exact State.memOk_foldl _ _ (fun _ _ h => State.memOk_addMiss h _ _ _ _ _) h
  · exact h

theorem State.memOk_atSlot (h : s.memOk) (w : Wg) (lanes : List Nat) (old : Nat) (clause hd : W64) (ws : List W64) (n : Nat) :
    (s.atSlot w lanes old clause hd ws n).memOk := by
  unfold State.atSlot
  dsimp only
  exact h

theorem State.issueSlot_keepsMem (h : s.memOk) (w : Wg) (lanes : List Nat) (old : Nat) (clause hd : W64) (ws : List W64) (n : Nat) :
    (s.issueSlot w lanes old clause hd ws n).KeepsMem := by
  have hslot := State.memOk_atSlot h w lanes old clause hd ws n
  unfold State.issueSlot
  dsimp only
  split
  · exact hslot
  · exact State.memOk_trapAll hslot _ _ _ _ _

theorem State.issue_keepsMem (h : s.memOk) (wg : Nat) (pc : W64) (quads : List Nat) : (s.issue wg pc quads).KeepsMem := by
  unfold State.issue
  split
  · exact h
  · next w _ =>
    split
    · exact h
    · next j _ =>
      have hfetch := State.memOk_clauseOf h w (w.lane j)
      refine Act.keepsMem_ite h ?_
      split
      · next he => exact State.memOk_gangTrap (of_snd_eq he hfetch) _ _ _ _
      · next he => exact State.memOk_gangTrap (of_snd_eq he hfetch) _ _ _ _
      · next he => exact State.memOk_awaitCode (of_snd_eq he hfetch) _ _ _
      · next he =>
        have ht := of_snd_eq he hfetch
        refine Act.keepsMem_ite ht ?_
        split
        · exact State.memOk_gangTrap ht _ _ _ _
        · exact Act.keepsMem_ite ht (Act.keepsMem_ite (State.issueSlot_keepsMem ht _ _ _ _ _ _ _)
            (Act.keepsMem_ite (State.memOk_modWg ht _ _) (State.issueSlot_keepsMem ht _ _ _ _ _ _ _)))

/-! ### A parse -/

theorem State.memOk_streamWords (x : Queue) (n : Nat) : ∀ {s : State} (i : Nat), s.memOk → (s.streamWords x n i).1.memOk := by
  induction n with
  | zero => exact fun _ h => h
  | succ n ih =>
    intro s i h
    have hread : ∀ o : Option W64, (match o with
        | some w => (s, Got.val w.toNat false)
        | none => s.agentRead hubUnit (s.spaceAt x.asid) (x.base + BitVec.ofNat 64 (i % x.capw * 8)) 8).1.memOk := by
      intro o
      split
      · exact h
      · exact State.memOk_agentRead h _ _ _ _
    unfold State.streamWords
    dsimp only
    split
    · next he =>
      have hrest := ih (i + 1) (of_fst_eq he (hread _))
      split
      · next he' => exact of_fst_eq he' hrest
      · exact hrest
    · next he => exact of_fst_eq he (hread _)

theorem State.parse_keepsMem (h : s.memOk) (q : Nat) : (s.parse q).KeepsMem := by
  unfold State.parse
  split
  · exact h
  · next x _ =>
    dsimp only
    have hwords := fun (t : State) (ht : t.memOk) n i => State.memOk_streamWords x n i ht
    refine Act.keepsMem_ite h ?_
    split
    · next he => exact of_fst_eq he (hwords s h _ _)
    · next he => exact State.memOk_haltHere (of_fst_eq he (hwords s h _ _)) _ _
    · next t _ he =>
      have ht := of_fst_eq he (hwords s h _ _)
      refine Act.keepsMem_ite (State.memOk_haltHere ht _ _) (Act.keepsMem_ite (State.memOk_ite (State.memOk_haltHere ht _ _) ht)
        (Act.keepsMem_ite (State.memOk_haltHere ht _ _) ?_))
      split
      · next he' => exact of_fst_eq he' (hwords t ht _ _)
      · next he' => exact State.memOk_haltHere (of_fst_eq he' (hwords t ht _ _)) _ _
      · next he' =>
        have hu := of_fst_eq he' (hwords t ht _ _)
        refine Act.keepsMem_ite (State.memOk_haltHere hu _ _) (Act.keepsMem_ite (State.memOk_modQueue hu _ _) ?_)
        split
        · exact State.memOk_modQueue hu _ _
        · exact State.memOk_haltHere hu _ _

/-! ### The other actions -/

theorem State.memOk_passTurn (h : s.memOk) (q : Nat) : (s.passTurn q).memOk := by
  unfold State.passTurn
  split
  · exact h
  · exact h

theorem State.memOk_setOs (h : s.memOk) (x : OsSetting) : (s.setOs x).memOk := by
  cases x <;> exact h

theorem State.memOk_pass (h : s.memOk) (n : Nat) : (s.pass n).memOk := by
  refine State.memOk_abandonLate (State.memOk_endEpochs ?_)
  exact h

theorem State.act_keepsMem (h : s.memOk) (a : Action) : (s.act a).KeepsMem := by
  cases a with
  | issue wg pc quads => exact State.issue_keepsMem h wg pc quads
  | parse q =>
    have hdesc := State.memOk_ckptRelease (State.memOk_writeDesc h q) q
    exact Act.keepsMem_ite (State.parse_keepsMem (State.memOk_passTurn hdesc q) q) hdesc
  | event i => exact Act.keepsMem_ite h h
  | tick n => exact State.memOk_pass h n
  | evict core sector => exact State.memOk_evictSector h core _
  | evictL2 line => exact State.memOk_evictL2 h _
  | osSet x => exact State.memOk_setOs h x
  | scratch die addr b => exact State.memOk_ite h h
  | mapPage _ _ _ | askSave _ _ | drift _ _ | corrected _ | engineReads _ _ _ | mismatch _ _ _ | adderMismatch _ _ => exact h

/-! ### The empty agenda -/

theorem Ev.OfModel.memKept {f : Ev} (hf : f.OfModel) (h : s.memOk) : MemKept (f s) := by
  obtain ⟨i, -, rfl⟩ | ⟨c, u, n, rfl⟩ := hf
  · exact memKept_exec i h
  · exact memKept_next h

theorem State.idle_memKept (h : s.memOk) : MemKept s.idle := by
  unfold State.idle
  split
  · next f hf => exact (s.events_ofModel f (List.mem_of_getElem? hf)).memKept (State.memOk_pass h 1)
  · refine Act.KeepsMem.memKept ?_
    unfold State.idleAct
    split
    · exact State.act_keepsMem (State.memOk_pass h 1) _
    · exact State.memOk_pass h 1

/-! ### What settles after an action -/

theorem State.memOk_capActive (core qt n : Nat) : ∀ {s : State}, s.memOk → (s.capActive core qt n).memOk := by
  induction n with
  | zero => exact fun h => h
  | succ n ih =>
    intro s h
    unfold State.capActive
    dsimp only
    refine State.memOk_ite h ?_
    split
    · exact h
    · exact ih (State.memOk_modWg h _ _)

theorem State.memOk_haveIssued (h : s.memOk) (g : Gang) (went : List Nat) : (s.haveIssued g went).memOk := by
  unfold State.haveIssued
  split
  · exact h
  · refine State.memOk_ite h (State.memOk_capActive _ _ _ ?_)
    exact h

theorem State.memOk_endGang (h : s.memOk) : s.endGang.memOk := by
  unfold State.endGang
  split
  · exact h
  · next g _ => exact State.memOk_haveIssued h g _

theorem State.memOk_awaken (s0 : State) (h : s.memOk) : (State.awaken s0 s).memOk := State.memOk_ite h h

theorem State.memOk_settle (s0 : State) (h : s.memOk) : (State.settle s0 s).memOk := by
  have hmeet := State.memOk_foldl (fun (s : State) (w : Wg) => (s.modWg w.id Wg.meetJoins).closeMeeting w.id) s.leavePorts.ex.wgs
    (fun _ _ h => State.memOk_closeMeeting (State.memOk_modWg h _ _) _) (State.memOk_leavePorts h)
  have hawake := State.memOk_awaken s0 (State.memOk_endGang hmeet)
  exact hawake

theorem settled_memKept {o : Out} (s0 : State) (h : MemKept o) : MemKept (settled s0 o) := by
  cases o with
  | next t => exact memKept_next (State.memOk_settle s0 (h t rfl))
  | fault f =>
    intro t ht
    cases ht
  | refused r =>
    intro t ht
    cases ht

/-- Settles O6: what an action runs keeps the form, arm by arm of `exec` (`memKept_exec`); so do the fetch before it, the parse of
a packet, the passage of time, and what settles after it. -/
theorem memoryStaysCanonical : Obligations.MemoryStaysCanonical := by
  intro s t h ht
  refine settled_memKept s (o := match s.ex.agenda with
    | [] => s.idle
    | a :: rest => (State.act { s with ex := { s.ex with agenda := rest } } a).run!) ?_ t ht
  split
  · exact State.idle_memKept h
  · next a rest _ => exact (State.act_keepsMem (s := { s with ex := { s.ex with agenda := rest } }) h a).memKept

end Sys2Proof.Machine
end
